-- ==== Sys2Proof/Word.lean ====
section
/-!
DEFINITION. The word types of the KYP8800 model (R9, R39, R51) and the plain number conversions
between them. A value that the manual packs, masks or stores as a word is a bit vector; counts,
indices and exact intermediate results are Nat or Int (R22).
-/
namespace Sys2Proof

/-- One byte (R9). -/
abbrev Byte := BitVec 8

/-- A 32-bit register or memory word. -/
abbrev Word32 := BitVec 32

/-- A 64-bit word: device time, host addresses, descriptor words (R12). -/
abbrev Word64 := BitVec 64

/-- An IEEE 754 binary32 value by its 32-bit encoding (R51). -/
abbrev F32 := BitVec 32

/-- The logical die number, equal to the physical position (R15, R24). -/
abbrev Die := Fin 8

/-- The global cluster number: die * 4 + cluster (R15). -/
abbrev Cluster := Fin 32

/-- The global core number: die * 16 + cluster * 4 + core (R15). -/
abbrev Core := Fin 128

/-- The die of a global cluster number (R15). -/
def Cluster.die (c : Cluster) : Die := ⟨c.val / 4, by omega⟩

/-- The die of a global core number (R15). -/
def Core.die (c : Core) : Die := ⟨c.val / 16, by omega⟩

/-- The global cluster of a global core number (R15). -/
def Core.cluster (c : Core) : Cluster := ⟨c.val / 4, by omega⟩

end Sys2Proof
end

