-- ==== Sys2Proof/Machine/Bits.lean ====
section
/-!
DEFINITION. Bit fields, sign reading and little-endian byte order (R9, R18, R22), and lists of
bytes as the records of host and device memory hold them.
-/
namespace Sys2Proof.Machine

open Sys2Proof

/-- The field of `len` bits of `v` that starts at bit `lo`: `v[lo+len-1:lo]` (R9, R18). -/
def field (v lo len : Nat) : Nat := v / 2 ^ lo % 2 ^ len

/-- Bit `i` of `v` (R9). -/
def bitAt (v i : Nat) : Bool := v / 2 ^ i % 2 == 1

/-- 1 for true, 0 for false. -/
def boolNat (b : Bool) : Nat := if b then 1 else 0

/-- `v` with bit `i` set. -/
def setBit (v i : Nat) : Nat := v ||| 2 ^ i

/-- `v` with bit `i` cleared. -/
def clrBit (v i : Nat) : Nat := if bitAt v i then v - 2 ^ i else v

/-- `v` with bit `i` made `b`. -/
def putBit (v i : Nat) (b : Bool) : Nat := if b then setBit v i else clrBit v i

/-- How many of the low `n` bits of `v` are 1. -/
def popCount : Nat → Nat → Nat
  | 0, _ => 0
  | n + 1, v => boolNat (bitAt v n) + popCount n v

/-- A mask with bit `i` set exactly where the list holds true at `i`. -/
def maskOf : List Bool → Nat
  | [] => 0
  | b :: bs => boolNat b + 2 * maskOf bs

/-- The unsigned `w`-bit code `v` read as two's complement (R22). -/
def signed (w v : Nat) : Int :=
  if v % 2 ^ w < 2 ^ (w - 1) then (v % 2 ^ w : Nat) else (v % 2 ^ w : Nat) - (2 ^ w : Nat)

/-- The `w`-bit two's-complement code of `x` (R22). -/
def code (w : Nat) (x : Int) : Nat := (x % (2 ^ w : Nat)).toNat

/-- The `n` bytes of `v`, lowest first (R9). -/
def leBytes : Nat → Nat → List Byte
  | 0, _ => []
  | n + 1, v => BitVec.ofNat 8 v :: leBytes n (v / 256)

/-- The number whose bytes, lowest first, are the list (R9). -/
def leNat : List Byte → Nat
  | [] => 0
  | b :: bs => b.toNat + 256 * leNat bs

/-- The little-endian number in `n` bytes of a record from byte `off` (R9); bytes past the end
of the list read as 0. -/
def getLe (bs : List Byte) (off n : Nat) : Nat := leNat ((bs.drop off).take n)

/-- The little-endian two's-complement number in `n` bytes from byte `off` (R9, R22). -/
def getSle (bs : List Byte) (off n : Nat) : Int := signed (8 * n) (getLe bs off n)

/-- `n` zero bytes. -/
def zeroBytes (n : Nat) : List Byte := List.replicate n 0

/-- A record padded with zero bytes to `n` bytes. -/
def padTo (n : Nat) (bs : List Byte) : List Byte := bs ++ zeroBytes (n - bs.length)

/-- The record with the bytes `v` written over it from byte `off`; the length is unchanged. -/
def overlay (bs : List Byte) (off : Nat) (v : List Byte) : List Byte :=
  bs.take off ++ (v.take (bs.length - off)) ++ bs.drop (off + v.length)

/-- The list with entry `i` replaced; unchanged where `i` lies outside it. -/
def setAt {α : Type} : List α → Nat → α → List α
  | [], _, _ => []
  | _ :: xs, 0, y => y :: xs
  | x :: xs, n + 1, y => x :: setAt xs n y

/-- The list with entry `i` changed by `f`. -/
def modAt {α : Type} (f : α → α) : List α → Nat → List α
  | [], _ => []
  | x :: xs, 0 => f x :: xs
  | x :: xs, n + 1 => x :: modAt f xs n

/-- Entry `i` of the list, or `d` past its end. -/
def nth {α : Type} (d : α) (xs : List α) (i : Nat) : α := (xs[i]?).getD d

/-- The list cut into pieces of `n` elements, at most `fuel` of them. -/
def chunks {α : Type} (n : Nat) : Nat → List α → List (List α)
  | 0, _ => []
  | f + 1, xs => if xs.isEmpty then [] else xs.take n :: chunks n f (xs.drop n)

/-- The pieces of exactly the records `0 .. cnt-1` of `size` bytes each in a byte string. -/
def records (size cnt : Nat) (bs : List Byte) : List (List Byte) :=
  chunks size cnt (bs.take (size * cnt))

/-- The sum of a list of numbers. -/
def sumNat (xs : List Nat) : Nat := xs.foldl (· + ·) 0

/-- The sum of a list of exact integers. -/
def sumInt (xs : List Int) : Int := xs.foldl (· + ·) 0

/-- Insertion into a list ordered by `le`, before the first element that `x` precedes. -/
def insertBy {α : Type} (le : α → α → Bool) (x : α) : List α → List α
  | [] => [x]
  | y :: ys => if le x y then x :: y :: ys else y :: insertBy le x ys

/-- Stable sort by insertion. -/
def sortBy {α : Type} (le : α → α → Bool) (xs : List α) : List α :=
  xs.foldr (insertBy le) []

/-- Look up a key in a list of pairs. -/
def lookupKey {β : Type} (k : Nat) : List (Nat × β) → Option β
  | [] => none
  | (a, b) :: r => if a = k then some b else lookupKey k r

/-- A key's entry of an ascending list of pairs replaced or inserted. -/
def insertKey {β : Type} (k : Nat) (v : β) : List (Nat × β) → List (Nat × β)
  | [] => [(k, v)]
  | (a, b) :: r =>
    if k < a then (k, v) :: (a, b) :: r
    else if k = a then (k, v) :: r
    else (a, b) :: insertKey k v r

/-- A key's entry removed from a list of pairs. -/
def eraseKey {β : Type} (k : Nat) : List (Nat × β) → List (Nat × β)
  | [] => []
  | (a, b) :: r => if a = k then eraseKey k r else (a, b) :: eraseKey k r

/-- The least `r` with `r * r ≤ n < (r+1) * (r+1)`, found bit by bit from bit `b`. -/
def isqrtFrom : Nat → Nat → Nat → Nat
  | 0, n, r => if (r + 1) * (r + 1) ≤ n then r + 1 else r
  | b + 1, n, r =>
    let t := r + 2 ^ (b + 1)
    isqrtFrom b n (if t * t ≤ n then t else r)

/-- The integer square root rounded down. -/
def isqrt (n : Nat) : Nat := isqrtFrom (n.log2 / 2 + 1) n 0

/-- The integer square root rounded up. -/
def isqrtCeil (n : Nat) : Nat :=
  let r := isqrt n
  if r * r = n then r else r + 1

end Sys2Proof.Machine
end

