-- ==== Sys2Proof/Machine/Crc.lean ====
section
/-!
DEFINITION. The three cyclic redundancy checks of the part: CRC-32C of records in host memory and
NVM (R428), CRC-16 of flits (R390), CRC-8 of SMI frames (R494).
-/
namespace Sys2Proof.Machine

open Sys2Proof

/-- One bit of the reflected CRC-32C (R428): polynomial 0x1EDC6F41. -/
def crc32cBit (c : Nat) : Nat := if c % 2 = 1 then c / 2 ^^^ 0x82F63B78 else c / 2

/-- One byte of CRC-32C (R428). -/
def crc32cByte (c : Nat) (b : Byte) : Nat :=
  crc32cBit (crc32cBit (crc32cBit (crc32cBit
    (crc32cBit (crc32cBit (crc32cBit (crc32cBit (c ^^^ b.toNat))))))))

/-- CRC-32C: initial value and final XOR 0xFFFFFFFF, bytes in ascending address order (R428). -/
def crc32c (bs : List Byte) : Nat := bs.foldl crc32cByte 0xFFFFFFFF ^^^ 0xFFFFFFFF

/-- One bit of CRC-16, polynomial 0x1021 (R390). -/
def crc16Bit (c : Nat) (b : Bool) : Nat :=
  let top := bitAt c 15 != b
  (if top then c * 2 ^^^ 0x1021 else c * 2) % 65536

/-- CRC-16 over bits 0 to `n - 1` of `v`, least significant bit first, initial value 0xFFFF
(R390). -/
def crc16 (n v : Nat) : Nat := (List.range n).foldl (fun c i => crc16Bit c (bitAt v i)) 0xFFFF

/-- One bit of CRC-8, polynomial 0x1D. -/
def crc8Bit (c : Nat) : Nat := (if bitAt c 7 then c * 2 ^^^ 0x1D else c * 2) % 256

/-- CRC-8 of an SMI frame: polynomial 0x1D, initial value 0xFF, no reflection, no final XOR. -/
def crc8 (bs : List Byte) : Nat :=
  bs.foldl (fun c b =>
    crc8Bit (crc8Bit (crc8Bit (crc8Bit (crc8Bit (crc8Bit (crc8Bit (crc8Bit (c ^^^ b.toNat))))))))) 0xFF

/-- A record with the CRC-32C of all its bytes appended. -/
def withCrc (bs : List Byte) : List Byte := bs ++ leBytes 4 (crc32c bs)

/-- A record of `n` bytes whose last four bytes hold the CRC-32C of the bytes before them. -/
def crcOk (n : Nat) (bs : List Byte) : Bool := getLe bs (n - 4) 4 == crc32c (bs.take (n - 4))

end Sys2Proof.Machine
end

