-- ==== Sys2Proof/Machine/Fabric.lean ====
section
/-!
DEFINITION. Links, flits and start-up records of the package fabric (R389 to R406).
-/
namespace Sys2Proof.Machine

open Sys2Proof

/-- A flit by its fields (R389). -/
structure Flit where
  payload : BitVec 256
  fseq : Nat
  akseq : Nat
  nak : Bool
  ftype : Nat
  cvc : Nat
  ccnt : Nat
  fcrc : Nat
  deriving DecidableEq, Repr

/-- The flit's fields read from its 320 bits (R389). -/
def Flit.ofBits (w : BitVec 320) : Flit :=
  let v := w.toNat
  ⟨BitVec.ofNat 256 v, field v 256 10, field v 266 10, bitAt v 276, field v 277 3, field v 280 3, field v 283 4,
   field v 304 16⟩

/-- The FCRC of bits 0 to 303 (R390). -/
def flitCrc (w : BitVec 320) : Nat := crc16 304 w.toNat

/-- A receiver accepts the flit's check bits (R390). -/
def flitGood (w : BitVec 320) : Bool := flitCrc w == field w.toNat 304 16

/-- A flit with its FCRC put in. -/
def flitSeal (v : Nat) : BitVec 320 :=
  let low := v % 2 ^ 304
  BitVec.ofNat 320 (low + crc16 304 low * 2 ^ 304)

/-- A non-idle flit as kept for replay: its sequence number and its other bits. -/
structure SentFlit where
  fseq : Nat
  bits : BitVec 320
  deriving DecidableEq, Repr

/-- One end of a link, one direction each way (R391, R393): next FSEQ to send, unacknowledged
flits, the place in them at which a replay goes on, the packet being sent (its VC and the data flits still
to send), last FSEQ received, whether flits are being discarded until a replay, credits by VC, and the
packet being received. -/
structure LinkEnd where
  txNext : Nat
  replay : List SentFlit
  resend : Option Nat
  txPkt : Option (Nat × Nat)
  rxLast : Nat
  discarding : Bool
  nakDue : Bool
  credits : List Nat
  rxHead : Option (BitVec 256)
  rxData : List (BitVec 256)
  deriving DecidableEq, Repr

/-- The credits a receiver grants per VC (R393). -/
def vcCredits : List Nat := [32, 32, 64, 32, 128, 8]

/-- A trained link end with nothing sent or received. The first flit carries FSEQ 0. -/
def LinkEnd.init : LinkEnd := ⟨0, [], none, none, 1023, false, false, vcCredits, none, []⟩

/-- The states of a link (R392, R404). -/
inductive LinkSt where
  | down | up | recovering | lost
  deriving DecidableEq, Repr

/-- A link: its two ends (hub links: hub then die; ring links: lower then upper die), its replay
count, the replays since AKSEQ last advanced by end, and the recent recoveries' times (R391,
R392). -/
structure Link where
  st : LinkSt
  ends : List LinkEnd
  replays : Nat
  stall : List Nat
  recoveries : List Nat
  deriving DecidableEq, Repr

/-- A link before training. -/
def Link.reset : Link := ⟨.down, [LinkEnd.init, LinkEnd.init], 0, [0, 0], []⟩

/-- An end of a link. -/
def Link.end_ (l : Link) (e : Nat) : LinkEnd := nth LinkEnd.init l.ends e

/-- The header flit's fields that a receiver checks (R394). -/
structure PktHead where
  dst : Nat
  src : Nat
  vc : Nat
  ptype : Nat
  ndata : Nat
  role : Nat
  epoch : Nat
  da : Nat
  txn : Nat
  short : Nat
  rsv : Bool
  deriving DecidableEq, Repr

/-- A header flit's payload read (R394). -/
def PktHead.ofBits (w : BitVec 256) : PktHead :=
  let v := w.toNat
  ⟨field v 0 4, field v 4 4, field v 8 3, field v 11 5, field v 16 4, field v 24 8, field v 32 32, field v 64 44,
   field v 112 16, field v 128 128, field v 20 4 != 0 || field v 108 4 != 0⟩

/-- A header that a receiver at `me` (0 to 7 a die, 8 the hub) discards (R394); the hub takes what it forwards to
another die too (R395). -/
def PktHead.malformed (me : Nat) (h : PktHead) : Bool :=
  h.rsv || h.ptype == 0 || decide (0x12 < h.ptype) || !(if me = 8 then decide (h.dst ≤ 8) else h.dst == me || h.dst == 15)

/-- AKSEQ acknowledges every sent flit up to it: those that remain (R391). -/
def dropAcked (ak : Nat) (rs : List SentFlit) : List SentFlit :=
  match rs.findIdx? (fun f => f.fseq == ak) with
  | some k => rs.drop (k + 1)
  | none => rs

/-- AKSEQ taken at an end (R391): a replay in progress goes on behind the flits acknowledged. -/
def LinkEnd.ack (ak : Nat) (e : LinkEnd) : LinkEnd :=
  let rs := dropAcked ak e.replay
  { e with replay := rs
           resend := e.resend.bind (fun k =>
             let k := k - (e.replay.length - rs.length)
             if k < rs.length then some k else none) }

/-- Every unacknowledged flit is sent again from here on (R391, R392). -/
def LinkEnd.again (e : LinkEnd) : LinkEnd := { e with resend := if e.replay.isEmpty then none else some 0 }

/-- A flit that repeats one sent before: the same payload, FSEQ, FTYPE, CVC and CCNT (R391). -/
def SentFlit.repeatedBy (r : SentFlit) (w : BitVec 320) : Bool :=
  let a := Flit.ofBits r.bits
  let b := Flit.ofBits w
  a.payload == b.payload && r.fseq == b.fseq && a.ftype == b.ftype && a.cvc == b.cvc && a.ccnt == b.ccnt

/-- A new flit may follow (R391, R393): its FSEQ is the next, the replay buffer has room, a header finds credits
for its whole packet and no packet before it unfinished, a data flit continues a packet. -/
def LinkEnd.newOk (e : LinkEnd) (f : Flit) : Bool :=
  f.fseq == e.txNext && decide (e.replay.length < 256) &&
  (if f.ftype = 1 then
    let h := PktHead.ofBits f.payload
    e.txPkt.isNone && decide (h.vc < 6 ∧ h.ndata ≤ 8 ∧ h.ndata < nth 0 e.credits h.vc)
  else if f.ftype = 2 then e.txPkt.isSome
  else f.ftype == 3)

/-- An end can send this flit now (R389 to R391, R393): FCRC and reserved bits right, AKSEQ the last FSEQ received
in order, NAK only where one is due; an idle flit repeats the last FSEQ, a replay goes on in its order. -/
def LinkEnd.canSend (e : LinkEnd) (w : BitVec 320) : Bool :=
  let f := Flit.ofBits w
  flitGood w && field w.toNat 287 17 == 0 && f.akseq == e.rxLast && (!f.nak || e.nakDue) &&
  (if f.ftype = 0 then f.fseq == (e.txNext + 1023) % 1024
  else match e.resend with
    | some k => (e.replay[k]?).any (fun r => r.repeatedBy w)
    | none => e.newOk f)

/-- A new flit taken into the replay buffer, its credit and its place in its packet used (R391, R393). -/
def LinkEnd.sendNew (e : LinkEnd) (w : BitVec 320) : LinkEnd :=
  let f := Flit.ofBits w
  let e := { e with txNext := (e.txNext + 1) % 1024, replay := e.replay ++ [SentFlit.mk f.fseq w] }
  if f.ftype = 1 then
    let h := PktHead.ofBits f.payload
    { e with credits := modAt (· - 1) e.credits h.vc, txPkt := if h.ndata = 0 then none else some (h.vc, h.ndata) }
  else match f.ftype, e.txPkt with
    | 2, some (vc, n) => { e with credits := modAt (· - 1) e.credits vc, txPkt := if n ≤ 1 then none else some (vc, n - 1) }
    | _, _ => e

/-- What sending a flit does at its end (R391): a due NAK is sent once; a replay moves on; a new flit is kept. -/
def LinkEnd.send (e : LinkEnd) (w : BitVec 320) : LinkEnd :=
  let f := Flit.ofBits w
  let e := { e with nakDue := e.nakDue && !f.nak }
  if f.ftype = 0 then e
  else match e.resend with
    | some k => { e with resend := if k + 1 < e.replay.length then some (k + 1) else none }
    | none => e.sendNew w

/-- Credits returned: never more than the receiver granted (R393). -/
def LinkEnd.credit (f : Flit) (e : LinkEnd) : LinkEnd :=
  { e with credits := modAt (fun n => min (n + f.ccnt) (nth 0 vcCredits f.cvc)) e.credits f.cvc }

/-- What a received flit does at its end (R391): the new end, and the flit where it is accepted. A discarded flit
has no effect but the NAK that falls due once per error; an idle flit is not counted (R389). -/
def LinkEnd.receive (e : LinkEnd) (w : BitVec 320) : LinkEnd × Option Flit :=
  let f := Flit.ofBits w
  if !flitGood w || (f.ftype != 0 && f.fseq != (e.rxLast + 1) % 1024) then
    ({ e with nakDue := e.nakDue || !e.discarding, discarding := true }, none)
  else
    let e := (e.ack f.akseq).credit f
    if f.ftype = 0 then (e, some f) else ({ e with rxLast := f.fseq, discarding := false }, some f)

/-! ### Start-up records -/

/-- A presence record (R401). -/
structure Presence where
  rtype : Nat
  pos : Nat
  stepping : Nat
  serial : Nat
  repairs : Nat
  speed : Nat
  lbist : Nat
  mbist : Nat
  inj : Nat
  good : Bool
  deriving DecidableEq, Repr

/-- A presence record's 64 bytes read (R401). -/
def Presence.ofBytes (b : List Byte) : Presence :=
  ⟨getLe b 0 1, getLe b 1 1 % 8, getLe b 2 1, getLe b 4 8, getLe b 12 1, getLe b 13 1, getLe b 16 1, getLe b 17 1,
   getLe b 18 1, crcOk 64 (b.take 64)⟩

/-- Fence causes (R406). -/
inductive FenceCause where
  | noAnnounce | rail | fused | record | position | stepping | fuse | bist | checkerLatent | notReady
  | lpddrTrain | lpddrSize | hubLink | repeat_ | host | serial
  deriving DecidableEq, Repr

/-- A fence cause's code (R406). -/
def FenceCause.code : FenceCause → Nat
  | .noAnnounce => 1 | .rail => 2 | .fused => 3 | .record => 4 | .position => 5 | .stepping => 6 | .fuse => 7
  | .bist => 8 | .checkerLatent => 9 | .notReady => 10 | .lpddrTrain => 11 | .lpddrSize => 12 | .hubLink => 13
  | .repeat_ => 14 | .host => 15 | .serial => 16

/-- The checks of R402 in order: the first cause that fails. -/
def presenceCheck (link stepping : Nat) (serial0 : Option Nat) (p : Presence) : Option FenceCause :=
  if !p.good then some .record
  else if p.pos ≠ link then some .position
  else if p.stepping ≠ stepping then some .stepping
  else if p.speed ≠ 0 then some .fuse
  else if p.lbist ≠ 0 then some .bist
  else if p.mbist ≠ 0 then some .bist
  else if p.inj ≠ 0 then some .checkerLatent
  else if p.rtype = 2 ∧ serial0 ≠ some p.serial then some .serial
  else none

/-- A training report (R403). -/
structure TrainReport where
  upOk : Bool
  dnOk : Bool
  upSerial : Nat
  dnSerial : Nat
  lpcap : Nat
  lprate : Nat
  good : Bool
  deriving DecidableEq, Repr

/-- A training report's 64 bytes read (R403). -/
def TrainReport.ofBytes (b : List Byte) : TrainReport :=
  ⟨bitAt (getLe b 2 1) 0, bitAt (getLe b 2 1) 1, getLe b 4 8, getLe b 12 8, getLe b 20 1, getLe b 21 1,
   crcOk 64 (b.take 64)⟩

/-- Step 1 of R404 on one report. -/
def trainCheck (derated : Bool) (r : TrainReport) : Option FenceCause :=
  if !r.good then some .record
  else if r.lpcap = 0 then some .lpddrTrain
  else if r.lprate = 2 ∧ !derated then some .lpddrTrain
  else none

/-- The reference capacity (R404 step 2): the LPCAP most reported, the larger on a tie. -/
def refCapacity (caps : List Nat) : Nat :=
  caps.foldl (fun best c =>
    if caps.count best < caps.count c ∨ (caps.count best = caps.count c ∧ best < c) then c else best)
    (caps.headD 0)

/-- The usable bytes of an LPCAP code: 7/8 of installed (R384). -/
def usableBytes (lpcap : Nat) : Nat :=
  if lpcap = 1 then 2 ^ 31 / 8 * 7 else if lpcap = 2 then 2 ^ 32 / 8 * 7 else if lpcap = 3 then 2 ^ 33 / 8 * 7 else 0

/-- Ring link 8 + n is in use (R404 step 3), from the reports and serials of its two dies. -/
def ringInUse (a b : TrainReport) (sa sb : Nat) : Bool :=
  a.upOk && a.upSerial == sb && b.dnOk && b.dnSerial == sa

end Sys2Proof.Machine
end

