-- ==== Sys2Proof/Machine/Faults.lean ====
section
/-!
DEFINITION. Fault records, classes and codes, and the safety manager's state: causes of SAFE_STATE#,
acknowledgement, merge windows, restarts due and in progress (R476 to R486).
-/
namespace Sys2Proof.Machine

open Sys2Proof

/-- The reaction classes, in ascending order (R479). -/
inductive FClass where
  | info | checker | cycle | restartCluster | restartDie | restartHub | fence | hold | fatal
  deriving DecidableEq, Repr

/-- A class's code (R479). -/
def FClass.code : FClass → Nat
  | .info => 0 | .checker => 1 | .cycle => 2 | .restartCluster => 3 | .restartDie => 4 | .restartHub => 5
  | .fence => 6 | .hold => 7 | .fatal => 8

/-- The fault codes (R478). -/
inductive FCode where
  | eccUncorr | residue | abft | sumcheck | link | holdCut | quiescent | contextLost | phaseOverrun | verifyRepeat
  | clock | supply | therm | checkerLatent | syncStuck | lockstep | stepFault | addr | staleDrop | dieFenced
  | tableCrc | extFault | smi | regAccess | boot
  deriving DecidableEq, Repr

/-- A fault code's number (R478). -/
def FCode.code : FCode → Nat
  | .eccUncorr => 0x01 | .residue => 0x02 | .abft => 0x03 | .sumcheck => 0x04 | .link => 0x05 | .holdCut => 0x06
  | .quiescent => 0x07 | .contextLost => 0x08 | .phaseOverrun => 0x09 | .verifyRepeat => 0x0A | .clock => 0x0B
  | .supply => 0x0C | .therm => 0x0D | .checkerLatent => 0x0E | .syncStuck => 0x0F | .lockstep => 0x10
  | .stepFault => 0x11 | .addr => 0x12 | .staleDrop => 0x13 | .dieFenced => 0x14 | .tableCrc => 0x15
  | .extFault => 0x16 | .smi => 0x17 | .regAccess => 0x18 | .boot => 0x19

/-- A location: die (8 hub, 15 package), cluster or hub unit, core, engine (R476). -/
structure Loc where
  die : Nat
  cl : Nat
  co : Nat
  eng : Nat
  deriving DecidableEq, Repr

/-- A whole planning die. -/
def Loc.ofDie (d : Nat) : Loc := ⟨d, 15, 15, 0⟩
/-- A whole cluster, by global number. -/
def Loc.ofCluster (c : Nat) : Loc := ⟨c / 4, c % 4, 15, 0⟩
/-- A core, by global number. -/
def Loc.ofCore (c : Nat) : Loc := ⟨c / 16, c / 4 % 4, c % 4, 0⟩
/-- A hub unit. -/
def Loc.hub (unit : Nat) : Loc := ⟨8, unit, 15, 0⟩
/-- The package. -/
def Loc.package : Loc := ⟨15, 15, 15, 0⟩

/-- A fault as raised, before it is numbered. -/
structure Fault0 where
  code : FCode
  cls : FClass
  loc : Loc
  d0 : Nat
  d1 : Nat
  deriving DecidableEq, Repr

/-- A fault record (R476). -/
structure FaultRec where
  code : FCode
  cls : FClass
  loc : Loc
  d0 : Nat
  d1 : Nat
  merged : Nat
  time : Nat
  rseq : Nat
  deriving DecidableEq, Repr

/-- The 32 bytes of a fault record (R476). -/
def FaultRec.bytes (r : FaultRec) : List Byte :=
  withCrc (leBytes 2 r.code.code ++ leBytes 1 r.cls.code ++ leBytes 1 r.merged
    ++ leBytes 1 (r.loc.die + 16 * r.loc.cl) ++ leBytes 1 (r.loc.co + 16 * r.loc.eng) ++ zeroBytes 2
    ++ leBytes 8 r.time ++ leBytes 4 r.d0 ++ leBytes 4 r.d1 ++ leBytes 4 r.rseq)

/-- An open merge window: the first record's code and location, its TIME, the last record counted
and the count (R477). -/
structure MergeWin where
  first : FaultRec
  last : Fault0
  count : Nat
  deriving DecidableEq, Repr

/-- The units a restart can concern (R479). -/
inductive RUnit where
  | cluster (c : Nat)
  | die (d : Nat)
  | hub
  deriving DecidableEq, Repr

/-- The safety manager's state (R476 to R487, R561). -/
structure Safety where
  /-- set causes of SAFE_STATE#, bit by code (R482) -/
  causes : Nat
  /-- RSEQ of the last acknowledged record (R484) -/
  frAcked : Nat
  /-- unacknowledged records of class CYCLE and above, RSEQ with class code, oldest first -/
  unacked : List (Nat × Nat)
  windows : List MergeWin
  /-- a fatal fault has been raised -/
  fatal : Bool
  /-- the ring engine counts as alive after a fatal fault (R480) -/
  alive : Bool
  /-- FAULT_IN# asserted, with the FIN_ACTION it took (R486, R561) -/
  ext : Option Nat
  /-- the FAULT_IN# signal is forced by CMD_FORCE_SAFE (R496) -/
  force : Bool
  /-- the thermal hold lasts (R473) -/
  hold : Bool
  /-- the stale timer runs, with its duration in µs (R483, R561); none before READY and once expired -/
  stale : Option Nat
  /-- restarts due, not begun (R480) -/
  due : List RUnit
  /-- restarts in progress (R487) -/
  active : List RUnit
  /-- units restarted and not in a commit since (R481) -/
  watch : List RUnit
  /-- restarts of every die after a FLT_VERIFY_REPEAT since the last commit (R481) -/
  verifyRuns : Nat
  /-- the history clears when the restart it caused ends (R274) -/
  verifyRestart : Bool
  /-- HEARTBEAT_OUT's level (R485) -/
  heartbeat : Bool
  deriving DecidableEq, Repr

/-- The safety manager right after a power-on reset: causes POWER_ON and NO_IMAGE, no image being
active; `last` is the last record's RSEQ (R482, R484). -/
def Safety.reset (last : Nat) : Safety :=
  ⟨0x41, last, [], [], false, true, none, false, false, none, [], [], [], 0, false, false⟩

/-- Set a cause (R482). -/
def Safety.set (s : Safety) (code : Nat) : Safety := { s with causes := setBit s.causes code }

/-- SAFE_STATE# is asserted (R482). -/
def Safety.safeState (s : Safety) : Bool := s.causes != 0

/-- FAULT# is asserted (R484). -/
def Safety.faultPin (s : Safety) : Bool := s.fatal || !s.unacked.isEmpty

/-- The causes that a commit clears (R482). -/
def Safety.commitClears (s : Safety) : List Nat :=
  [0, 1, 6] ++ (if s.active.isEmpty && s.due.isEmpty then [2] else []) ++ (if s.hold then [] else [3])
    ++ (if s.ext.isSome then [] else [4]) ++ (if s.force then [] else [5])

/-- A commit: its causes cleared and the stale timer restarted, in the SCLK of the control block's
write (R482, R483). -/
def Safety.commit (s : Safety) (staleUs : Nat) : Safety :=
  { s with causes := s.commitClears.foldl clrBit s.causes, stale := some staleUs, watch := [], verifyRuns := 0 }

/-- SAF_FAULT_SUMMARY (R562). -/
def Safety.summary (s : Safety) : Nat :=
  (List.range 9).foldl (fun v c => if 2 ≤ c ∧ s.unacked.any (fun r => r.2 == c) then setBit v c else v) 0
    + 65536 * min s.unacked.length 0xFFFF

/-- Acknowledge every record up to an RSEQ; none where it is refused (R496). -/
def Safety.ack (s : Safety) (last v : Nat) : Option Safety :=
  let ahead (a : Nat) : Nat := (a + 2 ^ 32 - s.frAcked) % 2 ^ 32
  if 2 ^ 31 - 1 < ahead v ∨ ahead last < ahead v then none
  else some { s with frAcked := v, unacked := s.unacked.filter (fun r => ahead v < ahead r.1) }

/-- A restart covers a unit (R480). -/
def RUnit.covers : RUnit → RUnit → Bool
  | .die d, .cluster c => c / 4 == d
  | a, b => a == b

/-- The unit that a fault of a restart class names (R479): the cluster or die of its location. -/
def Fault0.unit (f : Fault0) : Option RUnit :=
  match f.cls with
  | .restartCluster => some (.cluster (f.loc.die * 4 + f.loc.cl))
  | .restartDie => some (.die f.loc.die)
  | .restartHub => some .hub
  | _ => none

/-- A restart added to those due; a die's covers its clusters' (R480). -/
def addDue (u : RUnit) (us : List RUnit) : List RUnit :=
  if us.any (fun v => v.covers u) then us else us.filter (fun v => !u.covers v) ++ [u]

/-- The whole die or cluster of a unit, for the escalation and repeat rules (R480, R481). -/
def RUnit.dieOf : RUnit → Option Nat
  | .cluster c => some (c / 4)
  | .die d => some d
  | .hub => none

/-- What becomes of a restart-class fault (R480, R481). -/
inductive Escalation where
  | restart (u : RUnit)
  | fence (d : Nat)
  | fatal
  deriving DecidableEq, Repr

/-- The escalation and repeat rules (R480, R481): in a restarting cluster the die restarts, in a
restarting die the die is fenced, at a restarting or just restarted hub it is fatal, in a unit
watched since its restart the die is fenced. -/
def Safety.escalate (s : Safety) (u : RUnit) : Escalation :=
  match u with
  | .hub => if s.active.contains .hub || s.watch.contains .hub then .fatal else .restart .hub
  | .cluster c =>
    if s.active.contains (.die (c / 4)) then .fence (c / 4)
    else if s.active.contains (.cluster c) then .restart (.die (c / 4))
    else if s.watch.any (fun w => w.covers u) then .fence (c / 4)
    else .restart u
  | .die d =>
    if s.active.contains (.die d) then .fence d
    else if s.watch.contains u then .fence d
    else .restart u

/-- Records of one SCLK in their order of numbering: descending class, then location (R477). -/
def orderFaults (fs : List Fault0) : List Fault0 :=
  let key (f : Fault0) : Nat := ((f.loc.die * 16 + f.loc.cl) * 16 + f.loc.co) * 16 + f.loc.eng
  sortBy (fun a b => b.cls.code < a.cls.code || (a.cls.code == b.cls.code && key a ≤ key b)) fs

end Sys2Proof.Machine
end

