-- ==== Sys2Proof/Syntax.lean ====
section
/-!
DEFINITION. The commands of the block, one constructor per row of the opcode table, with the operands
that the block's surroundings bring with each: what arrives at a pin, over a link or from the host,
and the outcomes that only the silicon or the board decides.
-/
namespace Sys2Proof

open Sys2Proof.Machine

/-- What the checkers of an engine find in a command's run (R228, R250, R387, R469): nothing; a
mismatch that the recomputation puts on the checker; one that it puts on the data; a permanent one;
an uncorrectable word consumed, with its memory type, bank and offset; a word of a memory type of
R387 corrected on the way. -/
inductive HwEvent where
  | clean | checker | data | permanent
  | ecc (mem : Fin 10) (bank : Fin 256) (off : Nat)
  | corrected (mem : Fin 10)
  deriving DecidableEq, Repr

/-- A thread of a core (R318). -/
abbrev ThreadNo := Fin 8

/-- What a LIST packet carries (R230, R235, R220): a merge list of an entry and pass towards the hub;
a solve order or a bound record for a cluster's dual-port region. -/
inductive ListPkt where
  | merge (entry pass : Nat) (bytes : List Byte)
  | dual (cluster : Cluster) (off : Nat) (bytes : List Byte)
  deriving DecidableEq, Repr

/-- What a long operation meets at a checkpoint (R447, R455): one that is not counted, a counted one
whose unit is good or failed, an uncorrectable read consumed. -/
inductive CkEvent where
  | plain | counted | countedBad | consumed
  deriving DecidableEq, Repr

/-- A rank-arbitered resource class (R370). -/
inductive ArbClass where
  | qe | lpddr | utx | pcie | led
  deriving DecidableEq, Repr

/-- Why an SMI frame is discarded (R494). -/
inductive BadFrame where
  | crc | framing | cmd
  deriving DecidableEq, Repr

/-- One PMBus target's reading: VOUT_MODE, VOUT, IOUT, TEMPERATURE_1, STATUS_WORD (R541). -/
structure PmbRead where
  vmode : Nat
  vout : Nat
  iout : Nat
  temp : Nat
  status : Nat
  deriving DecidableEq, Repr

/-- What the host has made visible since the last look: stores by address, and the ranges whose
reads fail now (R414, R442). -/
structure HostView where
  stores : List (Nat × List Byte)
  fails : List (Nat × Nat)
  deriving DecidableEq, Repr

/-- The commands, in the opcode table's order. -/
inductive Instr where
  | powerOnReset (pwrgdLow : Bool)
  | pwrgdInFall
  | startup (blockA blockB : List Byte) (fwA fwB sris hubBist : Bool) (hubInj : Nat)
  | aonPowerUp
  | pdPwrEn (d : Die)
  | pdRailCheck (d : Die) (good : Bool)
  | ringProbeRetry (d : Die) (report : Option (List Byte))
  | presence (link : Die) (rec : List Byte)
  | announceDeadline (d : Die)
  | trainingReport (d : Die) (rec : List Byte)
  | trainingDeadline (d : Die)
  | dieFence (d : Die) (cause : FenceCause)
  | fenceRailCheck (d : Die) (fell : Bool)
  | functionLevelReset
  | hotReset
  | linkDownReset
  | pciePerst
  | d3hotEntry
  | msixVectorUnmask (v : Fin 2048)
  | attentionPoll (host : HostView)
  | descriptorFetch
  | completionWrite
  | coalescingTimer (ring : Fin 16384)
  | nop
  | loadImage
  | imageActivation
  | unloadImage
  | patchParams
  | worldLayerPatch
  | worldObjects
  | worldStatic
  | egoState
  | planCycle
  | retouchPlan
  | suspend
  | resume
  | cancel
  | queryOp
  | maintStart
  | roadmapGrow
  | ledgerRead
  | setTime
  | timeStep
  | timeSlewStep
  | fence
  | longopCheckpoint (tag : Word64) (ev : CkEvent)
  | longopDequeue
  | selftestDie (d : Die)
  | retrainDie (d : Die)
  | cycleRelease
  | phaseBoundary (lockstep : HwEvent)
  | muMerge (entry : Fin 8) (pass : Fin 16) (hw : HwEvent)
  | issue (c : Core) (t : ThreadNo)
  | get (c : Core) (t : ThreadNo)
  | waitEvent (c : Core) (t : ThreadNo)
  | signal (c : Core) (t : ThreadNo)
  | timedWait (c : Core) (t : ThreadNo)
  | msg (c : Core) (t : ThreadNo)
  | halt (c : Core) (t : ThreadNo)
  | timedWaitExpiry (c : Core) (t : ThreadNo)
  | duGrant (d : Die)
  | messageDelivery (dst : Fin 9)
  | phaseEpochAdvance (d : Die)
  | boundSourceFire (d : Die)
  | quiescenceExpiry (d : Die)
  | engineFlag (c : Core)
  | buildCspace (cl : Cluster) (w : BitVec 128) (hw : HwEvent)
  | buildOcc (cl : Cluster) (w : BitVec 128) (hw : HwEvent)
  | buildStatic (cl : Cluster) (w : BitVec 128) (hw : HwEvent)
  | expandLib (c : Core) (w : BitVec 128) (hw : HwEvent)
  | expandSeq (c : Core) (w : BitVec 128) (hw : HwEvent)
  | buildPath (c : Core) (w : BitVec 128) (hw : HwEvent)
  | rmSearch (c : Core) (w : BitVec 128) (hw : HwEvent)
  | checkStream (c : Core) (w : BitVec 128) (hw : HwEvent)
  | checkTraj (c : Core) (w : BitVec 128) (hw : HwEvent)
  | checkPoses (c : Core) (w : BitVec 128) (hw : HwEvent)
  | costStream (c : Core) (w : BitVec 128) (hw : HwEvent)
  | costTraj (c : Core) (w : BitVec 128) (hw : HwEvent)
  | costFinal (c : Core) (w : BitVec 128) (hw : HwEvent)
  | select (c : Core) (w : BitVec 128) (hw : HwEvent)
  | merge (c : Core) (w : BitVec 128) (hw : HwEvent)
  | solve (c : Core) (w : BitVec 128) (hw : HwEvent) (late : Option Nat)
  | emit (c : Core) (w : BitVec 128) (hw : HwEvent)
  | key (c : Core) (w : BitVec 128) (hw : HwEvent)
  | copy (cl : Cluster) (mv : Fin 2) (w : BitVec 128) (hw : HwEvent)
  | fill (cl : Cluster) (mv : Fin 2) (w : BitVec 128) (hw : HwEvent)
  | add32 (cl : Cluster) (mv : Fin 2) (w : BitVec 128) (hw : HwEvent)
  | add64 (cl : Cluster) (mv : Fin 2) (w : BitVec 128) (hw : HwEvent)
  | swap32 (cl : Cluster) (mv : Fin 2) (w : BitVec 128) (hw : HwEvent)
  | swap64 (cl : Cluster) (mv : Fin 2) (w : BitVec 128) (hw : HwEvent)
  | gets (cl : Cluster) (line : Nat)
  | getm (cl : Cluster) (line off : Nat) (bytes : List Byte)
  | putm (cl : Cluster) (line : Nat)
  | data (cl : Cluster) (line : Nat)
  | inv (cl : Cluster) (line : Nat)
  | invAck (cl : Cluster) (line : Nat)
  | recall (cl : Cluster) (line : Nat)
  | wbAck (cl : Cluster) (line : Nat)
  | ucRead (req : Fin 98) (line : Nat)
  | ucWrite (req : Fin 98) (line off : Nat) (bytes : List Byte)
  | respErr (req : Fin 98) (line : Nat)
  | list (src : Fin 9) (epoch : Nat) (pkt : ListPkt)
  | bulk (src : Fin 9) (da : Nat) (bytes : List Byte)
  | faultRec (src : Die) (rec : List Byte)
  | flitReceived (link : Fin 16) (end_ : Fin 2) (sent err : BitVec 320)
  | replayTimeout (link : Fin 16) (end_ : Fin 2)
  | holdLimitExpiry (cls : ArbClass) (inst : Fin 32) (owner : Fin 16) (len : Nat)
  | phaseWatchdogExpiry (late : List Die) (hubLate : Bool)
  | clusterRestart (cl : Cluster)
  | dieWarmRestart (d : Die)
  | hubCoreRestart (held digest : Bool) (lost : List (Fin 16))
  | staleTimerExpiry
  | mergeWindowEnd
  | clockFault (clk : Fin 8) (loc : Fin 9)
  | supplyExcursion (rail : Fin 24) (belowFloor full : Bool)
  | thermalEvaluation (sites : List (Fin 9 × Fin 16 × Int))
  | eclkStepChange
  | faultInAssert
  | faultInDeassert
  | syncEdge (lag : Fin 4096)
  | syncStuck
  | pmbusPollRound (reads : List (Option PmbRead))
  | patinaSample (readings : List (Fin 9 × Int))
  | checkpointTimer (badSlots : Fin 128)
  | identityRefresh
  | pwrReqActive
  | pwrReqIdle
  | pwrReqStandby
  | pwrReqOff
  | pwrStateReached
  | ringTblLoad (host : HostView)
  | clrAttn
  | arbRankWrite (reg : Fin 6) (be : BitVec 4) (v : Word32)
  | arbHoldWrite (reg : Fin 5) (be : BitVec 4) (v : Word32)
  | pairLoRead (pair : Fin 6)
  | pairHiWrite (pair : Fin 6) (be : BitVec 4) (v : Word32)
  | ledWinAddrWrite (be : BitVec 4) (v : Word32)
  | ledWinDataRead
  | registerWrite (off : BitVec 16) (dwords : Nat) (be : BitVec 8) (v : Word64)
  | smiNop
  | smiRead (addr : BitVec 16)
  | smiWrite (addr : BitVec 16) (v : Word32)
  | cmdForceSafeSet
  | cmdForceSafeRelease
  | cmdAck (rseq : Word32)
  | cmdLock
  | restartComplete (u : RUnit)
  | retrainComplete (d : Die) (ok : Bool)
  | linkRecoveryDone (link : Fin 16) (ok : Bool)
  | aonPowerLoss
  | thermAlertChange (level : Bool)
  | syncStuckEnd
  | pciePerstRelease
  | d0Return
  | smiBadFrame (why : BadFrame) (addr : BitVec 16)
  deriving DecidableEq, Repr

end Sys2Proof
end

