-- ==== Sys2Proof/Decode.lean ====
section
/-!
DEFINITION. The commands that a word spells. The opcode table gives no row any bits: its rows are
events at the block's pins, links, rings and engines, not encodings (log entry 7).
-/
namespace Sys2Proof

/-- The command that a table word spells: none, since no row has bits. -/
def decodeTableWord (nbits w : Nat) : Option Instr :=
  match nbits, w with
  | _, _ => none

end Sys2Proof
end

