-- ==== Sys2Proof/FreeValues.lean ====
section
/-!
DEFINITION. The free values: constants without a body, of which no proof can see a value. The
operations apply them to a counter of State or to the operands they stand for.
-/
namespace Sys2Proof.Config

/-- A free 64-bit value; the step applies it to the counter of State (log entry 1). -/
opaque freeWord : Nat → BitVec 64
/-- The Q30 slope of a heading whose cosine is 0: R144 divides by it and states no result (log entry 110). -/
opaque steepSlope : Nat → BitVec 64

/-- The commands that an engine's queue holds beside the one at its head (R314); no rule gives the number (log
entry 10). -/
opaque queueDepth : Nat

/-- A free 32-bit word for a result field that nothing states: of the bytes the result rests on and the field's
number, so that equal inputs give equal results (R34, R236, R282; log entry 71). -/
opaque openWord : List (BitVec 8) → Nat → BitVec 32

end Sys2Proof.Config
end

