-- ==== Sys2Proof/Machine/WorldTypes.lean ====
section
/-!
DEFINITION. The data of the world model (R67 to R104): shapes, objects, static primitives, ego
states, stream updates, the world held, and the image's description of grid, streams and ego.
-/
namespace Sys2Proof.Machine

open Sys2Proof

/-- The four shapes (R72). -/
inductive ShapeKind where
  | box | disc | capsule | polygon
  deriving DecidableEq, Repr

/-- A shape in its own frame with its height interval, all P32 (R72, R88). -/
structure Shape where
  kind : ShapeKind
  a : Int
  b : Int
  zlo : Int
  zhi : Int
  verts : List (Int × Int)
  deriving DecidableEq, Repr

/-- A pose: position P32, heading A16 (R67). -/
structure Pose where
  x : Int
  y : Int
  a : Nat
  deriving DecidableEq, Repr

/-- A prediction hypothesis: probability Q16, spacing in ms, 32 poses (R75, R88). -/
structure Hyp where
  prob : Nat
  dt : Nat
  poses : List Pose
  deriving DecidableEq, Repr

/-- A dynamic object as sent (R88), with the update's timestamp and anchor. The store form is a
function of these values (R102). -/
structure Obj where
  objId : Nat
  cls : Nat
  shape : Shape
  hyps : List Hyp
  ts : Nat
  anchorS : Int
  anchorD : Int
  deriving DecidableEq, Repr

/-- A static primitive as sent (R89). -/
structure Prim where
  cls : Nat
  shape : Shape
  x : Int
  y : Int
  heading : Nat
  primId : Nat
  deriving DecidableEq, Repr

/-- An ego state (R90). -/
structure Ego where
  ts : Nat
  x : Int
  y : Int
  heading : Nat
  speed : Int
  curv : Int
  accel : Int
  art1 : Nat
  art2 : Nat
  reverse : Bool
  deriving DecidableEq, Repr

/-- What a staged update holds (R86 to R89). A tile of a patch carries its cells by layer. -/
inductive UpdBody where
  | layers (originS originD : Int) (tiles : List (Nat × List (Nat × List Byte)))
  | origin (s d : Int)
  | objects (objs : List Obj)
  | statics (replaceAll : Bool) (recs : List (Nat × Option Prim))
  deriving DecidableEq, Repr

/-- A staged, unconsumed update of one stream (R81, R83). -/
structure Update where
  seq : Nat
  ts : Nat
  body : UpdBody
  deriving DecidableEq, Repr

/-- What a stream table entry names (R78). -/
inductive StreamKind where
  | unused | layers | objects | statics
  deriving DecidableEq, Repr

/-- A stream table entry: KIND with the layer mask or the quota (R78). -/
structure StreamEntry where
  kind : StreamKind
  val : Nat
  deriving DecidableEq, Repr

/-- Grid, layers, class margins and streams of the image (R69, R71, R74, R78). -/
structure WorldCfg where
  cLsb : Nat
  w : Nat
  h : Nat
  fills : List Nat
  margins : List Nat
  streams : List StreamEntry
  deriving DecidableEq, Repr

/-- One ego box in its body's frame (R77). -/
structure EgoBox where
  cx : Int
  cy : Int
  hl : Int
  hw : Int
  zlo : Int
  zhi : Int
  deriving DecidableEq, Repr

/-- One body of the ego vehicle (R77). -/
structure EgoBody where
  boxes : List EgoBox
  hitchX : Int
  axleX : Int
  wheelbase : Int
  artMax : Nat
  kappaMax : Int
  deriving DecidableEq, Repr

/-- A world stream: the unconsumed updates, oldest first, and the last accepted timestamp
(R82, R83). -/
structure Stream where
  queue : List Update
  lastTs : Option Nat
  deriving DecidableEq, Repr

/-- The world: the contents every healthy world store holds (R32), the streams, the retained ego
states, and the record of the last snapshot. Tiles not listed in `base` hold the fill value. -/
structure World where
  /-- grid origin (R70, R101) -/
  s0 : Int
  d0 : Int
  /-- stream numbers 0 to 15 -/
  streams : List Stream
  /-- written tiles of base layers: key layer * 256 + tile, 1,024 cells (R71, R103) -/
  base : List (Nat × List Byte)
  /-- object number to object (R79) -/
  objects : List (Nat × Obj)
  /-- global slot number to primitive (R79) -/
  statics : List (Nat × Prim)
  /-- accepted ego states, newest first, at most 16 (R91) -/
  egos : List Ego
  /-- number of the last snapshot; 0 before the first (R98) -/
  epoch : Nat
  /-- world time of the last snapshot (R95) -/
  worldTime : Nat
  /-- ego state of the last snapshot (R94) -/
  ego : Option Ego
  /-- change mask of the last snapshot, one bit per tile (R99) -/
  changeMask : BitVec 256
  /-- tile epochs (R100) -/
  tileEpochs : List Nat
  /-- the next snapshot marks every tile (R101, R108) -/
  markAll : Bool
  /-- whole updates dropped by the last snapshot (R97) -/
  updDropped : Nat
  /-- tiles dropped by the last snapshot (R97) -/
  tilesDropped : Nat
  /-- bytes of base layers and tile epochs that movers and bulk packets have written into one die's store since
  the contents above were (R32, R103): key die * 2^24 + offset in the store -/
  laid : List (Nat × Byte)
  deriving DecidableEq, Repr

/-- The Enlarger's patchable parameters and rules (R108). -/
structure EnlParams where
  weight : List Nat
  wshift : List Nat
  combMax : Bool
  leth : List Nat
  mb : List Nat
  tmax : Nat
  ns : Nat
  nb : Nat
  deriving DecidableEq, Repr

/-- A kernel's row run: dj with the first and last di (R109). -/
structure Run where
  dj : Int
  lo : Int
  hi : Int
  deriving DecidableEq, Repr

end Sys2Proof.Machine
end

