-- ==== Sys2Proof/Machine/EngineTypes.lean ====
section
/-!
DEFINITION. The records that the engines of the planning path hand to one another: samples (R156),
boxes (R164), placed objects (R167), verdict records (R176); and the movers'
command word (R366).
-/
namespace Sys2Proof.Machine

/-- One body's part of a sample: origin, heading and sweep bounds (R156). -/
structure BodySample where
  x : Int
  y : Int
  h : Nat
  bx : Nat
  by_ : Nat
  deriving DecidableEq, Repr

/-- A sample (R156). `bodies` has three entries; absent bodies are 0. -/
structure Sample where
  bodies : List BodySample
  t : Nat
  v : Int
  acc : Int
  kappa : Int
  kdot : Int
  sat : Bool
  range : Bool
  unbound : Bool
  deriving DecidableEq, Repr

/-- An ego box at a sample (R164). -/
structure EBox where
  cx : Int
  cy : Int
  th : Nat
  hl : Int
  hw : Int
  zlo : Int
  zhi : Int
  /-- its centre left the P32 range (R41, R48) -/
  sat : Bool
  deriving DecidableEq, Repr

/-- An object or primitive placed for a sample, inflated for its motion (R167, R172). -/
structure Placed where
  num : Nat
  shape : Shape
  x : Int
  y : Int
  a : Nat
  ex : Int
  ey : Int
  er : Int
  margin : Int
  infl : Int
  prob : Nat
  /-- a quantity of its placing left its range (R47, R48) -/
  sat : Bool
  deriving DecidableEq, Repr

/-- VERDICT's codes (R176). -/
inductive Verdict where
  | free | mass | static | sattile | grid | cap | geom | void
  deriving DecidableEq, Repr

/-- A verdict record (R174, R176). -/
structure VRec where
  verdict : Verdict
  sample : Nat
  obj : Nat
  branch : Nat
  bmask : Nat
  lmass : Nat
  trunc : Bool
  tsample : Nat
  sat : Bool
  fhs : List Nat
  fho : List Nat
  deriving DecidableEq, Repr

/-- The image's collision parameters (R163). -/
structure ChiselParams where
  lethQ : Nat
  pairCap : Nat
  statCap : Nat
  egoTmax : Nat
  truncateFar : Bool
  deriving DecidableEq, Repr

/-- A mover command's fields (R366). -/
structure MvCmd where
  op : Nat
  wsel : Nat
  len : Nat
  src : Nat
  dst : Nat
  resultOff : Nat
  rsv : Bool
  deriving DecidableEq, Repr

/-- A mover command word decoded (R366); lengths and addresses in bytes. -/
def MvCmd.ofWord (w : Nat) : MvCmd :=
  ⟨field w 0 4, field w 4 2, field w 8 20 * 16, field w 28 40 * 16, field w 68 40 * 16, field w 108 12,
   field w 6 2 != 0 || field w 120 8 != 0⟩

/-- The rules of R366 and R367 on one word alone. -/
def MvCmd.ok (m : MvCmd) : Bool :=
  let atomic := 3 ≤ m.op && m.op ≤ 6
  1 ≤ m.op && m.op ≤ 6 && !m.rsv
  && (if atomic then m.len == 0 && (if m.op = 4 ∨ m.op = 6 then decide (m.wsel < 2) else true)
      else decide (16 ≤ m.len) && m.wsel == 0)
  && (m.op != 1 || decide (m.src + m.len ≤ m.dst) || decide (m.dst + m.len ≤ m.src))

end Sys2Proof.Machine
end

