-- ==== Sys2Proof/Machine/Fixed.lean ====
section
/-!
DEFINITION. The fixed-point formats and their arithmetic (R39 to R50): every operation forms its
exact result as an Int and narrows it once, saturating with SAT or, for A16, wrapping.
-/
namespace Sys2Proof.Machine

/-- A narrowed value with the SAT flag the narrowing set (R41). -/
structure Sat where
  /-- The stored code, as an integer. -/
  val : Int
  /-- SAT. -/
  sat : Bool
  deriving DecidableEq, Repr

/-- The nearest end of `lo .. hi`, with SAT, for a result outside it (R41). -/
def clampSat (lo hi x : Int) : Sat :=
  if x < lo then ⟨lo, true⟩ else if hi < x then ⟨hi, true⟩ else ⟨x, false⟩

/-- P32 result (R39). -/
def satP32 (x : Int) : Sat := clampSat (-2147483648) 2147483647 x
/-- V16 or K16 result (R39). -/
def satI16 (x : Int) : Sat := clampSat (-32768) 32767 x
/-- T16 or Q16 result (R39). -/
def satU16 (x : Int) : Sat := clampSat 0 65535 x
/-- U8 result (R39). -/
def satU8 (x : Int) : Sat := clampSat 0 255 x
/-- S48 result (R39, R45). -/
def satS48 (x : Int) : Sat := clampSat 0 281474976710655 x
/-- A 64-bit geometric intermediate (R47). -/
def satI64 (x : Int) : Sat := clampSat (-9223372036854775808) 9223372036854775807 x

/-- A16 results wrap modulo 65,536 and set nothing (R41). -/
def wrapA16 (x : Int) : Nat := code 16 x

/-- The signed difference `b - a` of two A16 angles, in `[-32768, 32767]` (R40). -/
def diffA16 (b a : Nat) : Int := signed 16 (code 16 ((b : Int) - (a : Int)))

/-- `x * 2^-n` rounded towards minus infinity (R50). -/
def shrFloor (x : Int) (n : Nat) : Int := x / (2 ^ n : Nat)

/-- `x * 2^-n` rounded towards plus infinity (R50). -/
def shrCeil (x : Int) (n : Nat) : Int := -((-x) / (2 ^ n : Nat))

/-- `x * 2^-n` rounded to nearest, a half going towards plus infinity. -/
def shrRound (x : Int) (n : Nat) : Int :=
  if n = 0 then x else (x + (2 ^ (n - 1) : Nat)) / (2 ^ n : Nat)

/-- `x / y` rounded towards minus infinity, for positive `y`. -/
def divFloor (x y : Int) : Int := x / y

/-- `x / y` rounded towards plus infinity, for positive `y`. -/
def divCeil (x y : Int) : Int := -((-x) / y)

/-- Integer `/` of the pseudocode: towards zero (R22). -/
def divTrunc (x y : Int) : Int := Int.tdiv x y

/-- Integer `%` of the pseudocode: the sign of the dividend (R22). -/
def modTrunc (x y : Int) : Int := Int.tmod x y

/-- The lethal C24 cost (R39). -/
def c24Lethal : Nat := 0xFFFFFF

/-- The largest ordinary C24 cost (R39). -/
def c24Max : Nat := 0xFFFFFE

/-- C24 addition (R43): lethal absorbs without SAT; an exact sum above 0xFFFFFE saturates. -/
def addC24 (a b : Nat) : Sat :=
  if a = c24Lethal ∨ b = c24Lethal then ⟨c24Lethal, false⟩
  else if c24Max < a + b then ⟨c24Max, true⟩ else ⟨(a + b : Nat), false⟩

/-- A signed cost term entering a C24 sum (R43): a negative one enters as 0 with SAT. -/
def termC24 (x : Int) : Sat :=
  if x < 0 then ⟨0, true⟩ else if (c24Max : Int) < x then ⟨c24Max, true⟩ else ⟨x, false⟩

/-- The order key of a C24 key: its merit (R66). -/
def orderKeyC24 (cost : Nat) : Nat := 0xFFFFFF - cost

end Sys2Proof.Machine
end

