-- ==== Sys2Proof/Machine/Trig.lean ====
section
/-!
DEFINITION. The direction table SIN_T and `trig_d32` (R161, R162), the angular bound `ang` (R138)
and `dir_a16` (R171). SIN_T's entries are computed, not listed: a Taylor series in integers scaled
by 2^96, whose error stays far below the distance of any entry from a rounding boundary.
-/
namespace Sys2Proof.Machine

/-- floor(pi * 2^96), for the table's arguments (R161). -/
def piScaled : Nat := 248902613312231085230521944622

/-- The alternating series `t - t x^2/((k+1)(k+2)) + ...` at scale 2^96, `f` further terms. -/
def sinSeries : Nat → Nat → Nat → Nat → Nat
  | 0, _, _, t => t
  | f + 1, k, x2, t =>
    t - sinSeries f (k + 2) x2 (t * x2 / 2 ^ 96 / ((k + 1) * (k + 2)))

/-- sin(i * pi / 32,768) at scale 2^96 for i ≤ 8,192, and cosine by starting from 1. -/
def sinScaled (i : Nat) : Nat :=
  let x := i * piScaled / 32768
  sinSeries 20 1 (x * x / 2 ^ 96) x

/-- cos(i * pi / 32,768) at scale 2^96 for i ≤ 8,192. -/
def cosScaled (i : Nat) : Nat :=
  let x := i * piScaled / 32768
  sinSeries 20 0 (x * x / 2 ^ 96) (2 ^ 96)

/-- SIN_T (R161): floor(sin(i * pi/32,768) * 2^30 + 1/2) for i from 0 to 16,384. -/
def sinT (i : Nat) : Nat :=
  ((if i ≤ 8192 then sinScaled i else cosScaled (16384 - i)) + 2 ^ 65) / 2 ^ 66

/-- `trig_d32`: the D32 cosine and sine of an A16 angle (R161). -/
def trig (a : Nat) : Int × Int :=
  let a := a % 65536
  let q := a / 16384
  let r := a % 16384
  let s : Int := (sinT r : Nat)
  let c : Int := (sinT (16384 - r) : Nat)
  if q = 0 then (c, s) else if q = 1 then (-s, c) else if q = 2 then (-c, -s) else (s, -c)

/-- EPS_T (R162). -/
def epsT : Int := 1

/-- |x| as an exact integer. -/
def iabs (x : Int) : Int := (x.natAbs : Nat)

/-- `ang`: an angle of `t` A16 LSB times a length, rounded up (R138), its product an i64 intermediate (R47). -/
def angSat (t x : Int) : Sat :=
  let p := satI64 (t * x * 101)
  ⟨shrCeil p.val 20, p.sat⟩

/-- The value of `ang` (R138). -/
def ang (t x : Int) : Int := (angSat t x).val

/-- The largest code built bit by bit from bit `b` down that `keep` accepts. -/
def bisect (keep : Nat → Bool) : Nat → Nat → Nat
  | 0, h => h
  | b + 1, h =>
    let t := h + 2 ^ b
    bisect keep b (if keep t then t else h)

/-- `dir_a16`: the direction of a vector, `fallback` for none (R171). -/
def dirA16 (dx dy : Int) (fallback : Nat) : Nat :=
  if dx = 0 ∧ dy = 0 then fallback
  else
    let ax := iabs dx
    let ay := iabs dy
    let h := bisect (fun t => decide ((trig t).2 * ax ≤ (trig t).1 * ay)) 14 0
    if 0 ≤ dx ∧ 0 ≤ dy then h
    else if dx < 0 ∧ 0 ≤ dy then 0x8000 - h
    else if dx < 0 ∧ dy < 0 then 0x8000 + h
    else wrapA16 (-(h : Int))

/-- The point (x, y) of a frame turned by heading `a`, rounded to nearest (R136, R164). -/
def rotRound (x y : Int) (a : Nat) : Int × Int :=
  let (co, si) := trig a
  (shrFloor (x * co - y * si + 2 ^ 29) 30, shrFloor (x * si + y * co + 2 ^ 29) 30)

end Sys2Proof.Machine
end

