-- ==== Sys2Proof/Machine/World.lean ====
section
/-!
DEFINITION. World streams and snapshots (R67 to R104, R595): numbering, payload decoding and
validation, acceptance, the snapshot, origin moves, change marking and the store form.
-/
namespace Sys2Proof.Machine

open Sys2Proof

/-- TW: tiles along s (R69). -/
def WorldCfg.tw (c : WorldCfg) : Nat := c.w / 32
/-- TH: tiles along d (R69). -/
def WorldCfg.th (c : WorldCfg) : Nat := c.h / 32
/-- TT: tiles of the grid (R69). -/
def WorldCfg.tt (c : WorldCfg) : Nat := c.tw * c.th
/-- NL: base layers (R69). -/
def WorldCfg.nl (c : WorldCfg) : Nat := c.fills.length
/-- The tile length in P32 (R96). -/
def WorldCfg.tileLen (c : WorldCfg) : Int := (32 * c.cLsb : Nat)
/-- The entry of a stream (R78). -/
def WorldCfg.stream (c : WorldCfg) (s : Nat) : StreamEntry := nth ⟨.unused, 0⟩ c.streams s
/-- The class margin (R74). -/
def WorldCfg.margin (c : WorldCfg) (cls : Nat) : Nat := nth 0 c.margins cls

/-- The first number that a stream owns in its kind's number space: `obase(s)` (R79). -/
def WorldCfg.baseOf (c : WorldCfg) (s : Nat) : Nat :=
  let k := (c.stream s).kind
  sumNat ((c.streams.take s).map (fun e => if e.kind = k then e.val else 0))

/-- The limits of R69 and R78 on grid, layers, margins and streams. -/
def WorldCfg.ok (c : WorldCfg) : Bool :=
  let masks := (c.streams.filter (fun e => e.kind = .layers)).map (·.val)
  let all := masks.foldl (· ||| ·) 0
  (c.cLsb == 512 || c.cLsb == 1024 || c.cLsb == 2048 || c.cLsb == 4096)
  && c.w % 32 == 0 && 32 ≤ c.w && c.w ≤ 1024
  && c.h % 32 == 0 && 32 ≤ c.h && c.h ≤ 256
  && 1 ≤ c.nl && c.nl ≤ 8 && c.fills.all (· ≤ 255)
  && c.margins.length == 64 && c.margins.all (· < 2 ^ 31)
  && c.streams.length == 16 && (c.stream 0).kind == .layers
  && sumNat (masks.map (popCount 8)) == popCount 8 all
  && (List.range c.nl).all (fun l => bitAt all l)
  && sumNat ((c.streams.filter (fun e => e.kind = .objects)).map (·.val)) ≤ 1024
  && sumNat ((c.streams.filter (fun e => e.kind = .statics)).map (·.val)) ≤ 4096

/-- The limits of R77 on one body; `towing` where the body tows another. -/
def EgoBody.ok (first towing : Bool) (b : EgoBody) : Bool :=
  let lim : Int := 262144
  let inRange (x : Int) : Bool := decide (-lim ≤ x ∧ x ≤ lim)
  1 ≤ b.boxes.length && b.boxes.length ≤ 4
  && b.boxes.all (fun x =>
      inRange x.cx && inRange x.cy && decide (0 < x.hl ∧ x.hl ≤ 0x7FFF8)
      && decide (0 < x.hw ∧ x.hw ≤ 0x7FFF8)
      && decide (x.zlo ≤ x.zhi) && inRange x.zlo && inRange x.zhi)
  && (if first then decide (0 < b.wheelbase) && decide (0 < b.kappaMax)
      else decide (b.axleX < 0) && decide (1 ≤ b.artMax ∧ b.artMax ≤ 0x4000))
  && (!towing || decide (-(2 ^ 31) ≤ b.hitchX))

/-- The limits of R77 on the ego model: one to three bodies. -/
def egoModelOk (bs : List EgoBody) : Bool :=
  1 ≤ bs.length && bs.length ≤ 3
  && (bs.zipIdx.all (fun p => EgoBody.ok (p.2 == 0) (p.2 + 1 < bs.length) p.1))

/-! ### Store form (R102) -/

/-- Rounded up to a multiple of 8 (R102). -/
def up8 (x : Int) : Int := divCeil x 8 * 8

/-- The shape in store form (R102). -/
def Shape.store (s : Shape) : Shape :=
  { s with
    a := up8 s.a, b := up8 s.b, zlo := s.zlo / 8 * 8, zhi := up8 s.zhi,
    verts := s.verts.map (fun v => ((v.1 + 4) / 8 * 8, (v.2 + 4) / 8 * 8)) }

/-- R: the bound on the reach of a shape from its reference point (R102). -/
def Shape.reach (s : Shape) : Int :=
  match s.kind with
  | .box => s.a + s.b
  | .disc => s.a
  | .capsule => s.a + s.b
  | .polygon => s.verts.foldl (fun m v => max m ((v.1.natAbs + v.2.natAbs : Nat) : Int)) 0

/-- The inflation of a dynamic object of store reach `r` (R102). -/
def inflateObj (k : ShapeKind) (r : Int) : Int :=
  8 + shrCeil (r * 3318) 20 + if k = .polygon then 6 else 0

/-- The inflation of a static primitive (R102). -/
def inflateStatic (k : ShapeKind) : Int := if k = .polygon then 6 else 0

/-- A pose after conversion to store form and `expand` (R102). -/
def Pose.stored (p : Pose) (anchorS anchorD : Int) : Pose :=
  ⟨(satP32 (anchorS + 8 * ((p.x - anchorS + 4) / 8))).val, (satP32 (anchorD + 8 * ((p.y - anchorD + 4) / 8))).val,
   64 * ((p.a + 32) / 64 % 1024)⟩

/-- A position of `expand` lies outside P32 and saturates (R41, R102). -/
def Pose.storedSat (p : Pose) (anchorS anchorD : Int) : Bool :=
  (satP32 (anchorS + 8 * ((p.x - anchorS + 4) / 8))).sat || (satP32 (anchorD + 8 * ((p.y - anchorD + 4) / 8))).sat

/-- Pose `k` of a hypothesis, the last one past the end. -/
def Hyp.pose (h : Hyp) (k : Nat) : Pose := nth ⟨0, 0, 0⟩ h.poses k

/-- `predicted_pose` over poses given by `get` (R75). -/
def predict (get : Nat → Pose) (dt ts t : Nat) : Pose :=
  let step := dt * 100000
  let el := t - ts
  let k := el / step
  if 31 ≤ k then get 31
  else
    let f : Int := (el - k * step : Nat)
    let p := get k
    let q := get (k + 1)
    let st : Int := (step : Nat)
    ⟨p.x + (q.x - p.x) * f / st, p.y + (q.y - p.y) * f / st,
     wrapA16 ((p.a : Int) + diffA16 q.a p.a * f / st)⟩

/-- The predicted pose of an object from its store form (R75, R102). -/
def Obj.predictStore (o : Obj) (h : Nat) (t : Nat) : Pose :=
  match o.hyps[h]? with
  | none => ⟨0, 0, 0⟩
  | some hy => predict (fun k => (hy.pose k).stored o.anchorS o.anchorD) hy.dt o.ts t

/-- A pose that the prediction at `t` expands saturates (R41, R75, R102). -/
def Obj.predictSat (o : Obj) (h : Nat) (t : Nat) : Bool :=
  match o.hyps[h]? with
  | none => false
  | some hy =>
    let k := min 31 ((t - o.ts) / (hy.dt * 100000))
    [k, min 31 (k + 1)].any (fun j => (hy.pose j).storedSat o.anchorS o.anchorD)

/-- The predicted pose of an object from its full-width values, as the proofer uses it (R102). -/
def Obj.predictFull (o : Obj) (h : Nat) (t : Nat) : Pose :=
  match o.hyps[h]? with
  | none => ⟨0, 0, 0⟩
  | some hy => predict hy.pose hy.dt o.ts t

/-! ### Decoding and validating payloads -/

/-- SHAPE's code (R72). -/
def shapeOfCode (n : Nat) : Option ShapeKind :=
  if n = 0 then some .box else if n = 1 then some .disc
  else if n = 2 then some .capsule else if n = 3 then some .polygon else none

/-- Strictly convex and counter-clockwise (R73). -/
def convexCcw (vs : List (Int × Int)) : Bool :=
  let n := vs.length
  (List.range n).all (fun k =>
    let a := nth (0, 0) vs k
    let b := nth (0, 0) vs ((k + 1) % n)
    let c := nth (0, 0) vs ((k + 2) % n)
    decide (0 < (b.1 - a.1) * (c.2 - b.2) - (b.2 - a.2) * (c.1 - b.1)))

/-- The tests of R73, with the zero parameters of R72. -/
def Shape.valid (s : Shape) : Bool :=
  let param (x : Int) : Bool := decide (0 ≤ x ∧ x ≤ 0x7FFF8)
  let coord (x : Int) : Bool := decide (-0x40000 ≤ x ∧ x ≤ 0x3FFF8)
  param s.a && param s.b && coord s.zlo && coord s.zhi && decide (s.zlo ≤ s.zhi)
  && match s.kind with
     | .box => decide (0 < s.a) && decide (0 < s.b)
     | .disc => decide (0 < s.a) && decide (s.b = 0)
     | .capsule => decide (0 < s.b)
     | .polygon => decide (s.a = 0) && decide (s.b = 0)
         && s.verts.all (fun v => coord v.1 && coord v.2) && convexCcw s.verts

/-- The 16 vertex pairs of a record from byte `off`, the used ones kept; none where an unused pair
is not 0 or NVERT does not suit the shape (R88). -/
def getVerts (bs : List Byte) (off nvert : Nat) (k : ShapeKind) : Option (List (Int × Int)) :=
  let vs := (List.range 16).map (fun i => (getSle bs (off + 8 * i) 4, getSle bs (off + 8 * i + 4) 4))
  let okN := if k = .polygon then decide (3 ≤ nvert ∧ nvert ≤ 16) else nvert == 0
  if okN && (vs.drop nvert).all (fun v => v == (0, 0)) then some (vs.take nvert) else none

/-- The records of one hypothesis (R88). -/
def getHyp (bs : List Byte) (anchorS anchorD : Int) : Option Hyp :=
  let poses := (List.range 32).map (fun k =>
    (⟨getSle bs (8 + 12 * k) 4, getSle bs (12 + 12 * k) 4, getLe bs (16 + 12 * k) 2⟩ : Pose))
  let rsv := getLe bs 4 4 = 0 ∧ (List.range 32).all (fun k => getLe bs (18 + 12 * k) 2 == 0)
  let near := poses.all (fun p =>
    (p.x - anchorS).natAbs ≤ 0x3FFFF8 && (p.y - anchorD).natAbs ≤ 0x0FFFF8)
  let dt := getLe bs 2 2
  if rsv ∧ near ∧ 10 ≤ dt ∧ dt ≤ 1000 then some ⟨getLe bs 0 2, dt, poses⟩ else none

/-- One object record with the rest of the payload (R88). -/
def getObj (ts : Nat) (anchorS anchorD : Int) (bs : List Byte) : Option (Obj × List Byte) := do
  let nhyp := getLe bs 7 1
  let len := 160 + 392 * nhyp
  guard (160 ≤ bs.length ∧ 1 ≤ nhyp ∧ nhyp ≤ 8 ∧ len ≤ bs.length)
  let k ← shapeOfCode (getLe bs 5 1)
  let vs ← getVerts bs 32 (getLe bs 6 1) k
  let sh : Shape := ⟨k, getSle bs 16 4, getSle bs 20 4, getSle bs 8 4, getSle bs 12 4, vs⟩
  guard (sh.valid ∧ getLe bs 4 1 ≤ 63 ∧ getLe bs 24 8 = 0)
  let hyps ← (List.range nhyp).mapM (fun h =>
    getHyp ((bs.drop (160 + 392 * h)).take 392) anchorS anchorD)
  return (⟨getLe bs 0 4, getLe bs 4 1, sh, hyps, ts, anchorS, anchorD⟩, bs.drop len)

/-- `n` object records that fill the payload exactly (R87, R88, R595). -/
def getObjs (ts : Nat) (anchorS anchorD : Int) : Nat → List Byte → Option (List Obj)
  | 0, bs => if bs.isEmpty then some [] else none
  | n + 1, bs => do
    let (o, rest) ← getObj ts anchorS anchorD bs
    let os ← getObjs ts anchorS anchorD n rest
    return o :: os

/-- One static record (R89): its slot within the stream, and the primitive or a cleared slot. -/
def getStatic (update : Bool) (quota : Nat) (bs : List Byte) : Option (Nat × Option Prim) := do
  let slot := getLe bs 0 2
  guard (slot < quota ∧ getLe bs 5 1 = 0 ∧ getLe bs 36 4 = 0)
  if getLe bs 3 1 = 0xFF then
    guard (update ∧ getLe bs 2 1 ≤ 63 ∧ (getVerts bs 40 (getLe bs 4 1) .disc).isSome)
    return (slot, none)
  else
    let k ← shapeOfCode (getLe bs 3 1)
    let vs ← getVerts bs 40 (getLe bs 4 1) k
    let sh : Shape := ⟨k, getSle bs 24 4, getSle bs 28 4, getSle bs 16 4, getSle bs 20 4, vs⟩
    guard (sh.valid ∧ getLe bs 2 1 ≤ 63)
    return (slot, some ⟨getLe bs 2 1, sh, getSle bs 8 4, getSle bs 12 4, getLe bs 6 2, getLe bs 32 4⟩)

/-- No number twice. -/
def noDup : List Nat → Bool
  | [] => true
  | x :: xs => !xs.contains x && noDup xs

/-- The layers of a mask in ascending order. -/
def maskLayers (m : Nat) : List Nat := (List.range 8).filter (bitAt m)

/-- The tile records of a PATCH (R86). -/
def getPatch (tt mask count : Nat) (bs : List Byte) : Option (List (Nat × List (Nat × List Byte))) :=
  let ls := maskLayers mask
  (records (8 + 1024 * ls.length) count bs).mapM (fun r =>
    let t := getLe r 0 2
    if getLe r 2 6 = 0 ∧ t < tt then
      some (t, ls.zipIdx.map (fun p => (p.1, (r.drop (8 + 1024 * p.2)).take 1024)))
    else none)

/-- The tile numbers of a FILL (R86), with every cell of every layer of the mask. -/
def getFill (tt mask count v : Nat) (bs : List Byte) : Option (List (Nat × List (Nat × List Byte))) :=
  let ts := (List.range count).map (fun k => getLe bs (2 * k) 2)
  if ts.all (· < tt) ∧ (bs.drop (2 * count)).all (· == 0) then
    some (ts.map (fun t =>
      (t, (maskLayers mask).map (fun l => (l, List.replicate 1024 (BitVec.ofNat 8 v))))))
  else none

/-- PAYLOAD_LEN against the bounds of R595, from the descriptor alone; `op` is the opcode. -/
def payloadLenOk (op : Nat) (d : List Byte) : Bool :=
  let n := getLe d 32 4
  if op = 0x0020 then
    let tiles := getLe d 42 2
    match getLe d 40 1 with
    | 0 => n == tiles * (8 + 1024 * popCount 8 (getLe d 41 1))
    | 1 => n == (2 * tiles + 7) / 8 * 8
    | 2 => n == 0
    | _ => false
  else if op = 0x0021 then
    let c := getLe d 48 2
    decide (c * 552 ≤ n ∧ n ≤ c * 3296)
  else if op = 0x0022 then n == getLe d 42 2 * 168
  else n != 0 && n % 8 == 0

/-- The range and length check of R595. -/
def payloadRangeOk (op : Nat) (d : List Byte) : Bool :=
  payloadLenOk op d && (getLe d 32 4 == 0 || decide (getLe d 24 8 + getLe d 32 4 ≤ 2 ^ 52))

/-- PAYLOAD_ADDR aligned, and PAYLOAD_CRC 0 without a payload (R84). -/
def payloadHeadOk (d : List Byte) : Bool :=
  if getLe d 32 4 = 0 then getLe d 36 4 == 0 else getLe d 24 8 % 64 == 0

/-- Why an update is rejected (R104). -/
inductive WorldReject where
  | badDesc | resource
  deriving DecidableEq, Repr

/-- A layer descriptor and payload against R85 and R86; the update and its tile count. -/
def parseLayers (c : WorldCfg) (s : Nat) (d p : List Byte) : Option (UpdBody × Nat) :=
  let mode := getLe d 40 1
  let mask := getLe d 41 1
  let n := getLe d 42 2
  let oS := getSle d 44 4
  let oD := getSle d 48 4
  let fill := getLe d 52 1
  if mode = 2 then
    if s = 0 ∧ mask = 0 ∧ n = 0 ∧ fill = 0 then some (.origin oS oD, 0) else none
  else if mask ≠ 0 ∧ mask &&& (c.stream s).val = mask ∧ 1 ≤ n ∧ n ≤ c.tt then
    if mode = 0 then
      if fill = 0 then (getPatch c.tt mask n p).map (fun ts => (.layers oS oD ts, n)) else none
    else if mode = 1 then (getFill c.tt mask n fill p).map (fun ts => (.layers oS oD ts, n))
    else none
  else none

/-- An object descriptor and payload against R87 and R88. -/
def parseObjects (c : WorldCfg) (s : Nat) (d p : List Byte) : Except WorldReject (UpdBody × Nat) :=
  match getObjs (getLe d 16 8) (getSle d 40 4) (getSle d 44 4) (getLe d 48 2) p with
  | none => .error .badDesc
  | some os =>
    if (c.stream s).val < os.length then .error .resource else .ok (.objects os, os.length)

/-- A static descriptor and payload against R89. -/
def parseStatics (c : WorldCfg) (s : Nat) (d p : List Byte) : Option (UpdBody × Nat) := do
  let mode := getLe d 40 1
  let n := getLe d 42 2
  guard (mode ≤ 1 ∧ p.length = 168 * n)
  let rs ← (records 168 n p).mapM (getStatic (mode == 1) (c.stream s).val)
  guard (noDup (rs.map (·.1)))
  return (.statics (mode == 0) rs, n)

/-- The kind of stream that an opcode feeds (R80). -/
def streamKindOf (op : Nat) : StreamKind :=
  if op = 0x0020 then .layers else if op = 0x0021 then .objects
  else if op = 0x0022 then .statics else .unused

/-- Fields and records of a world descriptor on stream `s` (R84 to R89). -/
def parseUpdate (c : WorldCfg) (op s : Nat) (d p : List Byte) : Except WorldReject (UpdBody × Nat) :=
  if !payloadHeadOk d then .error .badDesc
  else if op = 0x0020 then (parseLayers c s d p).elim (.error .badDesc) .ok
  else if op = 0x0021 then parseObjects c s d p
  else (parseStatics c s d p).elim (.error .badDesc) .ok

/-- EGO_STATE's fields (R90); none where one is out of range for `nbody` bodies. -/
def parseEgo (nbody : Nat) (d : List Byte) : Option Ego :=
  let e : Ego := ⟨getLe d 16 8, getSle d 24 4, getSle d 28 4, getLe d 32 2, getSle d 34 2,
    getSle d 36 2, getSle d 38 2, getLe d 40 2, getLe d 42 2, getLe d 45 1 == 1⟩
  if getLe d 44 1 = nbody ∧ getLe d 45 1 ≤ 1 ∧ (2 ≤ nbody ∨ e.art1 = 0) ∧ (3 ≤ nbody ∨ e.art2 = 0)
  then some e else none

/-! ### Streams -/

/-- Stream `s`. -/
def World.stream (w : World) (s : Nat) : Stream := nth ⟨[], none⟩ w.streams s

/-- The number the next snapshot will take (R98). -/
def World.nextEpoch (w : World) : Nat := if w.epoch = 0xFFFFFFFF then 1 else w.epoch + 1

/-- TIMESTAMP is lower than the stream's last accepted one (R82). -/
def World.tsLow (w : World) (s ts : Nat) : Bool :=
  match (w.stream s).lastTs with
  | none => false
  | some t => decide (ts < t)

/-- Four updates wait on the stream (R83). -/
def World.full (w : World) (s : Nat) : Bool := 4 ≤ (w.stream s).queue.length

/-- Stage an accepted update (R81, R82). -/
def World.stage (w : World) (s : Nat) (u : Update) : World :=
  { w with streams := modAt (fun x => ⟨x.queue ++ [u], some u.ts⟩) w.streams s }

/-- Retain an ego state among the 16 most recent (R91). -/
def World.keepEgo (w : World) (e : Ego) : World := { w with egos := (e :: w.egos).take 16 }

/-! ### The snapshot -/

/-- The ego state of a snapshot: highest TIMESTAMP not above `wt`, the later accepted one between
equals (R94). The list runs from the newest. -/
def pickEgo (wt : Nat) (es : List Ego) : Option Ego :=
  es.foldl (fun best e =>
    if e.ts ≤ wt then
      match best with
      | none => some e
      | some b => if b.ts < e.ts then some e else some b
    else best) none

/-- Every tile number of the grid. -/
def WorldCfg.tiles (c : WorldCfg) : List Nat := List.range c.tt

/-- The mask with the tiles of a list marked. -/
def markTiles (m : BitVec 256) (ts : List Nat) : BitVec 256 :=
  ts.foldl (fun m t => m ||| BitVec.ofNat 256 (2 ^ t)) m

/-- Tile `t` marked. -/
def tileMarked (m : BitVec 256) (t : Nat) : Bool := m.getLsbD t

/-- The grid tiles of columns `c0..c1` and rows `r0..r1`. -/
def WorldCfg.tileBox (c : WorldCfg) (c0 c1 r0 r1 : Int) : List Nat :=
  c.tiles.filter (fun t =>
    let tx : Int := (t % c.tw : Nat)
    let ty : Int := (t / c.tw : Nat)
    decide (c0 ≤ tx ∧ tx ≤ c1 ∧ r0 ≤ ty ∧ ty ≤ r1))

/-- The grid tiles of the box of points `x0..x1`, `y0..y1` (R99, R114, R116). -/
def WorldCfg.coverBox (c : WorldCfg) (s0 d0 x0 x1 y0 y1 : Int) : List Nat :=
  let l := c.tileLen
  c.tileBox ((x0 - s0) / l) ((x1 - s0) / l) ((y0 - d0) / l) ((y1 - d0) / l)

/-- A primitive's outward tile cover with class margin and inflation (R99, R116). -/
def WorldCfg.primCover (c : WorldCfg) (s0 d0 : Int) (p : Prim) : List Nat :=
  let r := p.shape.store.reach + (c.margin p.cls : Int) + inflateStatic p.shape.kind
  c.coverBox s0 d0 (p.x - r) (p.x + r) (p.y - r) (p.y + r)

/-- The column shift `k` from `from_` to `to` along s, where the difference is a whole number of
tiles along s and nothing along d (R96, R97). -/
def originShift (c : WorldCfg) (fromS fromD toS toD : Int) : Option Int :=
  if toD = fromD ∧ (toS - fromS) % c.tileLen = 0 then some ((toS - fromS) / c.tileLen) else none

/-- The tile that tile `t` becomes when the origin moves by `k` columns, if it stays (R96). -/
def shiftTile (c : WorldCfg) (k : Int) (t : Nat) : Option Nat :=
  let tx : Int := (t % c.tw : Nat) - k
  if 0 ≤ tx ∧ tx < c.tw then some (t / c.tw * c.tw + tx.toNat) else none

/-- A base layer's cell in a world store: layer and tile of an offset below 2 MiB (R103). -/
def overTile (key : Nat) : Option (Nat × Nat) :=
  let off := key % 2 ^ 24
  if off < 0x200000 then some (off / 0x40000, off / 0x400 % 256) else none

/-- The tile whose epoch an offset of a world store holds a byte of (R103). -/
def overEpoch (key : Nat) : Option Nat :=
  let off := key % 2 ^ 24
  if 0xFF9000 ≤ off ∧ off < 0xFF9400 then some ((off - 0xFF9000) / 4) else none

/-- Bytes written at an offset of a die's store: those of base layers and tile epochs count (R103). -/
def World.store (w : World) (die off : Nat) (bs : List Byte) : World :=
  { w with laid := bs.zipIdx.foldl (fun o x =>
      let k := die * 2 ^ 24 + off + x.2
      if (overTile k).isSome || (overEpoch k).isSome then insertKey k x.1 o else o) w.laid }

/-- The world as a die's store holds it: the common contents with the bytes written into that store alone. -/
def World.forDie (w : World) (c : WorldCfg) (die : Nat) : World :=
  (w.laid.filter (fun e => e.1 / 2 ^ 24 == die)).foldl (fun w e =>
    match overTile e.1, overEpoch e.1 with
    | some (l, t), _ =>
      let cs := (lookupKey (l * 256 + t) w.base).getD (List.replicate 1024 (BitVec.ofNat 8 (nth 0 c.fills l)))
      { w with base := insertKey (l * 256 + t) (setAt cs (e.1 % 0x400) e.2) w.base }
    | none, some t =>
      let b := leBytes 4 (nth 0 w.tileEpochs t)
      { w with tileEpochs := setAt w.tileEpochs t (getLe (setAt b (e.1 % 4) e.2) 0 4) }
    | none, none => w) w

/-- The store of a rejoining die receives another die's base layers (R101): its bytes give way to that die's. -/
def World.copyStore (w : World) (src dst : Nat) : World :=
  let kept := w.laid.filter (fun e => !(e.1 / 2 ^ 24 == dst && (overTile e.1).isSome))
  let copied := w.laid.filter (fun e => e.1 / 2 ^ 24 == src && (overTile e.1).isSome)
  { w with laid := copied.foldl (fun o e => insertKey (dst * 2 ^ 24 + e.1 % 2 ^ 24) e.2 o) kept }

/-- An ORIGIN update (R96). -/
def World.applyOrigin (w : World) (c : WorldCfg) (s d : Int) : World :=
  let base := match originShift c w.s0 w.d0 s d with
    | some k =>
      if k.natAbs < c.tw then
        sortBy (fun a b => a.1 ≤ b.1) (w.base.filterMap (fun e =>
          (shiftTile c k (e.1 % 256)).map (fun t => (e.1 / 256 * 256 + t, e.2))))
      else []
    | none => []
  let laid := w.laid.filterMap (fun e =>
    match overTile e.1, originShift c w.s0 w.d0 s d with
    | none, _ => some e
    | some _, none => none
    | some (_, t), some k => (shiftTile c k t).map (fun u => (e.1 + u * 0x400 - t * 0x400, e.2)))
  { w with s0 := s, d0 := d, base := base, laid := sortBy (fun a b => a.1 ≤ b.1) laid
           changeMask := markTiles w.changeMask c.tiles }

/-- One tile of a PATCH or FILL, written at tile `t` (R86, R99). A layer that the image does not
use has no cells to write. -/
def World.writeTile (w : World) (c : WorldCfg) (t : Nat) (cells : List (Nat × List Byte)) : World :=
  { w with
    base := cells.foldl (fun b e => if e.1 < c.nl then insertKey (e.1 * 256 + t) e.2 b else b) w.base
    laid := w.laid.filter (fun e => !(overTile e.1).any (fun x => x.2 == t && cells.any (fun y => y.1 == x.1)))
    changeMask := markTiles w.changeMask [t] }

/-- A PATCH or FILL, translated to the present origin or dropped (R97). -/
def World.applyLayers (w : World) (c : WorldCfg) (oS oD : Int)
    (tiles : List (Nat × List (Nat × List Byte))) : World :=
  match originShift c oS oD w.s0 w.d0 with
  | none => { w with updDropped := w.updDropped + 1 }
  | some k =>
    tiles.foldl (fun w e =>
      match shiftTile c k e.1 with
      | none => { w with tilesDropped := w.tilesDropped + 1 }
      | some t => w.writeTile c t e.2) w

/-- A static slot written or cleared, with both covers marked (R99). -/
def World.putStatic (w : World) (c : WorldCfg) (slot : Nat) (p : Option Prim) : World :=
  let old := match lookupKey slot w.statics with
    | some q => c.primCover w.s0 w.d0 q
    | none => []
  let new := match p with
    | some q => c.primCover w.s0 w.d0 q
    | none => []
  { w with
    statics := match p with
      | some q => insertKey slot q w.statics
      | none => eraseKey slot w.statics
    changeMask := markTiles (markTiles w.changeMask old) new }

/-- A static update on stream `s` (R89). -/
def World.applyStatics (w : World) (c : WorldCfg) (s : Nat) (all : Bool)
    (recs : List (Nat × Option Prim)) : World :=
  let b := c.baseOf s
  let w := if all then
      (List.range (c.stream s).val).foldl (fun w k => w.putStatic c (b + k) none) w
    else w
  recs.foldl (fun w e => w.putStatic c (b + e.1) e.2) w

/-- A stream's object set replaced (R87). -/
def World.applyObjects (w : World) (c : WorldCfg) (s : Nat) (os : List Obj) : World :=
  let b := c.baseOf s
  let kept := w.objects.filter (fun e => e.1 < b || b + (c.stream s).val ≤ e.1)
  { w with objects := os.zipIdx.foldl (fun m p => insertKey (b + p.2) p.1 m) kept }

/-- One update applied on stream `s` (R93). -/
def World.applyUpdate (w : World) (c : WorldCfg) (s : Nat) (u : Update) : World :=
  match u.body with
  | .layers oS oD ts => w.applyLayers c oS oD ts
  | .origin a b => w.applyOrigin c a b
  | .objects os => w.applyObjects c s os
  | .statics all rs => w.applyStatics c s all rs

/-- Stream `s` in a snapshot of world time `wt` (R93): eligible updates are consumed, in order, the
last one alone for an OBJECTS stream. -/
def World.applyStream (w : World) (c : WorldCfg) (wt s : Nat) : World :=
  let st := w.stream s
  let el := st.queue.filter (fun u => u.ts ≤ wt)
  let use := if (c.stream s).kind = .objects then el.getLast?.toList else el
  let w := use.foldl (fun w u => w.applyUpdate c s u) w
  { w with streams :=
      modAt (fun x => { x with queue := x.queue.filter (fun u => !(u.ts ≤ wt)) }) w.streams s }

/-- The tiles within `reach` rows and columns of a marked tile: the rebuild set (R111). -/
def rebuildSet (c : WorldCfg) (reach : Nat) (m : BitVec 256) : List Nat :=
  let marked := c.tiles.filter (tileMarked m)
  c.tiles.filter (fun t => marked.any (fun u =>
    ((t % c.tw : Nat) - (u % c.tw : Nat) : Int).natAbs ≤ reach
    && ((t / c.tw : Nat) - (u / c.tw : Nat) : Int).natAbs ≤ reach))

/-- The static world epoch: the highest tile epoch (R100). -/
def World.staticEpoch (w : World) : Nat := w.tileEpochs.foldl max 0

/-- The snapshot of world time `wt` (R93 to R100), its ego state already found. -/
def World.snapshot (w : World) (c : WorldCfg) (reach wt : Nat) (e : Ego) : World :=
  let ep := w.nextEpoch
  let start : World :=
    { w with
      epoch := ep, worldTime := wt, ego := some e, markAll := false,
      changeMask := if w.markAll then markTiles 0 c.tiles else 0,
      updDropped := 0, tilesDropped := 0 }
  let w1 := (List.range 16).foldl (fun w s => w.applyStream c wt s) start
  let rs := rebuildSet c reach w1.changeMask
  { w1 with tileEpochs := w1.tileEpochs.zipIdx.map (fun p => if rs.contains p.2 then ep else p.1)
            laid := w1.laid.filter (fun e => !(overEpoch e.1).any (fun t => rs.contains t)) }

/-- A new image becomes active, or the image is unloaded: the world is cleared (R101); with it the
number of unconsumed updates discarded. -/
def World.clear (w : World) : World × Nat :=
  ({ w with
      s0 := 0, d0 := 0, base := [], laid := w.laid.filter (fun e => (overTile e.1).isNone), objects := [], statics := [], egos := [], ego := none,
      streams := List.replicate 16 ⟨[], none⟩, markAll := true },
   sumNat (w.streams.map (fun s => s.queue.length)))

/-- Cell `cell` of tile `t` of layer `l` (R71). -/
def World.cellAt (w : World) (c : WorldCfg) (l t cell : Nat) : Nat :=
  match lookupKey (l * 256 + t) w.base with
  | some cs => (nth 0 cs cell).toNat
  | none => nth 0 c.fills l

/-- The tile and cell of grid indices (R70). -/
def WorldCfg.tileOf (c : WorldCfg) (i j : Nat) : Nat × Nat :=
  (j / 32 * c.tw + i / 32, j % 32 * 32 + i % 32)

/-- Layer `l` at grid indices; outside the grid the fill value (R71). -/
def World.cellIJ (w : World) (c : WorldCfg) (l : Nat) (i j : Int) : Nat :=
  if 0 ≤ i ∧ i < c.w ∧ 0 ≤ j ∧ j < c.h then
    let p := c.tileOf i.toNat j.toNat
    w.cellAt c l p.1 p.2
  else nth 0 c.fills l

end Sys2Proof.Machine
end

