-- ==== Sys2Proof/Machine/Chisel.lean ====
section
/-!
DEFINITION. The collision engine's geometry and verdict function (R161 to R182): ego boxes, tile
covers, object motion, the separating-axis test rounded towards contact, and `verdict_of`.
-/
namespace Sys2Proof.Machine

open Sys2Proof

/-! ### Samples in memory (R156) -/

/-- A body of a sample that has no such body. -/
def noBody : BodySample := ⟨0, 0, 0, 0, 0⟩

/-- Body `b` of a sample. -/
def Sample.body (p : Sample) (b : Nat) : BodySample := nth noBody p.bodies b

/-- The 64-byte record of a sample (R156). -/
def Sample.bytes (p : Sample) : List Byte :=
  let b0 := p.body 0
  let b1 := p.body 1
  let b2 := p.body 2
  leBytes 4 (code 32 b0.x) ++ leBytes 4 (code 32 b0.y) ++ leBytes 2 b0.h ++ leBytes 2 b1.h
  ++ leBytes 2 b2.h ++ leBytes 2 p.t ++ leBytes 4 (code 32 b1.x) ++ leBytes 4 (code 32 b1.y)
  ++ leBytes 4 (code 32 b2.x) ++ leBytes 4 (code 32 b2.y) ++ leBytes 2 (code 16 p.v)
  ++ leBytes 2 (code 16 p.acc) ++ leBytes 2 (code 16 p.kappa) ++ leBytes 2 (code 16 p.kdot)
  ++ leBytes 2 b0.bx ++ leBytes 2 b0.by_ ++ leBytes 2 b1.bx ++ leBytes 2 b1.by_
  ++ leBytes 2 b2.bx ++ leBytes 2 b2.by_ ++ leBytes 12 (maskOf [p.sat, p.range, p.unbound])

/-- A sample read from its record (R156). -/
def Sample.ofBytes (r : List Byte) : Sample :=
  let fl := getLe r 52 1
  ⟨[⟨getSle r 0 4, getSle r 4 4, getLe r 8 2, getLe r 40 2, getLe r 42 2⟩,
    ⟨getSle r 16 4, getSle r 20 4, getLe r 10 2, getLe r 44 2, getLe r 46 2⟩,
    ⟨getSle r 24 4, getSle r 28 4, getLe r 12 2, getLe r 48 2, getLe r 50 2⟩],
   getLe r 14 2, getSle r 32 2, getSle r 34 2, getSle r 36 2, getSle r 38 2,
   bitAt fl 0, bitAt fl 1, bitAt fl 2⟩

/-! ### What a sample covers -/

/-- `ego_box` (R164), its centre in P32 (R41). -/
def egoBox (f32 : Bool) (b : BodySample) (x : EgoBox) : EBox :=
  let dl := 1 + shrCeil ((iabs x.cx + iabs x.cy) * epsT) 30
  let c := rotRound x.cx x.cy b.h
  let g : Int := dl + if f32 then 1 else 0
  let cx := satP32 (b.x + c.1)
  let cy := satP32 (b.y + c.2)
  ⟨cx.val, cy.val, b.h, x.hl + b.bx + g, x.hw + b.by_ + g, x.zlo, x.zhi, cx.sat || cy.sat⟩

/-- Every ego box of a sample (R164). -/
def egoBoxes (ego : List EgoBody) (f32 : Bool) (p : Sample) : List EBox :=
  (ego.zipIdx.map (fun eb => eb.1.boxes.map (egoBox f32 (p.body eb.2)))).flatten

/-- `box_tiles`: (ty, tx), possibly outside the grid (R166). -/
def boxTiles (c : WorldCfg) (s0 d0 : Int) (e : EBox) : List (Int × Int) :=
  let (co, si) := trig e.th
  let ac := iabs co + epsT
  let as := iabs si + epsT
  let ax := shrCeil (e.hl * ac + e.hw * as) 30
  let ay := shrCeil (e.hl * as + e.hw * ac) 30
  let l := c.tileLen
  let c0 := (e.cx - ax - s0) / l
  let c1 := (e.cx + ax - s0) / l
  let r0 := (e.cy - ay - d0) / l
  let r1 := (e.cy + ay - d0) / l
  ((List.range (r1 - r0 + 1).toNat).map (fun (i : Nat) =>
    (List.range (c1 - c0 + 1).toNat).map (fun (j : Nat) => (r0 + (i : Int), c0 + (j : Int))))).flatten

/-- The grid tile number of a (ty, tx), if it lies in the grid (R70, R166). -/
def gridTile (c : WorldCfg) (t : Int × Int) : Option Nat :=
  if 0 ≤ t.1 ∧ t.1 < c.th ∧ 0 ≤ t.2 ∧ t.2 < c.tw then some (t.1.toNat * c.tw + t.2.toNat) else none

/-- The union of lists without repeats, in the order of first appearance. -/
def unionAll {α : Type} [DecidableEq α] (xs : List (List α)) : List α :=
  xs.flatten.foldl (fun acc x => if acc.contains x then acc else acc ++ [x]) []

/-- The window of sample `k` in ms after W (R165). -/
def windowOf (ps : List Sample) (k : Nat) : Nat × Nat :=
  let t (i : Nat) : Nat := (ps[i]?.map (·.t)).getD 0
  (t (k - 1), t (min (k + 1) (ps.length - 1)))

/-- The window of a standalone pose (R165). -/
def poseWindow (dts nsamp t : Nat) : Nat × Nat := (t - dts, min (t + dts) ((nsamp - 1) * dts))

/-- The slices of a window (R165). -/
def windowSlices (ns : Nat) (w : Nat × Nat) : List Nat :=
  let a := w.1 / 250
  let b := min (ns - 1) (w.2 / 250)
  (List.range (b + 1 - a)).map (· + a)

/-! ### Objects at a sample -/

/-- The knots of an object's prediction strictly between two device times, with both ends
(R114, R167). -/
def knotTimes (dt ts t0 t1 : Nat) : List Nat :=
  [t0, t1] ++ ((List.range 31).map (fun j => ts + (j + 1) * (dt * 100000))).filter
    (fun tk => decide (t0 < tk ∧ tk < t1))

/-- DT of hypothesis `h`. -/
def Obj.dtOf (o : Obj) (h : Nat) : Nat := (o.hyps[h]?.map (·.dt)).getD 0
/-- PROB of hypothesis `h`. -/
def Obj.probOf (o : Obj) (h : Nat) : Nat := (o.hyps[h]?.map (·.prob)).getD 0

/-- `motion`: (ex, ey, er) of an object over a window (R167), and whether a quantity of it saturated (R47). -/
def objMotion (o : Obj) (h : Nat) (p : Pose) (tlo thi : Nat) (rn : Int) : Int × Int × Int × Bool :=
  let q := (knotTimes (o.dtOf h) o.ts tlo thi).map (o.predictStore h)
  let (co, si) := trig p.a
  let ex := q.foldl (fun m r =>
    let dx := r.x - p.x
    let dy := r.y - p.y
    max m (shrCeil (iabs (dx * co + dy * si) + (iabs dx + iabs dy) * epsT) 30)) 0
  let ey := q.foldl (fun m r =>
    let dx := r.x - p.x
    let dy := r.y - p.y
    max m (shrCeil (iabs (dy * co - dx * si) + (iabs dx + iabs dy) * epsT) 30)) 0
  let rot := q.foldl (fun m r => max m (iabs (diffA16 r.a p.a))) 0
  let er := angSat rot rn
  (ex, ey, er.val, er.sat || (knotTimes (o.dtOf h) o.ts tlo thi).any (o.predictSat h))

/-- Object `n` of branch `h` placed for a sample at `t` ms after `w` with a window in ms (R167). -/
def placeObj (c : WorldCfg) (w t : Nat) (win : Nat × Nat) (h n : Nat) (o : Obj) : Placed :=
  let s := o.shape.store
  let p := o.predictStore h (w + t * 100000)
  let (ex, ey, er, sat) := objMotion o h p (w + win.1 * 100000) (w + win.2 * 100000) s.reach
  ⟨n, s, p.x, p.y, p.a, ex, ey, er, c.margin o.cls, inflateObj s.kind s.reach, o.probOf h,
   sat || o.predictSat h (w + t * 100000)⟩

/-- A static primitive placed (R167, R172). -/
def placePrim (c : WorldCfg) (slot : Nat) (p : Prim) : Placed :=
  let s := p.shape.store
  ⟨slot, s, p.x, p.y, p.heading, 0, 0, 0, c.margin p.cls, inflateStatic s.kind, 0, false⟩

/-- The height intervals of a box and an object overlap (R168). -/
def heightsMeet (c : WorldCfg) (e : EBox) (cls : Nat) (s : Shape) : Bool :=
  let m : Int := c.margin cls
  decide (e.zlo ≤ s.store.zhi + m ∧ s.store.zlo - m ≤ e.zhi)

/-! ### Narrow phase -/

/-- An exact value outside the 64-bit range (R47). -/
def over64 (x : Int) : Bool := (satI64 x).sat

/-- The edge normals of a store-form polygon (R171). -/
def edgeNormals (vs : List (Int × Int)) : List Nat :=
  let n := vs.length
  (List.range n).map (fun v =>
    let a := nth (0, 0) vs v
    let b := nth (0, 0) vs ((v + 1) % n)
    dirA16 (b.2 - a.2) (-(b.1 - a.1)) 0)

/-- One axis of the test: whether it separates the pair, and whether a quantity saturated
(R172, R173). -/
def separatedOn (th : Nat) (e : EBox) (o : Placed) : Bool × Bool :=
  let dx := o.x - e.cx
  let dy := o.y - e.cy
  let (cu, su) := trig th
  let pc := dx * cu + dy * su
  let err := (iabs dx + iabs dy) * epsT
  let lo := shrFloor (pc - err) 30
  let hi := shrCeil (pc + err) 30
  let (ce, se) := trig (wrapA16 ((th : Int) - e.th))
  let reRaw := e.hl * (iabs ce + epsT) + e.hw * (iabs se + epsT)
  let re := shrCeil reRaw 30
  let (co, so) := trig (wrapA16 ((th : Int) - o.a))
  let (a, b, cc) : Int × Int × Int := match o.shape.kind with
    | .box => (o.shape.a, o.shape.b, 0)
    | .capsule => (o.shape.a, 0, o.shape.b)
    | .disc => (0, 0, o.shape.a)
    | .polygon => (0, 0, 0)
  let roRaw := (a + o.ex) * (iabs co + epsT) + (b + o.ey) * (iabs so + epsT)
  let ro := shrCeil roRaw 30 + cc + o.margin + o.infl + o.er
  let vmin := o.shape.verts.map (fun v => v.1 * co + v.2 * so - (iabs v.1 + iabs v.2) * epsT)
  let vmax := o.shape.verts.map (fun v => v.1 * co + v.2 * so + (iabs v.1 + iabs v.2) * epsT)
  let vlo := match vmin with
    | [] => 0
    | x :: xs => shrFloor (xs.foldl min x) 30
  let vhi := match vmax with
    | [] => 0
    | x :: xs => shrCeil (xs.foldl max x) 30
  let sat := over64 (pc - err) || over64 (pc + err) || over64 reRaw || over64 roRaw
    || vmin.any over64 || vmax.any over64
  (decide (re < lo + vlo - ro) || decide (hi + vhi + ro < -re), sat)

/-- The axes of a pair (R172). -/
def pairAxes (e : EBox) (o : Placed) : List Nat :=
  [e.th, (e.th + 0x4000) % 65536, o.a, (o.a + 0x4000) % 65536,
   dirA16 (o.x - e.cx) (o.y - e.cy) e.th]
  ++ if o.shape.kind = .polygon then (edgeNormals o.shape.verts).map (fun n => (o.a + n) % 65536)
     else []

/-- `contact`, with the saturation rule of R173: (contact, SAT). A box whose centre saturated,
or an object whose placing did, is in contact (R48). -/
def contact (e : EBox) (o : Placed) : Bool × Bool :=
  let rs := (pairAxes e o).map (fun th => separatedOn th e o)
  let sat := e.sat || o.sat || rs.any (·.2)
  (sat || !rs.any (·.1), sat)

/-! ### Occupancy records as a reader finds them (R118) -/

/-- An occupancy record or static list: saturated, or its entries. -/
inductive OccRec where
  | saturated
  | entries (ns : List Nat)
  deriving DecidableEq, Repr

/-- A record from its u16 entries (R118). -/
def OccRec.ofEntries (es : List Nat) : OccRec :=
  if es.head? = some 0xFFFE then .saturated else .entries (es.takeWhile (· != 0xFFFF))

/-- A record's entries padded to `n` u16 (R118). -/
def OccRec.toEntries (n : Nat) : OccRec → List Nat
  | .saturated => 0xFFFE :: List.replicate (n - 1) 0xFFFF
  | .entries es => es ++ List.replicate (n - es.length) 0xFFFF

/-- What a collision command sees: image, snapshot and lists (R175). -/
structure ChiselEnv where
  cfg : WorldCfg
  ego : List EgoBody
  prm : ChiselParams
  ns : Nat
  w : Nat
  s0 : Int
  d0 : Int
  objects : List (Nat × Obj)
  statics : List (Nat × Prim)
  /-- occupancy record by the key of slice, branch and tile -/
  occ : Nat → OccRec
  /-- static list of a tile -/
  stat : Nat → OccRec
  /-- branches for which lists are built -/
  nb : Nat

/-- The key of slice `k`, branch `h`, tile `t` among occupancy records (R118). -/
def ChiselEnv.occKey (v : ChiselEnv) (k h t : Nat) : Nat := (k * v.nb + h) * v.cfg.tt + t

/-- The occupancy record of slice, branch and tile (R115). -/
def ChiselEnv.occAt (v : ChiselEnv) (k h t : Nat) : OccRec :=
  v.occ (v.occKey k h t)

/-- The static list of a tile (R116). -/
def ChiselEnv.statAt (v : ChiselEnv) (t : Nat) : OccRec := v.stat t

/-- The numbers a record lists. -/
def OccRec.nums : OccRec → List Nat
  | .saturated => []
  | .entries es => es

/-- The grid tiles of a box (R169). -/
def ChiselEnv.gridTiles (v : ChiselEnv) (e : EBox) : List Nat :=
  (boxTiles v.cfg v.s0 v.d0 e).filterMap (gridTile v.cfg)

/-- The dynamic pair set of a box in branch `h` over the slices (R169). -/
def ChiselEnv.dynPairs (v : ChiselEnv) (slices : List Nat) (h : Nat) (e : EBox) : List Nat :=
  let ns := unionAll ((slices.map (fun k => (v.gridTiles e).map (fun t => (v.occAt k h t).nums))).flatten)
  ns.filter (fun n => match lookupKey n v.objects with
    | some o => heightsMeet v.cfg e o.cls o.shape
    | none => false)

/-- The static pair set of a box (R169). -/
def ChiselEnv.statPairs (v : ChiselEnv) (e : EBox) : List Nat :=
  let ns := unionAll ((v.gridTiles e).map (fun t => (v.statAt t).nums))
  ns.filter (fun n => match lookupKey n v.statics with
    | some p => heightsMeet v.cfg e p.cls p.shape
    | none => false)

/-- The record before any sample is checked (R174). -/
def VRec.init : VRec :=
  ⟨.free, 0xFFFF, 0xFFFF, 0xFF, 0, 0, false, 0xFFFF, false,
   List.replicate 8 0xFFFF, List.replicate 8 0xFFFF⟩

/-- `lethal` (R174). -/
def VRec.lethal (r : VRec) (v : Verdict) (k obj br : Nat) : VRec :=
  { r with verdict := v, sample := k, obj := obj, branch := br }

/-- The least of a list of numbers, `d` for none. -/
def minNat (d : Nat) : List Nat → Nat
  | [] => d
  | x :: xs => xs.foldl min x

/-- The object with the largest probability, the lowest number on a tie (R174). -/
def mostProbable (os : List Placed) : Option Placed :=
  os.foldl (fun best o =>
    match best with
    | none => some o
    | some b => if b.prob < o.prob ∨ (b.prob = o.prob ∧ o.num < b.num) then some o else some b) none

/-- Branch `h` of sample `k` (R174): the record with a first hit, and whether it is lethal. -/
def ChiselEnv.branchStep (v : ChiselEnv) (boxes : List EBox) (slices : List Nat) (t k : Nat)
    (win : Nat × Nat) (r : VRec) (h : Nat) : VRec × Bool :=
  let tests := (boxes.map (fun e =>
    (v.dynPairs slices h e).filterMap (fun n =>
      (lookupKey n v.objects).map (fun o =>
        let p := placeObj v.cfg v.w t win h n o
        (p, contact e p))))).flatten
  let r := { r with sat := r.sat || tests.any (fun x => x.2.2) }
  match mostProbable ((tests.filter (fun x => x.2.1)).map (·.1)) with
  | none => (r, false)
  | some o =>
    let r := { r with
      fhs := setAt r.fhs h k, fho := setAt r.fho h o.num,
      bmask := setBit r.bmask h, lmass := r.lmass + o.prob }
    if v.prm.lethQ ≤ r.lmass then (r.lethal .mass k o.num h, true) else (r, false)

/-- The branches of a mask not yet hit, ascending (R174). -/
def openBranches (bm : Nat) (r : VRec) : List Nat :=
  (List.range 8).filter (fun h => bitAt bm h && nth 0xFFFF r.fhs h == 0xFFFF)

/-- The branches of sample `k` in turn until one is lethal. -/
def ChiselEnv.branches (v : ChiselEnv) (boxes : List EBox) (slices : List Nat) (t k : Nat)
    (win : Nat × Nat) : List Nat → VRec → VRec × Bool
  | [], r => (r, false)
  | h :: hs, r =>
    let (r, stop) := v.branchStep boxes slices t k win r h
    if stop then (r, true) else v.branches boxes slices t k win hs r

/-- The saturated grid tile of the cover with the lowest number, and its BRANCH code (R170, R174).
With `skip`, the static lists are known not to be saturated (R201). -/
def ChiselEnv.satTile (v : ChiselEnv) (skip : Bool) (slices : List Nat) (bm : Nat) (grid : List Nat) :
    Option (Nat × Nat) :=
  let brs := (List.range 8).filter (bitAt bm)
  let hit (t : Nat) : Option Nat :=
    if !skip && v.statAt t == .saturated then some 0xFF
    else (brs.find? (fun h => slices.any (fun k => v.occAt k h t == .saturated)))
  let ts := grid.filter (fun t => (hit t).isSome)
  match ts with
  | [] => none
  | x :: xs =>
    let t := xs.foldl min x
    (hit t).map (fun b => (t, b))

/-- What checking one sample gave: the record, whether checking ends here, and whether the static
part was evaluated in full and passed (R199). -/
structure SampleOut where
  rec_ : VRec
  stop : Bool
  statDone : Bool
  deriving DecidableEq, Repr

/-- The grid tiles of a sample's ego cover (R166). -/
def ChiselEnv.coverTiles (v : ChiselEnv) (f32 : Bool) (p : Sample) : List Nat :=
  (unionAll ((egoBoxes v.ego f32 p).map (boxTiles v.cfg v.s0 v.d0))).filterMap (gridTile v.cfg)

/-- The static pairs of every box with their tests (R169, R172). -/
def ChiselEnv.staticTests (v : ChiselEnv) (boxes : List EBox) : List (Nat × (Bool × Bool)) :=
  (boxes.map (fun e => (v.statPairs e).filterMap (fun n =>
    (lookupKey n v.statics).map (fun q => (n, contact e (placePrim v.cfg n q)))))).flatten

/-- One sample of `verdict_of` (R174). With `skip`, its static part is treated as passing (R201). -/
def ChiselEnv.sampleStep (v : ChiselEnv) (f32 : Bool) (bm : Nat) (skip : Bool) (k : Nat) (p : Sample)
    (win : Nat × Nat) (r : VRec) : SampleOut :=
  if p.sat || p.unbound then ⟨r.lethal .geom k 0xFFFF 0xFF, true, false⟩
  else
    let boxes := egoBoxes v.ego f32 p
    let cover := unionAll (boxes.map (boxTiles v.cfg v.s0 v.d0))
    let grid := cover.filterMap (gridTile v.cfg)
    if !skip && decide (grid.length < cover.length) then
      if v.prm.truncateFar && cover.all (fun t => decide (0 ≤ t.1 ∧ t.1 < v.cfg.th ∧ 0 ≤ t.2)) then
        ⟨{ r with trunc := true, tsample := k }, true, false⟩
      else ⟨r.lethal .grid k 0xFFFF 0xFF, true, false⟩
    else if !skip && decide (v.prm.egoTmax < cover.length) then
      ⟨r.lethal .cap k 0xFFFF 0xFF, true, false⟩
    else
      let slices := windowSlices v.ns win
      match v.satTile skip slices bm grid with
      | some (t, b) => ⟨r.lethal .sattile k t b, true, false⟩
      | none =>
        if !skip && decide (v.prm.statCap < sumNat (boxes.map (fun e => (v.statPairs e).length))) then
          ⟨r.lethal .cap k 0xFFFF 0xFF, true, false⟩
        else
          let hs := openBranches bm r
          match hs.find? (fun h =>
              decide (v.prm.pairCap < sumNat (boxes.map (fun e => (v.dynPairs slices h e).length)))) with
          | some h => ⟨r.lethal .cap k 0xFFFF h, true, false⟩
          | none =>
            let tests := if skip then [] else v.staticTests boxes
            let sat := tests.any (fun x => x.2.2)
            let r := { r with sat := r.sat || sat }
            match (tests.filter (fun x => x.2.1)).map (·.1) with
            | x :: xs => ⟨r.lethal .static k (xs.foldl min x) 0xFF, true, false⟩
            | [] =>
              let o := v.branches boxes slices p.t k win hs r
              ⟨o.1, o.2, !sat⟩

/-- The samples from number `k` on, the static part of those below `kv` skipped; with the record,
how many samples from 0 without a gap have their static part known to pass (R202). -/
def ChiselEnv.samples (v : ChiselEnv) (f32 : Bool) (bm kv : Nat) (win : Nat → Nat × Nat) :
    Nat → List Sample → VRec → Nat → VRec × Nat
  | _, [], r, n => (r, n)
  | k, p :: ps, r, n =>
    let o := v.sampleStep f32 bm (decide (k < kv)) k p (win k) r
    let n := if o.statDone ∧ n = k then k + 1 else n
    if o.stop then (o.rec_, n) else v.samples f32 bm kv win (k + 1) ps o.rec_ n

/-- `verdict_of` (R174) over a candidate's samples, their SAT in the candidate's record (R42), with the leading static passes `kv` of a cache
hit (R201); with the record, the count for the cache (R202). -/
def ChiselEnv.verdictFrom (v : ChiselEnv) (f32 : Bool) (bm kv : Nat) (ps : List Sample) : VRec × Nat :=
  if (ps.head?.map (·.range)).getD true then ({ VRec.init with verdict := .void }, 0)
  else
    let r := v.samples f32 bm kv (windowOf ps) 0 ps { VRec.init with sat := ps.any (·.sat) } 0
    (r.1, max kv r.2)

/-- `verdict_of` (R174). -/
def ChiselEnv.verdictOf (v : ChiselEnv) (f32 : Bool) (bm : Nat) (ps : List Sample) : VRec :=
  (v.verdictFrom f32 bm 0 ps).1

/-- The verdict of one standalone pose (R165, R180). -/
def ChiselEnv.verdictPose (v : ChiselEnv) (f32 : Bool) (bm dts nsamp : Nat) (p : Sample) : VRec :=
  if p.range then { VRec.init with verdict := .void }
  else (v.samples f32 bm 0 (fun _ => poseWindow dts nsamp p.t) 0 [p] VRec.init 0).1

/-! ### Records in memory (R176, R182) -/

/-- VERDICT's code (R176). -/
def Verdict.code : Verdict → Nat
  | .free => 0 | .mass => 1 | .static => 2 | .sattile => 3
  | .grid => 4 | .cap => 5 | .geom => 6 | .void => 7

/-- VERDICT from its code (R176). -/
def Verdict.ofCode (n : Nat) : Verdict :=
  if n = 0 then .free else if n = 1 then .mass else if n = 2 then .static
  else if n = 3 then .sattile else if n = 4 then .grid else if n = 5 then .cap
  else if n = 6 then .geom else .void

/-- VERDICT 0x1 to 0x6 (R182). -/
def Verdict.isLethal (v : Verdict) : Bool := v != .free && v != .void

/-- The 64-byte verdict record of a candidate (R176). -/
def VRec.bytes (cand : Nat) (r : VRec) : List Byte :=
  leBytes 4 cand
  ++ leBytes 1 (r.verdict.code + 16 * boolNat r.trunc + 32 * boolNat r.sat)
  ++ leBytes 1 r.bmask ++ leBytes 2 r.sample ++ leBytes 2 r.obj ++ leBytes 2 r.branch
  ++ leBytes 4 r.lmass ++ leBytes 4 r.tsample
  ++ (r.fhs.map (leBytes 2)).flatten ++ (r.fho.map (leBytes 2)).flatten ++ zeroBytes 12

/-- A verdict record read back (R176). -/
def VRec.ofBytes (b : List Byte) : VRec :=
  let f := getLe b 4 1
  ⟨Verdict.ofCode (f % 16), getLe b 6 2, getLe b 8 2, getLe b 10 1, getLe b 5 1, getLe b 12 4 % 2 ^ 19,
   bitAt f 4, getLe b 16 2, bitAt f 5,
   (List.range 8).map (fun h => getLe b (20 + 2 * h) 2),
   (List.range 8).map (fun h => getLe b (36 + 2 * h) 2)⟩

/-- SAT arose at a sample before the one that decides the verdict `r`: a flag of an earlier ECLK (R177). -/
def ChiselEnv.satBefore (v : ChiselEnv) (f32 : Bool) (bm : Nat) (ps : List Sample) (r : VRec) : Bool :=
  let k := if r.verdict.isLethal then r.sample else if r.trunc then r.tsample else ps.length - 1
  (v.samples f32 bm 0 (windowOf ps) 0 (ps.take k) VRec.init 0).1.sat

/-- The 16-byte result of a CE command (R182); `cont` says that lanes go on after HIT, to END (R179), `fault` is
the FAULT flag. -/
def chiselResult (rs : List VRec) (cont fault : Bool) : List Byte :=
  let cnt (p : VRec → Bool) : Nat := (rs.filter p).length
  leBytes 2 rs.length ++ leBytes 2 (cnt (fun r => r.verdict.isLethal))
  ++ leBytes 2 (cnt (fun r => r.verdict == .cap || r.verdict == .sattile))
  ++ leBytes 2 (cnt (fun r => r.trunc))
  ++ leBytes 8 (maskOf [rs.any (·.sat), rs.any (fun r => r.verdict.isLethal), rs.any (·.trunc),
      rs.any (fun r => (cont || !r.verdict.isLethal) && !r.trunc), fault])

end Sys2Proof.Machine
end

