-- ==== Sys2Proof/Machine/Pose.lean ====
section
/-!
DEFINITION. Candidate generation in the pose engine (R126 to R142, R149, R155 to R157): ego-state
bins, the lattice library, expansion, the swept-motion bound, station sequences and profiles.
-/
namespace Sys2Proof.Machine

open Sys2Proof

/-! ### The library (R133 to R135) -/

/-- The library header (R133). -/
structure LibHdr where
  nsamp : Nat
  dts : Nat
  step : Int
  nstn : Nat
  nd : Nat
  nsb : Nat
  nkb : Nat
  nab1 : Nat
  nab2 : Nat
  spanmax : Nat
  npath : Nat
  nq : Nat
  npathSl : Nat
  nqSl : Nat
  thOff : Nat
  pathOff : Nat
  profOff : Nat
  slPathOff : Nat
  slProfOff : Nat
  rsv : Bool
  deriving DecidableEq, Repr

/-- The header of a library section's bytes (R133). -/
def LibHdr.ofBytes (b : List Byte) : LibHdr :=
  ⟨getLe b 0 2, getLe b 2 2, getLe b 4 4, getLe b 8 2, getLe b 10 1, getLe b 11 1, getLe b 12 1,
   getLe b 13 1, getLe b 14 1, getLe b 15 1, getLe b 16 4, getLe b 20 2, getLe b 22 2, getLe b 24 2,
   getLe b 32 8, getLe b 40 8, getLe b 48 8, getLe b 56 8, getLe b 64 8,
   getLe b 26 6 != 0 || getLe b 72 56 != 0⟩

/-- A station record (R134). -/
structure Station where
  x : Int
  y : Int
  psi : Nat
  art1 : Nat
  art2 : Nat
  kappa : Int
  dkds : Int
  tv : List Nat
  deriving DecidableEq, Repr

/-- A station from its 24 bytes (R134). -/
def Station.ofBytes (b : List Byte) : Station :=
  ⟨getSle b 0 4, getSle b 4 4, getLe b 8 2, getLe b 10 2, getLe b 12 2, getSle b 14 2, getSle b 16 2,
   [getLe b 18 2, getLe b 20 2, getLe b 22 2]⟩

/-- The 24 bytes of a station (R134). -/
def Station.bytes (s : Station) : List Byte :=
  leBytes 4 (code 32 s.x) ++ leBytes 4 (code 32 s.y) ++ leBytes 2 s.psi ++ leBytes 2 s.art1
  ++ leBytes 2 s.art2 ++ leBytes 2 (code 16 s.kappa) ++ leBytes 2 (code 16 s.dkds)
  ++ leBytes 2 (nth 0 s.tv 0) ++ leBytes 2 (nth 0 s.tv 1) ++ leBytes 2 (nth 0 s.tv 2)

/-- A profile entry (R135). -/
structure ProfEntry where
  s : Nat
  v : Int
  acc : Int
  deriving DecidableEq, Repr

/-- A profile entry from its 8 bytes (R135). -/
def ProfEntry.ofBytes (b : List Byte) : ProfEntry := ⟨getLe b 0 4, getSle b 4 2, getSle b 6 2⟩

/-- The 8 bytes of a profile entry (R135). -/
def ProfEntry.bytes (p : ProfEntry) : List Byte :=
  leBytes 4 p.s ++ leBytes 2 (code 16 p.v) ++ leBytes 2 (code 16 p.acc)

/-- A path: KIND, DECL, SAG and its stations (R134). -/
structure LibPath where
  kind : Nat
  decl : Nat
  sag : Int
  rsv : Bool
  stns : List Station
  deriving DecidableEq, Repr

/-- Rounded up to a multiple of 64. -/
def up64 (n : Nat) : Nat := (n + 63) / 64 * 64

/-- The bytes from an offset on. -/
def sliceAt (b : List Byte) (off n : Nat) : List Byte := (b.drop off).take n

/-- Path number `i` of the path set at `off` (R133, R134). -/
def libPath (lib : List Byte) (h : LibHdr) (off i : Nat) : LibPath :=
  let sz := 16 + 24 * h.nstn
  let b := sliceAt lib (off + i * up64 sz) sz
  ⟨getLe b 0 1, getLe b 1 1 % 16, getLe b 2 2, getLe b 1 1 / 16 != 0 || getLe b 4 12 != 0,
   (records 24 h.nstn (b.drop 16)).map Station.ofBytes⟩

/-- Profile number `i` of the profile set at `off` (R133, R135). -/
def libProfile (lib : List Byte) (h : LibHdr) (off i : Nat) : List ProfEntry :=
  (records 8 h.nsamp (sliceAt lib (off + i * (8 * h.nsamp)) (8 * h.nsamp))).map ProfEntry.ofBytes

/-- A threshold table of `n` i32 from entry `skip` of the tables (R131, R133). -/
def libThresholds (lib : List Byte) (h : LibHdr) (skip n : Nat) : List Int :=
  (List.range n).map (fun i => getSle lib (h.thOff + 4 * (skip + i)) 4)

/-- SPD_TH, KAP_TH, ART1_TH, ART2_TH (R133). -/
def libTables (lib : List Byte) (h : LibHdr) : List (List Int) :=
  let a := h.nsb - 1
  let b := h.nkb - 1
  let c := h.nab1 - 1
  let d := h.nab2 - 1
  [libThresholds lib h 0 a, libThresholds lib h a b, libThresholds lib h (a + b) c,
   libThresholds lib h (a + b + c) d]

/-- `bin_of` (R131). -/
def binOf (v : Int) (th : List Int) : Nat :=
  th.zipIdx.foldl (fun b p => if p.1 ≤ v then p.2 + 1 else b) 0

/-- The magnitude of a V16 with 0x8000 taken as 0x7FFF (R131). -/
def speedMag (v : Int) : Int := min (iabs v) 0x7FFF

/-- The bins of an ego state: speed bin and geometric bin (R131). -/
def egoBins (lib : List Byte) (h : LibHdr) (e : Ego) : Nat × Nat :=
  let ts := libTables lib h
  let sb := binOf (speedMag e.speed) (nth [] ts 0)
  let kb := binOf e.curv (nth [] ts 1)
  let a1 := binOf (signed 16 e.art1) (nth [] ts 2)
  let a2 := binOf (signed 16 e.art2) (nth [] ts 3)
  (sb, ((boolNat e.reverse * h.nkb + kb) * h.nab1 + a1) * h.nab2 + a2)

/-- The ego state lies outside the image's articulation limits (R132). -/
def egoLimit (ego : List EgoBody) (e : Ego) : Bool :=
  let wide (k : Nat) (a : Nat) : Bool :=
    match ego[k]? with
    | some b => decide (b.artMax < (signed 16 a).natAbs)
    | none => false
  wide 1 e.art1 || wide 2 e.art2

/-! ### The swept-motion bound (R138 to R140) -/

/-- RHO of a body (R138). -/
def bodyRho (b : EgoBody) : Int :=
  b.boxes.foldl (fun m x => max m (iabs x.cx + iabs x.cy + x.hl + x.hw)) 0

/-- HITCH_X, 0 for the last body (R138). -/
def hitchOf (ego : List EgoBody) (b : Nat) : Int :=
  if b + 1 < ego.length then (ego[b]?.map (·.hitchX)).getD 0 else 0

/-- A body's bounds across and along its axis, with SAT where a quantity of their computation left the
i64 range (R47, R138). -/
structure BoundXY where
  /-- bx. -/
  x : Int
  /-- by. -/
  y : Int
  /-- A quantity saturated. -/
  sat : Bool
  deriving DecidableEq, Repr

/-- The larger of two bounds, field by field; SAT is sticky (R42). -/
def BoundXY.max (p q : BoundXY) : BoundXY := ⟨Max.max p.x q.x, Max.max p.y q.y, p.sat || q.sat⟩

/-- No bound. -/
def BoundXY.zero : BoundXY := ⟨0, 0, false⟩

/-- The bodies of `half_bound` from body `b`, with al, la and SAT carried along (R47, R138). -/
def halfBoundFrom (ego : List EgoBody) (tv : List Int) (art : List Nat) (pad : Int) :
    Nat → List EgoBody → Int → Int → Bool → List BoundXY
  | _, [], _, _, _ => []
  | b, e :: es, al, la, sat =>
    let th := iabs (signed 16 (nth 0 art b))
    let u := angSat th la
    let v := angSat th al
    let (al, la, sat) := if b = 0 then (al, la, sat) else (al + u.val, la + v.val, sat || u.sat || v.sat)
    let t := nth 0 tv b
    let r := angSat t (bodyRho e)
    let h := angSat t (iabs (hitchOf ego b))
    ⟨al + r.val + pad, la + r.val + pad, sat || r.sat⟩
      :: halfBoundFrom ego tv art pad (b + 1) es (al + h.val) (la + h.val) (sat || h.sat)

/-- `half_bound` (R138): the bounds per body. -/
def halfBound (ego : List EgoBody) (sag a : Int) (tv : List Int) (art : List Nat) : List BoundXY :=
  let rhoMax := (ego.map bodyRho).foldl max 0
  let p := satI64 ((a + rhoMax) * epsT)
  let la := angSat (nth 0 tv 0) a
  halfBoundFrom ego tv art (sag + 2 + shrCeil p.val 30) 0 ego a la.val (p.sat || la.sat)

/-- The stations of an interval (R139): the first and how many, its span. -/
def spanOf (step : Int) (s0 s1 : Int) : Nat × Nat :=
  if s1 = s0 then ((s0 / step).toNat, 0)
  else ((s0 / step).toNat, ((divCeil s1 step) - s0 / step).toNat)

/-- tv[b] of an interval (R139). -/
def intervalTv (stns : List Station) (step s0 s1 : Int) : List Int :=
  let (i, n) := spanOf step s0 s1
  let ss := (stns.drop i).take n
  (List.range 3).map (fun b => sumInt (ss.map (fun s => ((nth 0 s.tv b : Nat) : Int))))

/-- The arc of a half-interval: library paths, or sequences built on the device (R139). -/
def halfArc (built : Bool) (s0 s1 : Int) : Int :=
  let d := s1 - s0
  if built then divCeil (d + (d + 7) / 8) 2 else divCeil d 2

/-- A bound stored as u16, with UNBOUND (R140). -/
def storeBound (x : Int) : Nat × Bool := if 0xFFFE < x then (0xFFFF, true) else (x.toNat, false)

/-! ### Expansion (R136, R139, R156) -/

/-- Where a sequence of stations is placed: the start pose, and whether the stations already are in
the route frame (R136, R141). -/
structure SeqFrame where
  x : Int
  y : Int
  psi : Nat
  built : Bool
  sag : Int
  reverse : Bool

/-- A path with its profile, ready to expand. -/
structure SeqIn where
  frame : SeqFrame
  step : Int
  stns : List Station
  prof : List ProfEntry
  dts : Nat

/-- Linear interpolation rounded down (R136). -/
def lerp (a b f step : Int) : Int := a + (b - a) * f / step

/-- Interpolation of A16 angles by the shorter arc (R136). -/
def lerpA16 (a b : Nat) (f step : Int) : Nat := wrapA16 ((a : Int) + diffA16 b a * f / step)

/-- Sample `k` of a sequence without its sweep bounds; none beyond the path (R136). With it, the
articulation angles of the sample. -/
def expandSample (ego : List EgoBody) (q : SeqIn) (k : Nat) : Option (Sample × List Nat) := do
  let e ← q.prof[k]?
  let s : Int := e.s
  let i := (s / q.step).toNat
  let f := s % q.step
  let a ← q.stns[i]?
  let b ← if f = 0 then some a else q.stns[i + 1]?
  let px := lerp a.x b.x f q.step
  let py := lerp a.y b.y f q.step
  let r0 := lerpA16 a.psi b.psi f q.step
  let t1 := lerpA16 a.art1 b.art1 f q.step
  let t2 := lerpA16 a.art2 b.art2 f q.step
  let kap := lerp a.kappa b.kappa f q.step
  let r := if q.frame.built then (px, py) else rotRound px py q.frame.psi
  let x0 := satP32 (if q.frame.built then r.1 else q.frame.x + r.1)
  let y0 := satP32 (if q.frame.built then r.2 else q.frame.y + r.2)
  let h0 := if q.frame.built then r0 else wrapA16 ((q.frame.psi : Int) + r0)
  let h1 := wrapA16 ((h0 : Int) - t1)
  let h2 := wrapA16 ((h1 : Int) - t2)
  let next (b : Nat) (x y : Int) (h : Nat) : Sat × Sat :=
    let (co, si) := trig h
    (satP32 (x + shrFloor (hitchOf ego b * co + 2 ^ 29) 30),
     satP32 (y + shrFloor (hitchOf ego b * si + 2 ^ 29) 30))
  let p1 := next 0 x0.val y0.val h0
  let p2 := next 1 p1.1.val p1.2.val h1
  let two := 2 ≤ ego.length
  let three := 3 ≤ ego.length
  let vs := if q.frame.reverse then satI16 (-e.v) else ⟨e.v, false⟩
  let v := vs.val
  let kd := satI16 (shrFloor (a.dkds * v + 2 ^ 11) 12)
  let sat := x0.sat || y0.sat || vs.sat || kd.sat || (two && (p1.1.sat || p1.2.sat))
    || (three && (p2.1.sat || p2.2.sat))
  return (⟨[⟨x0.val, y0.val, h0, 0, 0⟩,
            if two then ⟨p1.1.val, p1.2.val, h1, 0, 0⟩ else noBody,
            if three then ⟨p2.1.val, p2.2.val, h2, 0, 0⟩ else noBody],
           k * q.dts, v, e.acc, kap, kd.val, sat, false, false⟩, [0, t1, t2])

/-- The bounds of sample `k` from its two half-intervals (R139). -/
def sampleBounds (ego : List EgoBody) (q : SeqIn) (k : Nat) (art : List Nat) : List BoundXY :=
  let half (i j : Nat) : List BoundXY :=
    match q.prof[i]?, q.prof[j]? with
    | some a, some b =>
      halfBound ego q.frame.sag (halfArc q.frame.built a.s b.s)
        (intervalTv q.stns q.step a.s b.s) art
    | _, _ => []
  let fwd := half k (k + 1)
  let back := if k = 0 then [] else half (k - 1) k
  (List.range 3).map (fun b => (nth .zero fwd b).max (nth .zero back b))

/-- A sample with the bounds of its bodies stored, UNBOUND and SAT with them (R47, R140). -/
def Sample.withBounds (p : Sample) (nbody : Nat) (bs : List BoundXY) : Sample :=
  let bs := bs.take nbody
  { p with
    bodies := p.bodies.zipIdx.map (fun e => match bs[e.2]? with
      | some b => { e.1 with bx := (storeBound b.x).1, by_ := (storeBound b.y).1 }
      | none => e.1)
    unbound := bs.any (fun b => (storeBound b.x).2 || (storeBound b.y).2)
    sat := p.sat || bs.any (·.sat) }

/-- Sample `k` with its bounds (R136 to R140). -/
def fullSample (ego : List EgoBody) (q : SeqIn) (k : Nat) : Option Sample := do
  let (p, art) ← expandSample ego q k
  return p.withBounds ego.length (sampleBounds ego q k art)

/-- The record that stands for a void or RANGE candidate: RANGE in sample 0 (R156). -/
def voidSample : Sample := ⟨[noBody, noBody, noBody], 0, 0, 0, 0, 0, false, true, false⟩

/-- All samples of a sequence, or the void record (R136, R156). -/
def expandSeq (ego : List EgoBody) (nsamp : Nat) (q : SeqIn) : List Sample :=
  match (List.range nsamp).mapM (fullSample ego q) with
  | some ps => ps
  | none => [voidSample]

/-- A void candidate. -/
def isVoid (ps : List Sample) : Bool := (ps.head?.map (·.range)).getD true

/-- A path of a geometric bin with a profile of a speed bin, expanded from the ego's pose (R136). -/
def expandBin (lib : List Byte) (h : LibHdr) (ego : List EgoBody) (e : Ego) (sl : Bool) (sb g p q : Nat) : List Sample :=
  let np := if sl then h.npathSl else h.npath
  let nq := if sl then h.nqSl else h.nq
  let po := if sl then h.slPathOff else h.pathOff
  let qo := if sl then h.slProfOff else h.profOff
  if e.reverse ∧ h.nd = 1 then [voidSample]
  else if np ≤ p then [voidSample]
  else
    let path := libPath lib h po (g * np + p)
    if path.kind = 0 then [voidSample]
    else expandSeq ego h.nsamp
      ⟨⟨e.x, e.y, e.heading, false, path.sag, e.reverse⟩, h.step, path.stns,
       libProfile lib h qo (sb * nq + q), h.dts⟩

/-- `expand_lib` for a whole candidate of ordinal `l` (R136); `sl` for the safelight section. -/
def expandLib (lib : List Byte) (h : LibHdr) (ego : List EgoBody) (e : Ego) (sl : Bool) (l : Nat) :
    List Sample :=
  let (sb, g) := egoBins lib h e
  let nq := if sl then h.nqSl else h.nq
  expandBin lib h ego e sl sb g (l / nq) (l % nq)

/-! ### Station sequences built on the device (R141, R142) -/

/-- The sum of two i64 products, each product and the sum an intermediate that saturates (R47; log entry
112). -/
def mac64 (a b c d : Int) : Sat :=
  let p := satI64 (a * b)
  let q := satI64 (c * d)
  let r := satI64 (p.val + q.val)
  ⟨r.val, p.sat || q.sat || r.sat⟩

/-- The running values of `trailer_step`: a, b, the heading steps so far, SAT (R47, R141). -/
structure TrailerSt where
  a : Int
  b : Int
  d : List Int
  sat : Bool

/-- Body `k` of `trailer_step` (R141). -/
def trailerBody (ego : List EgoBody) (step : Int) (psi : List Nat) (st : TrailerSt) (k : Nat) : TrailerSt :=
  let (co, si) := trig (code 16 (diffA16 (nth 0 psi (k - 1)) (nth 0 psi k)))
  let u := mac64 st.a si st.b co
  let v := mac64 st.a co (-st.b) si
  let lat := shrFloor u.val 30
  let len := -((ego[k]?.map (·.axleX)).getD (-1))
  let w := satI64 (lat * hitchOf ego k)
  let b := satI64 (lat + w.val / len)
  ⟨shrFloor v.val 30, b.val, st.d ++ [signed 16 (code 16 (lat * step * 683565276 / (len * 2 ^ 46)))],
   st.sat || u.sat || v.sat || w.sat || b.sat⟩

/-- `trailer_step` (R141): the headings after one station interval, and SAT. -/
def trailerStep (ego : List EgoBody) (step : Int) (psi : List Nat) (dpsi0 kap0 : Int) : List Nat × Bool :=
  let go := (List.range (ego.length - 1)).foldl (fun st i => trailerBody ego step psi st (i + 1))
    ⟨2 ^ 30, hitchOf ego 0 * kap0 * 4, [], false⟩
  (psi.zipIdx.map (fun p =>
    if p.2 = 0 then wrapA16 ((p.1 : Int) + dpsi0)
    else wrapA16 ((p.1 : Int) + nth 0 go.d (p.2 - 1))), go.sat)

/-- The headings of every body at every station, each with the SAT of the step to it (R141). -/
def trailerHeadings (ego : List EgoBody) (step : Int) : List Nat × Bool → List (Nat × Int) → List (List Nat × Bool)
  | psi, [] => [psi]
  | psi, [_] => [psi]
  | psi, (h, k) :: (h', k') :: r =>
    psi :: trailerHeadings ego step (trailerStep ego step psi.1 (diffA16 h' h) k) ((h', k') :: r)

/-- The headings of a sequence of (X, Y, PSI0, KAPPA), integrated from the ego's articulation (R141). -/
def rawHeadings (ego : List EgoBody) (step : Int) (e : Ego) (raw : List (Int × Int × Nat × Int)) :
    List (List Nat × Bool) :=
  let p0 : Nat := (raw.head?.map (fun r => r.2.2.1)).getD 0
  let p1 := wrapA16 ((p0 : Int) - e.art1)
  let p2 := wrapA16 ((p1 : Int) - e.art2)
  trailerHeadings ego step ([p0, p1, p2].take ego.length, false) (raw.map (fun r => (r.2.2.1, r.2.2.2)))

/-- A full station sequence from (X, Y, PSI0, KAPPA) at each station: trailer headings integrated
from the ego's articulation, DKDS and TV (R141). -/
def finishStations (ego : List EgoBody) (step : Int) (e : Ego)
    (raw : List (Int × Int × Nat × Int)) : List Station :=
  let hs := (rawHeadings ego step e raw).map (·.1)
  raw.zipIdx.map (fun r =>
    let j := r.2
    let h := nth [] hs j
    let hn := if j + 1 < raw.length then nth [] hs (j + 1) else h
    let kn := ((raw[j + 1]?).map (fun x => x.2.2.2)).getD r.1.2.2.2
    let art (b : Nat) : Nat :=
      if b < ego.length then code 16 (diffA16 (nth 0 h (b - 1)) (nth 0 h b)) else 0
    { x := r.1.1, y := r.1.2.1, psi := r.1.2.2.1, art1 := art 1, art2 := art 2,
      kappa := r.1.2.2.2,
      dkds := (satI16 ((kn - r.1.2.2.2) * 2 ^ 16 / step)).val,
      tv := (List.range 3).map (fun b => (diffA16 (nth 0 hn b) (nth 0 h b)).natAbs) })

/-- The tests of R142 on a built sequence. -/
def stationsInBand (step : Int) (ss : List Station) : Bool :=
  ss.all (fun s => (signed 16 s.psi).natAbs ≤ 0x1000)
  && (ss.zip ss.tail).all (fun p => decide (iabs (p.2.y - p.1.y) * 128 ≤ 53 * step))

/-! ### Commands and results (R155, R157) -/

/-- A PE command's fields (R155). -/
structure PeCmd where
  op : Nat
  section_ : Bool
  mode : Bool
  slots : Nat
  count : Nat
  first : Nat
  ord : Nat
  inOff : Nat
  outOff : Nat
  resultOff : Nat
  rsv : Bool
  deriving DecidableEq, Repr

/-- A PE command word decoded (R155). -/
def PeCmd.ofWord (w : Nat) : PeCmd :=
  ⟨field w 0 4, bitAt w 4, bitAt w 5, field w 8 7, field w 16 11, field w 32 32, field w 64 20,
   field w 84 13, field w 97 13, field w 110 12,
   field w 6 2 != 0 || bitAt w 15 || field w 27 5 != 0 || field w 122 6 != 0⟩

/-- Bytes of a station sequence with its profile behind it (log entry 22). -/
def seqStride (nstn nsamp : Nat) : Nat := up64 (24 * nstn) + up64 (8 * nsamp)

/-- The number of bytes an entry of a path list takes: the node count and up to 1,039 nodes (log
entry 23). -/
def pathStride : Nat := 4160

/-- The bytes that a PE command reads at IN_OFF (R155, R156): sequences, a node list or raw stations with their
profile. -/
def PeCmd.inSize (d : PeCmd) (nsamp nstn : Nat) : Nat :=
  if d.op = 2 then d.count * seqStride nstn nsamp
  else if d.op = 3 then (if d.mode then seqStride d.count nsamp else pathStride) else 0

/-- The bytes that a PE command writes at OUT_OFF (R155, R156): the ring, a sequence with its profile, or the
path list. -/
def PeCmd.outSize (d : PeCmd) (nsamp : Nat) : Nat :=
  if d.op = 1 ∨ d.op = 2 then d.slots * nsamp * 64
  else if d.op = 3 then seqStride d.count nsamp else d.count * pathStride

/-- The field and region rules of R155 on one PE command. -/
def PeCmd.ok (nsamp nstn : Nat) (d : PeCmd) : Bool :=
  let expand := d.op == 1 || d.op == 2
  1 ≤ d.op && d.op ≤ 4 && !d.rsv
  && (d.op == 1 || !d.section_) && (d.op == 3 || !d.mode)
  && (if expand then decide (2 ≤ d.slots ∧ d.slots ≤ 64) else d.slots == 0)
  && (if d.op = 3 then decide (2 ≤ d.count) else decide (1 ≤ d.count)) && d.count ≤ 1024
  && (d.op != 4 || d.first == 0) && (d.op != 1 || d.inOff == 0)
  && d.outOff * 64 + d.outSize nsamp ≤ 512 * 1024 && d.inOff * 64 + d.inSize nsamp nstn ≤ 512 * 1024

/-- The 16-byte result of a PE command (R157). -/
def peResult (done voids unbound window : Nat) (sat range fault : Bool) : List Byte :=
  leBytes 2 (min done 0xFFFF) ++ leBytes 2 (min voids 0xFFFF) ++ leBytes 2 (min unbound 0xFFFF)
  ++ leBytes 2 window ++ leBytes 8 (maskOf [sat, range, fault])

/-- The counts and flags of expanded candidates (R157). DESIGN CHOICE: DONE counts void candidates too (log entry
117). -/
def expandResult (cs : List (List Sample)) (fault : Bool) : List Byte :=
  let voids := (cs.filter isVoid).length
  let ub := sumNat (cs.map (fun ps => (ps.filter (·.unbound)).length))
  peResult cs.length voids ub 0 (cs.any (fun ps => ps.any (·.sat))) (voids != 0) fault

end Sys2Proof.Machine
end

