-- ==== Sys2Proof/Machine/Roadmap.lean ====
section
/-!
DEFINITION. The sampling roadmap (R143 to R149): nodes, edges, the window search, and the stations
and profile of a roadmap path.
-/
namespace Sys2Proof.Machine

open Sys2Proof

/-- The image's roadmap parameters (ROADMAP_CFG; RM_WLEN is patchable). -/
structure RmParams where
  seed : Nat
  hband : Nat
  wh : Nat
  wv : Nat
  dsMin : Int
  dsMax : Int
  amax : Nat
  entry : Nat
  win : Nat
  reach : Int
  deriving DecidableEq, Repr

/-- The limits on the roadmap parameters (ahead of R143). -/
def RmParams.ok (p : RmParams) : Bool :=
  p.seed < 2 ^ 64 && p.hband ≤ 0x1000 && p.wh < 2 ^ 16 && p.wv < 2 ^ 16
  && decide (0x1000 ≤ p.dsMin ∧ p.dsMin ≤ p.dsMax ∧ p.dsMax ≤ 0x40000)
  && decide (1 ≤ p.amax ∧ p.amax ≤ 2560) && decide (1 ≤ p.entry ∧ p.entry ≤ 32)
  && decide (1024 ≤ p.win ∧ p.win ≤ 65536) && decide (0x40000 ≤ p.reach ∧ p.reach ≤ 0x400000)

/-- The region a ROADMAP_GROW with RESET sets. -/
structure RmRegion where
  s0 : Int
  spanS : Nat
  d0 : Int
  spanD : Nat
  vLo : Int
  vHi : Int
  deriving DecidableEq, Repr

/-- A node or the ego's state (R143, R144). -/
structure RmNode where
  s : Int
  d : Int
  h : Nat
  v : Int
  deriving DecidableEq, Repr

/-- `mix64` (R143). -/
def mix64 (z : Nat) : Nat :=
  let z := (z ^^^ (z / 2 ^ 30)) * 0xBF58476D1CE4E5B9 % 2 ^ 64
  let z := (z ^^^ (z / 2 ^ 27)) * 0x94D049BB133111EB % 2 ^ 64
  z ^^^ (z / 2 ^ 31)

/-- `rm_node` (R143); its positions saturate (R41). No work item forms a node: its SAT is kept nowhere (log
entry 111). -/
def rmNode (p : RmParams) (r : RmRegion) (n : Nat) : RmNode :=
  let u := mix64 (p.seed ^^^ (n * 0x9E3779B97F4A7C15 % 2 ^ 64))
  let v := mix64 ((u + 0x6A09E667F3BCC909) % 2 ^ 64)
  ⟨(satP32 (r.s0 + (field u 0 32 * r.spanS / 2 ^ 32 : Nat))).val,
   (satP32 (r.d0 + (field u 32 32 * r.spanD / 2 ^ 32 : Nat))).val,
   wrapA16 ((field v 0 16 * (2 * p.hband + 1) / 2 ^ 16 : Nat) - (p.hband : Int)),
   r.vLo + (field v 16 16 * (r.vHi - r.vLo + 1).toNat / 2 ^ 16 : Nat)⟩

/-- The region's limits (R143). -/
def RmRegion.ok (r : RmRegion) : Bool :=
  decide (1 ≤ r.spanS ∧ r.spanS ≤ 2 ^ 30 ∧ 1 ≤ r.spanD ∧ r.spanD ≤ 2 ^ 30
    ∧ 1 ≤ r.vLo ∧ r.vLo ≤ r.vHi ∧ r.vHi ≤ 0x7FFF)

/-- `slope_q30` (R144), rounded towards minus infinity; a cosine of 0 leaves it free (log entry 110). -/
def slopeQ30 (h : Nat) : Int :=
  let (co, si) := trig h
  if co = 0 then signed 64 (Config.steepSlope h).toNat else Int.fdiv (si * 2 ^ 30) co

/-- A and B of an edge's cubic (R144). -/
def edgeCubic (n m : RmNode) : Int × Int × Int × Int :=
  let ds := m.s - n.s
  let dd := m.d - n.d
  let m0 := slopeQ30 n.h
  let m1 := slopeQ30 m.h
  (3 * dd * 2 ^ 30 - (2 * m0 + m1) * ds, (m0 + m1) * ds - 2 * dd * 2 ^ 30, m0, m1)

/-- `edge_ok` (R144). -/
def edgeOk (p : RmParams) (kappaMax : Int) (n m : RmNode) : Bool :=
  let ds := m.s - n.s
  let tb := slopeQ30 p.hband
  let (a, b, m0, m1) := edgeCubic n m
  let lim := 2 * kappaMax * ds * ds
  let sg : Int := if 0 < b then 1 else -1
  decide (p.dsMin ≤ ds ∧ ds ≤ p.dsMax)
  && decide (iabs a ≤ lim) && decide (iabs (a + 3 * b) ≤ lim)
  && decide (iabs m0 ≤ tb ∧ iabs m1 ≤ tb)
  && (!(decide (b ≠ 0) && decide (0 < -a * sg ∧ -a * sg < 3 * iabs b))
      || decide (iabs (3 * b * ds * m0 - a * a) ≤ tb * iabs (3 * b * ds)))
  && decide (iabs (m.v * m.v - n.v * n.v) * 16 ≤ 2 * (p.amax : Int) * ds)

/-- `dist` (R145). -/
def rmDist (p : RmParams) (n m : RmNode) : Int :=
  iabs (m.s - n.s) + iabs (m.d - n.d)
  + ((p.wh : Int) * iabs (diffA16 m.h n.h)) / 256 + ((p.wv : Int) * iabs (m.v - n.v)) / 256

/-- The `k` nodes smallest by (distance, number) among those given. -/
def nearest (k : Nat) (xs : List (Int × Nat)) : List Nat :=
  ((sortBy (fun a b => decide (a.1 < b.1 ∨ (a.1 = b.1 ∧ a.2 ≤ b.2))) xs).take k).map (·.2)

/-- The edge set of node `n` in a roadmap of `cnt` nodes (R145). -/
def edgeSet (p : RmParams) (r : RmRegion) (kappaMax : Int) (cnt n : Nat) : List Nat :=
  let a := rmNode p r n
  nearest 12 (((List.range cnt).filter (fun m => m != n && edgeOk p kappaMax a (rmNode p r m))).map
    (fun m => (rmDist p a (rmNode p r m), m)))

/-- The ego as a roadmap state (R147). -/
def egoNode (e : Ego) : RmNode := ⟨e.x, e.y, e.heading, speedMag e.speed⟩

/-- |SPEED| saturates: SPEED is the most negative code (R41). -/
def speedSat (e : Ego) : Bool := decide (e.speed = -0x8000)

/-- The search window: nodes in ascending (s, n), at most RM_WIN (R147). -/
def rmWindow (p : RmParams) (r : RmRegion) (cnt : Nat) (xe : Int) : List Nat :=
  let ns := ((List.range cnt).map (fun n => ((rmNode p r n).s, n))).filter
    (fun x => decide (xe < x.1 ∧ x.1 ≤ xe + p.reach))
  nearest p.win ns

/-- A node's result in the search: cost and predecessor, none for the ego (R147), and the SAT of the sums
formed for it (R43). -/
structure RmCost where
  node : Nat
  cost : Nat
  pred : Option (Option Nat)
  sat : Bool
  deriving DecidableEq, Repr

/-- The goal of a search, from the PLAN_CYCLE descriptor (R147). -/
structure RmGoal where
  s : Int
  dLo : Int
  dHi : Int
  deriving DecidableEq, Repr

/-- One relaxation of node `m` from a predecessor (R147). Ids order the ego below every node. -/
def rmRelax (cur : RmCost) (p : Option Nat) (costP es len : Nat) : RmCost :=
  if es = c24Lethal ∨ costP = c24Lethal then cur
  else
    let a := addC24 costP es
    let b := addC24 a.val.toNat len
    let c := b.val.toNat
    let cur := { cur with sat := cur.sat || a.sat || b.sat }
    let idOf (x : Option Nat) : Int := match x with
      | none => -1
      | some n => n
    let better := match cur.pred with
      | none => decide (c < cur.cost)
      | some q => decide (c < cur.cost) || (c == cur.cost && decide (idOf p < idOf q))
    if better then { cur with cost := c, pred := some p } else cur

/-- The search over the window in ascending (s, n) (R147). `estat` is the cached static cost of an
edge; `wlen` is RM_WLEN. -/
def rmSearch (p : RmParams) (r : RmRegion) (kappaMax : Int) (cnt wlen : Nat)
    (estat : Nat → Nat → Nat) (e : Ego) : List RmCost :=
  let win := rmWindow p r cnt e.x
  let en := egoNode e
  let entry := nearest p.entry ((win.filter (fun m => edgeOk p kappaMax en (rmNode p r m))).map
    (fun m => (rmDist p en (rmNode p r m), m)))
  let edges := win.map (fun n => (n, edgeSet p r kappaMax cnt n))
  let lenOf (a b : RmNode) : Nat := ((b.s - a.s).toNat * wlen) / 2 ^ 16
  win.foldl (fun (done : List RmCost) m =>
    let mn := rmNode p r m
    let c0 : RmCost := ⟨m, c24Lethal, none, false⟩
    let c1 := if entry.contains m then rmRelax c0 none 0 0 (lenOf en mn) else c0
    let c2 := done.foldl (fun c q =>
      if ((lookupKey q.node edges).getD []).contains m then
        rmRelax c (some q.node) q.cost (estat q.node m) (lenOf (rmNode p r q.node) mn)
      else c) c1
    done ++ [c2]) []

/-- The goal nodes in rank order (R147). -/
def rmGoals (p : RmParams) (r : RmRegion) (g : RmGoal) (cs : List RmCost) : List Nat :=
  let ok := cs.filter (fun c =>
    let n := rmNode p r c.node
    decide (g.s ≤ n.s ∧ g.dLo ≤ n.d ∧ n.d ≤ g.dHi) && c.cost != c24Lethal)
  (sortBy (fun (a b : RmCost) => decide (a.cost < b.cost ∨ (a.cost = b.cost ∧ a.node ≤ b.node))) ok).map
    (·.node)

/-- The nodes from the ego to `n`, traced back through pred (R147). -/
def rmTrace (cs : List RmCost) : Nat → Nat → List Nat → List Nat
  | 0, _, acc => acc
  | f + 1, n, acc =>
    match cs.find? (fun c => c.node == n) with
    | some c => match c.pred with
      | some (some q) => rmTrace cs f q (n :: acc)
      | _ => n :: acc
    | none => n :: acc

/-- ROADMAP ordinal `k`'s path, none when fewer goals exist (R147). -/
def rmPath (p : RmParams) (r : RmRegion) (g : RmGoal) (cs : List RmCost) (k : Nat) : Option (List Nat) :=
  ((rmGoals p r g cs)[k]?).map (fun n => rmTrace cs cs.length n [])

/-! ### Stations and profile of a path (R148, R149) -/

/-- `heading_of` a slope num/den, den > 0, by 13 steps of bisection (R148). -/
def headingOf (num den : Int) : Nat :=
  let h := bisect (fun t =>
    let (co, si) := trig (wrapA16 ((t : Int) - 0x1000))
    decide (si * den ≤ co * num)) 13 0
  wrapA16 ((h : Int) - 0x1000)

/-- Y, PSI0 and KAPPA at `x` past the start of the edge from `n` to `m`, not yet saturated (R148). -/
def edgeStation (n m : RmNode) (x : Int) : Int × Nat × Int :=
  let ds := m.s - n.s
  let (a, b, m0, _) := edgeCubic n m
  let d := n.d + (m0 * x * ds ^ 3 + a * x ^ 2 * ds + b * x ^ 3) / (ds ^ 3 * 2 ^ 30)
  let h := headingOf (m0 * ds ^ 3 + 2 * a * x * ds + 3 * b * x ^ 2) (ds ^ 3 * 2 ^ 30)
  let k0 := (a * ds + 3 * b * x) / (2 * ds ^ 3)
  let (co, _) := trig h
  let k := shrFloor (shrFloor (shrFloor (k0 * co) 30 * co) 30 * co) 30
  (d, h, k)

/-- Y, PSI0 and KAPPA at `s` along a path of nodes, from its first (R148). DESIGN CHOICE: a station at a node lies on
the edge that begins there, at the last node on the straight line (log entry 125). -/
def pathStation (s : Int) : List RmNode → Int × Nat × Int
  | [] => (0, 0, 0)
  | [n] =>
    let m := slopeQ30 n.h
    (n.d + m * (s - n.s) / 2 ^ 30, headingOf m (2 ^ 30), 0)
  | n :: m :: r => if s < m.s then edgeStation n m (s - n.s) else pathStation s (m :: r)

/-- s, Y, PSI0 and KAPPA of the stations of a roadmap path, not yet saturated (R148). -/
def cubicRaw (step : Int) (nstn : Nat) (e : Ego) (path : List RmNode) : List (Int × Int × Nat × Int) :=
  (List.range nstn).map (fun (j : Nat) =>
    let s := e.x + (j : Int) * step
    let (y, h, k) := pathStation s (egoNode e :: path)
    (s, y, h, k))

/-- Raw stations brought into their formats (R41). -/
def satRaw (xs : List (Int × Int × Nat × Int)) : List (Int × Int × Nat × Int) :=
  xs.map (fun r => ((satP32 r.1).val, (satP32 r.2.1).val, r.2.2.1, (satI16 r.2.2.2).val))

/-- A field of raw stations, DKDS or the trailer headings formed from them saturates (R41, R47, R141). -/
def rawSat (ego : List EgoBody) (step : Int) (e : Ego) (xs : List (Int × Int × Nat × Int)) : Bool :=
  let ys := satRaw xs
  (rawHeadings ego step e ys).any (·.2) ||
  xs.any (fun r => (satP32 r.1).sat || (satP32 r.2.1).sat || (satI16 r.2.2.2).sat)
  || (ys.zip ys.tail).any (fun p => (satI16 ((p.2.2.2.2 - p.1.2.2.2) * 2 ^ 16 / step)).sat)

/-- The stations of a roadmap path by BUILD_PATH in CUBIC mode (R141, R148). -/
def cubicStations (ego : List EgoBody) (step : Int) (nstn : Nat) (e : Ego) (path : List RmNode) :
    List Station :=
  finishStations ego step e (satRaw (cubicRaw step nstn e path))

/-- The profile entry at `tau` µs along a path of nodes (R149); `s0` is the progress at its start. DESIGN CHOICE: a time
at a node falls on the edge that begins there (log entry 125). -/
def pathProfile (tau : Int) (s0 : Int) : List RmNode → ProfEntry
  | [] => ⟨s0.toNat, 0, 0⟩
  | [n] =>
    let v := max n.v 1
    ⟨(s0 + v * tau * 16 / 1000000).toNat, v, 0⟩
  | n :: m :: r =>
    let vn := max n.v 1
    let vm := max m.v 1
    let ds := m.s - n.s
    let t := ds * 125000 / (vn + vm)
    if tau < t then
      ⟨(s0 + ds * (2 * vn * tau * t + (vm - vn) * tau * tau) / ((vn + vm) * t * t)).toNat,
       vn + (vm - vn) * tau / t, (satI16 ((vm - vn) * 1000000 / t)).val⟩
    else pathProfile (tau - t) (s0 + ds) (m :: r)

/-- The profile of a roadmap candidate (R149). -/
def roadmapProfile (nsamp dts : Nat) (e : Ego) (path : List RmNode) : List ProfEntry :=
  (List.range nsamp).map (fun k =>
    pathProfile ((k * dts * 1000 : Nat) : Int) 0 (egoNode e :: path))

end Sys2Proof.Machine
end

