-- ==== Sys2Proof/Machine/Cost.lean ====
section
/-!
DEFINITION. The cost engine (R185 to R195), the verdict cache (R199 to R203), the roadmap's static
edge cost (R204, R205) and the detours of Retouch (R206 to R208).
-/
namespace Sys2Proof.Machine

open Sys2Proof

/-- The image's cost parameters (R185). -/
structure CostParams where
  bilinear : Bool
  lw : List Nat
  truncCell : Nat
  wk : Nat
  wkd : Nat
  wa : Nat
  wl : Nat
  sk : Nat
  skd : Nat
  sa : Nat
  sl : Nat
  alatMax : Nat
  vref : Int
  wp : Nat
  sp : Nat
  dw : List Nat
  wr : Nat
  sr : Nat
  rdw : List Nat
  splBack : Nat
  splFwd : Nat
  splSpan : Nat
  splLead : Nat
  splRamp : Nat
  splNdet : Nat
  deriving DecidableEq, Repr

/-- What a cost command sees: image and snapshot. `cs` is CS[b][h](i, j). -/
structure CostEnv where
  cfg : WorldCfg
  prm : CostParams
  ego : List EgoBody
  s0 : Int
  d0 : Int
  nsamp : Nat
  dts : Nat
  cs : Nat → Nat → Nat → Nat → Nat

/-- `x` brought into `lo .. hi`. -/
def clampInt (lo hi x : Int) : Int := max lo (min hi x)

/-- `look` at a body's origin: the value, and CLAY (R186, R187). -/
def CostEnv.look (v : CostEnv) (b : Nat) (p : BodySample) : Nat × Bool :=
  let c : Int := v.cfg.cLsb
  let h := (p.h + 2048) / 4096 % 16
  let w : Int := v.cfg.w
  let ht : Int := v.cfg.h
  if p.x < v.s0 ∨ v.s0 + w * c ≤ p.x ∨ p.y < v.d0 ∨ v.d0 + ht * c ≤ p.y then (v.prm.truncCell, false)
  else if !v.prm.bilinear then
    let x := v.cs b h ((p.x - v.s0) / c).toNat ((p.y - v.d0) / c).toNat
    (x, x == 0xFF)
  else
    let u := p.x - v.s0 - c / 2
    let q := p.y - v.d0 - c / 2
    let i0 := u / c
    let j0 := q / c
    let fx := u - i0 * c
    let fy := q - j0 * c
    let corners : List (Int × Int × Int) :=
      [(0, 0, (c - fx) * (c - fy)), (1, 0, fx * (c - fy)), (0, 1, (c - fx) * fy), (1, 1, fx * fy)]
    let read := (corners.filter (fun k => k.2.2 != 0)).map (fun k =>
      (v.cs b h (clampInt 0 (w - 1) (i0 + k.1)).toNat (clampInt 0 (ht - 1) (j0 + k.2.1)).toNat, k.2.2))
    let num := sumInt (read.map (fun r => r.2 * (r.1 : Int)))
    (((num + c * c - 1) / (c * c)).toNat, read.any (fun r => r.1 == 0xFF))

/-- alat (R188). -/
def alatOf (p : Sample) : Nat := (p.v * p.v * iabs p.kappa).toNat / 2 ^ 24

/-- kin, and CLIM's condition (R188). -/
def CostEnv.motion (v : CostEnv) (p : Sample) : Nat × Bool :=
  let a := alatOf p
  let kmax := (v.ego.head?.map (·.kappaMax)).getD 0
  let sq (x : Int) : Nat := (x * x).toNat
  ((v.prm.wk * sq p.kappa) / 2 ^ v.prm.sk + (v.prm.wkd * sq p.kdot) / 2 ^ v.prm.skd
    + (v.prm.wa * sq p.acc) / 2 ^ v.prm.sa + (v.prm.wl * (a * a)) / 2 ^ v.prm.sl,
   decide (kmax < iabs p.kappa) || (v.prm.alatMax != 0 && decide (v.prm.alatMax < a)))

/-- prog (R188). -/
def CostEnv.progress (v : CostEnv) (p p0 : Sample) : Int :=
  let sref := divTrunc (v.prm.vref * (p.t : Int) * 16) 1000
  shrFloor ((v.prm.wp : Int) * (sref - ((p.body 0).x - (p0.body 0).x))) v.prm.sp

/-- `kmap` (R189). -/
def CostEnv.kmap (v : CostEnv) (tms : Nat) (traj : Bool) (k : Nat) : Nat :=
  if traj then min (tms / v.dts) (v.nsamp - 1) else k

/-- `term` (R189). -/
def CostEnv.term (v : CostEnv) (x kd : Nat) (traj : Bool) : Sat :=
  let x := min x 0xFFFFFFFF
  let w := nth 0 v.prm.dw kd
  termC24 ((if traj then (w * (655360 / v.dts) * x) / 2 ^ 16 else (w * x) / 2 ^ 8 : Nat) : Int)

/-- A candidate's partial record (R189, R194). -/
structure Partial where
  psum : Nat
  sat : Bool
  clay : Bool
  clim : Bool
  csample : Nat
  deriving DecidableEq, Repr

/-- A term added to a partial sum with its flags (R43). -/
def Partial.add (q : Partial) (t : Sat) : Partial :=
  let s := addC24 q.psum t.val.toNat
  { q with psum := s.val.toNat, sat := q.sat || t.sat || s.sat }

/-- One sample of `cost_samples` (R189). -/
def CostEnv.sample (v : CostEnv) (traj : Bool) (p0 : Sample) (q : Partial) (k : Nat) (p : Sample) :
    Partial :=
  let kd := v.kmap p.t traj k
  let ls := (List.range v.ego.length).map (fun b => (b, v.look b (p.body b)))
  let lay := sumNat (ls.map (fun x => nth 0 v.prm.lw x.1 * x.2.1))
  let (kin, lim) := v.motion p
  let clay := q.clay || ls.any (fun x => x.2.2)
  let clim := q.clim || lim
  let cs := if !(q.clay || q.clim) && (clay || clim) then k else q.csample
  let prog := v.progress p p0
  let q := { q with clay := clay, clim := clim, csample := cs, sat := q.sat || decide (prog < 0) }
  ((q.add (v.term lay kd traj)).add (v.term kin kd traj)).add (v.term prog.toNat kd traj)

/-- `cost_samples` (R189). -/
def CostEnv.costSamples (v : CostEnv) (traj : Bool) (ps : List Sample) : Partial :=
  match ps with
  | [] => ⟨0, false, false, false, 0xFFFF⟩
  | p0 :: _ =>
    ps.zipIdx.foldl (fun q e => v.sample traj p0 q e.2 e.1) ⟨0, false, false, false, 0xFFFF⟩

/-- The partial record in memory (R194). -/
def Partial.bytes (cand : Nat) (q : Partial) : List Byte :=
  leBytes 4 cand ++ leBytes 3 q.psum ++ leBytes 1 (maskOf [q.sat, q.clay, q.clim])
  ++ leBytes 2 q.csample ++ zeroBytes 6

/-- A partial record read back (R194). -/
def Partial.ofBytes (b : List Byte) : Partial :=
  let f := getLe b 7 1
  ⟨getLe b 4 3, bitAt f 0, bitAt f 1, bitAt f 2, getLe b 8 2⟩

/-- A cost record (R194). -/
structure CostRec where
  cand : Nat
  cost : Nat
  verdict : Verdict
  trunc : Bool
  sat : Bool
  clay : Bool
  clim : Bool
  bmask : Nat
  risk : Nat
  csample : Nat
  deriving DecidableEq, Repr

/-- The 16 bytes of a cost record (R194). -/
def CostRec.bytes (r : CostRec) : List Byte :=
  leBytes 4 r.cand ++ leBytes 3 r.cost
  ++ leBytes 1 (r.verdict.code + 16 * maskOf [r.trunc, r.sat, r.clay, r.clim])
  ++ leBytes 1 r.bmask ++ leBytes 3 r.risk ++ leBytes 2 r.csample ++ zeroBytes 2

/-- A cost record read back (R194). -/
def CostRec.ofBytes (b : List Byte) : CostRec :=
  let f := getLe b 7 1
  ⟨getLe b 0 4, getLe b 4 3, Verdict.ofCode (f % 16), bitAt f 4, bitAt f 5, bitAt f 6, bitAt f 7,
   getLe b 8 1, getLe b 9 3, getLe b 12 2⟩

/-- The risk of the hit branches (R190); `prob n h` is PROB of the snapshot. -/
def CostEnv.risk (v : CostEnv) (prob : Nat → Nat → Nat) (r : VRec) (traj : Bool) : Sat :=
  ((List.range 8).filter (bitAt r.bmask)).foldl (fun (acc : Sat) h =>
    let f := nth 0 r.fhs h
    let kd := if traj then v.kmap (f * 10) true 0 else f
    let t := termC24 (((v.prm.wr * prob (nth 0 r.fho h) h * nth 0 v.prm.rdw kd)
      / 2 ^ (8 + v.prm.sr) : Nat) : Int)
    let s := addC24 acc.val.toNat t.val.toNat
    ⟨s.val, acc.sat || t.sat || s.sat⟩) ⟨0, false⟩

/-- `cost_final` (R190): the cost record of a candidate. -/
def CostEnv.costFinal (v : CostEnv) (prob : Nat → Nat → Nat) (traj : Bool) (cand : Nat) (r : VRec)
    (q : Partial) : CostRec :=
  let sat0 := q.sat || r.sat
  let lethal := r.verdict != .free || q.clay || q.clim
  let risk := if lethal then ⟨0, false⟩ else v.risk prob r traj
  let total := addC24 q.psum risk.val.toNat
  ⟨cand, if lethal then c24Lethal else total.val.toNat, r.verdict, r.trunc,
   sat0 || (!lethal && (risk.sat || total.sat)), q.clay, q.clim, r.bmask, risk.val.toNat, q.csample⟩

/-- KSUM of cost records (R192). -/
def ksumOf (rs : List CostRec) : Nat := sumNat (rs.map (fun r => orderKeyC24 r.cost))

/-! ### Commands and results (R193, R195) -/

/-- A KE command's fields (R193). A CE command has the same places for LANES, SLOTS, COUNT, FIRST,
IN_OFF, OUT_OFF and RESULT_OFF (R181). -/
structure KeCmd where
  op : Nat
  flag : Bool
  lanes : Nat
  slots : Nat
  count : Nat
  first : Nat
  bmask : Nat
  inOff : Nat
  outOff : Nat
  resultOff : Nat
  rsv : Bool
  deriving DecidableEq, Repr

/-- A KE command word decoded (R193). -/
def KeCmd.ofWord (w : Nat) : KeCmd :=
  ⟨field w 0 4, bitAt w 4, field w 8 5, field w 16 7, field w 24 11, field w 40 32, 0,
   field w 80 13, field w 93 13, field w 106 12,
   field w 5 3 != 0 || field w 13 3 != 0 || bitAt w 23 || field w 35 5 != 0
   || field w 72 8 != 0 || field w 118 10 != 0⟩

/-- A CE command word decoded: `flag` is F32SRC (R181). -/
def ceOfWord (w : Nat) : KeCmd :=
  ⟨field w 0 4, bitAt w 4, field w 8 6, field w 16 7, field w 24 11, field w 40 32, field w 72 8,
   field w 80 13, field w 93 13, field w 106 12,
   field w 5 3 != 0 || field w 14 2 != 0 || bitAt w 23 || field w 35 5 != 0 || field w 118 10 != 0⟩

/-- The rules of R193 on one KE command. -/
def KeCmd.keOk (nsamp : Nat) (d : KeCmd) : Bool :=
  let outSize := if d.op = 2 then 16 else d.count * 16
  let inSize := if d.op = 1 then d.slots * nsamp * 64 else d.count * 64
  1 ≤ d.op && d.op ≤ 3 && !d.rsv && (d.op == 3 || !d.flag)
  && 1 ≤ d.lanes && d.lanes ≤ 16
  && (if d.op = 1 then decide (2 ≤ d.slots ∧ d.slots ≤ 64) else d.slots == 0)
  && (if d.op = 2 then decide (2 ≤ d.count ∧ d.count ≤ 1200) else decide (1 ≤ d.count ∧ d.count ≤ 1024))
  && d.inOff * 64 + inSize ≤ 512 * 1024 && d.outOff * 64 + outSize ≤ 512 * 1024
  && d.resultOff * 16 + 16 ≤ 64 * 1024

/-- The rules of R181 on one CE command. -/
def KeCmd.ceOk (nsamp nb : Nat) (d : KeCmd) : Bool :=
  let outSize := if d.op = 2 then 64 else d.count * 64
  let inSize := if d.op = 1 then d.slots * nsamp * 64 else d.count * 64
  1 ≤ d.op && d.op ≤ 3 && !d.rsv && 1 ≤ d.lanes && d.lanes ≤ 32
  && (if d.op = 1 then decide (2 ≤ d.slots ∧ d.slots ≤ 64 ∧ d.lanes ≤ d.slots) else d.slots == 0)
  && (if d.op = 2 then decide (2 ≤ d.count ∧ d.count ≤ 1200) else decide (1 ≤ d.count ∧ d.count ≤ 1024))
  && d.bmask < 2 ^ nb
  && d.inOff * 64 + inSize ≤ 512 * 1024 && d.outOff * 64 + outSize ≤ 512 * 1024
  && d.resultOff * 16 + 16 ≤ 64 * 1024

/-- The 16-byte result of a KE command (R195). -/
def keResult (done cleth ksum : Nat) (sat clay clim fault : Bool) : List Byte :=
  leBytes 2 done ++ leBytes 2 cleth ++ leBytes 6 ksum ++ leBytes 6 (maskOf [sat, clay, clim, fault])

/-! ### The verdict cache (R200 to R202) -/

/-- A verdict-cache entry with VALID 1 (R200). -/
structure CacheEntry where
  cand : Nat
  g : Nat
  sb : Nat
  xe : Int
  ye : Int
  psie : Nat
  kv : Nat
  s0 : Int
  d0 : Int
  epoch : Nat
  tmask : BitVec 256
  deriving DecidableEq, Repr

/-- The 128 bytes of an entry (R200). -/
def CacheEntry.bytes (c : CacheEntry) : List Byte :=
  padTo 128 (leBytes 4 c.cand ++ leBytes 2 c.g ++ leBytes 1 c.sb ++ leBytes 1 1 ++ leBytes 4 (code 32 c.xe)
    ++ leBytes 4 (code 32 c.ye) ++ leBytes 2 c.psie ++ leBytes 2 c.kv ++ leBytes 4 (code 32 c.s0)
    ++ leBytes 4 (code 32 c.d0) ++ leBytes 4 c.epoch ++ leBytes 32 c.tmask.toNat)

/-- An entry read back; none where VALID is 0 (R200, R201). -/
def CacheEntry.ofBytes (b : List Byte) : Option CacheEntry :=
  if bitAt (getLe b 7 1) 0 then
    some ⟨getLe b 0 4, getLe b 4 2, getLe b 6 1, getSle b 8 4, getSle b 12 4, getLe b 16 2, getLe b 18 2,
      getSle b 20 4, getSle b 24 4, getLe b 28 4, BitVec.ofNat 256 (getLe b 32 32)⟩
  else none

/-- The KV an entry gives on a hit, 0 on a miss (R201). -/
def cacheHit (w : World) (e : Ego) (cand g sb : Nat) (c : Option CacheEntry) : Nat :=
  match c with
  | none => 0
  | some c =>
    let keys := c.cand = cand ∧ c.g = g ∧ c.sb = sb ∧ c.xe = e.x ∧ c.ye = e.y ∧ c.psie = e.heading
      ∧ c.s0 = w.s0 ∧ c.d0 = w.d0
    let fresh := (List.range 256).all (fun t =>
      !tileMarked c.tmask t || decide (nth 0 w.tileEpochs t ≤ c.epoch))
    if keys ∧ fresh then c.kv else 0

/-- The entry written at retirement (R202). -/
def cacheWrite (v : ChiselEnv) (w : World) (e : Ego) (cand g sb kv : Nat) (ps : List Sample) : CacheEntry :=
  ⟨cand, g, sb, e.x, e.y, e.heading, kv, w.s0, w.d0, w.epoch,
   markTiles 0 ((ps.take kv).map (v.coverTiles false)).flatten⟩

/-! ### Roadmap edges (R204, R205) -/

/-- The cached static cost of an edge (R204). -/
structure EStat where
  src : Nat
  dst : Nat
  cost : Nat
  epoch : Nat
  s0 : Int
  d0 : Int
  tmask : BitVec 256
  deriving DecidableEq, Repr

/-- A sequence of device-built stations as samples of body 0 alone with its sweep bounds (R204). -/
def edgePoses (ego : List EgoBody) (ss : List Station) : List Sample :=
  let body0 := ego.take 1
  let half (a b : Station) : List BoundXY :=
    halfBound body0 0 (halfArc true a.x b.x) [((nth 0 a.tv 0 : Nat) : Int)] []
  ss.zipIdx.map (fun p =>
    let fwd := match ss[p.2 + 1]? with
      | some n => half p.1 n
      | none => []
    let back := if p.2 = 0 then [] else match ss[p.2 - 1]? with
      | some n => half n p.1
      | none => []
    (⟨[⟨p.1.x, p.1.y, p.1.psi, 0, 0⟩, noBody, noBody], 0, 0, 0, p.1.kappa, 0, false, false, false⟩ : Sample).withBounds 1
      [(nth .zero fwd 0).max (nth .zero back 0)])

/-- The stations of an edge for ESTAT (R204). -/
def edgeStations (step : Int) (n m : RmNode) : List Station :=
  let ds := m.s - n.s
  let j := (divCeil ds step).toNat
  let raw := (List.range (j + 1)).map (fun (i : Nat) =>
    let x : Int := if i = j then ds else (i : Int) * step
    let st := edgeStation n m x
    (n.s + x, st.1, st.2.1, (satI16 st.2.2).val))
  raw.zipIdx.map (fun r =>
    let h := ((raw[r.2 + 1]?).map (fun q => q.2.2.1)).getD r.1.2.2.1
    { x := r.1.1, y := r.1.2.1, psi := r.1.2.2.1, art1 := 0, art2 := 0, kappa := r.1.2.2.2,
      dkds := 0, tv := [(diffA16 h r.1.2.2.1).natAbs, 0, 0] })

/-- The grid tiles of the cells that `look` reads at a body's origin (R204). -/
def CostEnv.lookTiles (v : CostEnv) (p : BodySample) : List Nat :=
  let c : Int := v.cfg.cLsb
  let w : Int := v.cfg.w
  let ht : Int := v.cfg.h
  if p.x < v.s0 ∨ v.s0 + w * c ≤ p.x ∨ p.y < v.d0 ∨ v.d0 + ht * c ≤ p.y then []
  else if !v.prm.bilinear then
    [(v.cfg.tileOf ((p.x - v.s0) / c).toNat ((p.y - v.d0) / c).toNat).1]
  else
    let i0 := (p.x - v.s0 - c / 2) / c
    let j0 := (p.y - v.d0 - c / 2) / c
    let fx := p.x - v.s0 - c / 2 - i0 * c
    let fy := p.y - v.d0 - c / 2 - j0 * c
    let ks : List (Int × Int × Bool) :=
      [(0, 0, true), (1, 0, fx != 0), (0, 1, fy != 0), (1, 1, fx != 0 && fy != 0)]
    (ks.filter (fun k => k.2.2)).map (fun k =>
      (v.cfg.tileOf (clampInt 0 (w - 1) (i0 + k.1)).toNat (clampInt 0 (ht - 1) (j0 + k.2.1)).toNat).1)

/-- ESTAT of an edge and its TMASK (R204). It is formed outside any step's command: R42 names no work item
for it, and the SAT of its sums is kept nowhere (log entry 111). -/
def edgeStat (ce : ChiselEnv) (ke : CostEnv) (step : Int) (n m : RmNode) : Nat × BitVec 256 :=
  let ps := edgePoses ce.ego (edgeStations step n m)
  let ce0 := { ce with ego := ce.ego.take 1 }
  let ok := ps.all (fun p => (ce0.verdictPose false 0 ke.dts ke.nsamp p).verdict == .free)
  let ls := ps.map (fun p => ke.look 0 (p.body 0))
  let total := ls.foldl (fun acc l => (addC24 acc (min (nth 0 ke.prm.lw 0 * l.1) c24Max)).val.toNat) 0
  let tiles := (ps.map (fun p => ce0.coverTiles false p ++ ke.lookTiles (p.body 0))).flatten
  (if ok && !ls.any (·.2) then total else c24Lethal, markTiles 0 tiles)

/-- An edge is stale (R205). -/
def EStat.stale (w : World) (e : EStat) : Bool :=
  e.epoch == 0 || e.s0 != w.s0 || e.d0 != w.d0
  || (List.range 256).any (fun t => tileMarked e.tmask t && decide (e.epoch < nth 0 w.tileEpochs t))

/-! ### Detours (R207, R208) -/

/-- The blocked run of a held plan from sample `j0` (R207): kb and ke, by sample number. -/
def blockedRun (span : Nat) (blocked : List (Nat × Bool)) : Option (Nat × Nat) :=
  match blocked.find? (fun b => b.2) with
  | none => none
  | some (kb, _) =>
    let last := (blocked.filter (fun b => b.2 && decide (b.1 < kb + span))).foldl
      (fun m b => max m b.1) kb
    some (kb, last)

/-- The offset of detour `v` at sample `k` of the run `ka .. kc` (R208). -/
def detourOffset (ramp corrStep v ka kc k : Nat) : Int :=
  let jv : Int := ((v / 2 + 1 : Nat) : Int) * (if v % 2 = 0 then 1 else -1)
  let r : Nat := min (min (k - ka) (kc - k)) ramp
  let x : Nat := r * 65536 / ramp
  let s : Nat := 3 * x * x / 2 ^ 16 - 2 * x * x * x / 2 ^ 32
  jv * (corrStep : Int) * (s : Int) / 65536

/-- A sample with every body moved by offset `o` along the body-0 normal (R151, R208). -/
def Sample.shift (p : Sample) (o : Int) (nbody : Nat) : Sample :=
  let (co, si) := trig (p.body 0).h
  let dx := shrFloor (-o * si + 2 ^ 29) 30
  let dy := shrFloor (o * co + 2 ^ 29) 30
  let moved := p.bodies.map (fun b => (satP32 (b.x + dx), satP32 (b.y + dy)))
  { p with
    bodies := p.bodies.zipIdx.map (fun e =>
      if e.2 < nbody then
        { e.1 with x := (satP32 (e.1.x + dx)).val, y := (satP32 (e.1.y + dy)).val }
      else e.1)
    sat := p.sat || (moved.take nbody).any (fun m => m.1.sat || m.2.sat) }

end Sys2Proof.Machine
end

