-- ==== Sys2Proof/Machine/Float32.lean ====
section
/-!
DEFINITION. binary32 of the solver and the proofer (R51 to R66): the exact long accumulator, one
rounding, the flags, division, square root, conversions, comparison and the order key.
-/
namespace Sys2Proof.Machine

open Sys2Proof

/-- The five sticky exception flags of a work item (R52). -/
structure FFlags where
  /-- invalid -/
  v : Bool := false
  /-- division by zero -/
  z : Bool := false
  /-- overflow -/
  o : Bool := false
  /-- underflow -/
  u : Bool := false
  /-- inexact -/
  x : Bool := false
  deriving DecidableEq, Repr

/-- The flags of two operations together (R52, R55). -/
def FFlags.or (a b : FFlags) : FFlags :=
  ⟨a.v || b.v, a.z || b.z, a.o || b.o, a.u || b.u, a.x || b.x⟩

/-- The flags as five bits: V, Z, O, U, X from bit 0 up. -/
def FFlags.mask (f : FFlags) : Nat := maskOf [f.v, f.z, f.o, f.u, f.x]

/-- A binary32 result with the flags it set. -/
structure FRes where
  /-- the value's encoding -/
  val : F32
  /-- the flags set -/
  fl : FFlags
  deriving DecidableEq, Repr

/-- The kinds of a binary32 encoding (R54). -/
inductive FKind where
  | zero | finite | inf | qnan | snan
  deriving DecidableEq, Repr

/-- A decoded binary32: sign, significand, exponent, with |value| = `sig * 2^exp` (R54). -/
structure FDec where
  neg : Bool
  sig : Nat
  exp : Int
  kind : FKind
  deriving DecidableEq, Repr

/-- `f32_decode` (R54). -/
def fdecode (b : F32) : FDec :=
  let n := b.toNat
  let ex := field n 23 8
  let fr := field n 0 23
  let sg := bitAt n 31
  if ex = 255 then
    ⟨sg, 0, 0, if fr = 0 then .inf else if bitAt fr 22 then .qnan else .snan⟩
  else if ex = 0 then ⟨sg, fr, -149, if fr = 0 then .zero else .finite⟩
  else ⟨sg, fr + 0x800000, (ex : Int) - 150, .finite⟩

/-- The canonical quiet NaN (R51). -/
def fNaN : F32 := 0x7FC00000#32
/-- Plus infinity. -/
def fInf : F32 := 0x7F800000#32
/-- Minus infinity. -/
def fNInf : F32 := 0xFF800000#32
/-- Plus zero. -/
def fZero : F32 := 0x00000000#32
/-- 1.0. -/
def fOne : F32 := 0x3F800000#32

/-- An encoding with the sign bit put on. -/
def fSigned (neg : Bool) (b : Nat) : F32 := BitVec.ofNat 32 (b + if neg then 2 ^ 31 else 0)

/-- `round_rne_576` (R54): `v * 2^-298`, not zero, rounded once to nearest-even. -/
def roundRne (v : Int) : FRes :=
  let neg := decide (v < 0)
  let m := v.natAbs
  let k := m.log2
  let sh := if 149 < k - 23 then k - 23 else 149
  let r0 := m / 2 ^ sh
  let rem := m - r0 * 2 ^ sh
  let half := 2 ^ (sh - 1)
  let r := if half < rem ∨ (rem = half ∧ r0 % 2 = 1) then r0 + 1 else r0
  let inexact := decide (rem ≠ 0)
  let tiny := decide (k < 171 ∨ (k = 171 ∧ m < 2 ^ 172 - 2 ^ 147))
  let bits := (sh - 148) * 2 ^ 23 + r - 0x800000
  if 0x7F800000 ≤ bits then ⟨fSigned neg 0x7F800000, { o := true, x := true }⟩
  else ⟨fSigned neg bits, { x := inexact, u := tiny && inexact }⟩

/-- The running state of an exact dot product (R54). -/
structure FAcc where
  acc : Int := 0
  pinf : Bool := false
  ninf : Bool := false
  nan : Bool := false
  v : Bool := false
  allNegZero : Bool := true
  deriving DecidableEq, Repr

/-- One term pair of `exact_dot` (R54). -/
def FAcc.term (s : FAcc) (a b : F32) : FAcc :=
  let x := fdecode a
  let y := fdecode b
  let s := if x.kind = .snan ∨ y.kind = .snan then { s with v := true } else s
  if x.kind = .qnan ∨ x.kind = .snan ∨ y.kind = .qnan ∨ y.kind = .snan then
    { s with nan := true, allNegZero := false }
  else if (x.kind = .inf ∧ y.kind = .zero) ∨ (x.kind = .zero ∧ y.kind = .inf) then
    { s with v := true, nan := true, allNegZero := false }
  else
    let sg := x.neg != y.neg
    if x.kind = .inf ∨ y.kind = .inf then
      { s with pinf := s.pinf || !sg, ninf := s.ninf || sg, allNegZero := false }
    else
      let p := x.sig * y.sig
      if p = 0 then { s with allNegZero := s.allNegZero && sg }
      else
        let t : Int := (p * 2 ^ (x.exp + y.exp + 298).toNat : Nat)
        { s with acc := if sg then s.acc - t else s.acc + t, allNegZero := false }

/-- The result of an exact dot product from its accumulator (R54). -/
def FAcc.result (s : FAcc) : FRes :=
  let f : FFlags := { v := s.v }
  if s.pinf && s.ninf then ⟨fNaN, { f with v := true }⟩
  else if s.nan then ⟨fNaN, f⟩
  else if s.pinf then ⟨fInf, f⟩
  else if s.ninf then ⟨fNInf, f⟩
  else if s.acc = 0 then ⟨if s.allNegZero then 0x80000000#32 else fZero, f⟩
  else
    let r := roundRne s.acc
    ⟨r.val, f.or r.fl⟩

/-- `exact_dot` (R54). -/
def exactDot (ts : List (F32 × F32)) : FRes :=
  (ts.foldl (fun s t => s.term t.1 t.2) ({} : FAcc)).result

/-- The exact sum: every second factor is 1.0 (R54). -/
def exactSum (xs : List F32) : FRes := exactDot (xs.map (fun x => (x, fOne)))

/-- Negation changes bit 31 only (R51). -/
def fneg (x : F32) : F32 := x ^^^ 0x80000000#32
/-- Absolute value clears bit 31 only (R51). -/
def fabs (x : F32) : F32 := x &&& 0x7FFFFFFF#32

/-- Addition (R53). -/
def fadd (x y : F32) : FRes := exactDot [(x, fOne), (y, fOne)]
/-- Subtraction (R53). -/
def fsub (x y : F32) : FRes := exactDot [(x, fOne), (fneg y, fOne)]
/-- Multiplication (R53). -/
def fmul (x y : F32) : FRes := exactDot [(x, y)]

/-- A quotient or root known as a whole part in units of 2^-298 and whether anything remains. -/
def roundSticky (neg : Bool) (q : Nat) (rest : Bool) : FRes :=
  let m : Nat := if rest && q % 2 == 0 then q + 1 else q
  if m = 0 then ⟨fSigned neg 0, {}⟩ else roundRne (if neg then -(m : Int) else (m : Int))

/-- Division, correctly rounded (R53). -/
def fdiv (x y : F32) : FRes :=
  let a := fdecode x
  let b := fdecode y
  let sv : FFlags := { v := a.kind = .snan || b.kind = .snan }
  let neg := a.neg != b.neg
  if a.kind = .qnan ∨ a.kind = .snan ∨ b.kind = .qnan ∨ b.kind = .snan then ⟨fNaN, sv⟩
  else match a.kind, b.kind with
    | .zero, .zero => ⟨fNaN, { v := true }⟩
    | .inf, .inf => ⟨fNaN, { v := true }⟩
    | .inf, _ => ⟨fSigned neg 0x7F800000, {}⟩
    | _, .inf => ⟨fSigned neg 0, {}⟩
    | .zero, _ => ⟨fSigned neg 0, {}⟩
    | _, .zero => ⟨fSigned neg 0x7F800000, { z := true }⟩
    | _, _ =>
      let n := a.sig * 2 ^ (a.exp - b.exp + 298).toNat
      roundSticky neg (n / b.sig) (n % b.sig != 0)

/-- Square root, correctly rounded (R53). -/
def fsqrt (x : F32) : FRes :=
  let a := fdecode x
  match a.kind with
  | .snan => ⟨fNaN, { v := true }⟩
  | .qnan => ⟨fNaN, {}⟩
  | .zero => ⟨x, {}⟩
  | .inf => if a.neg then ⟨fNaN, { v := true }⟩ else ⟨fInf, {}⟩
  | .finite =>
    if a.neg then ⟨fNaN, { v := true }⟩
    else
      let n := a.sig * 2 ^ (a.exp + 596).toNat
      let r := isqrt n
      roundSticky false r (r * r != n)

/-- Not an infinity and not a NaN. -/
def isFinite32 (x : F32) : Bool := field x.toNat 23 8 != 255

/-- The nearest integer to `num / 2^n`, ties to even, and whether it was inexact. -/
def roundHalfEven (num : Int) (n : Nat) : Int × Bool :=
  let d : Int := (2 ^ n : Nat)
  let q := num / d
  let r := num - q * d
  let up := decide (d < 2 * r) || (decide (2 * r = d) && decide (q % 2 = 1))
  (if up then q + 1 else q, decide (r ≠ 0))

/-- The value of a finite binary32 times `2^s`, rounded to an integer to nearest-even. -/
def fToIntScaled (x : F32) (s : Int) : Int × Bool :=
  let a := fdecode x
  let m : Int := if a.neg then -(a.sig : Int) else a.sig
  let e := a.exp + s
  if 0 ≤ e then (m * (2 ^ e.toNat : Nat), false) else roundHalfEven m (-e).toNat

/-- Conversion of a binary32 to a signed integer of `w` bits after scaling by `2^s` (R60). -/
def fToFixed (w : Nat) (s : Int) (x : F32) : Int × FFlags :=
  let a := fdecode x
  let hi : Int := (2 ^ (w - 1) : Nat) - 1
  let lo : Int := -(2 ^ (w - 1) : Nat)
  match a.kind with
  | .qnan => (0, { v := true })
  | .snan => (0, { v := true })
  | .inf => (if a.neg then lo else hi, { v := true })
  | _ =>
    let (r, inx) := fToIntScaled x s
    if hi < r then (hi, { v := true })
    else if r < lo then (lo, { v := true })
    else (r, { x := inx })

/-- Conversion from binary32 to P32 (R60). -/
def fToP32 (x : F32) : Int × FFlags := fToFixed 32 12 x

/-- The integer `c` times `2^-s`, `s ≤ 298`, rounded to nearest-even; 0 gives +0. -/
def fOfScaled (c : Int) (s : Nat) : FRes :=
  if c = 0 then ⟨fZero, {}⟩ else roundRne (c * (2 ^ (298 - s) : Nat))

/-- Conversion from P32 to binary32 (R61). -/
def fOfP32 (c : Int) : FRes := fOfScaled c 12

/-- The four outcomes of a comparison (R63). -/
inductive FCmp where
  | less | equal | greater | unordered
  deriving DecidableEq, Repr

/-- The exact value of a finite binary32 in units of 2^-149. -/
def fUnits (x : F32) : Int :=
  let a := fdecode x
  let m : Int := (a.sig * 2 ^ (a.exp + 149).toNat : Nat)
  if a.neg then -m else m

/-- A number that orders every non-NaN binary32 (the two zeros equal). -/
def fRank (x : F32) : Int :=
  let n : Int := (x.toNat % 2 ^ 31 : Nat)
  if bitAt x.toNat 31 then -n else n

/-- NaN of either kind. -/
def isNaN32 (x : F32) : Bool := field x.toNat 23 8 == 255 && field x.toNat 0 23 != 0

/-- Comparison (R63), with the V flag of a signalling operand. -/
def fcompare (x y : F32) : FCmp × FFlags :=
  let f : FFlags := { v := (fdecode x).kind = .snan || (fdecode y).kind = .snan }
  if isNaN32 x || isNaN32 y then (.unordered, f)
  else if fRank x < fRank y then (.less, f)
  else if fRank x = fRank y then (.equal, f)
  else (.greater, f)

/-- x < y, false for unordered. -/
def flt (x y : F32) : Bool := (fcompare x y).1 == .less
/-- x ≤ y, false for unordered. -/
def fle (x y : F32) : Bool :=
  let c := (fcompare x y).1
  c == .less || c == .equal

/-- `order_key_f32` (R66). -/
def orderKeyF32 (b : F32) : Nat :=
  if isNaN32 b then 0
  else
    let n := if b.toNat = 0x80000000 then 0 else b.toNat
    if bitAt n 31 then 0x80000000 - n % 2 ^ 31 else 0x80000000 + n

end Sys2Proof.Machine
end

