-- ==== Sys2Proof/Machine/Select.lean ====
section
/-!
DEFINITION. Selection and merging (R211 to R227): the rank order, SELECT, MERGE and the MU merge
with their exact sums, the list header and entries in memory, and the checks.
-/
namespace Sys2Proof.Machine

open Sys2Proof

/-- KEYTYPE (R212). -/
inductive KeyType where
  | c24 | f32Max | f32Min
  deriving DecidableEq, Repr

/-- KEYTYPE from its code (R212). -/
def KeyType.ofCode (n : Nat) : Option KeyType :=
  if n = 0 then some .c24 else if n = 1 then some .f32Max else if n = 2 then some .f32Min else none

/-- KEYTYPE's code (R212). -/
def KeyType.code : KeyType → Nat
  | .c24 => 0 | .f32Max => 1 | .f32Min => 2

/-- A row entry: candidate and raw key value, COST or binary32 (R212). -/
structure Key where
  cand : Nat
  raw : Nat
  deriving DecidableEq, Repr

/-- OKEY of a raw key value (R212). -/
def okey (t : KeyType) (raw : Nat) : Nat :=
  match t with
  | .c24 => orderKeyC24 raw
  | .f32Max => orderKeyF32 (BitVec.ofNat 32 raw)
  | .f32Min =>
    let b := BitVec.ofNat 32 raw
    if isNaN32 b then 0 else orderKeyF32 (fneg b)

/-- Key `a` ranks ahead of key `b` (R211). -/
def ranksAhead (t : KeyType) (a b : Key) : Bool :=
  decide (okey t b.raw < okey t a.raw ∨ (okey t a.raw = okey t b.raw ∧ a.cand < b.cand))

/-- Key `a` ranks after the pair (R211). -/
def ranksAfter (t : KeyType) (a : Key) (bound : Nat × Nat) : Bool :=
  decide (okey t a.raw < bound.1 ∨ (okey t a.raw = bound.1 ∧ bound.2 < a.cand))

/-- The sums and counts of one side of a list (R215). -/
structure Side where
  sum : Nat
  acc : Int
  pinf : Nat
  ninf : Nat
  nan : Nat
  deriving DecidableEq, Repr

/-- An empty side. -/
def Side.zero : Side := ⟨0, 0, 0, 0, 0⟩

/-- Two sides together. -/
def Side.add (a b : Side) : Side :=
  ⟨a.sum + b.sum, a.acc + b.acc, a.pinf + b.pinf, a.ninf + b.ninf, a.nan + b.nan⟩

/-- The accumulator value of a finite binary32 in units of 2^-298 (R54). -/
def accValue (b : F32) : Int := fUnits b * (2 ^ 149 : Nat)

/-- One key's contribution to a side (R215). -/
def Side.ofKey (t : KeyType) (k : Key) : Side :=
  match t with
  | .c24 => ⟨orderKeyC24 k.raw, 0, 0, 0, 0⟩
  | _ =>
    let b := BitVec.ofNat 32 k.raw
    if isNaN32 b then ⟨0, 0, 0, 0, 1⟩
    else if isFinite32 b then ⟨0, accValue b, 0, 0, 0⟩
    else if bitAt k.raw 31 then ⟨0, 0, 0, 1, 0⟩ else ⟨0, 0, 1, 0, 0⟩

/-- The side that a list of keys forms (R215). -/
def Side.ofKeys (t : KeyType) (ks : List Key) : Side :=
  ks.foldl (fun s k => s.add (Side.ofKey t k)) Side.zero

/-- A list entry (R224): the key and the core that first selected it. -/
structure LEntry where
  key : Key
  src : Nat
  deriving DecidableEq, Repr

/-- A list with its sums (R214, R218, R223). `total` is TOTAL, or the binary32 equivalents. -/
structure SList where
  keyType : KeyType
  k : Nat
  inclZero : Bool
  bounded : Bool
  bound : Nat × Nat
  pass : Nat
  nkey : Nat
  entries : List LEntry
  sel : Side
  rest : Side
  total : Side
  /-- the header in memory names the reserved KEYTYPE -/
  rsvKey : Bool
  deriving DecidableEq, Repr

/-- The parts of a selection that every level shares (R218, R222). -/
structure SelSpec where
  keyType : KeyType
  k : Nat
  inclZero : Bool
  bounded : Bool
  bound : Nat × Nat
  pass : Nat
  deriving DecidableEq, Repr

/-- Entries sorted into rank order. -/
def rankSort (t : KeyType) (es : List LEntry) : List LEntry :=
  sortBy (fun a b => ranksAhead t a.key b.key || decide (a.key = b.key)) es

/-- SELECT over a row (R213, R214). `elig` is the family test; `valid` is LAST_VALID of a bound. -/
def selectRow (sp : SelSpec) (elig : Nat → Bool) (valid : Bool) (src : Nat) (total : Side)
    (row : List Key) : SList :=
  let ok (k : Key) : Bool :=
    elig k.cand && (sp.inclZero || okey sp.keyType k.raw != 0)
    && (!sp.bounded || (valid && ranksAfter sp.keyType k sp.bound))
  let out := ((rankSort sp.keyType ((row.filter ok).map (fun k => ⟨k, src⟩))).take sp.k)
  let rest := row.filter (fun k => !(out.any (fun e => e.key == k)))
  ⟨sp.keyType, sp.k, sp.inclZero, sp.bounded, sp.bound, sp.pass, row.length, out,
   Side.ofKeys sp.keyType (out.map (·.key)), Side.ofKeys sp.keyType rest, total, false⟩

/-- MERGE and the MU merge (R218). -/
def mergeLists (sp : SelSpec) (ls : List SList) : SList :=
  let u := rankSort sp.keyType (ls.map (·.entries)).flatten
  let out := u.take sp.k
  let dropped := u.drop sp.k
  ⟨sp.keyType, sp.k, sp.inclZero, sp.bounded, sp.bound, sp.pass, sumNat (ls.map (·.nkey)), out,
   Side.ofKeys sp.keyType (out.map (·.key)),
   (ls.foldl (fun s l => s.add l.rest) Side.zero).add (Side.ofKeys sp.keyType (dropped.map (·.key))),
   ls.foldl (fun s l => s.add l.total) Side.zero, false⟩

/-! ### Checks (R216, R227) -/

/-- Strictly in rank order. -/
def inRankOrder (t : KeyType) : List LEntry → Bool
  | [] => true
  | [_] => true
  | a :: b :: r => ranksAhead t a.key b.key && inRankOrder t (b :: r)

/-- The sum identity (R216). -/
def SList.identity (l : SList) : Bool := decide (l.sel.add l.rest = l.total)

/-- Header agreement of an input with the command (R227, first check). -/
def SList.agrees (sp : SelSpec) (l : SList) : Bool :=
  !l.rsvKey && decide (l.keyType = sp.keyType ∧ l.k = sp.k ∧ l.inclZero = sp.inclZero ∧ l.bounded = sp.bounded
    ∧ l.bound = sp.bound ∧ l.pass = sp.pass)

/-- Input order (R227, second check). -/
def SList.ordered (l : SList) : Bool :=
  inRankOrder l.keyType l.entries && decide (l.entries.length ≤ l.k)
  && l.entries.all (fun e => (!l.bounded || ranksAfter l.keyType e.key l.bound)
      && (l.inclZero || okey l.keyType e.key.raw != 0))

/-- The number of the first check of R227 that fails on a merge, 0 for none. -/
def mergeCheck (sp : SelSpec) (ls : List SList) (out : SList) : Nat :=
  if !(ls.all (SList.agrees sp)) then 1
  else if !(ls.all SList.ordered) then 2
  else if !noDup ((ls.map (fun l => l.entries.map (fun e => e.key.cand))).flatten) then 3
  else if !(ls.all SList.identity) then 4
  else if !decide (out.sel = Side.ofKeys sp.keyType (out.entries.map (·.key))) then 5
  else if !inRankOrder sp.keyType out.entries then 6
  else if !(out.identity && decide (out.total = ls.foldl (fun s l => s.add l.total) Side.zero)) then 7
  else 0

/-- The number of the first check of R227 that fails on a SELECT, 0 for none. -/
def selectCheck (row : List Key) (out : SList) : Nat :=
  if !noDup (row.map (·.cand)) then 3
  else if !decide (out.sel = Side.ofKeys out.keyType (out.entries.map (·.key))) then 5
  else if !inRankOrder out.keyType out.entries then 6
  else if !out.identity then 7
  else 0

/-- A failed check is one of the order kind, which raises ORDER rather than SUMCHK (R229). -/
def orderCheck (n : Nat) : Bool := n == 1 || n == 2 || n == 3 || n == 6

/-! ### Lists in memory (R223 to R225) -/

/-- A rounded accumulator with its flags (R215). -/
def roundAcc (a : Int) : FRes := if a = 0 then ⟨fZero, {}⟩ else roundRne a

/-- The 256-byte header (R223). -/
def SList.header (l : SList) : List Byte :=
  let f := l.keyType != .c24
  let s := roundAcc l.sel.acc
  let r := roundAcc l.rest.acc
  leBytes 2 l.entries.length
  ++ leBytes 2 (l.k + 128 * boolNat l.inclZero + 256 * l.keyType.code + 1024 * boolNat l.bounded
      + 2048 * l.pass)
  ++ leBytes 4 l.nkey ++ leBytes 4 l.bound.1 ++ leBytes 4 l.bound.2
  ++ leBytes 8 l.sel.sum ++ leBytes 8 l.rest.sum ++ leBytes 8 l.total.sum
  ++ leBytes 4 (if f then s.val.toNat else 0) ++ leBytes 4 (if f then r.val.toNat else 0)
  ++ leBytes 2 (if f then s.fl.mask + 32 * r.fl.mask else 0)
  ++ leBytes 1 l.sel.pinf ++ leBytes 1 l.sel.ninf ++ leBytes 4 l.sel.nan
  ++ leBytes 4 l.rest.pinf ++ leBytes 4 l.rest.ninf ++ leBytes 4 l.rest.nan ++ zeroBytes 4
  ++ leBytes 72 (code 576 l.sel.acc) ++ leBytes 72 (code 576 l.rest.acc) ++ zeroBytes 40

/-- A list entry's 16 bytes (R224). -/
def LEntry.bytes (t : KeyType) (pass i : Nat) (e : LEntry) : List Byte :=
  leBytes 4 e.key.cand ++ leBytes 4 (okey t e.key.raw) ++ leBytes 4 e.key.raw
  ++ leBytes 2 (pass * 64 + i) ++ leBytes 2 e.src

/-- A whole 1,280-byte list slot (R222). -/
def SList.bytes (l : SList) : List Byte :=
  l.header ++ padTo 1024 ((l.entries.zipIdx.map (fun p => p.1.bytes l.keyType l.pass p.2)).flatten)

/-- A list slot read back (R222 to R224). The binary32 total counts are the sums of both sides,
since the header does not hold them. A COUNT above 64 reads as 65 entries, above every K. -/
def SList.ofBytes (b : List Byte) : SList :=
  let w := getLe b 2 2
  let t := (KeyType.ofCode (field w 8 2)).getD .c24
  let n := getLe b 0 2
  let sel : Side := ⟨getLe b 16 6, signed 576 (getLe b 72 72), getLe b 50 1, getLe b 51 1, getLe b 52 1⟩
  let rest : Side := ⟨getLe b 24 6, signed 576 (getLe b 144 72), getLe b 56 4, getLe b 60 4, getLe b 64 4⟩
  let tot : Side := if t = .c24 then { Side.zero with sum := getLe b 32 6 } else sel.add rest
  ⟨t, field w 0 7, bitAt w 7, bitAt w 10, (getLe b 8 4, getLe b 12 4), field w 11 5, getLe b 4 4,
   (records 16 (min n 65) (b.drop 256)).map (fun r =>
     ⟨⟨getLe r 0 4, getLe r 8 4⟩, getLe r 14 2 % 128⟩),
   sel, rest, tot, (KeyType.ofCode (field w 8 2)).isNone⟩

/-- The 16-byte SE result, also a bound record (R225). -/
def seResult (l : SList) (short retried order sumchk fault : Bool) : List Byte :=
  let last := match l.entries.getLast? with
    | some e => (1, okey l.keyType e.key.raw, e.key.cand)
    | none => (0, 0, 0)
  leBytes 2 l.entries.length ++ leBytes 2 last.1 ++ leBytes 4 last.2.1 ++ leBytes 4 last.2.2
  ++ leBytes 4 (maskOf [short, retried, order, sumchk, fault])

/-- A bound record: LAST_VALID and the pair (R222, R225). -/
def boundOf (b : List Byte) : Bool × (Nat × Nat) := (getLe b 2 1 % 2 == 1, (getLe b 4 4, getLe b 8 4))

/-- An SE command's fields (R222). -/
structure SeCmd where
  op : Nat
  keyType : Nat
  inclZero : Bool
  bounded : Bool
  k : Nat
  count : Nat
  famMask : Nat
  ntot : Nat
  inOff : Nat
  outOff : Nat
  totOff : Nat
  boundOff : Nat
  resultOff : Nat
  shared : Bool
  rsv : Bool
  deriving DecidableEq, Repr

/-- An SE command word decoded (R222). -/
def SeCmd.ofWord (w : Nat) : SeCmd :=
  ⟨field w 0 4, field w 4 2, bitAt w 6, bitAt w 7, field w 8 7, field w 16 16, field w 32 4,
   field w 36 6, field w 48 16, field w 64 16, field w 80 12, field w 92 12, field w 104 12,
   bitAt w 116, bitAt w 15 || field w 42 6 != 0 || field w 117 11 != 0⟩

/-- The field and region rules of R222 and R226 on one SE command. -/
def SeCmd.ok (d : SeCmd) : Bool :=
  let rowSize := if d.op = 2 then d.count * 1280 else d.count * (if d.keyType = 0 then 16 else 8)
  let space := if d.shared then 4 * 2 ^ 20 else 512 * 1024
  1 ≤ d.op && d.op ≤ 2 && d.keyType ≤ 2 && !d.rsv && 1 ≤ d.k && d.k ≤ 64
  && (if d.op = 1 then decide (1 ≤ d.count) else decide (2 ≤ d.count ∧ d.count ≤ 16))
  && (if d.op = 1 then d.famMask != 0 else d.famMask == 0)
  && (if d.op = 1 ∧ d.keyType = 0 then decide (1 ≤ d.ntot) else d.ntot == 0)
  && (d.ntot != 0 || d.totOff == 0) && (d.bounded || d.boundOff == 0)
  && d.inOff * 64 + rowSize ≤ space && d.outOff * 64 + 1280 ≤ 4 * 2 ^ 20
  && d.totOff * 16 + d.ntot * 16 ≤ 64 * 1024 && d.boundOff * 16 + 16 ≤ 64 * 1024
  && d.resultOff * 16 + 16 ≤ 64 * 1024

end Sys2Proof.Machine
end

