-- ==== Sys2Proof/Machine/Solver.lean ====
section
/-!
DEFINITION. The solver engine (R237 to R254, R259, R263, R264): templates, stages and parameters,
the interior-point method, the banded factorisation with pivot regularisation, and its checksum.
Every assignment rounds once (R243); a non-finite working value ends the solve (R64).
-/
namespace Sys2Proof.Machine

open Sys2Proof

/-- Where a solve met a non-finite working value: its completed iterations and first replaced pivot
(R64, R264); `late`: the deadline has passed in work that is abandoned for it, and no value was (R254). -/
structure QErr where
  iter : Nat
  piv : Option (Nat × Nat)
  late : Bool := false
  deriving DecidableEq, Repr

/-- What a work item of the solver engine carries from operation to operation. -/
structure QSt where
  /-- the sticky flags (R52) -/
  fl : FFlags := {}
  /-- a conversion to or from a fixed-point code saturated (R259) -/
  sat : Bool := false
  /-- the item goes on with non-finite values: EMIT (log entry 27) -/
  whole : Bool := false
  /-- operations before the deadline passes, where it passes while the item runs (R254) -/
  left : Option Nat := none
  /-- a factorisation or a direction is under way, which a passed deadline abandons (R254) -/
  cut : Bool := false
  deriving DecidableEq, Repr

/-- A computation that collects flags and ends at the first non-finite working value (R52, R64). -/
abbrev QM := ExceptT QErr (StateM QSt)

/-- A computation within iteration `it` after the pivots `piv`: an end of it says so (R264). -/
def atIter {α : Type} (it : Nat) (piv : Option (Nat × Nat)) (m : QM α) : QM α :=
  tryCatch m (fun e => throw { e with iter := it, piv := piv.or e.piv })

/-- Work that a passed deadline abandons at once (R254). -/
def abandonable {α : Type} (m : QM α) : QM α := do
  modify (fun q => { q with cut := true })
  let x ← m
  modify (fun q => { q with cut := false })
  return x

/-- An operation's result as working data of the solve (R52, R64); abandoned work makes no more of them (R254). -/
def keepF (r : FRes) : QM F32 := do
  let q ← get
  if q.cut && q.left == some 0 then throw { iter := 0, piv := none, late := true }
  set { q with fl := q.fl.or r.fl, left := q.left.map (· - 1) }
  if isFinite32 r.val || q.whole then return r.val else throw { iter := 0, piv := none }

/-- The value of a saturating conversion, its SAT noted (R41, R259). -/
def keepSat (r : Sat) : QM Int := do
  modify (fun q => { q with sat := q.sat || r.sat })
  return r.val

/-- One rounded sum of products (R243). -/
def dotM (ts : List (F32 × F32)) : QM F32 := keepF (exactDot ts)
/-- One rounded product. -/
def mulM (a b : F32) : QM F32 := keepF (fmul a b)
/-- One rounded quotient. -/
def divM (a b : F32) : QM F32 := keepF (fdiv a b)
/-- One rounded root. -/
def sqrtM (a : F32) : QM F32 := keepF (fsqrt a)
/-- One rounded sum. -/
def addM (a b : F32) : QM F32 := dotM [(a, fOne), (b, fOne)]
/-- One rounded difference. -/
def subM (a b : F32) : QM F32 := dotM [(a, fOne), (fneg b, fOne)]

/-- The larger of two numbers, the first on a tie. -/
def fmax (a b : F32) : F32 := if flt a b then b else a
/-- The smaller of two numbers, the first on a tie. -/
def fmin (a b : F32) : F32 := if flt b a then b else a
/-- The largest magnitude of a list, 0 for none: the infinity norm. -/
def fnorm (xs : List F32) : F32 := xs.foldl (fun m x => fmax m (fabs x)) fZero

/-- An integer below 2^24 as binary32, exact (R243). -/
def fNat (n : Nat) : F32 := (fOfScaled (n : Int) 0).val

/-! ### Conversions (R259) -/

/-- 2^-18. -/
def f2m18 : F32 := 0x36800000#32
/-- 2^4. -/
def f2p4 : F32 := 0x41800000#32
/-- 2^-4. -/
def f2m4 : F32 := 0x3D800000#32
/-- 2^12. -/
def f2p12 : F32 := 0x45800000#32
/-- pi/8 (R259). -/
def fPi8 : F32 := 0x3EC90FDB#32
/-- 8/pi (R259). -/
def f8Pi : F32 := 0x4022F983#32
/-- 0.5. -/
def fHalf : F32 := 0x3F000000#32
/-- 100.0. -/
def f100 : F32 := 0x42C80000#32

/-- P32 to binary32 as working data (R61). -/
def p32M (c : Int) : QM F32 := keepF (fOfP32 c)
/-- Anchored P32 to binary32 (R259). -/
def anchoredM (code_ anchor : Int) : QM F32 := do p32M (← keepSat (satP32 (code_ - anchor)))
/-- Unwrapped A16 code to radians (R259). -/
def radM (u : Int) : QM F32 := do mulM (← p32M u) fPi8
/-- V16 or ACC to binary32 (R259). -/
def v16M (c : Int) : QM F32 := do mulM (← p32M c) f2p4
/-- K16 to binary32 (R259). -/
def k16M (c : Int) : QM F32 := do mulM (← p32M c) f2m4
/-- D32 to binary32 (R259). -/
def d32M (c : Int) : QM F32 := do mulM (← p32M c) f2m18
/-- C24 to binary32 (R259). -/
def c24M (c : Nat) : QM F32 := do mulM (← p32M c) f2p12

/-- The unwrapped heading codes of a sequence, from ANCHOR_PSI (R259). -/
def unwrapFrom (u : Int) (prev : Nat) : List Nat → List Int
  | [] => []
  | h :: hs =>
    let u := u + diffA16 h prev
    u :: unwrapFrom u h hs

/-- The unwrapped heading codes of a sequence (R259). -/
def unwrapHeadings (anchorPsi : Nat) (hs : List Nat) : List Int :=
  unwrapFrom (signed 16 anchorPsi) anchorPsi hs

/-- The unwrapped code of a heading converted alone (R259). -/
def unwrapOne (anchorPsi h : Nat) : Int := signed 16 anchorPsi + diffA16 h anchorPsi

/-- R60 as working data: flags join, the result is an integer. -/
def toP32M (x : F32) : QM Int := do
  let r := fToP32 x
  modify (fun q => { q with fl := q.fl.or r.2 })
  return r.1

/-! ### Templates (R239) -/

/-- KIND of a template (R239). -/
inductive TKind where
  | geo | ts | opt
  deriving DecidableEq, Repr

/-- A QP template (R239). Each coefficient block is 8 binary32 values. -/
structure Template where
  kind : TKind
  nx : Nat
  nu : Nat
  ni : Nat
  ninit : Nat
  maxit : Nat
  /-- TOL_P, TOL_D, TOL_G, FEAS_TOL, PIV_REL, PIV_ABS, DELTA_P, DELTA_D, ETA, W_MIN, DUAL0,
  ABFT_REL, in the header's order -/
  fp : List F32
  enables : Nat
  stateMap : List Nat
  blocks : List (List F32)
  deriving DecidableEq, Repr

/-- nz (R237). -/
def Template.nz (t : Template) : Nat := t.nx + t.nu
/-- Field `i` among the binary32 header fields. -/
def Template.par (t : Template) (i : Nat) : F32 := nth fZero t.fp i
/-- TOL_P. -/
def Template.tolP (t : Template) : F32 := t.par 0
/-- TOL_D. -/
def Template.tolD (t : Template) : F32 := t.par 1
/-- TOL_G. -/
def Template.tolG (t : Template) : F32 := t.par 2
/-- FEAS_TOL. -/
def Template.feasTol (t : Template) : F32 := t.par 3
/-- PIV_REL. -/
def Template.pivRel (t : Template) : F32 := t.par 4
/-- PIV_ABS. -/
def Template.pivAbs (t : Template) : F32 := t.par 5
/-- DELTA_P. -/
def Template.deltaP (t : Template) : F32 := t.par 6
/-- DELTA_D. -/
def Template.deltaD (t : Template) : F32 := t.par 7
/-- ETA. -/
def Template.eta (t : Template) : F32 := t.par 8
/-- W_MIN. -/
def Template.wMin (t : Template) : F32 := t.par 9
/-- DUAL0. -/
def Template.dual0 (t : Template) : F32 := t.par 10
/-- ABFT_REL. -/
def Template.abftRel (t : Template) : F32 := t.par 11
/-- LE of inequality row i. -/
def Template.le (t : Template) (i : Nat) : Bool := bitAt t.enables (2 * i)
/-- UE of inequality row i. -/
def Template.ue (t : Template) (i : Nat) : Bool := bitAt t.enables (2 * i + 1)

/-- How many coefficient blocks a template of these sizes has (R239). -/
def blockCount (nx nu ni ninit : Nat) : Nat :=
  let nz := nx + nu
  nz * (nz + 1) / 2 + nz + nz + ni * (nz + 2) + nx * (nz + nx + 1) + ninit * (nx + 1)

/-- A binary32 of a record. -/
def getF32 (b : List Byte) (off : Nat) : F32 := BitVec.ofNat 32 (getLe b off 4)

/-- KIND from its code. -/
def TKind.ofCode (n : Nat) : Option TKind :=
  if n = 0 then some .geo else if n = 1 then some .ts else if n = 2 then some .opt else none
/-- KIND's code. -/
def TKind.code : TKind → Nat
  | .geo => 0 | .ts => 1 | .opt => 2

/-- A template from its bytes (R239), with the number of bytes it takes; none where KIND or a
structural field lies outside its range or an RSV field is nonzero. -/
def Template.ofBytes (b : List Byte) : Option (Template × Nat) := do
  let w := getLe b 0 4
  let kind ← TKind.ofCode (field w 0 4)
  let nx := field w 4 4
  let nu := field w 8 3
  let ni := field w 11 5
  let ninit := field w 16 4
  let maxit := field w 24 8
  let sm := getLe b 56 8
  let n := blockCount nx nu ni ninit
  guard (1 ≤ nx ∧ nx ≤ 8 ∧ 1 ≤ nu ∧ nu ≤ 4 ∧ ni ≤ 16 ∧ 1 ≤ ninit ∧ ninit ≤ nx
    ∧ 1 ≤ maxit ∧ maxit ≤ 32 ∧ field w 20 4 = 0 ∧ sm / 2 ^ 20 = 0 ∧ 64 + 32 * n ≤ b.length)
  return (⟨kind, nx, nu, ni, ninit, maxit, (List.range 12).map (fun i => getF32 b (4 + 4 * i)),
    getLe b 52 4, (List.range 5).map (fun i => field sm (4 * i) 4),
    (List.range n).map (fun i => (List.range 8).map (fun m => getF32 b (64 + 32 * i + 4 * m)))⟩,
    64 + 32 * n)

/-- One inequality row of a stage: coefficients, l, u. -/
structure QRow where
  g : List F32
  l : F32
  u : F32
  deriving DecidableEq, Repr

/-- An equality row: coefficients over z_k, over x_{k+1}, and the right-hand side. -/
structure ERow where
  a : List F32
  b : List F32
  rhs : F32
  deriving DecidableEq, Repr

/-- The problem data of one stage (R237). `h` is the full symmetric block. -/
structure QStage where
  h : List (List F32)
  q : List F32
  warm : List F32
  ineq : List QRow
  dyn : List ERow
  deriving DecidableEq, Repr

/-- Where block (a, b), a ≤ b, of H's upper triangle stands, row-major (R239). -/
def upperIndex (nz a b : Nat) : Nat := a * nz - a * (a - 1) / 2 + (b - a)

/-- One coefficient formed over a parameter vector (R237). -/
def formCoef (t : Template) (p : List F32) (i : Nat) : QM F32 := dotM ((nth [] t.blocks i).zip p)

/-- Consecutive coefficients. -/
def formCoefs (t : Template) (p : List F32) (i n : Nat) : QM (List F32) :=
  (List.range n).mapM (fun k => formCoef t p (i + k))

/-- The data of one stage (R237, R239); the last stage has no dynamics rows. -/
def formStage (t : Template) (last : Bool) (p : List F32) : QM QStage := do
  let nz := t.nz
  let nh := nz * (nz + 1) / 2
  let up ← formCoefs t p 0 nh
  let q ← formCoefs t p nh nz
  let wm ← formCoefs t p (nh + nz) nz
  let i0 := nh + 2 * nz
  let rows ← (List.range t.ni).mapM (fun r => do
    let cs ← formCoefs t p (i0 + r * (nz + 2)) (nz + 2)
    return (⟨cs.take nz, nth fZero cs nz, nth fZero cs (nz + 1)⟩ : QRow))
  let d0 := i0 + t.ni * (nz + 2)
  let dyn ← (List.range (if last then 0 else t.nx)).mapM (fun r => do
    let cs ← formCoefs t p (d0 + r * (nz + t.nx + 1)) (nz + t.nx + 1)
    return (⟨cs.take nz, (cs.drop nz).take t.nx, nth fZero cs (nz + t.nx)⟩ : ERow))
  let h := (List.range nz).map (fun a => (List.range nz).map (fun b =>
    nth fZero up (upperIndex nz (min a b) (max a b))))
  return ⟨h, q, wm, rows, dyn⟩

/-- The initial rows (R237, R239). -/
def formInit (t : Template) (p : List F32) : QM (List ERow) :=
  let nz := t.nz
  let e0 := nz * (nz + 1) / 2 + 2 * nz + t.ni * (nz + 2) + t.nx * (nz + t.nx + 1)
  (List.range t.ninit).mapM (fun r => do
    let cs ← formCoefs t p (e0 + r * (t.nx + 1)) (t.nx + 1)
    return ⟨cs.take t.nx, [], nth fZero cs t.nx⟩)

/-- A whole problem. -/
structure QProb where
  t : Template
  stages : List QStage
  init : List ERow

/-- The problem formed from its parameters (R237). -/
def formProb (t : Template) (ps : List (List F32)) (pinit : List F32) : QM QProb := do
  let stages ← ps.zipIdx.mapM (fun p => formStage t (p.2 + 1 == ps.length) p.1)
  return ⟨t, stages, ← formInit t pinit⟩

/-- The side values of one stage: per inequality row, the lower slack and dual and the upper slack
and dual (R244). -/
structure QSide where
  w : F32
  lam : F32
  v : F32
  mu : F32
  deriving DecidableEq, Repr

/-- An iterate: z by stage, initial multipliers, dynamics multipliers by stage, sides by stage. -/
structure QIter where
  z : List (List F32)
  y0 : List F32
  y : List (List F32)
  sd : List (List QSide)
  deriving DecidableEq, Repr

/-- x of a stage vector. -/
def xPart (t : Template) (z : List F32) : List F32 := z.take t.nx

/-- The first iterate (R244). -/
def firstIter (p : QProb) : QM QIter := do
  let sd ← p.stages.mapM (fun s => s.ineq.zipIdx.mapM (fun r => do
    let w ← if p.t.le r.2 then dotM ((r.1.g.zip s.warm) ++ [(fneg r.1.l, fOne)]) else pure fZero
    let v ← if p.t.ue r.2 then
        dotM ((r.1.u, fOne) :: (r.1.g.map fneg).zip s.warm) else pure fZero
    return (⟨fmax w p.t.wMin, p.t.dual0, fmax v p.t.wMin, p.t.dual0⟩ : QSide)))
  return ⟨p.stages.map (·.warm), p.init.map (fun _ => fZero),
    p.stages.map (fun s => s.dyn.map (fun _ => fZero)), sd⟩

/-- The residuals of an iterate (R244). -/
structure QRes where
  rd : List (List F32)
  re0 : List F32
  re : List (List F32)
  /-- rl and ru per stage and row; an absent side is 0 -/
  rs : List (List (F32 × F32))
  gap : F32
  rp : F32
  rdn : F32
  deriving DecidableEq, Repr

/-- Entry `k` of a list of lists. -/
def row {α : Type} (xs : List (List α)) (k : Nat) : List α := nth [] xs k

/-- rd of stage `k` (R244). -/
def dualRes (p : QProb) (x : QIter) (k : Nat) (s : QStage) : QM (List F32) :=
  let z := row x.z k
  let sides := row x.sd k
  (List.range p.t.nz).mapM (fun j => do
    let hz := (row s.h j).zip z
    let dyn := (s.dyn.zip (row x.y k)).map (fun e => (fneg (nth fZero e.1.a j), e.2))
    let prev := if k = 0 ∨ p.t.nx ≤ j then [] else
      (((p.stages[k - 1]?).map (·.dyn)).getD []).zip (row x.y (k - 1)) |>.map
        (fun e => (fneg (nth fZero e.1.b j), e.2))
    let ini := if k = 0 ∧ j < p.t.nx then
        (p.init.zip x.y0).map (fun e => (fneg (nth fZero e.1.a j), e.2)) else []
    let ineq := ((s.ineq.zip sides).zipIdx.map (fun e =>
      (if p.t.le e.2 then [(fneg e.1.2.lam, nth fZero e.1.1.g j)] else [])
      ++ (if p.t.ue e.2 then [(e.1.2.mu, nth fZero e.1.1.g j)] else []))).flatten
    dotM (hz ++ [(nth fZero s.q j, fOne)] ++ dyn ++ prev ++ ini ++ ineq))

/-- Every residual, the gap and the norms (R244). -/
def residuals (p : QProb) (x : QIter) : QM QRes := do
  let rd ← p.stages.zipIdx.mapM (fun s => dualRes p x s.2 s.1)
  let re0 ← p.init.mapM (fun e =>
    dotM ((e.a.zip (xPart p.t (row x.z 0))) ++ [(fneg e.rhs, fOne)]))
  let re ← p.stages.zipIdx.mapM (fun s => s.1.dyn.mapM (fun e =>
    dotM ((e.a.zip (row x.z s.2)) ++ (e.b.zip (xPart p.t (row x.z (s.2 + 1))))
      ++ [(fneg e.rhs, fOne)])))
  let rs ← p.stages.zipIdx.mapM (fun s => (s.1.ineq.zip (row x.sd s.2)).zipIdx.mapM (fun e => do
    let gz := e.1.1.g.zip (row x.z s.2)
    let rl ← if p.t.le e.2 then dotM (gz ++ [(fneg e.1.2.w, fOne), (fneg e.1.1.l, fOne)]) else pure fZero
    let ru ← if p.t.ue e.2 then dotM (gz ++ [(e.1.2.v, fOne), (fneg e.1.1.u, fOne)]) else pure fZero
    return (rl, ru)))
  let prods := (x.sd.map (fun ss => (ss.zipIdx.map (fun e =>
    (if p.t.le e.2 then [(e.1.w, e.1.lam)] else [])
    ++ (if p.t.ue e.2 then [(e.1.v, e.1.mu)] else []))).flatten)).flatten
  let gap ← if prods.isEmpty then pure fZero else do divM (← dotM prods) (fNat prods.length)
  let rp := fmax (fmax (fnorm re0) (fnorm re.flatten))
    (fmax (fnorm ((rs.flatten).map (·.1))) (fnorm ((rs.flatten).map (·.2))))
  return ⟨rd, re0, re, rs, gap, rp, fnorm rd.flatten⟩

/-! ### The KKT matrix and its factorisation (R238, R246) -/

/-- An unknown of the KKT system (R238). -/
inductive Unk where
  | ini (r : Nat)
  | z (k j : Nat)
  | dyn (k r : Nat)
  deriving DecidableEq, Repr

/-- The unknowns in order (R238). -/
def unknowns (t : Template) (nst : Nat) : List Unk :=
  (List.range t.ninit).map .ini ++ ((List.range nst).map (fun k =>
    (List.range t.nz).map (Unk.z k)
    ++ (if k + 1 < nst then (List.range t.nx).map (Unk.dyn k) else []))).flatten

/-- An entry of E: the coefficient of z entry (k, j) in a multiplier's row. -/
def eEntry (p : QProb) (m : Unk) (k j : Nat) : F32 :=
  match m with
  | .ini r => if k = 0 then ((p.init[r]?).map (fun e => nth fZero e.a j)).getD fZero else fZero
  | .dyn kk r =>
    match ((p.stages[kk]?).map (·.dyn)).getD [] |>.drop r with
    | e :: _ => if kk = k then nth fZero e.a j else if kk + 1 = k then nth fZero e.b j else fZero
    | [] => fZero
  | .z _ _ => fZero

/-- D of every row of a stage (R244). -/
def dRow (t : Template) (ss : List QSide) : QM (List F32) :=
  ss.zipIdx.mapM (fun e => do
    match t.le e.2, t.ue e.2 with
    | true, true => do addM (← divM e.1.lam e.1.w) (← divM e.1.mu e.1.v)
    | true, false => divM e.1.lam e.1.w
    | false, true => divM e.1.mu e.1.v
    | false, false => pure fZero)

/-- H' of a stage (R244, R246). -/
def hPrime (t : Template) (s : QStage) (ss : List QSide) : QM (List (List F32)) := do
  let d ← dRow t ss
  let gs ← (s.ineq.zip d).mapM (fun e => e.1.g.mapM (fun g => mulM e.2 g))
  (List.range t.nz).mapM (fun a => (List.range t.nz).mapM (fun b =>
    dotM ([(nth fZero (row s.h a) b, fOne)]
      ++ (gs.zip s.ineq).map (fun e => (nth fZero e.1 a, nth fZero e.2.g b))
      ++ (if a = b then [(t.deltaP, fOne)] else []))))

/-- K's entry for a pair of unknowns (R246). -/
def kEntry (p : QProb) (hp : List (List (List F32))) (a b : Unk) : F32 :=
  match a, b with
  | .z k i, .z k' j => if k = k' then nth fZero (row (row hp k) i) j else fZero
  | .z k j, m => eEntry p m k j
  | m, .z k j => eEntry p m k j
  | m, m' => if m = m' then fneg p.t.deltaD else fZero

/-- One column of the factors: d, dc, whether it was replaced, and L and U below the diagonal. -/
structure FCol where
  d : F32
  dc : F32
  reg : Bool
  l : List F32
  u : List F32
  deriving DecidableEq, Repr

/-- L[i][k] of the columns so far. -/
def lAt (cols : List FCol) (i k : Nat) : F32 := ((cols[k]?).map (fun c => nth fZero c.l (i - k - 1))).getD fZero
/-- U[i][k] of the columns so far. -/
def uAt (cols : List FCol) (i k : Nat) : F32 := ((cols[k]?).map (fun c => nth fZero c.u (i - k - 1))).getD fZero

/-- The columns `k < j` within the band of row `i`. -/
def bandBelow (bw i j : Nat) : List Nat := (List.range (j - (i - bw))).map (· + (i - bw))

/-- The stage and row of the first replaced pivot, `place` giving those of an unknown (R247). -/
def firstPivot (place : Nat → Nat × Nat) (cols : List FCol) : Option (Nat × Nat) :=
  (cols.zipIdx.find? (fun c => c.1.reg)).map (fun c => place c.2)

/-- L and U below the diagonal of column `j` whose pivot is `d` (R246). -/
def factorBelow (bw n : Nat) (k : Nat → Nat → F32) (cols : List FCol) (d : F32) (j : Nat) :
    QM (List (F32 × F32)) :=
  ((List.range (min (n - 1) (j + bw) - j)).map (· + j + 1)).mapM (fun i => do
    let num ← dotM ((k i j, fOne) :: (bandBelow bw i j).map (fun q => (fneg (lAt cols i q), uAt cols j q)))
    let l ← divM num d
    let u ← mulM l d
    return (l, u))

/-- Column `j` of the factorisation with the running dmax (R246, R247). -/
def factorCol (bw n : Nat) (pivRel pivAbs : F32) (k : Nat → Nat → F32) (pos : Nat → Bool)
    (place : Nat → Nat × Nat) (st : List FCol × F32) (j : Nat) : QM (List FCol × F32) := do
  let (cols, dm) := st
  let dm := fmax dm (fabs (k j j))
  let piv := firstPivot place cols
  let dc ← atIter 0 piv
    (dotM ((k j j, fOne) :: (bandBelow bw j j).map (fun q => (fneg (lAt cols j q), uAt cols j q))))
  let th := fmax (← atIter 0 piv (mulM pivRel dm)) pivAbs
  let sdc := if pos j then dc else fneg dc
  let reg := flt sdc th || (fcompare dc fZero).1 == .equal
  let d := if reg then (if pos j then th else fneg th) else dc
  let dm := fmax dm (fabs d)
  let lu ← atIter 0 (firstPivot place (cols ++ [⟨d, dc, reg, [], []⟩])) (factorBelow bw n k cols d j)
  return (cols ++ [⟨d, dc, reg, lu.map (·.1), lu.map (·.2)⟩], dm)

/-- The factorisation (R246). -/
def factorise (bw n : Nat) (pivRel pivAbs : F32) (k : Nat → Nat → F32) (pos : Nat → Bool)
    (place : Nat → Nat × Nat) : QM (List FCol) := do
  let r ← (List.range n).foldlM (factorCol bw n pivRel pivAbs k pos place) ([], fZero)
  return r.1

/-- Forward, diagonal and backward passes (R246). -/
def solveBand (bw n : Nat) (cols : List FCol) (b : List F32) : QM (List F32) := do
  let fwd ← (List.range n).foldlM (fun (t : List F32) j => do
    let x ← dotM ((nth fZero b j, fOne)
      :: (bandBelow bw j j).map (fun k => (fneg (lAt cols j k), nth fZero t k)))
    return t ++ [x]) []
  let dia ← (fwd.zip cols).mapM (fun e => divM e.1 e.2.d)
  (List.range n).reverse.foldlM (fun (xs : List F32) j => do
    let above := (List.range (min (n - 1) (j + bw) - j)).map (fun i =>
      (fneg (lAt cols (j + 1 + i) j), nth fZero xs i))
    let x ← dotM ((nth fZero dia j, fOne) :: above)
    return x :: xs) []

/-- The factorisation checksum (R248), whose quantities are no working data: it fails for a row
whose quantities are not finite or differ by more than the tolerance. -/
def checksumOk (bw n : Nat) (abftRel : F32) (k : Nat → Nat → F32) (cols : List FCol) : Bool :=
  let t := (List.range n).map (fun q =>
    (exactSum (fOne :: ((cols[q]?).map (·.l)).getD [])).val)
  (List.range n).all (fun j =>
    let dj := ((cols[j]?).map (·.d)).getD fZero
    let zt := (dj, nth fZero t j) :: (bandBelow bw j j).map (fun q => (uAt cols j q, nth fZero t q))
    let delta := match cols[j]? with
      | some c => if c.reg then (fsub c.d c.dc).val else fZero
      | none => fZero
    let ks := (List.range (min n (j + bw + 1) - (j - bw))).map (fun i => k j (j - bw + i))
    let zj := (exactDot zt).val
    let cj := (exactSum (ks ++ [delta])).val
    let mj := (exactDot ((zt.map (fun e => (fabs e.1, fabs e.2)))
      ++ (ks ++ [delta]).map (fun x => (fabs x, fOne)))).val
    let df := (fsub cj zj).val
    isFinite32 (nth fZero t j) && isFinite32 zj && isFinite32 cj && isFinite32 mj && isFinite32 df
    && fle (fabs df) (fmul abftRel mj).val)

/-- BW: the largest |i - j| over the nonzero structure of the KKT matrix (R238), from the
template: a z block, a stage's dynamics multipliers, and the following stage's states. -/
def bandWidth (t : Template) (nst : Nat) : Nat :=
  let nz := t.nz
  let us := (unknowns t (min nst 3)).zipIdx
  let blk (i : Nat) : Bool := (nth [] t.blocks i).any (fun x => fabs x != fZero)
  let nh := nz * (nz + 1) / 2
  let i0 := nh + 2 * nz
  let d0 := i0 + t.ni * (nz + 2)
  let e0 := d0 + t.nx * (nz + t.nx + 1)
  let zz (a b : Nat) : Bool :=
    blk (upperIndex nz (min a b) (max a b))
    || (List.range t.ni).any (fun r => blk (i0 + r * (nz + 2) + a) && blk (i0 + r * (nz + 2) + b))
  let nonzero (a b : Unk) : Bool :=
    match a, b with
    | .z k i, .z k' j => k == k' && zz i j
    | .z k j, .ini r => k == 0 && decide (j < t.nx) && blk (e0 + r * (t.nx + 1) + j)
    | .z k j, .dyn kk r =>
      (kk == k && blk (d0 + r * (nz + t.nx + 1) + j))
      || (kk + 1 == k && decide (j < t.nx) && blk (d0 + r * (nz + t.nx + 1) + nz + j))
    | _, _ => false
  (us.map (fun a => us.foldl (fun m b =>
    if nonzero a.1 b.1 then max m (max (a.2 - b.2) (b.2 - a.2)) else m) 0)).foldl max 0

/-! ### Directions and steps (R244) -/

/-- A direction: dz, dy0, dy, and dw, dlam, dv, dmu. -/
abbrev QDir := QIter

/-- cl and cu per stage and row. -/
abbrev QCen := List (List (F32 × F32))

/-- `direction` (R244). -/
def direction (p : QProb) (x : QIter) (r : QRes) (bw : Nat) (us : List Unk) (cols : List FCol)
    (c : QCen) : QM QDir := do
  let rho ← p.stages.zipIdx.mapM (fun s => (row x.sd s.2).zipIdx.mapM (fun e => do
    let (cl, cu) := nth (fZero, fZero) (row c s.2) e.2
    let (rl, ru) := nth (fZero, fZero) (row r.rs s.2) e.2
    let a ← if p.t.le e.2 then do
        divM (← dotM [(cl, fOne), (fneg e.1.lam, rl)]) e.1.w else pure fZero
    let b ← if p.t.ue e.2 then do
        divM (← dotM [(cu, fOne), (e.1.mu, ru)]) e.1.v else pure fZero
    subM a b))
  let rhs ← us.mapM (fun u => match u with
    | .ini i => pure (fneg (nth fZero r.re0 i))
    | .dyn k i => pure (fneg (nth fZero (row r.re k) i))
    | .z k j =>
      let s := p.stages[k]?
      let gs := ((s.map (·.ineq)).getD []).zip (row rho k)
      dotM ((fneg (nth fZero (row r.rd k) j), fOne) :: gs.map (fun e => (nth fZero e.1.g j, e.2))))
  let sol ← solveBand bw us.length cols rhs
  let vals := us.zip sol
  let pick (f : Unk → Bool) : List F32 := (vals.filter (fun e => f e.1)).map (·.2)
  let nst := p.stages.length
  let dz := (List.range nst).map (fun k => pick (fun u => match u with
    | .z k' _ => k' == k
    | _ => false))
  let dy := (List.range nst).map (fun k => (pick (fun u => match u with
    | .dyn k' _ => k' == k
    | _ => false)).map fneg)
  let dy0 := (pick (fun u => match u with
    | .ini _ => true
    | _ => false)).map fneg
  let sd ← p.stages.zipIdx.mapM (fun s => (s.1.ineq.zip (row x.sd s.2)).zipIdx.mapM (fun e => do
    let g := e.1.1.g
    let q := e.1.2
    let (cl, cu) := nth (fZero, fZero) (row c s.2) e.2
    let (rl, ru) := nth (fZero, fZero) (row r.rs s.2) e.2
    let dw ← if p.t.le e.2 then dotM (g.zip (row dz s.2) ++ [(rl, fOne)]) else pure fZero
    let dv ← if p.t.ue e.2 then dotM ((g.map fneg).zip (row dz s.2) ++ [(fneg ru, fOne)]) else pure fZero
    let dl ← if p.t.le e.2 then do divM (← dotM [(cl, fOne), (fneg q.lam, dw)]) q.w else pure fZero
    let dm ← if p.t.ue e.2 then do divM (← dotM [(cu, fOne), (fneg q.mu, dv)]) q.v else pure fZero
    return (⟨dw, dl, dv, dm⟩ : QSide)))
  return ⟨dz, dy0, dy, sd⟩

/-- The (value, change) pairs that limit a step, in the order w, v, lam, mu (R244). -/
def stepPairs (t : Template) (x d : QIter) : List (F32 × F32) :=
  let both := ((x.sd.zip d.sd).map (fun e => (e.1.zip e.2).zipIdx)).flatten
  let lo := both.filter (fun e => t.le e.2)
  let up := both.filter (fun e => t.ue e.2)
  lo.map (fun e => (e.1.1.w, e.1.2.w)) ++ up.map (fun e => (e.1.1.v, e.1.2.v))
  ++ lo.map (fun e => (e.1.1.lam, e.1.2.lam)) ++ up.map (fun e => (e.1.1.mu, e.1.2.mu))

/-- `step` (R244). -/
def stepLen (t : Template) (x d : QIter) : QM F32 :=
  (stepPairs t x d).foldlM (fun a e => do
    if flt e.2 fZero then
      let q ← divM e.1 e.2
      return fmin a (fneg q)
    else return a) fOne

/-- `x + a d`, each one rounding. -/
def axpy (a : F32) (x d : F32) : QM F32 := dotM [(x, fOne), (a, d)]

/-- The iterate moved along a direction (R244). -/
def moveIter (a : F32) (x d : QIter) : QM QIter := do
  let ax (p q : List F32) : QM (List F32) := (p.zip q).mapM (fun e => axpy a e.1 e.2)
  let z ← (x.z.zip d.z).mapM (fun e => ax e.1 e.2)
  let y0 ← ax x.y0 d.y0
  let y ← (x.y.zip d.y).mapM (fun e => ax e.1 e.2)
  let sd ← (x.sd.zip d.sd).mapM (fun e => (e.1.zip e.2).mapM (fun q => do
    return (⟨← axpy a q.1.w q.2.w, ← axpy a q.1.lam q.2.lam, ← axpy a q.1.v q.2.v,
      ← axpy a q.1.mu q.2.mu⟩ : QSide)))
  return ⟨z, y0, y, sd⟩

/-- The affine centring terms (R244, first call). -/
def affineCen (t : Template) (x : QIter) : QM QCen :=
  x.sd.mapM (fun ss => ss.zipIdx.mapM (fun e => do
    let cl ← if t.le e.2 then do pure (fneg (← mulM e.1.w e.1.lam)) else pure fZero
    let cu ← if t.ue e.2 then do pure (fneg (← mulM e.1.v e.1.mu)) else pure fZero
    return (cl, cu)))

/-- The corrected centring terms (R244, second call). -/
def correctedCen (t : Template) (x d : QIter) (sm : F32) : QM QCen :=
  (x.sd.zip d.sd).mapM (fun e => (e.1.zip e.2).zipIdx.mapM (fun q => do
    let a := q.1.1
    let b := q.1.2
    let cl ← if t.le q.2 then dotM [(sm, fOne), (fneg a.w, a.lam), (fneg b.w, b.lam)] else pure fZero
    let cu ← if t.ue q.2 then dotM [(sm, fOne), (fneg a.v, a.mu), (fneg b.v, b.mu)] else pure fZero
    return (cl, cu)))

/-- sa, with each bracket rounded (R244). -/
def affineSum (t : Template) (x d : QIter) (aP : F32) : QM F32 := do
  let both := ((x.sd.zip d.sd).map (fun e => (e.1.zip e.2).zipIdx)).flatten
  let lo ← (both.filter (fun e => t.le e.2)).mapM (fun e => do
    return (← axpy aP e.1.1.w e.1.2.w, ← axpy aP e.1.1.lam e.1.2.lam))
  let up ← (both.filter (fun e => t.ue e.2)).mapM (fun e => do
    return (← axpy aP e.1.1.v e.1.2.v, ← axpy aP e.1.1.mu e.1.2.mu))
  dotM (lo ++ up)

/-- How a solve ended (R264). -/
inductive QStatus where
  | converged | iterLimit | deadlineKept | deadlineDropped | infeasible | nonfinite | corridor | aborted
  deriving DecidableEq, Repr

/-- STATUS's code (R264). -/
def QStatus.code : QStatus → Nat
  | .converged => 0 | .iterLimit => 1 | .deadlineKept => 2 | .deadlineDropped => 3
  | .infeasible => 4 | .nonfinite => 5 | .corridor => 6 | .aborted => 7

/-- Statuses 0x0 to 0x2 keep the candidate (R264). -/
def QStatus.keeps (s : QStatus) : Bool := s.code ≤ 2

/-- What the iterations gave. -/
structure QEnd where
  status : QStatus
  iters : Nat
  z : List (List F32)
  rp : F32
  rdn : F32
  gap : F32
  piv : Option (Nat × Nat)
  numeric : Bool
  deriving DecidableEq, Repr

/-- Stage and row of an unknown (R247). -/
def unkPlace (t : Template) : Unk → Nat × Nat
  | .ini r => (0, r)
  | .z k j => (k, (if k = 0 then t.ninit else 0) + j)
  | .dyn k r => (k, (if k = 0 then t.ninit else 0) + t.nz + r)

/-- The rest of an iteration after a sound factorisation (R244): the two directions and the move. -/
def iterateStep (p : QProb) (x : QIter) (r : QRes) (bw : Nat) (us : List Unk) (cols : List FCol)
    (piv : Option (Nat × Nat)) : QM (Option QIter × Option (Nat × Nat)) := do
  let c1 ← affineCen p.t x
  let d1 ← abandonable (direction p x r bw us cols c1)
  let m := (stepPairs p.t x d1).length / 2
  if m = 0 then
    return (some (← moveIter fOne x d1), piv)
  let aP ← stepLen p.t x d1
  let sa ← affineSum p.t x d1 aP
  let rr ← divM (← divM sa (fNat m)) r.gap
  let r2 ← mulM rr rr
  let sig ← mulM r2 rr
  let sm ← mulM sig r.gap
  let c2 ← correctedCen p.t x d1 sm
  let d2 ← abandonable (direction p x r bw us cols c2)
  let a := fmin fOne (← mulM p.t.eta (← stepLen p.t x d2))
  return (some (← moveIter a x d2), piv)

/-- One iteration after the tests: the factorisation, its checksum, and the next iterate; an iterate
of none where the checksum fails twice on equal factors (R244, R250), `bad` where the silicon makes it fail so. -/
def iterate (p : QProb) (x : QIter) (r : QRes) (bad : Bool) : QM (Option QIter × Option (Nat × Nat)) := do
  let nst := p.stages.length
  let us := unknowns p.t nst
  let bw := bandWidth p.t nst
  let hp ← (p.stages.zip x.sd).mapM (fun e => hPrime p.t e.1 e.2)
  let uat (i : Nat) : Unk := nth (.ini 0) us i
  let k (i j : Nat) : F32 := kEntry p hp (uat i) (uat j)
  let pos (j : Nat) : Bool := match uat j with
    | .z _ _ => true
    | _ => false
  let place (j : Nat) : Nat × Nat := unkPlace p.t (uat j)
  let cols ← abandonable (factorise bw us.length p.t.pivRel p.t.pivAbs k pos place)
  let piv := firstPivot place cols
  if bad || !checksumOk bw us.length p.t.abftRel k cols then return (none, piv)
  atIter 0 piv (iterateStep p x r bw us cols piv)

/-- The end of a solve whose deadline has passed: the iterate of the iteration's start (R254). -/
def deadlineEnd (p : QProb) (it : Nat) (x : QIter) (r : QRes) (piv : Option (Nat × Nat)) : QEnd :=
  ⟨if fle r.rp p.t.feasTol then .deadlineKept else .deadlineDropped, it, x.z, r.rp, r.rdn, r.gap, piv, false⟩

/-- A computation whose end by an error is a result. -/
def attempt {α : Type} (m : QM α) : QM (Except QErr α) :=
  tryCatch (do return .ok (← m)) (fun e => return .error e)

/-- The iterations from number `it` (R244, R254); `bad` is the iteration whose checksum the silicon makes fail
twice on equal factors (R250). -/
def iterations (p : QProb) (bad : Option Nat) : Nat → Nat → QIter → Option (Nat × Nat) → QM QEnd
  | 0, it, x, piv => do
    let r ← atIter it piv (residuals p x)
    let st := if fle r.rdn p.t.tolD && fle r.rp p.t.tolP && fle r.gap p.t.tolG then QStatus.converged
      else if fle r.rp p.t.feasTol then .iterLimit else .infeasible
    return ⟨st, it, x.z, r.rp, r.rdn, r.gap, piv, false⟩
  | f + 1, it, x, piv => do
    let r ← atIter it piv (residuals p x)
    if fle r.rdn p.t.tolD && fle r.rp p.t.tolP && fle r.gap p.t.tolG then
      return ⟨.converged, it, x.z, r.rp, r.rdn, r.gap, piv, false⟩
    else if (← get).left == some 0 then return deadlineEnd p it x r piv
    else
      match ← attempt (atIter it piv (iterate p x r (bad == some it))) with
      | .error e => if e.late then return deadlineEnd p it x r e.piv else throw e
      | .ok (none, pv) => return ⟨.infeasible, it, x.z, r.rp, r.rdn, r.gap, piv.or pv, true⟩
      | .ok (some y, pv) => iterations p bad f (it + 1) y (piv.or pv)

/-- OBJ (R245). -/
def objective (p : QProb) (z : List (List F32)) : QM F32 := do
  let parts ← p.stages.zipIdx.mapM (fun s => do
    let zk := row z s.2
    let hz ← s.1.h.mapM (fun h => dotM (h.zip zk))
    let hh ← hz.mapM (fun x => mulM fHalf x)
    return hh.zip zk ++ s.1.q.zip zk)
  dotM parts.flatten

/-- A whole solve after its problem's parameters: the end and OBJ, or where a working value was not
finite (R64, R244, R251); with what the item carries. -/
def solveQP (t : Template) (ps : List (List F32)) (pinit : List F32) (bad : Option Nat)
    (q : QSt) : Except QErr (QEnd × F32) × QSt :=
  let m : QM (QEnd × F32) := do
    let p ← formProb t ps pinit
    let x ← firstIter p
    let e ← iterations p bad t.maxit 0 x none
    let o ← atIter e.iters e.piv (objective p e.z)
    return (e, o)
  (ExceptT.run m).run q

/-- The template limits that R239 checks at load beyond the header's ranges. -/
def Template.ok (t : Template) : Bool :=
  let all := t.fp ++ t.blocks.flatten
  let gt0 (x : F32) : Bool := flt fZero x
  all.all isFinite32
  && gt0 t.tolP && gt0 t.tolD && gt0 t.tolG && gt0 t.feasTol && gt0 t.abftRel && gt0 t.pivRel
  && gt0 t.pivAbs && gt0 t.wMin && gt0 t.dual0
  && !flt t.deltaP fZero && !flt t.deltaD fZero && gt0 t.eta && flt t.eta fOne
  && (List.range t.ni).all (fun i => t.le i || t.ue i)
  && bandWidth t 3 ≤ 23
  && t.stateMap.all (fun i => i == 15 || i < t.nz)

end Sys2Proof.Machine
end

