-- ==== Sys2Proof/Machine/Smooth.lean ====
section
/-!
DEFINITION. Smoothing and time scaling around the solver (R233 to R236, R240 to R242, R255 to
R264): stages and parameters of GEO, TS and OPT, corridors, EMIT's trajectory and its re-check
samples, KEY, and the records they write.
-/
namespace Sys2Proof.Machine

open Sys2Proof

/-- A solve order (R235). -/
structure SolveOrder where
  cand : Nat
  family : Nat
  kind : Nat
  rank : Nat
  ord : Nat
  phaseEpoch : Nat
  solveDl : Nat
  deriving DecidableEq, Repr

/-- The 32 bytes of a solve order (R235). -/
def SolveOrder.bytes (o : SolveOrder) : List Byte :=
  leBytes 4 o.cand ++ leBytes 1 (o.family + 16 * o.kind) ++ leBytes 1 o.rank ++ leBytes 2 0
  ++ leBytes 4 o.ord ++ leBytes 4 o.phaseEpoch ++ leBytes 8 o.solveDl ++ zeroBytes 8

/-- A solve order read back (R235). -/
def SolveOrder.ofBytes (b : List Byte) : SolveOrder :=
  ⟨getLe b 0 4, getLe b 4 1 % 16, getLe b 4 1 / 16, getLe b 5 1, getLe b 8 4, getLe b 12 4, getLe b 16 8⟩

/-- The 64-byte result of a QE command (R264). -/
structure QResult where
  cand : Nat
  status : QStatus
  kind : Nat
  pivot : Option (Nat × Nat)
  retried : Bool
  ieee : FFlags
  iter : Nat
  nst : Nat
  obj : F32
  rp : F32
  rd : F32
  gap : F32
  nt : Nat
  stopj : Nat
  deriving DecidableEq, Repr

/-- The result's bytes (R264). -/
def QResult.bytes (r : QResult) : List Byte :=
  leBytes 4 r.cand ++ leBytes 1 (r.status.code + 16 * r.kind)
  ++ leBytes 1 (maskOf [r.pivot.isSome, r.retried, r.ieee.v, r.ieee.z, r.ieee.o, r.ieee.u, r.ieee.x])
  ++ leBytes 1 r.iter ++ leBytes 1 r.nst
  ++ leBytes 2 ((r.pivot.map (·.1)).getD 0xFFFF) ++ leBytes 2 ((r.pivot.map (·.2)).getD 0xFF)
  ++ leBytes 4 r.obj.toNat ++ leBytes 4 r.rp.toNat ++ leBytes 4 r.rd.toNat ++ leBytes 4 r.gap.toNat
  ++ leBytes 2 r.nt ++ leBytes 2 r.stopj ++ zeroBytes 32

/-- The reference sample of a stage, converted (R241, R255). -/
structure Ref where
  x : F32
  y : F32
  psi : F32
  cos : F32
  sin : F32
  kappa : F32
  speed : F32
  art1 : F32
  art2 : F32
  deriving DecidableEq, Repr

/-- A geometric solution the QE holds for TS and EMIT (R240, R255). -/
structure GeoSol where
  cand : Nat
  order : SolveOrder
  nst : Nat
  reverse : Bool
  refs : List Ref
  s : List F32
  ds : List F32
  z : List (List F32)
  map : List Nat
  res : QResult
  /-- a conversion of its input saturated (R259) -/
  sat : Bool
  deriving DecidableEq, Repr

/-- A time-scaling solution the QE holds for EMIT (R240): its states' places, its stage vectors, its result. -/
structure TsSol where
  map : List Nat
  z : List (List F32)
  res : QResult
  deriving DecidableEq, Repr

/-- The anchor of conversions: the snapshot ego (R257, R259). -/
structure Anchor where
  x : Int
  y : Int
  psi : Nat
  deriving DecidableEq, Repr

/-- The signed code of ART_k of a sample (R77). -/
def Sample.art (p : Sample) (k : Nat) : Int := diffA16 (p.body (k - 1)).h (p.body k).h

/-- A sample's reference values; `u` is its unwrapped heading code (R241, R259). -/
def refOf (an : Anchor) (nbody : Nat) (p : Sample) (u : Int) : QM Ref := do
  let b := p.body 0
  let (co, si) := trig b.h
  return ⟨← anchoredM b.x an.x, ← anchoredM b.y an.y, ← radM u, ← d32M co, ← d32M si,
    ← k16M p.kappa, ← v16M (speedMag p.v),
    ← (if 2 ≤ nbody then radM (p.art 1) else pure fZero),
    ← (if 3 ≤ nbody then radM (p.art 2) else pure fZero)⟩

/-- The running state of the stage choice of R240. -/
structure KeepSt where
  kept : List Nat
  s : List F32
  ds : List F32
  acc : F32

/-- The kept samples with s and ds (R240). -/
def keepStages (dsMin : F32) (xy : List (F32 × F32)) : QM KeepSt :=
  (List.range (xy.length - 1)).foldlM (fun (st : KeepSt) (n : Nat) => do
    let i := n + 1
    let a := nth (fZero, fZero) xy n
    let b := nth (fZero, fZero) xy i
    let dx ← subM b.1 a.1
    let dy ← subM b.2 a.2
    let q2 ← dotM [(dx, dx), (dy, dy)]
    let c ← sqrtM q2
    let acc ← addM st.acc c
    if fle dsMin acc || (i + 1 == xy.length && flt fZero acc) then
      let s ← addM (nth fZero st.s (st.s.length - 1)) acc
      return ⟨st.kept ++ [i], st.s ++ [s], st.ds ++ [acc], fZero⟩
    else return { st with acc := acc }) ⟨[0], [fZero], [], fZero⟩

/-- The widest run of consecutive FREE offsets that contains j0 (R151): j from -ncorr to ncorr,
`free` by index j + ncorr. None without a FREE offset. Variant v starts at v (NCORR / 4), odd v on the positive
side; j0 is the FREE offset nearest that start, the lower on a tie (log entry 113). -/
def corridorRun (ncorr variant : Nat) (free : List Bool) : Option (Int × Int) :=
  let js : List Int := (List.range (2 * ncorr + 1)).map (fun (i : Nat) => (i : Int) - (ncorr : Int))
  let isFree (j : Int) : Bool := decide (-(ncorr : Int) ≤ j) && nth false free (j + (ncorr : Int)).toNat
  let start : Int := (variant * (ncorr / 4) : Nat) * (if variant % 2 = 1 then 1 else -1)
  let closest := (js.filter isFree).foldl (fun (best : Option Int) j =>
    match best with
    | none => some j
    | some b =>
      let dj := (j - start).natAbs
      let db := (b - start).natAbs
      if dj < db ∨ (dj = db ∧ j < b) then some j else some b) none
  closest.map (fun j0 =>
    let up := ((List.range (2 * ncorr + 1)).takeWhile (fun (n : Nat) => isFree (j0 + (n : Int)))).length
    let down := ((List.range (2 * ncorr + 1)).takeWhile (fun (n : Nat) => isFree (j0 - (n : Int)))).length
    (j0 - ((down - 1 : Nat) : Int), j0 + ((up - 1 : Nat) : Int)))

/-- clo and chi of a corridor (R242). -/
def corridorBounds (corrStep : Nat) (r : Int × Int) : QM (F32 × F32) := do
  let st ← p32M corrStep
  return (← mulM (fOfScaled r.1 0).val st, ← mulM (fOfScaled r.2 0).val st)

/-- What a GEO or OPT SOLVE needs of the image (R240 to R242). -/
structure GeoIn where
  t : Template
  nbody : Nat
  dsMin : F32
  ncorr : Nat
  corrStep : Nat
  ego : Ego

/-- What forming a GEO problem gave: kept indices, references, s, ds, parameters; or no corridor. -/
inductive GeoForm where
  | still (refs : List Ref)
  | blocked (nst : Nat)
  | ready (kept : List Nat) (refs : List Ref) (s ds : List F32) (ps : List (List F32)) (pinit : List F32)

/-- The parameters of GEO (R240 to R242). `free i` gives the FREE flags of input sample `i`'s
offset poses. -/
def geoForm (g : GeoIn) (an : Anchor) (ps : List Sample) (free : Nat → List Bool) : QM GeoForm := do
  let us := unwrapHeadings an.psi (ps.map (fun p => (p.body 0).h))
  let refs ← (ps.zip us).mapM (fun e => refOf an g.nbody e.1 e.2)
  let st ← keepStages g.dsMin (refs.map (fun r => (r.x, r.y)))
  let nst := st.kept.length
  if nst = 1 then return .still refs
  let runs := st.kept.map (fun i => corridorRun g.ncorr 0 (free i))
  match runs.mapM id with
  | none => return .blocked nst
  | some rs =>
    let cs ← rs.mapM (corridorBounds g.corrStep)
    let kr := st.kept.map (fun i => nth ⟨fZero, fZero, fZero, fZero, fZero, fZero, fZero, fZero, fZero⟩ refs i)
    let pv := (kr.zip cs).zipIdx.map (fun e =>
      [fOne, e.1.1.kappa, nth fZero st.ds e.2, e.1.1.speed, e.1.1.art1, e.1.1.art2, e.1.2.1, e.1.2.2])
    match kr with
    | [] => return .blocked nst
    | r0 :: _ =>
      let e0 ← dotM [(fneg r0.x, fneg r0.sin), (fneg r0.y, r0.cos)]
      let pe ← radM (unwrapOne an.psi g.ego.heading)
      let dpsi ← subM pe r0.psi
      let a1 ← if 2 ≤ g.nbody then do subM (← radM (signed 16 g.ego.art1)) r0.art1 else pure fZero
      let a2 ← if 3 ≤ g.nbody then do subM (← radM (signed 16 g.ego.art2)) r0.art2 else pure fZero
      let dk ← subM (← k16M g.ego.curv) r0.kappa
      return .ready st.kept kr st.s st.ds pv [fOne, e0, dpsi, a1, a2, dk, fZero, fZero]

/-- A component of a stage vector that STATE_MAP may mark absent (R239, R255). -/
def mapped (m : List Nat) (i : Nat) (z : List F32) : F32 :=
  let k := nth 15 m i
  if k = 15 then fZero else nth fZero z k

/-- The stage geometry (R255). -/
structure StageGeo where
  x : F32
  y : F32
  psi : F32
  k : F32
  a1 : F32
  a2 : F32
  deriving DecidableEq, Repr

/-- The geometry of a stage; `opt` for the OPT rule (R255). -/
def stageGeo (opt : Bool) (m : List Nat) (r : Ref) (z : List F32) : QM StageGeo := do
  let e := mapped m 0 z
  let x ← if opt then pure r.x else dotM [(r.x, fOne), (fneg e, r.sin)]
  let y ← if opt then addM r.y e else dotM [(r.y, fOne), (e, r.cos)]
  return ⟨x, y, ← addM r.psi (mapped m 1 z), ← addM r.kappa (mapped m 2 z),
    ← addM r.art1 (mapped m 3 z), ← addM r.art2 (mapped m 4 z)⟩

/-- The parameters of TS from a GEO solution (R241); `safe` for KIND SAFE. -/
def tsParams (g : GeoSol) (safe : Bool) (e : Ego) : QM (List (List F32) × List F32) := do
  let ps ← (g.refs.zip g.z).zipIdx.mapM (fun r => do
    let st ← stageGeo false g.map r.1.1 r.1.2
    let ds := nth fZero g.ds r.2
    let v2 ← mulM r.1.1.speed r.1.1.speed
    return [fOne, st.k, fabs st.k, ds, r.1.1.speed, v2,
      if r.2 + 1 = g.nst then fOne else fZero, if safe then fOne else fZero])
  let v0 ← v16M (speedMag e.speed)
  return (ps, [fOne, v0, ← mulM v0 v0, ← v16M e.accel, fZero, fZero, fZero, fZero])

/-! ### EMIT (R255 to R260) -/

/-- A trajectory sample (R257). -/
structure TSample where
  t : Nat
  x : F32
  y : F32
  psi : F32
  v : F32
  a : F32
  kappa : F32
  art1 : F32
  art2 : F32
  deriving DecidableEq, Repr

/-- The 40 bytes of a trajectory sample (R257). -/
def TSample.bytes (p : TSample) : List Byte :=
  leBytes 4 p.t ++ leBytes 4 p.x.toNat ++ leBytes 4 p.y.toNat ++ leBytes 4 p.psi.toNat
  ++ leBytes 4 p.v.toNat ++ leBytes 4 p.a.toNat ++ leBytes 4 p.kappa.toNat ++ leBytes 4 p.art1.toNat
  ++ leBytes 4 p.art2.toNat ++ zeroBytes 4

/-- A trajectory sample read back (R257). -/
def TSample.ofBytes (b : List Byte) : TSample :=
  ⟨getLe b 0 4, getF32 b 4, getF32 b 8, getF32 b 12, getF32 b 16, getF32 b 20, getF32 b 24, getF32 b 28, getF32 b 32⟩

/-- Stage times with sb (R256): t, sb by stage, and kstop. -/
structure StageTimes where
  t : List F32
  sb : List F32
  kstop : Option Nat
  deriving DecidableEq, Repr

/-- The stages from `k` on, `f` of them (R256). -/
def stageTimes (b ds : List F32) (vstop : F32) : Nat → Nat → StageTimes → QM StageTimes
  | 0, _, st => pure st
  | f + 1, k, st => do
    let s0 ← sqrtM (fmax (nth fZero b k) fZero)
    let s1 ← sqrtM (fmax (nth fZero b (k + 1)) fZero)
    let den ← addM s0 s1
    let st := { st with sb := setAt (setAt st.sb k s0) (k + 1) s1 }
    if fle den vstop then return { st with kstop := some k }
    else
      let d := nth fZero ds k
      let dt ← divM (← addM d d) den
      let t ← addM (nth fZero st.t k) dt
      stageTimes b ds vstop f (k + 1) { st with t := st.t ++ [t] }

/-- Sample `j` at stage `k`, `tau` after the start (R256). -/
def sampleAt (g : List StageGeo) (b ds sb t : List F32) (j k : Nat) (tau : F32) (reverse : Bool) :
    QM TSample := do
  let z : StageGeo := ⟨fZero, fZero, fZero, fZero, fZero, fZero⟩
  let p := nth z g k
  let q := nth z g (k + 1)
  let d := nth fZero ds k
  let s0 := nth fZero sb k
  let tp ← subM tau (nth fZero t k)
  let nb ← subM (nth fZero b (k + 1)) (nth fZero b k)
  let a ← divM nb (← addM d d)
  let t2 ← mulM tp tp
  let h ← mulM a t2
  let sg ← dotM [(s0, tp), (h, fHalf)]
  let sg := fmin (fmax sg fZero) d
  let f ← divM sg d
  let ip (u w : F32) : QM F32 := do
    let dq ← subM w u
    dotM [(u, fOne), (f, dq)]
  let x ← ip p.x q.x
  let y ← ip p.y q.y
  let psi ← ip p.psi q.psi
  let kk ← ip p.k q.k
  let a1 ← ip p.a1 q.a1
  let a2 ← ip p.a2 q.a2
  let v ← dotM [(s0, fOne), (a, tp)]
  let v := if reverse && fabs v != fZero then fneg v else v
  return ⟨10 * j, x, y, psi, v, a, kk, a1, a2⟩

/-- Held sample `j` (R256). -/
def heldSample (j : Nat) (g : StageGeo) : TSample := ⟨10 * j, g.x, g.y, g.psi, fZero, fZero, g.k, g.a1, g.a2⟩

/-- The samples from `j` on, `f` of them at most (R256): the samples, and the first held one. -/
def emitFrom (g : List StageGeo) (b ds : List F32) (st : StageTimes) (nst : Nat) (reverse : Bool) :
    Nat → Nat → List TSample → Option Nat → QM (List TSample × Option Nat)
  | 0, _, acc, stop => pure (acc, stop)
  | f + 1, j, acc, stop => do
    let tau ← divM (fNat j) f100
    let z : StageGeo := ⟨fZero, fZero, fZero, fZero, fZero, fZero⟩
    let hold (k : Nat) : QM (List TSample × Option Nat) :=
      emitFrom g b ds st nst reverse f (j + 1) (acc ++ [heldSample j (nth z g k)])
        (match stop with
         | some s => some s
         | none => some j)
    if nst = 1 then hold 0
    else
      let top := st.kstop.getD (nst - 2)
      let k := ((List.range (top + 1)).filter (fun i => fle (nth fInf st.t i) tau)).foldl max 0
      if st.kstop == some k && fle (nth fInf st.t k) tau then hold k
      else if st.kstop.isNone && flt (nth fInf st.t (nst - 1)) tau then pure (acc, stop)
      else
        let s ← sampleAt g b ds st.sb st.t j k tau reverse
        emitFrom g b ds st nst reverse f (j + 1) (acc ++ [s]) stop

/-- A trajectory (R257). -/
structure Traj where
  cand : Nat
  kind : Nat
  anchor : Anchor
  w : Nat
  tend : F32
  objGeo : F32
  objTs : F32
  stGeo : Nat
  stTs : Nat
  itGeo : Nat
  itTs : Nat
  pivot : Bool
  stopj : Option Nat
  samples : List TSample
  deriving DecidableEq, Repr

/-- The header and samples of a trajectory in memory (R257). -/
def Traj.bytes (t : Traj) : List Byte :=
  leBytes 4 t.cand ++ leBytes 1 t.kind ++ leBytes 1 (boolNat t.stopj.isSome)
  ++ leBytes 2 t.samples.length ++ leBytes 4 (code 32 t.anchor.x) ++ leBytes 4 (code 32 t.anchor.y)
  ++ leBytes 2 t.anchor.psi ++ leBytes 2 (t.stopj.getD 0xFFFF) ++ leBytes 8 t.w
  ++ leBytes 4 t.tend.toNat ++ leBytes 4 t.objGeo.toNat ++ leBytes 4 t.objTs.toNat
  ++ leBytes 1 (t.stGeo + 16 * t.stTs) ++ leBytes 1 t.itGeo ++ leBytes 1 t.itTs
  ++ leBytes 1 (boolNat t.pivot) ++ zeroBytes 20
  ++ (t.samples.map TSample.bytes).flatten

/-- A trajectory read back from memory (R257). -/
def Traj.ofBytes (b : List Byte) : Traj :=
  let nt := getLe b 6 2
  ⟨getLe b 0 4, getLe b 4 1 % 16, ⟨getSle b 8 4, getSle b 12 4, getLe b 16 2⟩, getLe b 20 8,
   getF32 b 28, getF32 b 32, getF32 b 36, getLe b 40 1 % 16, getLe b 40 1 / 16, getLe b 41 1,
   getLe b 42 1, bitAt (getLe b 43 1) 0,
   if bitAt (getLe b 5 1) 0 then some (getLe b 18 2) else none,
   (records 40 nt (b.drop 64)).map TSample.ofBytes⟩

/-- Binary32 radians to A16 (R259). -/
def toA16M (x : F32) : QM Nat := do return code 16 (← toP32M (← mulM x f8Pi))

/-- Binary32 to anchored P32 (R259). -/
def toAnchoredM (x : F32) (anchor : Int) : QM Sat := do
  let r := satP32 (anchor + (← toP32M x))
  let _ ← keepSat r
  return r

/-- Binary32 to an i16 of a scaled format (R259). -/
def toI16M (scale x : F32) : QM Sat := do
  let r := satI16 (← toP32M (← mulM x scale))
  let _ ← keepSat r
  return r

/-- The headings of every body of a trajectory sample (R258, R260). -/
def bodyPsis (nbody : Nat) (p : TSample) : QM (List F32) := do
  let p1 ← subM p.psi p.art1
  let p2 ← subM p1 p.art2
  return [p.psi, p1, p2].take nbody

/-- 2^-13 rad (R260). -/
def fTvc : F32 := 0x39000000#32
/-- 1.0009765625 (R260). -/
def fGrow : F32 := 0x3F802000#32

/-- `side` (R260): (bx, by) per body. -/
def sweepSide (ego : List EgoBody) (p n : TSample) (pp np : List F32) : QM (List (F32 × F32)) := do
  let dx := fabs (← subM n.x p.x)
  let dy := fabs (← subM n.y p.y)
  let s1 ← addM dx dy
  let al ← mulM s1 fHalf
  let tv ← (np.zip pp).mapM (fun e => do addM (fabs (← subM e.1 e.2)) fTvc)
  let la ← mulM al (nth fZero tv 0)
  let r ← ego.zipIdx.foldlM (fun (st : F32 × F32 × List (F32 × F32)) e => do
    let b := e.2
    let (al, la, out) := st
    let th := fabs (if b = 1 then p.art1 else p.art2)
    let al' ← if b = 0 then pure al else dotM [(al, fOne), (la, th)]
    let la' ← if b = 0 then pure la else dotM [(la, fOne), (al, th)]
    let t := nth fZero tv b
    let rho ← p32M (bodyRho e.1)
    let hx ← p32M (hitchOf ego b)
    let bx ← dotM [(al', fOne), (t, rho)]
    let by_ ← dotM [(la', fOne), (t, rho)]
    return (← dotM [(al', fOne), (t, hx)], ← dotM [(la', fOne), (t, hx)], out ++ [(bx, by_)]))
    (al, la, [])
  return r.2.2

/-- A stored sweep bound of EMIT (R260). -/
def emitBound (xs : List F32) : QM (Nat × Bool) := do
  let m := xs.foldl fmax fZero
  return storeBound ((← toP32M (← mulM m fGrow)) + 3)

/-- The re-check sample of trajectory sample `j` (R258, R260). -/
def recheckSample (ego : List EgoBody) (an : Anchor) (ts : List TSample) (j : Nat) (p : TSample) :
    QM Sample := do
  let nb := ego.length
  let psis ← bodyPsis nb p
  let hs ← psis.mapM toA16M
  let step (b : Nat) (x y : F32) : QM (F32 × F32) := do
    let (co, si) := trig (nth 0 hs b)
    let hx ← p32M (hitchOf ego b)
    return (← dotM [(x, fOne), (hx, ← d32M co)], ← dotM [(y, fOne), (hx, ← d32M si)])
  let p0 := (p.x, p.y)
  let p1 ← if 2 ≤ nb then step 0 p0.1 p0.2 else pure p0
  let p2 ← if 3 ≤ nb then step 1 p1.1 p1.2 else pure p1
  let pos ← ([p0, p1, p2].take nb).mapM (fun e => do
    return (← toAnchoredM e.1 an.x, ← toAnchoredM e.2 an.y))
  let v ← toI16M f2m4 p.v
  let a ← toI16M f2m4 p.a
  let k ← toI16M f2p4 p.kappa
  let kd ← match ts[j + 1]? with
    | some n => do toI16M f2p4 (← dotM [(n.kappa, f100), (p.kappa, fneg f100)])
    | none => pure ⟨0, false⟩
  let nbr := (if j = 0 then [] else (ts[j - 1]?).toList) ++ (ts[j + 1]?).toList
  let sides ← nbr.mapM (fun n => do sweepSide ego p n psis (← bodyPsis nb n))
  let bs ← (List.range nb).mapM (fun b => do
    return (← emitBound (sides.map (fun s => (nth (fZero, fZero) s b).1)),
            ← emitBound (sides.map (fun s => (nth (fZero, fZero) s b).2))))
  let body (b : Nat) : BodySample :=
    match pos[b]?, hs[b]?, bs[b]? with
    | some q, some h, some w => ⟨q.1.val, q.2.val, h, w.1.1, w.2.1⟩
    | _, _, _ => noBody
  return ⟨[body 0, body 1, body 2], 10 * j, v.val, a.val, k.val, kd.val,
    v.sat || a.sat || k.sat || kd.sat || pos.any (fun q => q.1.sat || q.2.sat), false,
    bs.any (fun w => w.1.2 || w.2.2)⟩

/-- What EMIT computes: the trajectory's samples with STOPJ and TEND, and the re-check samples. -/
structure EmitOut where
  samples : List TSample
  stopj : Option Nat
  tend : F32
  recheck : List Sample
  deriving DecidableEq, Repr

/-- EMIT (R256, R258). `bz` is TS's squared speed by stage. -/
def emitTraj (ego : List EgoBody) (an : Anchor) (vstop : F32) (hmax : Nat) (g : GeoSol)
    (bz : List F32) : QM EmitOut := do
  let geo ← (g.refs.zip g.z).mapM (fun e => stageGeo false g.map e.1 e.2)
  let st ← stageTimes bz g.ds vstop (g.nst - 1) 0
    ⟨[fZero], List.replicate g.nst fZero, none⟩
  let (ss, stop) ← emitFrom geo bz g.ds st g.nst g.reverse hmax 0 [] none
  let rc ← ss.zipIdx.mapM (fun e => recheckSample ego an ss e.2 e.1)
  return ⟨ss, stop, nth fZero st.t (st.t.length - 1), rc.map (fun p => { p with sat := p.sat || g.sat })⟩

/-- HMAX (R256). -/
def hmaxOf (nsamp dts : Nat) : Nat := min ((nsamp - 1) * dts / 10 + 1) 1200

/-- A GEO solution of a vehicle that does not move: every z is 0 (R240). -/
def stillSol (o : SolveOrder) (reverse : Bool) (m : List Nat) (r : Ref) (res : QResult) (sat : Bool) : GeoSol :=
  ⟨o.cand, o, 1, reverse, [r], [fZero], [fZero], [[]], m, res, sat⟩

/-- The solution record in shared memory: the result, then one 64-byte record per stage (R263). -/
def solutionBytes (res : QResult) (s ds : List F32) (z : List (List F32)) : List Byte :=
  res.bytes ++ (z.zipIdx.map (fun e =>
    padTo 64 (leBytes 4 (nth fZero s e.2).toNat ++ leBytes 4 (nth fZero ds e.2).toNat
      ++ (e.1.map (fun x => leBytes 4 x.toNat)).flatten))).flatten

/-- The trajectory passes the re-check (R261). -/
def recheckPasses (truncMinMs : Nat) (v : VRec) (c : CostRec) : Bool :=
  c.verdict == .free && !c.clay && !c.clim && decide (c.cost < c24Lethal)
  && (!c.trunc || decide (truncMinMs ≤ v.tsample * 10))

/-- The FINAL row entry's value (R262). -/
def keyValue (pass : Bool) (objGeo objTs wRc : F32) (cost : Nat) : FRes :=
  if pass then
    match ((ExceptT.run (c24M cost)).run {}).1 with
    | .ok rc => exactDot [(objGeo, fOne), (objTs, fOne), (rc, wRc)]
    | .error _ => ⟨fNaN, {}⟩
  else ⟨fNaN, {}⟩

/-- A QE command's fields (R263). -/
structure QeCmd where
  op : Nat
  tmpl : Nat
  shared : Bool
  notraj : Bool
  nin : Nat
  inOff : Nat
  auxOff : Nat
  workOff : Nat
  outOff : Nat
  resultOff : Nat
  orderOff : Nat
  rsv : Bool
  deriving DecidableEq, Repr

/-- A QE command word decoded (R263). -/
def QeCmd.ofWord (w : Nat) : QeCmd :=
  ⟨field w 0 4, field w 4 4, bitAt w 8, bitAt w 9, field w 16 8, field w 32 16, field w 48 16,
   field w 64 16, field w 80 16, field w 96 12, field w 108 12,
   field w 10 6 != 0 || field w 24 8 != 0 || field w 120 8 != 0⟩

/-- The field rules of R263 on one QE command. -/
def QeCmd.ok (ntmpl : Nat) (d : QeCmd) : Bool :=
  1 ≤ d.op && d.op ≤ 3 && !d.rsv && (if d.op = 1 then decide (d.tmpl < ntmpl) else d.tmpl == 0)
  && (d.op == 3 || !d.notraj) && (d.nin == 0 || decide (2 ≤ d.nin ∧ d.nin ≤ 128))
  && (d.op == 1 || d.nin == 0) && (d.op != 3 || d.workOff == 0)
  && d.inOff * 64 < 4 * 2 ^ 20 && d.auxOff * 64 < 4 * 2 ^ 20 && d.workOff * 64 < 4 * 2 ^ 20
  && d.outOff * 64 < 4 * 2 ^ 20 && d.resultOff * 16 + 64 ≤ 64 * 1024
  && d.orderOff * 16 + 32 ≤ 64 * 1024

end Sys2Proof.Machine
end

