-- ==== Sys2Proof/Machine/Proofer.lean ====
section
/-!
DEFINITION. The proofer (R268 to R276): check classes, the limit table, and contact in binary32
from full-width world values.
-/
namespace Sys2Proof.Machine

open Sys2Proof

/-- The proofer limit table (R270, PID 0x0060 in R321). -/
structure ProofLimits where
  vMax : F32
  acc : F32
  dec : F32
  jerk : F32
  aLat : F32
  kMax : F32
  art : F32
  stepTol : F32
  posTol : F32
  psiTol : F32
  vTol : F32
  slMin : F32
  cap : Nat
  deriving DecidableEq, Repr

/-- The check classes in rank order (R269). -/
inductive ProofClass where
  | form | nonfinite | start | limit | static | branch
  deriving DecidableEq, Repr

/-- The class's rank in the table of R269. -/
def ProofClass.rank : ProofClass → Nat
  | .form => 0 | .nonfinite => 1 | .start => 2 | .limit => 3 | .static => 4 | .branch => 5

/-- The class's code (R269). -/
def ProofClass.code : ProofClass → Nat
  | .form => 1 | .nonfinite => 6 | .start => 2 | .limit => 3 | .static => 4 | .branch => 5

/-- One failure; no sample for a failure of the whole trajectory (R269). -/
structure ProofFail where
  cls : ProofClass
  sample : Option Nat
  detail : Nat
  deriving DecidableEq, Repr

/-- One failure is reported ahead of another: class, then sample with the whole trajectory first,
then the number in the detail (R269). -/
def ProofFail.before (a b : ProofFail) : Bool :=
  let key (f : ProofFail) : Nat :=
    (f.cls.rank * 65536 + (f.sample.map (· + 1)).getD 0) * 1048576 + f.detail
  decide (key a ≤ key b)

/-- The failure reported (R269). -/
def firstFail (fs : List ProofFail) : Option ProofFail :=
  fs.foldl (fun best f => match best with
    | none => some f
    | some b => if b.before f then some b else some f) none

/-- A trajectory as put to proof: the binary32 fields of its header, its samples, and what its re-check recorded. -/
structure ProofTraj where
  anchor : Anchor
  head : List F32
  stopped : Bool
  samples : List TSample
  bmask : Nat
  trunc : Bool
  tsample : Nat
  deriving DecidableEq, Repr

/-- What the proofer reads beside the trajectory (R102, R271). -/
structure ProofEnv where
  lim : ProofLimits
  ego : List EgoBody
  margins : List Nat
  state : Ego
  w : Nat
  objects : List (Nat × Obj)
  statics : List (Nat × Prim)
  branches : Nat

/-- An ego box in binary32 (R271). -/
structure FBox where
  cx : F32
  cy : F32
  ux : F32
  uy : F32
  hl : F32
  hw : F32
  zlo : Int
  zhi : Int
  deriving DecidableEq, Repr

/-- A placed object or primitive in binary32 (R271). -/
structure FShape where
  x : F32
  y : F32
  core : List (F32 × F32)
  g : F32
  axes : List (F32 × F32)
  zlo : Int
  zhi : Int
  deriving DecidableEq, Repr

/-- Direction components in binary32 (R271). -/
def dirF (a : Nat) : QM (F32 × F32) := do
  let (co, si) := trig a
  return (← d32M co, ← d32M si)

/-- The ego boxes of a sample, unswept (R271). -/
def proofBoxes (ego : List EgoBody) (p : TSample) : QM (List FBox) := do
  let psis ← bodyPsis ego.length p
  let hs ← psis.mapM toA16M
  let r ← ego.zipIdx.foldlM (fun (st : (F32 × F32) × List FBox) e => do
    let b := e.2
    let (co, si) ← dirF (nth 0 hs b)
    let pos ← if b = 0 then pure st.1 else do
      let (pc, ps) ← dirF (nth 0 hs (b - 1))
      let hx ← p32M (hitchOf ego (b - 1))
      pure (← dotM [(st.1.1, fOne), (hx, pc)], ← dotM [(st.1.2, fOne), (hx, ps)])
    let bx ← e.1.boxes.mapM (fun q => do
      let cx ← p32M q.cx
      let cy ← p32M q.cy
      return (⟨← dotM [(pos.1, fOne), (cx, co), (cy, fneg si)],
        ← dotM [(pos.2, fOne), (cx, si), (cy, co)], co, si, ← p32M q.hl, ← p32M q.hw,
        q.zlo, q.zhi⟩ : FBox))
    return (pos, st.2 ++ bx)) ((p.x, p.y), [])
  return r.2

/-- The edge normals of a placed polygon; an edge whose length rounds to 0 gives none (R271). -/
def edgeAxes (core : List (F32 × F32)) : QM (List (F32 × F32)) := do
  let n := core.length
  let r ← (List.range n).mapM (fun k => do
    let a := nth (fZero, fZero) core k
    let b := nth (fZero, fZero) core ((k + 1) % n)
    let ex ← subM b.1 a.1
    let ey ← subM b.2 a.2
    let l ← sqrtM (← dotM [(ex, ex), (ey, ey)])
    if flt fZero l then return [(← divM ey l, ← divM (fneg ex) l)] else return [])
  return r.flatten

/-- A shape placed in binary32 relative to the anchor (R271). -/
def placeF (an : Anchor) (s : Shape) (margin : Nat) (p : Pose) : QM FShape := do
  let x ← anchoredM p.x an.x
  let y ← anchoredM p.y an.y
  let (co, si) ← dirF p.a
  let a ← p32M s.a
  let b ← p32M s.b
  let pt (u v : F32) : QM (F32 × F32) := do
    return (← dotM [(x, fOne), (u, co), (v, fneg si)], ← dotM [(y, fOne), (u, si), (v, co)])
  let core ← match s.kind with
    | .box => [(a, b), (a, fneg b), (fneg a, b), (fneg a, fneg b)].mapM (fun q => pt q.1 q.2)
    | .capsule => [(a, fZero), (fneg a, fZero)].mapM (fun q => pt q.1 q.2)
    | .disc => pure [(x, y)]
    | .polygon => s.verts.mapM (fun v => do pt (← p32M v.1) (← p32M v.2))
  let rad := match s.kind with
    | .disc => a
    | .capsule => b
    | _ => fZero
  let g ← addM rad (← p32M margin)
  let axes ← match s.kind with
    | .box => pure [(co, si), (fneg si, co)]
    | .capsule => pure [(co, si), (fneg si, co)]
    | .disc => pure []
    | .polygon => edgeAxes core
  return ⟨x, y, core, g, axes, s.zlo - margin, s.zhi + margin⟩

/-- Separated along one axis (R271): the ends of the object's interval are each one sum over a core point and g, rounded
once (R243; log entry 59). -/
def separatedF (e : FBox) (o : FShape) (a : F32 × F32) : QM Bool := do
  let ce ← dotM [(e.cx, a.1), (e.cy, a.2)]
  let pu ← dotM [(e.ux, a.1), (e.uy, a.2)]
  let pv ← dotM [(fneg e.uy, a.1), (e.ux, a.2)]
  let re ← dotM [(e.hl, fabs pu), (e.hw, fabs pv)]
  let ls ← o.core.mapM (fun k => dotM [(k.1, a.1), (k.2, a.2), (fneg o.g, fOne)])
  let hs ← o.core.mapM (fun k => dotM [(k.1, a.1), (k.2, a.2), (o.g, fOne)])
  match ls, hs with
  | l :: ls, h :: hs =>
    let lo := ls.foldl fmin l
    let hi := hs.foldl fmax h
    return flt (← addM ce re) lo || flt hi (← subM ce re)
  | _, _ => return false

/-- The axes in order, ending at the first that separates (R271). -/
def separatedAny (e : FBox) (o : FShape) : List (F32 × F32) → QM Bool
  | [] => pure false
  | a :: r => do if ← separatedF e o a then return true else separatedAny e o r

/-- `p_contact` (R271). -/
def pContact (e : FBox) (o : FShape) : QM Bool := do
  let dx ← subM o.x e.cx
  let dy ← subM o.y e.cy
  let d ← sqrtM (← dotM [(dx, dx), (dy, dy)])
  let cc ← if flt fZero d then do pure [(← divM dx d, ← divM dy d)] else pure []
  let s ← separatedAny e o ([(e.ux, e.uy), (fneg e.uy, e.ux)] ++ o.axes ++ cc)
  return !s

/-- Contact of a pair; a combination whose heights do not overlap is none (R168, R271). -/
def pairContact (o : FShape) : List FBox → QM Bool
  | [] => pure false
  | e :: r => do
    if decide (e.zlo ≤ o.zhi ∧ o.zlo ≤ e.zhi) then
      if ← pContact e o then return true else pairContact o r
    else pairContact o r

/-- The limits that sample `j` breaks (R270). -/
def limitFails (l : ProofLimits) (p : TSample) (n : Option TSample) : QM (List Nat) := do
  let v2 ← mulM p.v p.v
  let lat ← mulM v2 p.kappa
  let one := [(1, flt l.vMax (fabs p.v)), (2, flt p.a (fneg l.dec) || flt l.acc p.a),
    (4, flt l.aLat (fabs lat)), (5, flt l.kMax (fabs p.kappa)),
    (6, flt l.art (fabs p.art1) || flt l.art (fabs p.art2))]
  let two ← match n with
    | none => pure []
    | some n => do
      let da ← subM n.a p.a
      let jk ← mulM (fabs da) f100
      let dx ← subM n.x p.x
      let dy ← subM n.y p.y
      let q ← sqrtM (← dotM [(dx, dx), (dy, dy)])
      let e ← dotM [(fabs p.v, 0x3BA3D70A#32), (fabs n.v, 0x3BA3D70A#32)]
      let d ← subM q e
      pure [(3, flt l.jerk jk), (7, flt l.stepTol (fabs d))]
  return ((one ++ two).filter (·.2)).map (·.1)

/-- START's details that fail (R269). -/
def startFails (l : ProofLimits) (an : Anchor) (e : Ego) (p : TSample) : QM (List Nat) := do
  let dx ← subM p.x (← anchoredM e.x an.x)
  let dy ← subM p.y (← anchoredM e.y an.y)
  let dpsi ← subM p.psi (← radM (unwrapOne an.psi e.heading))
  let dv ← subM p.v (← v16M e.speed)
  return ([(1, flt l.posTol (fabs dx) || flt l.posTol (fabs dy)), (2, flt l.psiTol (fabs dpsi)),
    (3, flt l.vTol (fabs dv))].filter (·.2)).map (·.1)

/-- STATIC and BRANCH failures of sample `j` (R269, R271). -/
def contactFails (v : ProofEnv) (t : ProofTraj) (j : Nat) (p : TSample) : QM (List ProofFail) := do
  let boxes ← proofBoxes v.ego p
  let st ← v.statics.mapM (fun s => do
    let o ← placeF t.anchor s.2.shape (nth 0 v.margins s.2.cls) ⟨s.2.x, s.2.y, s.2.heading⟩
    return if ← pairContact o boxes then [(⟨.static, some j, s.1⟩ : ProofFail)] else [])
  let br ← v.objects.mapM (fun ob => do
    let hs ← (List.range 8).mapM (fun h => do
      if bitAt v.branches h ∧ h < ob.2.hyps.length ∧ !bitAt t.bmask h then
        let o ← placeF t.anchor ob.2.shape (nth 0 v.margins ob.2.cls)
          (ob.2.predictFull h (v.w + j * 1000000))
        return if ← pairContact o boxes then [(⟨.branch, some j, ob.1 * 256 + h⟩ : ProofFail)] else []
      else return [])
    return hs.flatten)
  return st.flatten ++ br.flatten

/-- A field of a sample is not finite (R65). -/
def TSample.nonfinite (p : TSample) : Bool :=
  [p.x, p.y, p.psi, p.v, p.a, p.kappa, p.art1, p.art2].any (fun x => !isFinite32 x)

/-- A proof under way: its sticky flags, for one plan the work item (R52), and the failures found. -/
structure ProofSt where
  fl : FFlags := {}
  fails : List ProofFail := []
  deriving DecidableEq, Repr

/-- Failures found. -/
def ProofSt.found (s : ProofSt) (fs : List ProofFail) : ProofSt := { s with fails := s.fails ++ fs }

/-- The failures that a part of sample `j`'s computation gives, with its flags (R52); a non-finite value is one of
NONFINITE (R65). -/
def ProofSt.part (s : ProofSt) (j : Nat) (m : QM (List ProofFail)) : ProofSt :=
  let r := (ExceptT.run m).run { fl := s.fl }
  { s with fl := r.2.fl }.found (match r.1 with
    | .ok fs => fs
    | .error _ => [⟨.nonfinite, some j, j⟩])

/-- The proof taken over sample `j` (R269). -/
def sampleFails (v : ProofEnv) (t : ProofTraj) (nchk : Nat) (s : ProofSt) (x : TSample × Nat) : ProofSt :=
  let p := x.1
  let j := x.2
  let s := s.found ((if p.t = 10 * j then [] else [⟨.form, some j, 1⟩]) ++ (if p.nonfinite then [⟨.nonfinite, some j, j⟩] else []))
  let s := if j = 0 then
      s.part 0 (do return (← startFails v.lim t.anchor v.state p).map (fun d => ⟨.start, some 0, d⟩))
    else s
  let s := s.part j (do return (← limitFails v.lim p t.samples[j + 1]?).map (fun d => ⟨.limit, some j, d⟩))
  if j < nchk then s.part j (contactFails v t j p) else s

/-- The failures of the whole trajectory: of FORM (R269), and of a header field that is not finite, which the model
counts at sample 0 (log entry 118). -/
def formFails (v : ProofEnv) (safe : Bool) (t : ProofTraj) : ProofSt :=
  let nt := t.samples.length
  let short := fmul 0x447A0000#32 v.lim.slMin
  { fl := if safe then short.fl else {}
    fails := (if nt = 0 ∨ 1200 < nt then [⟨.form, none, 1⟩] else [])
      ++ (if safe ∧ !t.stopped then [⟨.form, none, 2⟩] else [])
      ++ (if safe ∧ flt (fNat (nt * 10)) short.val then [⟨.form, none, 3⟩] else [])
      ++ (if t.head.all isFinite32 then [] else [⟨.nonfinite, some 0, 0⟩]) }

/-- The proof of one trajectory with its flags (R52, R269): no failure is PASS. -/
def proveOne (v : ProofEnv) (safe : Bool) (t : ProofTraj) : Option ProofFail × FFlags :=
  let nchk := if t.trunc then t.tsample else t.samples.length
  let form := formFails v safe t
  let r := if form.fails.any (fun f => f.cls == .form && f.detail == 1) then form
    else t.samples.zipIdx.foldl (sampleFails v t nchk) form
  (firstFail r.fails, r.fl)

/-- A proof result code (R269). -/
def proofCode : Option ProofFail → Nat
  | none => 0
  | some f => f.cls.code

/-- The certified proof time of one trajectory (R276). -/
def proofTime (nt nobj nbr nstat cap neb : Nat) : Nat :=
  let b := (nt + 9) / 10
  (b * nobj * nbr + 127) / 128 + (b * nstat + 127) / 128 + (b * cap * 10 * neb + 15) / 16 + 4 * nt

/-- The load checks of R270 on the limit values; `toF` the image's R259 values. -/
def ProofLimits.ok (l : ProofLimits) (kappaMax artMax alatMax : Option F32) : Bool :=
  let pos (x : F32) : Bool := isFinite32 x && flt fZero x
  let above (x : F32) (m : Option F32) : Bool := match m with
    | none => true
    | some y => fle y x
  [l.vMax, l.acc, l.dec, l.jerk, l.aLat, l.kMax, l.art, l.stepTol, l.posTol, l.psiTol, l.vTol,
   l.slMin].all pos
  && fle 0x41000000#32 l.slMin && decide (1 ≤ l.cap ∧ l.cap ≤ 64)
  && above l.kMax kappaMax && above l.art artMax && above l.aLat alatMax

/-! ### Mismatch history (R273, R274) -/

/-- The mismatches that end the history: consecutive ones, this cycle first. -/
def mmRun (h : List Bool) : Nat := (h.takeWhile id).length

/-- Mismatches among the last 100 cycles of the history (R274). -/
def mm100 (h : List Bool) : Nat := ((h.take 100).filter id).length

/-- FLT_VERIFY_REPEAT after a mismatch entered the history (R274). -/
def verifyRepeat (h : List Bool) : Bool := decide (2 ≤ mmRun h) || decide (3 ≤ mm100 h)

end Sys2Proof.Machine
end

