-- ==== Sys2Proof/Machine/Commit.lean ====
section
/-!
DEFINITION. The records of a commit (R277 to R293): control block, plan and safelight records,
contact sheet, cycle status record.
-/
namespace Sys2Proof.Machine

open Sys2Proof

/-- The plan area's length (R277). -/
def planAreaLen : Nat := 0x31000

/-- Offset of bank `x` in the plan area (R277). -/
def bankOffset (x : Nat) : Nat := 0x1000 + x * 0x18000

/-- A plan or safelight record's contents (R280). -/
structure PlanRec where
  traj : Traj
  safe : Bool
  degraded : Bool
  spliced : Bool
  dline : Bool
  trunc : Bool
  seq : Nat
  epoch : Nat
  time : Nat
  key : F32
  cost : Nat
  bmask : Nat
  family : Nat
  arm : Nat
  tsample : Nat
  ord : Nat
  guesses : List (Nat × Nat × Nat)
  deriving DecidableEq, Repr

/-- A guess entry: geometric bin, profile, path (R280). -/
def guessBytes (g : Nat × Nat × Nat) : List Byte := leBytes 2 g.1 ++ leBytes 2 g.2.1 ++ leBytes 4 g.2.2

/-- The first 252 bytes of a record (R280). -/
def PlanRec.head (r : PlanRec) : List Byte :=
  let t := r.traj
  let nt := t.samples.length
  padTo 252 (leBytes 4 (256 + 40 * nt) ++ leBytes 1 (if r.safe then 2 else 1)
    ++ leBytes 1 (maskOf [t.stopj.isSome, r.degraded, r.spliced, t.pivot, r.dline, r.trunc])
    ++ leBytes 2 nt ++ leBytes 8 r.seq ++ leBytes 4 r.epoch ++ leBytes 4 t.cand ++ leBytes 8 t.w
    ++ leBytes 8 r.time ++ leBytes 4 (code 32 t.anchor.x) ++ leBytes 4 (code 32 t.anchor.y)
    ++ leBytes 2 t.anchor.psi ++ leBytes 2 (t.stopj.getD 0xFFFF) ++ leBytes 4 r.key.toNat
    ++ leBytes 3 r.cost ++ leBytes 1 r.bmask
    ++ leBytes 1 (r.family + 16 * r.arm)
    ++ leBytes 1 (if r.safe then 0 else r.guesses.length)
    ++ leBytes 2 (if r.trunc then r.tsample else 0xFFFF) ++ leBytes 4 r.ord
    ++ leBytes 4 t.tend.toNat ++ leBytes 4 t.objGeo.toNat ++ leBytes 4 t.objTs.toNat ++ zeroBytes 16
    ++ (if r.safe then [] else (r.guesses.map guessBytes).flatten))

/-- The samples of a record (R257, R280). -/
def PlanRec.sampleBytes (r : PlanRec) : List Byte :=
  (r.traj.samples.map TSample.bytes).flatten

/-- REC_CRC: over bytes 0 to 251 and every sample (R280). -/
def PlanRec.crc (r : PlanRec) : Nat := crc32c (r.head ++ r.sampleBytes)

/-- A record's bytes (R280). -/
def PlanRec.bytes (r : PlanRec) : List Byte := r.head ++ leBytes 4 r.crc ++ r.sampleBytes

/-- The CRC of a record in memory matches (R280, R288). -/
def recCrcOk (b : List Byte) : Bool := getLe b 252 4 == crc32c (b.take 252 ++ b.drop 256)

/-- The control block (R279). -/
def controlBlock (seq epoch w time : Nat) (plan safe : PlanRec) (sheet : Nat) : List Byte :=
  withCrc (leBytes 8 seq ++ leBytes 4 epoch ++ leBytes 4 (seq % 2) ++ leBytes 8 w ++ leBytes 8 time
    ++ leBytes 4 plan.bytes.length ++ leBytes 4 safe.bytes.length ++ leBytes 4 sheet
    ++ leBytes 4 plan.crc ++ leBytes 4 safe.crc ++ zeroBytes 8)

/-- The contact-sheet modes (R290). -/
inductive SheetMode where
  | none | bestN | full
  deriving DecidableEq, Repr

/-- MODE of a sheet header (R292). -/
def SheetMode.code : SheetMode → Nat
  | .none => 0 | .bestN => 1 | .full => 2

/-- One sheet entry (R291). -/
structure SheetEntry where
  cand : Nat
  cost : Nat
  verdict : Nat
  clay : Bool
  clim : Bool
  trunc : Bool
  sat : Bool
  bmask : Nat
  deriving DecidableEq, Repr

/-- The entry formed from a cost record (R291). -/
def SheetEntry.ofCost (c : CostRec) : SheetEntry :=
  ⟨c.cand, c.cost, c.verdict.code, c.clay, c.clim, c.trunc, c.sat, c.bmask⟩

/-- An entry's 8 bytes (R291). -/
def SheetEntry.bytes (e : SheetEntry) : List Byte :=
  leBytes 3 e.cand ++ leBytes 3 e.cost
  ++ leBytes 1 (e.verdict + 16 * maskOf [e.clay, e.clim, e.trunc, e.sat]) ++ leBytes 1 e.bmask

/-- SHEET_BANK for capacity `n` (R292). -/
def sheetBank (n : Nat) : Nat := (64 + 8 * n + 4095) / 4096 * 4096

/-- The sheet header (R292). -/
def sheetHeader (seq epoch : Nat) (m : SheetMode) (w : Nat) (entries : List Byte) : List Byte :=
  withCrc (leBytes 8 seq ++ leBytes 4 epoch ++ leBytes 1 m.code ++ zeroBytes 3 ++ leBytes 8 w
    ++ leBytes 4 (entries.length / 8) ++ leBytes 4 (crc32c entries) ++ zeroBytes 28)

/-- The counters of a cycle that its status record reports (R293). -/
structure CycleCounts where
  void : List Nat
  satrec : Nat
  satstat : Nat
  bigcover : Nat
  capped : Nat
  truncs : Nat
  solveSt : List Nat
  recheckFail : Nat
  hubCount : List Nat
  deriving DecidableEq, Repr

/-- Nothing counted. -/
def CycleCounts.zero : CycleCounts := ⟨[0, 0, 0, 0], 0, 0, 0, 0, 0, List.replicate 8 0, 0, List.replicate 6 0⟩

/-- A proof result as the status record shows it: not run, passed, or failed (R269). -/
inductive ProofResult where
  | notRun
  | pass
  | failed (f : ProofFail)
  deriving DecidableEq, Repr

/-- The result's code (R269). -/
def ProofResult.code : ProofResult → Nat
  | .notRun => 0xFF | .pass => 0 | .failed f => f.cls.code

/-- The failure, if any. -/
def ProofResult.fail : ProofResult → Option ProofFail
  | .failed f => some f
  | _ => none

/-- A result from a proof. -/
def ProofResult.of : Option ProofFail → ProofResult
  | none => .pass
  | some f => .failed f

/-- A counter stopped at the largest value of its width (R293). -/
def satTo (bytes v : Nat) : Nat := min v (256 ^ bytes - 1)

/-- A cycle status record's contents (R293). -/
structure StatusRec where
  tag : Nat
  epoch : Nat
  status : Nat
  committed : Bool
  egoLimit : Bool
  degraded : Bool
  retouch : Bool
  arm : Nat
  w : Nat
  endTime : Nat
  seq : Nat
  updDropped : Nat
  tilesDropped : Nat
  counts : CycleCounts
  proofPlan : ProofResult
  proofSafe : ProofResult
  mmRun : Nat
  mm100 : Nat
  deriving DecidableEq, Repr

/-- The failure a status record describes: the plan's, else the safelight trajectory's (R293). -/
def StatusRec.fail (r : StatusRec) : Option ProofFail :=
  match r.proofPlan.fail with
  | some f => some f
  | none => r.proofSafe.fail

/-- The 256 bytes of the cycle status record (R293). -/
def StatusRec.bytes (r : StatusRec) : List Byte :=
  withCrc (padTo 252 (
    leBytes 8 r.tag ++ leBytes 4 r.epoch ++ leBytes 2 r.status
    ++ leBytes 1 (maskOf [r.committed, r.egoLimit, r.degraded, r.retouch]) ++ leBytes 1 r.arm
    ++ leBytes 8 r.w ++ leBytes 8 r.endTime ++ leBytes 8 r.seq
    ++ (r.counts.void.map (fun v => leBytes 4 (satTo 4 v))).flatten
    ++ leBytes 2 (satTo 2 r.updDropped) ++ leBytes 2 (satTo 2 r.tilesDropped)
    ++ leBytes 4 (satTo 4 r.counts.satrec) ++ leBytes 4 (satTo 4 r.counts.satstat)
    ++ leBytes 4 (satTo 4 r.counts.bigcover) ++ leBytes 4 (satTo 4 r.counts.capped)
    ++ leBytes 4 (satTo 4 r.counts.truncs)
    ++ (r.counts.solveSt.map (fun v => leBytes 2 (satTo 2 v))).flatten
    ++ leBytes 2 (satTo 2 r.counts.recheckFail)
    ++ (r.counts.hubCount.map (fun v => leBytes 2 (satTo 2 v))).flatten
    ++ leBytes 1 r.proofPlan.code ++ leBytes 1 r.proofSafe.code
    ++ leBytes 2 ((r.fail.bind (·.sample)).getD 0xFFFF) ++ leBytes 4 ((r.fail.map (·.detail)).getD 0)
    ++ leBytes 1 (satTo 1 r.mmRun) ++ leBytes 1 (satTo 1 r.mm100)))

/-- RESULT0 of a PLAN_CYCLE completion (R286). -/
def planResult0 (main safe : Nat) : Nat := satTo 2 main + 65536 * satTo 2 safe

end Sys2Proof.Machine
end

