-- ==== Sys2Proof/Machine/Enlarger.lean ====
section
/-!
DEFINITION. The Enlarger (R105 to R122): heading bins, the combined value, kernels, configuration
space values, covers, occupancy records and static lists, the DE command word and its result.
-/
namespace Sys2Proof.Machine

open Sys2Proof

/-- The heading bin of an A16 angle (R105). -/
def headingBin (a : Nat) : Nat := (a + 2048) / 4096 % 16

/-- `comb`: the combined value of a cell for body `b`, with SAT (R107). -/
def combine (p : EnlParams) (nl b : Nat) (v : Nat → Nat) : Sat :=
  let ls := List.range nl
  let blocked := ls.any (fun l => nth 0 p.leth l != 0 && nth 0 p.leth l ≤ v l)
  let terms := ls.map (fun l => nth 0 p.weight (b * 8 + l) * v l)
  let acc := if p.combMax then terms.foldl max 0 else sumNat terms
  let sh := nth 0 p.wshift b
  if blocked then ⟨0xFF, false⟩
  else satU8 (((acc + 2 ^ sh - 1) / 2 ^ sh : Nat) : Int)

/-! ### The kernel (R109, R110) -/

/-- `minabs` (R109). -/
def minabs (lo hi : Int) : Int :=
  if lo ≤ 0 ∧ 0 ≤ hi then 0 else min (iabs lo) (iabs hi)

/-- `minabs_proj`: the smallest |x p + y q| over the square of half-side `dl` about (dx, dy)
(R109). -/
def minabsProj (dx dy dl p q : Int) : Int :=
  let cs := [(dx - dl) * p + (dy - dl) * q, (dx - dl) * p + (dy + dl) * q,
             (dx + dl) * p + (dy - dl) * q, (dx + dl) * p + (dy + dl) * q]
  minabs (cs.foldl min ((dx - dl) * p + (dy - dl) * q)) (cs.foldl max ((dx - dl) * p + (dy - dl) * q))

/-- `separated` (R109). -/
def cellSeparated (dx dy dl c co si hl hw : Int) : Bool :=
  let ac := iabs co + epsT
  let as := iabs si + epsT
  let te := shrCeil ((iabs dx + iabs dy + 2 * dl) * epsT) 30
  decide (c + shrCeil (hl * ac + hw * as) 30 < minabs (dx - dl) (dx + dl))
  || decide (c + shrCeil (hl * as + hw * ac) 30 < minabs (dy - dl) (dy + dl))
  || decide (hl + shrCeil (c * (ac + as)) 30 < shrFloor (minabsProj dx dy dl co si) 30 - te)
  || decide (hw + shrCeil (c * (ac + as)) 30 < shrFloor (minabsProj dx dy dl (-si) co) 30 - te)

/-- One sub-step box of `kernel_exact`: a test of an offset (R109). -/
def kernelBox (cLsb : Nat) (mb : Int) (th : Nat) (x : EgoBox) (di dj : Int) : Bool :=
  let c : Int := cLsb
  let (co, si) := trig th
  let rho := iabs x.cx + iabs x.cy + x.hl + x.hw + mb
  let grow := shrCeil (rho * 12868) 20
  let ux := shrFloor (x.cx * co - x.cy * si) 30
  let uy := shrFloor (x.cx * si + x.cy * co) 30
  let dl := 1 + shrCeil ((iabs x.cx + iabs x.cy) * epsT) 30
  !cellSeparated (di * c - ux) (dj * c - uy) dl c co si (x.hl + mb + grow) (x.hw + mb + grow)

/-- The offset (di, dj) lies in the exact kernel of a body and bin (R109). -/
def inKernel (cLsb : Nat) (mb : Int) (body : EgoBody) (h : Nat) (di dj : Int) : Bool :=
  (List.range 16).any (fun k =>
    let th := wrapA16 ((h : Int) * 4096 - 2048 + (k : Int) * 256 + 128)
    body.boxes.any (fun x => kernelBox cLsb mb th x di dj))

/-- The offsets -128 .. 128. -/
def kernelRange : List Int := (List.range 257).map (fun (i : Nat) => (i : Int) - 128)

/-- Runs of consecutive true offsets in a row. -/
def rowRuns (dj : Int) (p : Int → Bool) : List Run :=
  (kernelRange.foldl (fun (acc : List Run) di =>
    if p di then
      match acc with
      | r :: rs => if r.hi + 1 = di then { r with hi := di } :: rs else ⟨dj, di, di⟩ :: acc
      | [] => [⟨dj, di, di⟩]
    else acc) []).reverse

/-- `kernel_exact` as row runs (R109). -/
def kernelExact (cLsb : Nat) (mb : Int) (body : EgoBody) (h : Nat) : List Run :=
  (kernelRange.map (fun dj => rowRuns dj (fun di => inKernel cLsb mb body h di dj))).flatten

/-- A kernel holds an offset. -/
def runsHold (rs : List Run) (di dj : Int) : Bool :=
  rs.any (fun r => decide (r.dj = dj ∧ r.lo ≤ di ∧ di ≤ r.hi))

/-- Every offset of `a` lies in `b` (R109, TABLE). -/
def runsWithin (a b : List Run) : Bool :=
  a.all (fun r => (List.range (r.hi - r.lo + 1).toNat).all (fun i => runsHold b (r.lo + i) r.dj))

/-- KR: the largest |di| or |dj| of a kernel (R110). -/
def kernelReach (rs : List Run) : Nat :=
  rs.foldl (fun m r => max m (max r.dj.natAbs (max r.lo.natAbs r.hi.natAbs))) 0

/-- REACH in tiles over every kernel (R110). -/
def reachTiles (ks : List (List Run)) : Nat := ((ks.map kernelReach).foldl max 0 + 31) / 32

/-! ### Configuration-space values (R106) -/

/-- CS[b][h] at a cell: the maximum of comb over the kernel, with whether comb saturated (R106). -/
def csValue (w : World) (c : WorldCfg) (p : EnlParams) (b : Nat) (k : List Run) (i j : Nat) : Nat × Bool :=
  k.foldl (fun (acc : Nat × Bool) (r : Run) =>
    (List.range (r.hi - r.lo + 1).toNat).foldl (fun (acc : Nat × Bool) (n : Nat) =>
      let x := combine p c.nl b (fun l => w.cellIJ c l ((i : Int) + r.lo + (n : Int)) ((j : Int) + r.dj))
      (max acc.1 x.val.toNat, acc.2 || x.sat)) acc) (0, false)

/-- One rebuilt tile of CS[b][h]: its 1,024 cells, and SAT. -/
def csTile (w : World) (c : WorldCfg) (p : EnlParams) (b : Nat) (k : List Run) (t : Nat) :
    List Byte × Bool :=
  let vs := (List.range 1024).map (fun cell =>
    csValue w c p b k (t % c.tw * 32 + cell % 32) (t / c.tw * 32 + cell / 32))
  (vs.map (fun v => BitVec.ofNat 8 v.1), vs.any (·.2))

/-! ### Occupancy (R114 to R116) -/

/-- `cover`: the grid tiles of an object under a hypothesis in a slice (R114). -/
def objCover (w : World) (c : WorldCfg) (o : Obj) (h k : Nat) : List Nat :=
  let t0 := w.worldTime + k * 25000000
  let t1 := t0 + 25000000
  let pts := (knotTimes (o.dtOf h) o.ts t0 t1).map (o.predictStore h)
  let r := o.shape.store.reach + (c.margin o.cls : Int)
    + inflateObj o.shape.kind o.shape.store.reach
  match pts with
  | [] => []
  | p :: ps =>
    let x0 := ps.foldl (fun m q => min m q.x) p.x
    let x1 := ps.foldl (fun m q => max m q.x) p.x
    let y0 := ps.foldl (fun m q => min m q.y) p.y
    let y1 := ps.foldl (fun m q => max m q.y) p.y
    c.coverBox w.s0 w.d0 (x0 - r) (x1 + r) (y0 - r) (y1 + r)

/-- The covers of branch `h` in slice `k`, each with its object number. -/
def sliceCovers (w : World) (c : WorldCfg) (h k : Nat) : List (Nat × List Nat) :=
  (w.objects.filter (fun e => h < e.2.hyps.length)).map (fun e => (e.1, objCover w c e.2 h k))

/-- The occupancy record of tile `t` from the covers of its slice and branch (R115). -/
def occRecord (tmax : Nat) (covers : List (Nat × List Nat)) (t : Nat) : OccRec :=
  let here := covers.filter (fun e => e.2.contains t)
  if here.any (fun e => tmax < e.2.length) || 16 < here.length then .saturated
  else .entries (here.map (·.1))

/-- The static list of tile `t` (R116). -/
def staticList (w : World) (c : WorldCfg) (t : Nat) : OccRec :=
  let here := (w.statics.filter (fun e => (c.primCover w.s0 w.d0 e.2).contains t)).map (·.1)
  if 32 < here.length then .saturated else .entries here

/-! ### Commands and results (R121, R122) -/

/-- A DE command's fields (R121). -/
structure DeCmd where
  op : Nat
  bodyMask : Nat
  binMask : Nat
  phase : Nat
  stride : Nat
  allTiles : Bool
  bufAddr : Nat
  resultAddr : Nat
  rsv : Bool
  deriving DecidableEq, Repr

/-- A DE command word decoded (R121). -/
def DeCmd.ofWord (w : Nat) : DeCmd :=
  ⟨field w 0 4, field w 8 3, field w 16 16, field w 32 4, field w 36 4, bitAt w 40,
   field w 64 32, field w 96 32,
   field w 4 4 != 0 || field w 11 5 != 0 || field w 41 23 != 0⟩

/-- A DE command's size of the region at BUF_ADDR (R118, R121). -/
def DeCmd.regionSize (c : WorldCfg) (p : EnlParams) (krMax : Nat) (d : DeCmd) : Nat :=
  if d.op = 1 then (32 + 2 * krMax) ^ 2 * (Nat.log2 (2 * krMax + 1) + 1)
  else p.ns * p.nb * c.tt * 32 + c.tt * 64

/-- The rules of R121 on one DE command. -/
def DeCmd.ok (c : WorldCfg) (p : EnlParams) (nbody krMax : Nat) (d : DeCmd) : Bool :=
  1 ≤ d.op && d.op ≤ 3 && !d.rsv && 1 ≤ d.stride && d.stride ≤ 4 && d.phase < d.stride
  && d.bufAddr % 4096 == 0 && d.bufAddr + d.regionSize c p krMax ≤ 4 * 2 ^ 20
  && d.resultAddr % 16 == 0 && d.resultAddr + 16 ≤ 64 * 1024
  && (if d.op = 1 then d.bodyMask < 2 ^ nbody else d.bodyMask == 0)
  && (if d.op = 2 then d.binMask < 2 ^ p.nb else if d.op = 3 then d.binMask == 0 else true)

/-- A count field that stops at 0xFFFF (R122). -/
def capU16 (n : Nat) : Nat := min n 0xFFFF

/-- The 16-byte result of a DE command (R122). -/
def deResult (tiles satrec satstat big : Nat) (sat fault : Bool) : List Byte :=
  leBytes 2 (capU16 tiles) ++ leBytes 2 (capU16 satrec) ++ leBytes 2 (capU16 satstat)
  ++ leBytes 2 (capU16 big)
  ++ leBytes 8 (maskOf [sat, satrec != 0 || satstat != 0, fault])

/-- The tiles a command owns of the rebuild set, or of the grid under ALL_TILES (R113, R119). -/
def DeCmd.tiles (d : DeCmd) (c : WorldCfg) (rebuild : List Nat) : List Nat :=
  (if d.allTiles then c.tiles else rebuild).filter (fun t => t % d.stride == d.phase)

/-- The slices a BUILD_OCC command owns (R119). -/
def DeCmd.slices (d : DeCmd) (ns : Nat) : List Nat :=
  (List.range ns).filter (fun k => k % d.stride == d.phase)

/-- BUILD_CSPACE: the tiles built, keyed ((body * 16 + bin) * 256 + tile), and SAT (R106, R111). -/
def buildCspace (w : World) (c : WorldCfg) (p : EnlParams) (kernels : List (List Run)) (d : DeCmd)
    (rebuild : List Nat) : List (Nat × List Byte) × Bool :=
  let out := (((List.range 3).filter (bitAt d.bodyMask)).map (fun b =>
    (((List.range 16).filter (bitAt d.binMask)).map (fun h =>
      (d.tiles c rebuild).map (fun t =>
        let r := csTile w c p b (nth [] kernels (b * 16 + h)) t
        ((b * 16 + h) * 256 + t, r)))).flatten)).flatten
  (out.map (fun e => (e.1, e.2.1)), out.any (fun e => e.2.2))

/-- BUILD_OCC: the records built with their keys (R118), and BIGCOVER (R115, R122). -/
def buildOcc (w : World) (c : WorldCfg) (p : EnlParams) (d : DeCmd) : List (Nat × OccRec) × Nat :=
  let out := ((d.slices p.ns).map (fun k =>
    ((List.range p.nb).filter (bitAt d.binMask)).map (fun h =>
      let covers := sliceCovers w c h k
      (c.tiles.map (fun t => ((k * p.nb + h) * c.tt + t, occRecord p.tmax covers t)),
       (covers.filter (fun e => p.tmax < e.2.length)).length)))).flatten
  ((out.map (·.1)).flatten, sumNat (out.map (·.2)))

/-- BUILD_STATIC: the lists built by tile (R116). -/
def buildStatic (w : World) (c : WorldCfg) (d : DeCmd) (rebuild : List Nat) : List (Nat × OccRec) :=
  (d.tiles c rebuild).map (fun t => (t, staticList w c t))

end Sys2Proof.Machine
end

