-- ==== Sys2Proof/Machine/ImageTypes.lean ====
section
/-!
DEFINITION. The data of an image (R295 to R323, R348, R349): container, armatures, dispatch unit
configuration, certificate and parameters.
-/
namespace Sys2Proof.Machine

open Sys2Proof

/-- The engines and movers a sequencer feeds, in IDLE order (R313). -/
inductive Engine where
  | pe | ce | ke | se | qe | de | mv0 | mv1
  deriving DecidableEq, Repr, Inhabited

/-- The bit of IDLE (R313). -/
def Engine.index : Engine → Nat
  | .pe => 0 | .ce => 1 | .ke => 2 | .se => 3 | .qe => 4 | .de => 5 | .mv0 => 6 | .mv1 => 7

/-- Every engine in IDLE order. -/
def allEngines : List Engine := [.pe, .ce, .ke, .se, .qe, .de, .mv0, .mv1]

/-- One section table entry (R296). -/
structure Section where
  type : Nat
  inst : Nat
  enc : Bool
  off : Nat
  len : Nat
  crc : Nat
  raw : List Byte
  deriving DecidableEq, Repr

/-- The image header (R295). -/
structure ImgHeader where
  cver : Nat
  len : Nat
  id : Nat
  nsec : Nat
  narm : Nat
  encrypted : Bool
  compat : Bool
  arbCommit : Bool
  sigKey : Nat
  encKey : Nat
  arbSlot : Nat
  arbValue : Nat
  sheetMode : Nat
  ivBase : Nat
  deriving DecidableEq, Repr

/-- A family table entry (R127). -/
structure FamEntry where
  family : Nat
  count : Nat
  first : Nat
  ord0 : Nat
  deriving DecidableEq, Repr

/-- A thread context entry (R318). -/
structure CtxEntry where
  start : Nat
  prio : Nat
  flow : Nat
  base : Nat
  size : Nat
  initSsp : Nat
  rstart : Nat
  deriving DecidableEq, Repr

/-- The kinds of a sequencer step (R313). -/
inductive StepKind where
  | issue | get | waitEvent | signal | timedWait | msg | halt
  deriving DecidableEq, Repr

/-- A decoded sequencer step (R313, R339); `operand` is bits [59:12]. -/
structure SeqStep where
  kind : StepKind
  phase : Nat
  pend : Bool
  ckpt : Bool
  cmds : List Nat
  operand : Nat
  idle : Nat
  ind : Nat
  next : Nat
  goto : Nat
  rx : List (Nat × Nat)
  deriving DecidableEq, Repr

/-- A core's part of a die slot (R308). -/
structure CoreEntry where
  steps : List Nat
  pool : List Nat
  stepsOff : Nat
  poolOff : Nat
  /-- section offsets of the steps and of the pool -/
  stepSrc : Nat
  poolSrc : Nat
  tblCrc : Nat
  fam : List FamEntry
  ctxs : List CtxEntry
  deriving DecidableEq, Repr

/-- A region entry (R309). -/
structure Region where
  kind : Nat
  space : Nat
  unit : Nat
  off : Nat
  size : Nat
  deriving DecidableEq, Repr

/-- A static item or template (R349). -/
structure ItemEntry where
  prio : Nat
  cls : Nat
  flow : Nat
  phase : Nat
  entry : Nat
  npred : Nat
  arg : Nat
  succs : List Nat
  deriving DecidableEq, Repr

/-- An event entry (R349). -/
structure EventEntry where
  init : Nat
  actSsp : Nat
  sspValid : Bool
  deriving DecidableEq, Repr

/-- The sources of a binding (R347). -/
inductive BindSource where
  | phaseRelease | cycleEnd | longopRun | solveOrder | hubBound
  deriving DecidableEq, Repr

/-- A binding (R347, R349). -/
structure Binding where
  target : Nat
  source : BindSource
  arg : Nat
  deriving DecidableEq, Repr

/-- The two DU modes (R308). -/
inductive DuMode where
  | dataflow | rtk
  deriving DecidableEq, Repr

/-- A die slot's DU configuration (R348). -/
structure DuCfg where
  mode : DuMode
  items : List ItemEntry
  ndyn : Nat
  events : List EventEntry
  nflow : Nat
  mboxDepth : Nat
  tmpls : List ItemEntry
  binds : List Binding
  grantBase : Nat
  mboxBase : Nat
  /-- role tags, entry phase * 16 + core -/
  roles : List Nat
  /-- CRC, MODE, RSV fields and binding sources are as R347 and R348 have them -/
  readable : Bool
  deriving DecidableEq, Repr

/-- A die slot (R308). -/
structure DieSlot where
  regions : List Region
  lpFoot : Nat
  cores : List CoreEntry
  du : DuCfg
  deriving DecidableEq, Repr

/-- A selection table entry (R221). -/
structure SelEntry where
  kind : Nat
  keyType : Nat
  inclZero : Bool
  famMask : Nat
  kTotal : Nat
  phase : Nat
  deriving DecidableEq, Repr

/-- An armature (R307). -/
structure Armature where
  ndie : Nat
  minStep : Nat
  compat : Bool
  recheckBmask : Nat
  ncand : Nat
  orderOff : Nat
  shadowBase : Nat
  ng : Nat
  nsqp : Nat
  slots : List DieSlot
  sel : List SelEntry
  solve : List Nat
  /-- the section as the dies keep a copy of it (R309) -/
  raw : List Byte
  deriving DecidableEq, Repr

/-- A certificate entry (R311). -/
structure CertEntry where
  arm : Nat
  step : Nat
  total : Nat
  ph : List Nat
  rph : List Nat
  hostBw : Nat
  deriving DecidableEq, Repr

/-- A parameter of the PARAMS section with its values and bounds as codes (R320). -/
structure Param where
  pid : Nat
  fmt : Nat
  vals : List Nat
  bounds : List (Nat × Nat)
  deriving DecidableEq, Repr

/-- The KERNELS section: TABLE with its tables by body and bin, or EXACT (R109). -/
inductive KernelsCfg where
  | exact
  | table (ks : List (List (List Run)))
  deriving DecidableEq, Repr

/-- The MISC_CFG section (R297). -/
structure MiscCfg where
  nsamp : Nat
  dts : Nat
  bilinear : Bool
  dsMin : F32
  vstop : F32
  truncMinMs : Nat
  pairCap : Nat
  statCap : Nat
  egoTmax : Nat
  truncateFar : Bool
  deriving DecidableEq, Repr

/-- An image whose container and sections have been read. -/
structure Image where
  hdr : ImgHeader
  arms : List Armature
  certs : List CertEntry
  params : List Param
  world : WorldCfg
  ego : List EgoBody
  kernels : KernelsCfg
  lib : List Byte
  templates : List Template
  /-- how many safelight declarations the image holds, up to 16 (R153) -/
  decls : Nat
  roadmap : RmParams
  misc : MiscCfg
  deriving DecidableEq, Repr

/-- A refusal: class and the fields of the refusal record that apply (R306). -/
structure Refused where
  cls : Nat
  check : Nat := 0
  sect : Option Nat := none
  arm : Option Nat := none
  die : Option Nat := none
  core : Option Nat := none
  index : Option Nat := none
  offset : Option Nat := none
  need : Option Nat := none
  have_ : Option Nat := none
  deriving DecidableEq, Repr

/-- The 64 bytes of the refusal record (R306): fields that do not apply hold all ones. -/
def Refused.bytes (tag : Nat) (r : Refused) : List Byte :=
  let f (n : Nat) (v : Option Nat) : List Byte := leBytes n (v.getD (256 ^ n - 1))
  withCrc (leBytes 8 tag ++ leBytes 1 r.cls ++ leBytes 1 r.check ++ f 1 r.sect ++ f 1 r.arm
    ++ f 1 r.die ++ f 1 r.core ++ f 2 r.index ++ f 8 r.offset ++ f 8 r.need ++ f 8 r.have_
    ++ zeroBytes 20)

end Sys2Proof.Machine
end

