-- ==== Sys2Proof/Config.lean ====
section
/-!
DEFINITION. What the specification leaves open: the byte layouts of the image sections it does not
give, and the free values. Every constant here is opaque: no proof can see its value.
-/
namespace Sys2Proof.Config

open Sys2Proof.Machine

/-- WORLD_CFG read from its plaintext; R297 gives the section no layout. None: a field is outside
its limits as far as the layout itself goes. -/
opaque worldCfg : List Byte → Option WorldCfg
/-- EGO_MODEL read from its plaintext (R297). -/
opaque egoModel : List Byte → Option (List EgoBody)
/-- KERNELS read from its plaintext (R297). -/
opaque kernels : List Byte → Option KernelsCfg
/-- The number of declarations of SAFELIGHT_DECL (R153, R297). -/
opaque decls : List Byte → Option (Fin 17)
/-- ROADMAP_CFG read from its plaintext (R297). -/
opaque roadmapCfg : List Byte → Option RmParams
/-- MISC_CFG read from its plaintext (R297). -/
opaque miscCfg : List Byte → Option MiscCfg
/-- Byte offset, within a section without a stated layout, of its first field that fails (R306). -/
opaque failOffset : Nat → List Byte → Nat
/-- Whether the solves of two entries of the solve assignment overlap in the certificate's schedule (R234): the
certificate entries of R311 hold no schedule (log entry 105). -/
opaque solvesOverlap : List CertEntry → Nat → Nat → Bool
/-- The engine that a slot of an ISSUE step feeds: R317 takes it from the position in the slot that
issues the entry and gives no table. -/
opaque slotEngine : Nat → Nat → Engine

end Sys2Proof.Config
end

