-- ==== Sys2Proof/Machine/DuTypes.lean ====
section
/-!
DEFINITION. The state of a dispatch unit and of the sequencers it schedules (R313 to R319, R325 to
R347).
-/
namespace Sys2Proof.Machine

open Sys2Proof

/-- A thread's state (R334). In dataflow mode `waiting` is a blocked GET. -/
inductive TStatus where
  | running | ready | waiting | halted | killed
  deriving DecidableEq, Repr

/-- What a waiting thread waits for (R331, R337, R338, R342). -/
inductive Wait where
  | none
  | event (e : Nat) (setSsp : Bool)
  | timed (deadline : Nat) (evt : Option Nat)
  | grant (mask since : Nat)
  | msg
  deriving DecidableEq, Repr

/-- The item a thread holds (R325, R332): static item number, or the dynamic item's id. -/
structure Held where
  item : Nat
  dyn : Bool
  prio : Nat
  flow : Nat
  deriving DecidableEq, Repr

/-- A thread of a core (R318, R319, R334). -/
structure Thread where
  status : TStatus
  step : Nat
  ssp : Nat
  ready : Nat
  /-- the step's own action has been taken: commands placed, signal given, message sent -/
  started : Bool
  wait : Wait
  /-- slots of the present step whose commands still run -/
  issued : Nat
  /-- slots of the present step whose commands have been placed (R314) -/
  placed : Nat
  item : Option Held
  /-- in RTK mode: granted and its service not ended (R335) -/
  service : Bool
  /-- pushed at a preemption, so that a grant pops a frame (R336) -/
  pushed : Bool
  /-- core and mailbox slot of the message that woke or posted the work (R343) -/
  mslot : Option (Nat × Nat)
  deriving DecidableEq, Repr

/-- A static item's state (R330). -/
inductive ItemSt where
  | waiting (pend : Nat)
  | ready (t : Nat)
  | service
  | done
  deriving DecidableEq, Repr

/-- A dynamic item (R330). -/
structure DynItem where
  /-- tells apart the dynamic items that exist together -/
  id : Nat
  tmpl : Nat
  arg : Nat
  ready : Nat
  service : Bool
  mslot : Option (Nat × Nat)
  deriving DecidableEq, Repr

/-- An event: its count, the mailbox slots its counts stand for, and the FIFO of (core, thread)
(R337, R343). -/
structure EventSt where
  count : Nat
  slots : List (Option (Nat × Nat))
  fifo : List (Nat × Nat)
  deriving DecidableEq, Repr

/-- A core's mailbox: the next slot and the used ones (R343). -/
structure Mailbox where
  next : Nat
  used : List Nat
  deriving DecidableEq, Repr

/-- A message or cross-die SIGNAL in flight (R339 to R343). -/
structure Msg where
  /-- global core number of the sender; none for the hub -/
  src : Option Nat
  /-- the sender's thread -/
  thread : Nat
  /-- destination: physical die, none for the hub -/
  die : Option Nat
  core : Nat
  role : Nat
  target : Nat
  epoch : Nat
  payload : List Byte
  /-- a cross-die SIGNAL rather than a MSG; with BCAST -/
  signal : Option Bool
  /-- a TRACE message that has reached the hub and waits there for a cycle's trace area (R354) -/
  told : Bool
  deriving DecidableEq, Repr

/-- A die's DU state with regard to refusal (R345). -/
inductive DieServe where
  | starting | testing | recovering | serving
  deriving DecidableEq, Repr

/-- The dispatch unit and sequencers of one die. -/
structure DuState where
  serve : DieServe
  epoch : Nat
  items : List ItemSt
  dyn : List DynItem
  events : List EventSt
  /-- threads by core, 16 lists -/
  threads : List (List Thread)
  mbox : List Mailbox
  stale : Nat
  staleEpoch : Nat
  /-- hub events bound on this die that have not fired yet (R347) -/
  fires : List (BindSource × Nat)
  /-- threads of a yielded or suspended long operation whose frames are pushed: core, thread (R452) -/
  saved : List (Nat × Nat × Thread)
  /-- bound sources refused since the die last served: the hub notes them with its restart or test (R347; log entry
  121) -/
  refused : List (BindSource × Nat)
  deriving DecidableEq, Repr

/-- A dispatch unit with nothing loaded. -/
def DuState.empty : DuState :=
  ⟨.starting, 0, [], [], [], List.replicate 16 [], List.replicate 16 ⟨0, []⟩, 0, 0, [], [], []⟩

/-- A command in an engine's queue (R314). -/
structure QCmd where
  word : Nat
  core : Nat
  thread : Nat
  step : Nat
  slot : Nat
  deriving DecidableEq, Repr

/-- An engine's command queue: unit number (global core or global cluster by engine) and its
commands, oldest first. -/
structure EngQueue where
  unit : Nat
  engine : Engine
  cmds : List QCmd
  deriving DecidableEq, Repr

/-- A flag on its way to a sequencer (R316): code, issuing step and slot, lane and candidate. -/
structure EngFlag where
  core : Nat
  thread : Nat
  step : Nat
  slot : Nat
  code : Nat
  lane : Nat
  cand : Nat
  /-- the fault that is the flag's cause; none where it has none (R316) -/
  cause : Option Fault0
  /-- flags that arose with it, whose reactions the sequencer does not take (R177, R265) -/
  also : List Nat
  deriving DecidableEq, Repr

/-- What a step sees of the machine besides the DU: the released phase (0 outside a cycle), whether
a long operation runs, SCLK and device time, the release's device time (R314, R338). -/
structure SeqEnv where
  phase : Nat
  longop : Bool
  /-- a long operation's threads stop at their next CKPT step (R314, R451) -/
  halt : Bool
  sclk : Nat
  now : Nat
  release : Nat
  retouch : Bool

end Sys2Proof.Machine
end

