-- ==== Sys2Proof/Machine/Crypto.lean ====
section
/-!
DEFINITION. The published algorithms that the image checks name (R298 to R300): SHA-384, ECDSA over
P-384 (FIPS 186-5) and AES-256-GCM (SP 800-38D). The manual names the standards and gives no
constants; the constants are the standards' (PRESUMED, log entry 12).
-/
namespace Sys2Proof.Machine

open Sys2Proof

/-- The number whose bytes, highest first, are the list. -/
def beNat (bs : List Byte) : Nat := bs.foldl (fun a b => a * 256 + b.toNat) 0

/-- The `n` bytes of `v`, highest first. -/
def beBytes (n v : Nat) : List Byte := (leBytes n v).reverse

/-! ### SHA-384 -/

/-- The integer cube root, found bit by bit. -/
def icbrtFrom : Nat → Nat → Nat → Nat
  | 0, _, r => r
  | b + 1, n, r =>
    let t := r + 2 ^ b
    icbrtFrom b n (if t * t * t ≤ n then t else r)

/-- The first `n` primes from `k` on, within `fuel` candidates. -/
def primesFrom : Nat → Nat → Nat → List Nat
  | 0, _, _ => []
  | f + 1, k, n =>
    if n = 0 then []
    else if 2 ≤ k ∧ (List.range k).all (fun d => d < 2 || k % d != 0) then
      k :: primesFrom f (k + 1) (n - 1)
    else primesFrom f (k + 1) n

/-- The 80 round constants: the first 64 fraction bits of the cube roots of the first 80 primes. -/
def sha512K : List Nat := (primesFrom 410 2 80).map (fun p => icbrtFrom 68 (p * 2 ^ 192) 0 % 2 ^ 64)

/-- SHA-384's initial state: the first 64 fraction bits of the square roots of the ninth to
sixteenth primes. -/
def sha384H : List Nat := ((primesFrom 60 2 16).drop 8).map (fun p => isqrt (p * 2 ^ 128) % 2 ^ 64)

/-- A 64-bit rotation right. -/
def rotr64 (x n : Nat) : Nat := (x / 2 ^ n + x * 2 ^ (64 - n)) % 2 ^ 64

/-- The message schedule, newest word first, extended by `n` words. -/
def shaSchedule : Nat → List Nat → List Nat
  | 0, w => w
  | n + 1, w =>
    let a := nth 0 w 14
    let b := nth 0 w 1
    let s0 := rotr64 a 1 ^^^ rotr64 a 8 ^^^ (a / 2 ^ 7)
    let s1 := rotr64 b 19 ^^^ rotr64 b 61 ^^^ (b / 2 ^ 6)
    shaSchedule n ((nth 0 w 15 + s0 + nth 0 w 6 + s1) % 2 ^ 64 :: w)

/-- One round on the eight working words. -/
def shaRound (h : List Nat) (kw : Nat × Nat) : List Nat :=
  match h with
  | [a, b, c, d, e, f, g, hh] =>
    let s1 := rotr64 e 14 ^^^ rotr64 e 18 ^^^ rotr64 e 41
    let ch := (e &&& f) ^^^ ((2 ^ 64 - 1 - e) &&& g)
    let t1 := hh + s1 + ch + kw.1 + kw.2
    let s0 := rotr64 a 28 ^^^ rotr64 a 34 ^^^ rotr64 a 39
    let mj := (a &&& b) ^^^ (a &&& c) ^^^ (b &&& c)
    [(t1 + s0 + mj) % 2 ^ 64, a, b, c, (d + t1) % 2 ^ 64, e, f, g]
  | _ => h

/-- One 128-byte block. -/
def shaBlock (h : List Nat) (blk : List Byte) : List Nat :=
  let w := (shaSchedule 64 (((chunks 8 16 blk).map beNat).reverse)).reverse
  ((sha512K.zip w).foldl shaRound h).zip h |>.map (fun p => (p.1 + p.2) % 2 ^ 64)

/-- SHA-384 of a byte string: 48 bytes. -/
def sha384 (m : List Byte) : List Byte :=
  let z := (240 - (m.length + 1) % 128) % 128
  let p := m ++ [0x80] ++ zeroBytes z ++ beBytes 16 (8 * m.length)
  let h := (chunks 128 (p.length / 128) p).foldl shaBlock sha384H
  ((h.take 6).map (beBytes 8)).flatten

/-! ### ECDSA over P-384 -/

/-- The field prime of P-384. -/
def p384P : Nat := 2 ^ 384 - 2 ^ 128 - 2 ^ 96 + 2 ^ 32 - 1
/-- The curve's order. -/
def p384N : Nat :=
  0xFFFFFFFFFFFFFFFFFFFFFFFFFFFFFFFFFFFFFFFFFFFFFFFFC7634D81F4372DDF581A0DB248B0A77AECEC196ACCC52973
/-- The curve's b. -/
def p384B : Nat :=
  0xB3312FA7E23EE7E4988E056BE3F82D19181D9C6EFE8141120314088F5013875AC656398D8A2ED19D2A85C8EDD3EC2AEF
/-- The base point. -/
def p384G : Nat × Nat :=
  (0xAA87CA22BE8B05378EB1C71EF320AD746E1D3B628BA79B9859F741E082542A385502F25DBF55296C3A545E3872760AB7,
   0x3617DE4A96262C6F5D9E98BF9292DC29F8F41DBD289A147CE9DA3113B5F0B8C00A60B1CE1D7E819D7A431D7C90EA0E5F)

/-- `a ^ e` modulo `m`, `n` bits of the exponent. -/
def powMod : Nat → Nat → Nat → Nat → Nat → Nat
  | 0, _, _, _, acc => acc
  | n + 1, a, e, m, acc => powMod n (a * a % m) (e / 2) m (if e % 2 = 1 then acc * a % m else acc)

/-- The inverse modulo a prime of 384 bits. -/
def invMod (a m : Nat) : Nat := powMod 384 (a % m) (m - 2) m 1

/-- Doubling in Jacobian coordinates; z = 0 is the point at infinity. -/
def jDouble (q : Nat × Nat × Nat) : Nat × Nat × Nat :=
  let (x, y, z) := q
  let p := p384P
  let y2 := y * y % p
  let s := 4 * x * y2 % p
  let z2 := z * z % p
  let m := 3 * (x + p - z2) * (x + z2) % p
  let x3 := (m * m + 2 * p - 2 * s) % p
  (x3, (m * (s + p - x3) + 8 * (p - y2 * y2 % p)) % p, 2 * y * z % p)

/-- Addition in Jacobian coordinates. -/
def jAdd (a b : Nat × Nat × Nat) : Nat × Nat × Nat :=
  let p := p384P
  if a.2.2 % p = 0 then b
  else if b.2.2 % p = 0 then a
  else
    let za2 := a.2.2 * a.2.2 % p
    let zb2 := b.2.2 * b.2.2 % p
    let u1 := a.1 * zb2 % p
    let u2 := b.1 * za2 % p
    let s1 := a.2.1 * zb2 * b.2.2 % p
    let s2 := b.2.1 * za2 * a.2.2 % p
    if u1 = u2 then (if s1 = s2 then jDouble a else (1, 1, 0))
    else
      let h := (u2 + p - u1) % p
      let r := (s2 + p - s1) % p
      let h2 := h * h % p
      let h3 := h * h2 % p
      let v := u1 * h2 % p
      let x3 := (r * r + (p - h3) + 2 * (p - v)) % p
      (x3, (r * (v + p - x3) + s1 * (p - h3)) % p, h * a.2.2 * b.2.2 % p)

/-- `k * P`, from bit `n - 1` of `k` down. -/
def jMul : Nat → Nat → Nat × Nat × Nat → Nat × Nat × Nat → Nat × Nat × Nat
  | 0, _, _, acc => acc
  | n + 1, k, q, acc =>
    let d := jDouble acc
    jMul n k q (if bitAt k n then jAdd d q else d)

/-- ECDSA verification over P-384 of the digest (R298, R299). -/
def ecdsaOk (digest : List Byte) (qx qy r s : Nat) : Bool :=
  let p := p384P
  let n := p384N
  let onCurve := qx < p && qy < p
    && (qy * qy) % p == (qx * qx * qx + (p - 3) * qx + p384B) % p
  if onCurve && decide (1 ≤ r ∧ r < n ∧ 1 ≤ s ∧ s < n) then
    let w := invMod s n
    let u1 := beNat digest * w % n
    let u2 := r * w % n
    let q := jAdd (jMul 384 u1 (p384G.1, p384G.2, 1) (1, 1, 0)) (jMul 384 u2 (qx, qy, 1) (1, 1, 0))
    if q.2.2 % p = 0 then false
    else
      let zi := invMod q.2.2 p
      q.1 * zi % p * zi % p % n == r
  else false

/-! ### AES-256-GCM -/

/-- Multiplication by x in AES's field. -/
def xtime (a : Nat) : Nat := if 128 ≤ a then (a * 2 ^^^ 0x11B) % 256 else a * 2

/-- Multiplication in AES's field, `n` bits of `b`. -/
def gfMul : Nat → Nat → Nat → Nat
  | 0, _, _ => 0
  | n + 1, a, b => (if b % 2 = 1 then a else 0) ^^^ gfMul n (xtime a) (b / 2)

/-- The S-box: the inverse (x^254), then the affine map. -/
def sboxOf (x : Nat) : Nat :=
  let sq (a : Nat) : Nat := gfMul 8 a a
  let x2 := sq x
  let x4 := sq x2
  let x8 := sq x4
  let x16 := sq x8
  let x32 := sq x16
  let x64 := sq x32
  let x128 := sq x64
  let i := [x4, x8, x16, x32, x64, x128].foldl (gfMul 8) x2
  let rl (n : Nat) : Nat := (i * 2 ^ n + i / 2 ^ (8 - n)) % 256
  i ^^^ rl 1 ^^^ rl 2 ^^^ rl 3 ^^^ rl 4 ^^^ 0x63

/-- Round constants of the key schedule. -/
def rconOf (i : Nat) : Nat := nth 0 [0x01, 0x02, 0x04, 0x08, 0x10, 0x20, 0x40] i

/-- The key schedule, newest word first, from word `i` on. -/
def aesExpand : Nat → Nat → List (List Nat) → List (List Nat)
  | 0, _, w => w
  | f + 1, i, w =>
    let t := nth [] w 0
    let t := if i % 8 = 0 then
        let r := (t.drop 1 ++ t.take 1).map sboxOf
        (r.zipIdx.map (fun p => if p.2 = 0 then p.1 ^^^ rconOf (i / 8 - 1) else p.1))
      else if i % 8 = 4 then t.map sboxOf else t
    aesExpand f (i + 1) ((((nth [] w 7).zip t).map (fun p => p.1 ^^^ p.2)) :: w)

/-- The fifteen round keys of an AES-256 key. -/
def aesKeys (key : List Byte) : List (List Nat) :=
  let w := (chunks 4 8 (key.map (·.toNat))).reverse
  (chunks 4 15 ((aesExpand 52 8 w).reverse)).map List.flatten

/-- ShiftRows of a state held column by column. -/
def shiftRows (s : List Nat) : List Nat :=
  (List.range 16).map (fun i => nth 0 s ((i + 4 * (i % 4)) % 16))

/-- MixColumns. -/
def mixColumns (s : List Nat) : List Nat :=
  ((chunks 4 4 s).map (fun c => (List.range 4).map (fun i =>
    let a := nth 0 c i
    let b := nth 0 c ((i + 1) % 4)
    xtime a ^^^ (xtime b ^^^ b) ^^^ nth 0 c ((i + 2) % 4) ^^^ nth 0 c ((i + 3) % 4)))).flatten

/-- One AES-256 block under expanded keys. -/
def aesBlock (ks : List (List Nat)) (blk : List Byte) : List Byte :=
  let ark (s k : List Nat) : List Nat := (s.zip k).map (fun p => p.1 ^^^ p.2)
  let s0 := ark (blk.map (·.toNat)) (nth [] ks 0)
  let s13 := (List.range 13).foldl (fun s i =>
    ark (mixColumns (shiftRows (s.map sboxOf))) (nth [] ks (i + 1))) s0
  (ark (shiftRows (s13.map sboxOf)) (nth [] ks 14)).map (BitVec.ofNat 8)

/-- Multiplication in GCM's field: bit 127 of a number is the first bit of the block. -/
def ghashMul : Nat → Nat → Nat → Nat → Nat
  | 0, _, _, z => z
  | n + 1, x, v, z =>
    ghashMul n x (if v % 2 = 1 then v / 2 ^^^ (0xE1 * 2 ^ 120) else v / 2)
      (if bitAt x n then z ^^^ v else z)

/-- GHASH under `h`. -/
def ghash (h : Nat) (bs : List Byte) : Nat :=
  (chunks 16 (bs.length / 16) bs).foldl (fun y b => ghashMul 128 (y ^^^ beNat b) h 0) 0

/-- Padded with zero bytes to a multiple of 16. -/
def pad16 (bs : List Byte) : List Byte := padTo ((bs.length + 15) / 16 * 16) bs

/-- AES-256-GCM decryption with a 96-bit IV (R300): the plaintext, or none on a tag failure. -/
def gcmOpen (key iv aad ct tag : List Byte) : Option (List Byte) :=
  let ks := aesKeys key
  let h := beNat (aesBlock ks (zeroBytes 16))
  let ek (ctr : Nat) : List Byte := aesBlock ks (iv ++ beBytes 4 ctr)
  let s := ghash h (pad16 aad ++ pad16 ct ++ beBytes 8 (8 * aad.length) ++ beBytes 8 (8 * ct.length))
  if beNat (ek 1) ^^^ s = beNat tag then
    some ((chunks 16 (ct.length / 16 + 1) ct).zipIdx.map (fun b =>
      (b.1.zip (ek (b.2 + 2))).map (fun p => p.1 ^^^ p.2))).flatten
  else none

end Sys2Proof.Machine
end

