-- ==== Sys2Proof/Machine/Image.lean ====
section
/-!
DEFINITION. Reading an image (R295 to R300, R305 to R323): container, sections, armatures, DU
configurations, certificate and parameters, and the checks of FORM to SECTION_CRC.
-/
namespace Sys2Proof.Machine

open Sys2Proof

/-- The header fields (R295). -/
def ImgHeader.ofBytes (b : List Byte) : ImgHeader :=
  ⟨getLe b 4 2, getLe b 8 8, getLe b 16 8, getLe b 24 2, getLe b 26 1, bitAt (getLe b 27 1) 0,
   bitAt (getLe b 27 1) 1, bitAt (getLe b 27 1) 2, getLe b 28 1 % 16, getLe b 28 1 / 16,
   getLe b 29 1 % 16, getLe b 32 4, getLe b 36 1, getLe b 38 12⟩

/-- The RSV fields of the header, as (byte, nonzero) in order, with the keys that ENCRYPTED 0 makes
0 (R295). -/
def hdrRsv (b : List Byte) : List (Nat × Bool) :=
  let h := ImgHeader.ofBytes b
  [(27, getLe b 27 1 / 8 != 0), (28, !h.encrypted && h.encKey != 0),
   (29, getLe b 29 1 / 16 != 0), (30, getLe b 30 2 != 0), (37, getLe b 37 1 != 0),
   (38, !h.encrypted && h.ivBase != 0)]
  ++ (List.range 186).map (fun i => (66 + i, getLe b (66 + i) 1 != 0))

/-- The section types that an image may hold (R297). -/
def sectionTypes : List Nat := (List.range 12).map (· + 1)

/-- Section table entry `k` (R296). -/
def sectionAt (b : List Byte) (k : Nat) : Section :=
  let e := sliceAt b (256 + 32 * k) 32
  let off := getLe e 4 8
  let len := getLe e 12 8
  ⟨getLe e 0 2, getLe e 2 1, bitAt (getLe e 3 1) 0, off, len, getLe e 20 4, sliceAt b off len⟩

/-- The RSV fields of a section table entry are 0 (R296). -/
def sectionRsvOk (b : List Byte) (k : Nat) : Bool :=
  let e := sliceAt b (256 + 32 * k) 32
  getLe e 3 1 / 2 == 0 && getLe e 24 8 == 0

/-- The layout rules of the section table (R296): the first entry that breaks one. -/
def tableFail (b : List Byte) (len nsec : Nat) : Option Nat :=
  let rec go : Nat → Nat → Nat → Option Nat
    | 0, _, _ => none
    | f + 1, k, at_ =>
      let s := sectionAt b k
      if sectionRsvOk b k && s.off % 64 == 0 && decide (at_ ≤ s.off) && decide (s.off + s.len + 256 ≤ len)
      then go f (k + 1) (s.off + s.len) else some k
  go nsec 0 (256 + 32 * nsec)

/-- The section set of R297: the first entry that is unknown, duplicate or has a wrong INST. -/
def typesFail (ss : List Section) (narm : Nat) : Option Nat :=
  ((List.range ss.length).find? (fun k =>
    match ss[k]? with
    | none => false
    | some s =>
      let dup := (ss.take k).any (fun t => t.type == s.type && t.inst == s.inst)
      !(sectionTypes.contains s.type) || dup
      || (if s.type = 1 then decide (narm ≤ s.inst) else s.inst != 0)))

/-- A section of a type is missing (R297). -/
def typesMissing (ss : List Section) (narm : Nat) : Bool :=
  (sectionTypes.drop 1).any (fun t => !(ss.any (fun s => s.type == t)))
  || (List.range narm).any (fun a => !(ss.any (fun s => s.type == 1 && s.inst == a)))

/-- FORM (R305), with the descriptor's length: the first check that fails. -/
def formCheck (b : List Byte) (dlen : Nat) : Option Refused :=
  let h := ImgHeader.ofBytes b
  let no (n off : Nat) : Option Refused := some { cls := 1, check := n, offset := some off }
  let noSec (n : Nat) (k : Nat) : Option Refused :=
    some { cls := 1, check := n, sect := some k, offset := some (256 + 32 * k) }
  if getLe b 0 4 ≠ 0x314D494B then no 1 0
  else if h.cver ≠ 1 ∧ h.cver ≠ 2 then no 2 4
  else if getLe b 6 2 ≠ 256 then no 3 6
  else if getLe b 252 4 ≠ crc32c (b.take 252) then no 4 252
  else if h.len ≠ dlen ∨ h.len % 64 ≠ 0 ∨ h.len < 4096 ∨ 2 ^ 36 < h.len then no 5 8
  else match (hdrRsv b).find? (·.2) with
  | some r => no 6 r.1
  | none =>
    if h.nsec = 0 ∨ 64 < h.nsec then no 7 24
    else if h.narm = 0 ∨ 4 < h.narm then no 7 26
    else if 3 < h.sigKey then no 7 28
    else if h.encrypted ∧ 7 < h.encKey then no 7 28
    else if 2 < h.sheetMode then no 7 36
    else match tableFail b h.len h.nsec with
    | some k => noSec 8 k
    | none =>
      let ss := (List.range h.nsec).map (sectionAt b)
      if ss.any (·.enc) ≠ h.encrypted then no 8 256 else
      match typesFail ss h.narm with
      | some k => noSec 9 k
      | none =>
        if typesMissing ss h.narm then some { cls := 1, check := 9 }
        else if (h.cver = 1 ∧ (!h.compat ∨ h.narm ≠ 1)) ∨ (h.cver = 2 ∧ h.compat) then no 10 27
        else none

/-- A signing-key slot of Photus: the hash of an accepted key, and its revocation bit. -/
structure SigSlot where
  hash : List Byte
  revoked : Bool
  deriving DecidableEq, Repr

/-- SIGNATURE (R298, R299, R305). `slot` is Photus slot SIGKEY, none when not programmed. -/
def signatureCheck (b : List Byte) (slot : Option SigSlot) : Option Refused :=
  let at_ := b.length - 256
  let no (n off : Nat) : Option Refused := some { cls := 2, check := n, offset := some off }
  match slot with
  | none => no 1 28
  | some sl =>
    if sl.revoked then no 2 28
    else if sha384 (sliceAt b at_ 96) ≠ sl.hash then no 3 at_
    else if (sliceAt b (at_ + 192) 64).all (· == 0)
        && ecdsaOk (sha384 (b.take at_)) (getLe b at_ 48) (getLe b (at_ + 48) 48)
            (getLe b (at_ + 96) 48) (getLe b (at_ + 144) 48) then none
    else no 4 (at_ + 96)

/-- The plaintext of a section (R300): none on a tag failure. -/
def plainSection (b : List Byte) (h : ImgHeader) (key : List Byte) (k : Nat) (s : Section) :
    Option (List Byte) :=
  if s.enc then
    let iv := beBytes 12 (h.ivBase ^^^ k)
    gcmOpen key iv (sliceAt b (256 + 32 * k) 32) (s.raw.take (s.len - 16)) (s.raw.drop (s.len - 16))
  else some s.raw

/-- DECRYPT and SECTION_CRC (R300, R305): the plaintext sections or the first failure. `key` is the
AES slot ENCKEY, none when empty. -/
def openSections (b : List Byte) (key : Option (List Byte)) : Except Refused (List Section) :=
  let h := ImgHeader.ofBytes b
  let ss := (List.range h.nsec).map (sectionAt b)
  let step (acc : List Section) (p : Section × Nat) : Except Refused (List Section) :=
    if p.1.enc then
      match key with
      | none => .error { cls := 4, check := 1, sect := some p.2, offset := some (256 + 32 * p.2) }
      | some ky =>
        match plainSection b h ky p.2 p.1 with
        | none => .error { cls := 4, check := 2, sect := some p.2, offset := some p.1.off }
        | some pt => .ok (acc ++ [{ p.1 with raw := pt }])
    else .ok (acc ++ [p.1])
  match ss.zipIdx.foldlM step [] with
  | .error e => .error e
  | .ok ps =>
    match ps.zipIdx.find? (fun p => crc32c p.1.raw != p.1.crc) with
    | some p => .error { cls := 5, check := 1, sect := some p.2, offset := some (256 + 32 * p.2 + 20) }
    | none => .ok ps

/-! ### Parameters (R320 to R322) -/

/-- The size of a format's elements in bytes (R320). -/
def fmtSize (fmt : Nat) : Nat :=
  if fmt = 1 then 1 else if fmt = 2 ∨ fmt = 3 then 2 else 4

/-- A code's place in its format's order (R320). -/
def fmtRank (fmt v : Nat) : Int :=
  if fmt = 3 then signed 16 v else if fmt = 5 then signed 32 v
  else if fmt = 6 then fRank (BitVec.ofNat 32 v) else (v : Int)

/-- The format and element count that R321 gives a PID; `blocks t` is template `t`'s block count. -/
def pidShape (nsamp : Nat) (blocks : Nat → Option Nat) (pid : Nat) : Option (Nat × Nat) :=
  match pid with
  | 0x0001 => some (1, 24) | 0x0002 => some (1, 3) | 0x0003 => some (1, 1) | 0x0004 => some (1, 8)
  | 0x0005 => some (5, 3) | 0x0006 => some (1, 3) | 0x0010 => some (4, 1) | 0x0020 => some (1, 3)
  | 0x0021 => some (1, 1) | 0x0022 => some (2, 8) | 0x0023 => some (1, 6) | 0x0024 => some (2, nsamp)
  | 0x0025 => some (2, nsamp) | 0x0026 => some (2, 6) | 0x0030 => some (5, 1) | 0x0031 => some (1, 1)
  | 0x0032 => some (2, 1) | 0x0050 => some (6, 1) | 0x0060 => some (6, 13)
  | _ => if 0x0040 ≤ pid ∧ pid < 0x0050 then (blocks (pid - 0x0040)).map (fun n => (6, 12 + 8 * n)) else none

/-- The places of the binary32 numbers above 0 (R320). -/
def rankAbove0 : Int × Int := (1, fRank 0x7F7FFFFF#32)
/-- The places of the finite binary32 numbers. -/
def rankFinite : Int × Int := (-fRank 0x7F7FFFFF#32, fRank 0x7F7FFFFF#32)

/-- The device limits of element `i` of a template's PID: its header fields as R321 orders them, then its
coefficients (R239). -/
def tmplLimit (i : Nat) : Int × Int :=
  if i = 6 ∨ i = 7 then (0, fRank 0x7F7FFFFF#32)
  else if i = 8 then (1, fRank 0x3F7FFFFF#32)
  else if i < 12 then rankAbove0 else rankFinite

/-- The device limits of element `i` of the proofer's table (R270). -/
def proofLimit (i : Nat) : Int × Int :=
  if i = 11 then (fRank 0x41000000#32, fRank 0x7F7FFFFF#32)
  else if i = 12 then (fRank 0x3F800000#32, fRank 0x42800000#32)
  else rankAbove0

/-- The device limits of a PID's element (R108, R151, R163, R185, R239, R270), in its format's order. -/
def pidLimit (pid i : Nat) : Option (Int × Int) :=
  match pid with
  | 0x0002 => some (0, 15)
  | 0x0003 => some (0, 1)
  | 0x0005 => some (0, 0x2000)
  | 0x0006 => some (nth (1, 64) [(1, 64), (1, 48), (1, 8)] i)
  | 0x0010 => some (1, 0x7FFF8)
  | 0x0021 => some (0, 0xFE)
  | 0x0022 => some (0, if i = 5 then 0x7FFF else 65535)
  | 0x0023 => some (0, if i = 5 then 40 else 47)
  | 0x0024 => some (0, 256)
  | 0x0025 => some (0, 256)
  | 0x0026 => some (nth (1, 64) [(10, 400), (10, 400), (1, 600), (5, 200), (5, 200), (1, 64)] i)
  | 0x0030 => some (0x100, 0x1000)
  | 0x0031 => some (1, 32)
  | 0x0050 => some rankFinite
  | 0x0060 => some (proofLimit i)
  | _ => if 0x0040 ≤ pid ∧ pid < 0x0050 then some (tmplLimit i) else none

/-- A parameter read from the section (R320). -/
def paramAt (b : List Byte) (k : Nat) : Param :=
  let e := sliceAt b (64 + 16 * k) 16
  let fmt := getLe e 2 1
  let n := getLe e 4 2
  let sz := fmtSize fmt
  ⟨getLe e 0 2, fmt, (List.range n).map (fun i => getLe b (getLe e 8 4 + sz * i) sz),
   (List.range n).map (fun i =>
     (getLe b (getLe e 12 4 + 2 * sz * i) sz, getLe b (getLe e 12 4 + 2 * sz * i + sz) sz))⟩

/-- Values within bounds, bounds within the device limits and in order, and, for binary32, finite
(R320). -/
def Param.ok (p : Param) : Bool :=
  let r := fmtRank p.fmt
  (p.vals.zip p.bounds).zipIdx.all (fun e =>
    let lo := r e.1.2.1
    let hi := r e.1.2.2
    decide (lo ≤ hi ∧ lo ≤ r e.1.1 ∧ r e.1.1 ≤ hi)
    && (p.fmt != 6 || isFinite32 (BitVec.ofNat 32 e.1.1))
    && match pidLimit p.pid e.2 with
       | none => true
       | some l => decide (l.1 ≤ lo ∧ hi ≤ l.2))

/-- The values of a PID (R321). -/
def paramVals (ps : List Param) (pid : Nat) : List Nat :=
  ((ps.find? (fun p => p.pid == pid)).map (·.vals)).getD []

/-- Value `i` of a PID. -/
def paramVal (ps : List Param) (pid i : Nat) : Nat := nth 0 (paramVals ps pid) i

/-- The value area of a PARAMS section with `npar` entries: values at multiples of their element's size, values
and bounds packed without gaps behind the directory (R320; log entry 114). -/
def valuesPacked (b : List Byte) (npar : Nat) : Bool :=
  let ranges := (List.range npar).flatMap (fun k =>
    let e := sliceAt b (64 + 16 * k) 16
    let n := getLe e 4 2 * fmtSize (getLe e 2 1)
    [(getLe e 8 4, n), (getLe e 12 4, 2 * n)])
  let start := 64 + 16 * npar
  (List.range npar).all (fun k =>
    let e := sliceAt b (64 + 16 * k) 16
    getLe e 8 4 % fmtSize (getLe e 2 1) == 0)
  && ranges.all (fun r => decide (start ≤ r.1 ∧ r.1 + r.2 ≤ b.length))
  && ranges.zipIdx.all (fun r => (ranges.drop (r.2 + 1)).all (fun q =>
      r.1.2 == 0 || q.2 == 0 || decide (r.1.1 + r.1.2 ≤ q.1 ∨ q.1 + q.2 ≤ r.1.1)))
  && start + sumNat (ranges.map (·.2)) == b.length

/-- The PARAMS section (R320, R321): none where the header, the directory or a value fails. -/
def paramsOf (b : List Byte) (nsamp : Nat) (blocks : Nat → Option Nat) (ntmpl : Nat) :
    Option (List Param) :=
  let npar := getLe b 2 2
  let ps := (List.range npar).map (paramAt b)
  let need := [1, 2, 3, 4, 5, 6, 0x10, 0x20, 0x21, 0x22, 0x23, 0x24, 0x25, 0x26, 0x30, 0x31, 0x32, 0x50, 0x60]
    ++ (List.range ntmpl).map (· + 0x40)
  let rsvOk := (sliceAt b 8 52).all (· == 0)
    && (List.range npar).all (fun k => getLe b (64 + 16 * k + 3) 1 == 0 && getLe b (64 + 16 * k + 6) 2 == 0)
  if getLe b 0 2 = 1 ∧ getLe b 4 4 = b.length ∧ getLe b 60 4 = crc32c (b.take 60) ∧ rsvOk
      ∧ noDup (ps.map (·.pid)) ∧ need.all (fun p => (ps.map (·.pid)).contains p)
      ∧ valuesPacked b npar ∧ ps.all (fun p => pidShape nsamp blocks p.pid == some (p.fmt, p.vals.length) && p.ok) then
    some ps
  else none

/-- One patch entry (R322): PID, first element, values as codes. -/
structure PatchEntry where
  pid : Nat
  first : Nat
  vals : List Nat
  deriving DecidableEq, Repr

/-- The patch entries of a payload (R322): none where one is malformed. -/
def patchEntries (ps : List Param) : Nat → List Byte → Option (List PatchEntry)
  | 0, b => if b.isEmpty then some [] else none
  | f + 1, b =>
    if b.isEmpty then some []
    else do
      let pid := getLe b 0 2
      let first := getLe b 2 2
      let n := getLe b 4 2
      guard (8 ≤ b.length ∧ getLe b 6 2 = 0 ∧ 0 < n)
      let p ← ps.find? (fun p => p.pid == pid)
      let sz := fmtSize p.fmt
      let len := (n * sz + 7) / 8 * 8
      guard (first + n ≤ p.vals.length ∧ 8 + len ≤ b.length)
      guard ((sliceAt b (8 + n * sz) (len - n * sz)).all (· == 0))
      let r ← patchEntries ps f (b.drop (8 + len))
      return ⟨pid, first, (List.range n).map (fun i => getLe b (8 + sz * i) sz)⟩ :: r

/-- A patch applied to the parameter values (R322). -/
def applyPatch (ps : List Param) (es : List PatchEntry) : List Param :=
  es.foldl (fun ps e => ps.map (fun p =>
    if p.pid = e.pid then
      { p with vals := p.vals.take e.first ++ e.vals ++ p.vals.drop (e.first + e.vals.length) }
    else p)) ps

/-! ### Armatures -/

/-- A sequencer step decoded (R313, R339): none for a reserved KIND. -/
def SeqStep.ofWord (w : Nat) : Option SeqStep := do
  let k ← (if field w 0 4 = 0 then some StepKind.issue else if field w 0 4 = 1 then some .get
    else if field w 0 4 = 2 then some .waitEvent else if field w 0 4 = 3 then some .signal
    else if field w 0 4 = 4 then some .timedWait else if field w 0 4 = 5 then some .msg
    else if field w 0 4 = 6 then some .halt else none)
  return ⟨k, field w 4 4, bitAt w 8, bitAt w 9, (List.range 4).map (fun i => field w (12 + 12 * i) 12),
    field w 12 48, field w 60 8, field w 68 4, field w 72 12, field w 84 12,
    (List.range 4).map (fun i => (field w (96 + 8 * i) 5, field w (101 + 8 * i) 3))⟩

/-- A context table entry (R318). -/
def CtxEntry.ofWord (w : Nat) : CtxEntry :=
  ⟨field w 0 12, field w 12 4, field w 16 10, field w 32 13 * 64, field w 48 13 * 64, field w 64 13 * 64,
   field w 80 12⟩

/-- The 16-byte words of a table. -/
def words16 (b : List Byte) (off n : Nat) : List Nat := (records 16 n (b.drop off)).map leNat

/-- A core entry (R308). A field NSTEP of 0 stands for 4,096 steps. -/
def CoreEntry.ofBytes (b : List Byte) (off : Nat) : CoreEntry :=
  let w := leNat (sliceAt b off 64)
  let nstep := if field w 0 12 = 0 then 4096 else field w 0 12
  ⟨words16 b (field w 32 32) nstep, words16 b (field w 64 32) (field w 16 12), field w 96 16 * 64,
   field w 112 16 * 64, field w 32 32, field w 64 32, field w 128 32,
   (words16 b (field w 160 32) (field w 192 8)).map (fun f => ⟨field f 0 4, field f 16 16, field f 32 32, field f 64 32⟩),
   (words16 b (field w 224 32) (field w 28 4)).map CtxEntry.ofWord⟩

/-- A region entry (R309). -/
def Region.ofWord (w : Nat) : Region := ⟨field w 0 8, field w 8 4, field w 16 8, field w 32 32, field w 64 32⟩

/-- An item or template (R349), its successors from the table at `succ`. -/
def ItemEntry.ofWord (b : List Byte) (succ : Nat) (w : Nat) : ItemEntry :=
  ⟨field w 0 4, field w 4 4, field w 8 10, field w 18 4, field w 24 12, field w 36 12, field w 48 16,
   (List.range (field w 80 12)).map (fun i => getLe b (succ + 2 * (field w 64 16 + i)) 2)⟩

/-- SOURCE of a binding (R347). -/
def BindSource.ofCode (n : Nat) : Option BindSource :=
  if n = 1 then some .phaseRelease else if n = 2 then some .cycleEnd else if n = 3 then some .longopRun
  else if n = 4 then some .solveOrder else if n = 5 then some .hubBound else none

/-- A binding of a code read; a reserved SOURCE is told by `none` (R347). -/
def Binding.ofWord (e : Nat) : Option Binding := do
  let src ← BindSource.ofCode (field e 16 4)
  guard (field e 12 4 = 0 ∧ e / 2 ^ 28 = 0)
  return ⟨field e 0 12, src, field e 20 8⟩

/-- A DU configuration (R348); it is not readable where the CRC, MODE, an RSV field or a binding fails. -/
def DuCfg.ofBytes (b : List Byte) (mode : Nat) : DuCfg :=
  let w := leNat (b.take 64)
  let succ := field w 192 32
  let items := words16 b (field w 160 32) (field w 16 13)
  let tmpls := words16 b (field w 224 32) (field w 88 8)
  let events := (List.range (field w 48 9)).map (fun i => getLe b (field w 256 32 + 8 * i) 8)
  let binds := (List.range (field w 96 7)).map (fun i => Binding.ofWord (getLe b (field w 288 32 + 8 * i) 8))
  let ok := decide (field w 0 4 = mode ∧ mode ≤ 1 ∧ field w 480 32 = crc32c (b.drop 64))
    && decide (field w 4 12 = 0 ∧ field w 29 3 = 0 ∧ field w 45 3 = 0 ∧ field w 57 7 = 0 ∧ field w 75 5 = 0
      ∧ field w 87 1 = 0 ∧ field w 103 9 = 0 ∧ field w 124 4 = 0 ∧ field w 140 20 = 0 ∧ field w 352 128 = 0)
    && (items ++ tmpls).all (fun e => field e 22 2 == 0 && field e 92 36 == 0) && events.all (fun e => e / 2 ^ 22 == 0)
    && binds.all (·.isSome)
  ⟨if mode = 1 then .rtk else .dataflow, items.map (ItemEntry.ofWord b succ), field w 32 13,
    events.map (fun e => ⟨field e 0 8, field e 8 13 * 64, bitAt e 21⟩),
    field w 64 11, field w 80 7, tmpls.map (ItemEntry.ofWord b succ), binds.filterMap id,
    field w 112 12 * 16, field w 128 12 * 16,
    (sliceAt b (field w 320 32) 144).map (·.toNat), ok⟩

/-- A die slot (R308). -/
def DieSlot.ofBytes (b : List Byte) (off : Nat) : DieSlot :=
  let w := leNat (sliceAt b off 32)
  ⟨(words16 b (field w 32 32) (field w 16 16)).map Region.ofWord, field w 128 64,
    (List.range 16).map (fun c => CoreEntry.ofBytes b (field w 192 32 + 64 * c)),
    DuCfg.ofBytes (sliceAt b (field w 64 32) (field w 96 32)) (field w 0 4)⟩

/-- An armature (R307). -/
def Armature.ofBytes (b : List Byte) : Armature :=
  let w := leNat (b.take 64)
  let nd := field w 0 8
  ⟨nd, field w 8 2, bitAt w 10, field w 24 8, field w 32 32, field w 64 12 * 16, field w 76 12 * 16,
    field w 88 8, field w 96 8, (List.range nd).map (fun k => DieSlot.ofBytes b (field w 128 32 + 32 * k)),
    (List.range (field w 16 4)).map (fun k =>
      let e := getLe b (field w 160 32 + 8 * k) 8
      ⟨field e 0 4, field e 4 2, bitAt e 6, field e 8 4, field e 16 11, field e 32 3⟩),
    (List.range 72).map (fun k => getLe b (field w 192 32 + 2 * k) 2), b⟩

/-- The RSV fields of an entry at section offset `at_`, as (first bit, width): the first that is not 0. -/
def rsvIn (b : List Byte) (at_ size : Nat) (fs : List (Nat × Nat)) : Option Nat :=
  let w := leNat (sliceAt b at_ size)
  (fs.find? (fun f => field w f.1 f.2 != 0)).map (fun f => at_ + f.1 / 8)

/-- The first of a list of optional results. -/
def firstSome {α : Type} : List (Option α) → Option α
  | [] => none
  | some x :: _ => some x
  | none :: r => firstSome r

/-- The certificate's entries (R311). -/
def certsOf (b : List Byte) : List CertEntry :=
  (List.range (getLe b 0 1)).map (fun k =>
    let e := sliceAt b (16 + 96 * k) 96
    ⟨getLe e 0 1 % 16, getLe e 0 1 / 16 % 4, getLe e 4 4, (List.range 8).map (fun i => getLe e (8 + 4 * i) 4),
     (List.range 8).map (fun i => getLe e (40 + 4 * i) 4), getLe e 72 4⟩)

/-- The templates of QP_TEMPLATES, one after another (R239): none where one fails. -/
def templatesOf : Nat → List Byte → Option (List Template)
  | 0, b => if b.isEmpty then some [] else none
  | f + 1, b =>
    if b.isEmpty then some []
    else do
      let (t, n) ← Template.ofBytes b
      let r ← templatesOf f (b.drop n)
      return t :: r

/-- A template with the values of its PID (R321). -/
def Template.withParams (ps : List Param) (i : Nat) (t : Template) : Template :=
  let vs := (paramVals ps (0x40 + i)).map (BitVec.ofNat 32)
  { t with fp := vs.take 12, blocks := chunks 8 t.blocks.length (vs.drop 12) }

end Sys2Proof.Machine
end

