-- ==== Sys2Proof/Machine/DispatchUnit.lean ====
section
/-!
DEFINITION. The dispatch unit of one die (R325 to R352): eligibility and order of items, grants,
events, mailboxes, posts, releases and quiescence.
-/
namespace Sys2Proof.Machine

open Sys2Proof

/-- A thread at the start of a cycle (R318, R334). -/
def Thread.init (rtk : Bool) (sclk : Nat) (retouch : Bool) (c : CtxEntry) : Thread :=
  let st := if retouch && c.rstart != 0xFFF then c.rstart else c.start
  ⟨if rtk then .ready else .running, st, c.initSsp, sclk, false, .none, 0, 0, none, false, false, none⟩

/-- Thread `t` of core `c` of the die. -/
def DuState.thread (d : DuState) (c t : Nat) : Option Thread := (d.threads[c]?).bind (·[t]?)

/-- A thread changed. -/
def DuState.mapThread (d : DuState) (c t : Nat) (f : Thread → Thread) : DuState :=
  { d with threads := modAt (fun ts => modAt f ts t) d.threads c }

/-- A change made to every thread of the die. -/
def DuState.mapAll (d : DuState) (f : Thread → Thread) : DuState :=
  { d with threads := d.threads.map (fun ts => ts.map f) }

/-- The events that a PHASE 0 step of the die names (R452). -/
def phase0Events (cores : List CoreEntry) : List Nat :=
  (cores.map (fun c => c.steps.filterMap (fun w => (SeqStep.ofWord w).bind (fun s =>
    if s.phase ≠ 0 then none
    else match s.kind with
    | .waitEvent | .signal => some (field s.operand 0 8)
    | .timedWait => if bitAt s.operand 8 then some (field s.operand 0 8) else none
    | .issue | .get | .msg | .halt => none)))).flatten

/-- The dynamic items that a suspended long operation holds: those of templates of phase 0 (R351, R452). -/
def DuState.heldItems (cfg : DuCfg) (d : DuState) : List DynItem :=
  (d.dyn.filter (fun x => ((cfg.tmpls[x.tmpl]?).map (·.phase)) == some 0)).map (fun x => { x with mslot := none })

/-- The count and FIFO of every event that a PHASE 0 step names, as a suspended long operation holds them; the others
are empty (R351, R452). -/
def DuState.heldEvents (cores : List CoreEntry) (d : DuState) : List EventSt :=
  d.events.zipIdx.map (fun v =>
    if (phase0Events cores).contains v.2 then ⟨v.1.count, v.1.slots.map (fun _ => none), v.1.fifo⟩ else ⟨0, [], []⟩)

/-- The state at a cycle release (R330, R334, R337, R343, R351); `held` says that a yielded or suspended
long operation keeps its items and events of phase 0 (R452). -/
def DuState.release (cfg : DuCfg) (cores : List CoreEntry) (e : SeqEnv) (held : Bool) (d : DuState) : DuState :=
  let evs := if held then phase0Events cores else []
  { d with
    items := cfg.items.map (fun i => if i.npred = 0 then .ready e.sclk else .waiting i.npred)
    dyn := if held then d.heldItems cfg else []
    events := cfg.events.zipIdx.map (fun v =>
      match (d.heldEvents cores)[v.2]? with
      | some old => if evs.contains v.2 then old else ⟨v.1.init, List.replicate v.1.init none, []⟩
      | none => ⟨v.1.init, List.replicate v.1.init none, []⟩)
    threads := cores.map (fun c => c.ctxs.map (Thread.init (cfg.mode == .rtk) e.sclk e.retouch))
    mbox := List.replicate 16 ⟨0, []⟩ }

/-- Saved threads take their contexts again (R452). -/
def DuState.restore (d : DuState) : DuState :=
  d.saved.foldl (fun d x => d.mapThread x.1 x.2.1 (fun _ => x.2.2)) { d with saved := [] }

/-- The DU's state discarded: armature switch, warm restart, unloading (R310, R351). Its stale count, the refusals noted
and the hub events that have not fired yet are the hub's and stay. -/
def DuState.discard (d : DuState) : DuState :=
  { DuState.empty with serve := d.serve, epoch := d.epoch, stale := d.stale, staleEpoch := d.staleEpoch, fires := d.fires
                       refused := d.refused }

/-- The same, but for the items and events of phase 0 that a suspended long operation holds (R351, R452); `frames`
says whether the frames of its threads outlast it. -/
def DuState.discardBut (cfg : DuCfg) (cores : List CoreEntry) (frames : Bool) (d : DuState) : DuState :=
  { d.discard with dyn := d.heldItems cfg, events := d.heldEvents cores, saved := if frames then d.saved else [] }

/-- A phase has been released for work that names it (R314). -/
def phaseOpen (e : SeqEnv) (p : Nat) : Bool :=
  if p = 0 then e.phase == 0 && e.longop else decide (p ≤ e.phase)

/-! ### Flows and service -/

/-- The flows in service (R325): held items, and granted RTK threads. -/
def DuState.busyFlows (cfg : DuCfg) (cores : List CoreEntry) (d : DuState) : List Nat :=
  ((d.threads.zip cores).map (fun tc => (tc.1.zip tc.2.ctxs).filterMap (fun p =>
    if cfg.mode = .rtk then (if p.1.service then some p.2.flow else none)
    else p.1.item.map (·.flow)))).flatten

/-- Mailbox slot `s` of core `c` freed (R343). -/
def DuState.freeSlot (d : DuState) (c s : Nat) : DuState :=
  { d with mbox := modAt (fun m => { m with used := m.used.filter (· != s) }) d.mbox c }

/-- Free the slot that a thread's work came with, if any. -/
def DuState.freeOf (d : DuState) (m : Option (Nat × Nat)) : DuState :=
  match m with
  | none => d
  | some s => d.freeSlot s.1 s.2

/-- A successor's pending count decreased (R330). -/
def releaseSucc (sclk : Nat) (xs : List ItemSt) (k : Nat) : List ItemSt :=
  modAt (fun i => match i with
    | .waiting n => if n ≤ 1 then .ready sclk else .waiting (n - 1)
    | x => x) xs k

/-- The service of a thread's held item ends (R330, R331, R343); `ok` releases its successors. -/
def DuState.endItem (cfg : DuCfg) (sclk : Nat) (ok : Bool) (c t : Nat) (d : DuState) : DuState :=
  match (d.thread c t).bind (·.item) with
  | none => d
  | some h =>
    let slot := ((d.thread c t).bind (·.mslot))
    let d := d.mapThread c t (fun x => { x with item := none, mslot := none })
    let d := d.freeOf slot
    if h.dyn then { d with dyn := d.dyn.filter (fun x => x.id != h.item) }
    else
      let items := setAt d.items h.item .done
      let succs := ((cfg.items[h.item]?).map (·.succs)).getD []
      { d with items := if ok then succs.foldl (releaseSucc sclk) items else items }

/-- The service of an RTK activation ends: the flow is released, its mailbox slot freed (R335, R343). -/
def DuState.endService (c t : Nat) (d : DuState) : DuState :=
  let slot := (d.thread c t).bind (·.mslot)
  (d.mapThread c t (fun x => { x with service := false, mslot := none })).freeOf slot

/-! ### Events (R337) -/

/-- A thread waits on an event (R337, R338). -/
def Thread.waitsOn (ev : Nat) (x : Thread) : Bool :=
  x.status == .waiting && match x.wait with
    | .event e _ => e == ev
    | .timed _ e => e == some ev
    | .none | .grant _ _ | .msg => false

/-- A waiting thread woken by event `ev` (R337). -/
def Thread.woken (cfg : DuCfg) (sclk ev : Nat) (slot : Option (Nat × Nat)) (x : Thread) : Thread :=
  let ssp := match x.wait, cfg.events[ev]? with
    | .event _ true, some a => if a.sspValid then a.actSsp else x.ssp
    | _, _ => x.ssp
  { x with status := .ready, ready := sclk, wait := .none, ssp := ssp, started := true, mslot := slot }

/-- A thread that has left an event's FIFO becomes ready (R337): the thread of a suspended long operation where its
frame is kept and waits on the event, else the one in the context (R452). -/
def DuState.wake (cfg : DuCfg) (sclk ev : Nat) (slot : Option (Nat × Nat)) (d : DuState) (ct : Nat × Nat) : DuState :=
  let kept (x : Nat × Nat × Thread) : Bool := x.1 == ct.1 && x.2.1 == ct.2 && x.2.2.waitsOn ev
  if d.saved.any kept then
    { d with saved := d.saved.map (fun x => if kept x then (x.1, x.2.1, x.2.2.woken cfg sclk ev slot) else x) }
  else d.mapThread ct.1 ct.2 (Thread.woken cfg sclk ev slot)

/-- SIGNAL with BCAST = 0, also of a delivered message or a bound source (R337): none when the
event has no room (R346). `slot` is the mailbox slot of a message's core. -/
def DuState.signal (cfg : DuCfg) (sclk ev : Nat) (slot : Option (Nat × Nat)) (d : DuState) : Option DuState :=
  match d.events[ev]? with
  | none => some d
  | some e =>
    match e.fifo with
    | ct :: rest =>
      let d := { d with events := setAt d.events ev { e with fifo := rest } }
      some (d.wake cfg sclk ev slot ct)
    | [] =>
      if 255 ≤ e.count then none
      else some { d with events := setAt d.events ev { e with count := e.count + 1, slots := e.slots ++ [slot] } }

/-- SIGNAL with BCAST = 1 (R337). -/
def DuState.broadcast (cfg : DuCfg) (sclk ev : Nat) (d : DuState) : DuState :=
  match d.events[ev]? with
  | none => d
  | some e =>
    e.fifo.foldl (DuState.wake cfg sclk ev none) { d with events := setAt d.events ev { e with fifo := [] } }

/-- A thread whose wait is over as it starts: its service has ended, and it is ready for a grant (R335; log entry
101). -/
def DuState.readied (sclk c t : Nat) (slot : Option (Nat × Nat)) (d : DuState) : DuState :=
  (d.endService c t).mapThread c t (fun x => { x with status := .ready, ready := sclk, started := true, mslot := slot })

/-- WAIT_EVENT by thread `t` of core `c` (R335, R337): its service ends; it takes a count, or joins the FIFO. -/
def DuState.waitEvent (sclk c t ev : Nat) (setSsp : Bool) (d : DuState) : DuState :=
  match d.events[ev]? with
  | none => d.readied sclk c t none
  | some e =>
    if 0 < e.count then
      DuState.readied sclk c t (e.slots.head?).join
        { d with events := setAt d.events ev { e with count := e.count - 1, slots := e.slots.drop 1 } }
    else
      let d := { d with events := setAt d.events ev { e with fifo := e.fifo ++ [(c, t)] } }
      (d.endService c t).mapThread c t (fun x => { x with status := .waiting, wait := .event ev setSsp })

/-- A thread leaves every event FIFO. -/
def DuState.leaveFifos (c t : Nat) (d : DuState) : DuState :=
  { d with events := d.events.map (fun e => { e with fifo := e.fifo.filter (· != (c, t)) }) }

/-! ### Posts and messages -/

/-- One dynamic item posted (R330, R346): none when the pool is full. -/
def DuState.post (cfg : DuCfg) (sclk tmpl : Nat) (arg : Nat) (slot : Option (Nat × Nat)) (d : DuState) :
    Option DuState :=
  if cfg.ndyn ≤ d.dyn.length then none
  else
    let id := (d.dyn.map (fun x => x.id + 1)).foldl max 0
    some { d with dyn := d.dyn ++ [⟨id, tmpl, arg, sclk, false, slot⟩] }

/-- The next free mailbox slot of core `c`: ascending, cyclically (R343). -/
def DuState.slotFor (cfg : DuCfg) (c : Nat) (d : DuState) : Option Nat :=
  match d.mbox[c]? with
  | none => none
  | some m => ((List.range cfg.mboxDepth).map (fun k => (m.next + k) % cfg.mboxDepth)).find? (fun s => !m.used.contains s)

/-- Slot `s` of core `c` taken. -/
def DuState.takeSlot (cfg : DuCfg) (c s : Nat) (d : DuState) : DuState :=
  { d with mbox := modAt (fun m => ⟨(s + 1) % cfg.mboxDepth, m.used ++ [s]⟩) d.mbox c }

/-- A message is stale at delivery (R341, R342). -/
def msgStale (cfg : Option DuCfg) (phase : Nat) (d : DuState) (m : Msg) : Bool :=
  match cfg with
  | none => true
  | some g =>
    let tag := nth 0 g.roles (phase * 16 + m.core)
    m.epoch != d.epoch || !(m.role == 0xFF || (m.role == tag && tag != 0))

/-- A stale drop counted (R341, R344). -/
def DuState.drop (m : Msg) (d : DuState) : DuState :=
  { d with stale := d.stale + 1, staleEpoch := if d.stale = 0 then m.epoch else d.staleEpoch }

/-- The mailbox slot's 32 bytes (R343). -/
def mboxBytes (m : Msg) (now : Nat) : List Byte :=
  leBytes 1 (m.src.getD 0x7F) ++ leBytes 1 m.role ++ leBytes 2 (m.target % 4096) ++ leBytes 4 m.epoch
  ++ leBytes 8 now ++ padTo 16 (m.payload.take 16)

/-- Where mailbox slot `s` of core `c` stands in its cluster's dual-port region (R343). -/
def mboxOffset (cfg : DuCfg) (c s : Nat) : Nat := cfg.mboxBase + (c % 4 * cfg.mboxDepth + s) * 32

/-- What a delivery does (R341 to R346). -/
inductive Delivered where
  | stale (d : DuState)
  | full
  | done (d : DuState) (slot : Option Nat)

/-- A message that arrives at a die of the active armature. -/
def DuState.deliver (cfg : DuCfg) (phase sclk : Nat) (m : Msg) (d : DuState) : Delivered :=
  if msgStale (some cfg) phase d m then .stale (d.drop m)
  else match m.signal with
  | some true => .done (d.broadcast cfg sclk m.target) none
  | some false => match d.signal cfg sclk m.target none with
    | none => .full
    | some d => .done d none
  | none =>
    match d.slotFor cfg m.core with
    | none => .full
    | some s =>
      let d' := d.takeSlot cfg m.core s
      let r := if cfg.mode = .rtk then d'.signal cfg sclk m.target (some (m.core, s))
        else d'.post cfg sclk m.target (((cfg.tmpls[m.target]?).map (·.arg)).getD 0) (some (m.core, s))
      match r with
      | none => .full
      | some d => .done d (some s)

/-- A binding's effect (R347): none when it finds no room. -/
def DuState.fire (cfg : DuCfg) (sclk : Nat) (b : Binding) (d : DuState) : Option DuState :=
  if cfg.mode = .rtk then d.signal cfg sclk b.target none
  else d.post cfg sclk b.target (((cfg.tmpls[b.target]?).map (·.arg)).getD b.arg) none

/-! ### Grants -/

/-- The step of a thread, decoded. -/
def stepOf (cores : List CoreEntry) (c s : Nat) : Option SeqStep :=
  ((cores[c]?).bind (fun e => e.steps[s]?)).bind SeqStep.ofWord

/-- A candidate for a grant: the key of R326 and what is granted to whom. -/
structure GrantCand where
  prio : Nat
  ready : Nat
  num : Nat
  since : Nat
  core : Nat
  thread : Nat
  held : Option Held
  deriving DecidableEq, Repr

/-- One candidate ranks ahead of another (R326, R328). -/
def GrantCand.ahead (a b : GrantCand) : Bool :=
  decide (b.prio < a.prio) || (a.prio == b.prio &&
    (decide (a.ready < b.ready) || (a.ready == b.ready &&
      (decide (a.num < b.num) || (a.num == b.num &&
        (decide (a.since < b.since) || (a.since == b.since &&
          (decide (a.core < b.core) || (a.core == b.core && decide (a.thread < b.thread))))))))))

/-- The best of a list of candidates (R326, R328). -/
def bestGrant (xs : List GrantCand) : Option GrantCand :=
  xs.foldl (fun best x => match best with
    | none => some x
    | some b => if x.ahead b then some x else some b) none

/-- The items that can be granted on a dataflow die, each with every waiting thread that accepts
it (R331). A dynamic item's number is its template number. -/
def DuState.dataflowCands (cfg : DuCfg) (cores : List CoreEntry) (e : SeqEnv) (d : DuState) : List GrantCand :=
  let busy := d.busyFlows cfg cores
  let waiters : List (Nat × Nat × Nat × Nat) := (d.threads.zipIdx.map (fun ts => ts.1.zipIdx.filterMap (fun t =>
    match t.1.status, t.1.wait with
    | .waiting, .grant mask since => some (ts.2, t.2, mask, since)
    | _, _ => none))).flatten
  let open_ (i : ItemEntry) : Bool := phaseOpen e i.phase && !busy.contains i.flow
  let stat := ((cfg.items.zip d.items).zipIdx.filterMap (fun p => match p.1.2 with
    | .ready t => if open_ p.1.1 then some (p.1.1, t, p.2, p.2, false) else none
    | _ => none))
  let dyn := (d.dyn.filterMap (fun x =>
    if x.service then none
    else match cfg.tmpls[x.tmpl]? with
      | none => none
      | some i => if open_ i then some (i, x.ready, x.tmpl, x.id, true) else none))
  ((stat ++ dyn).map (fun it => waiters.filterMap (fun w =>
    if bitAt w.2.2.1 it.1.cls then
      some ⟨it.1.prio, it.2.1, it.2.2.1, w.2.2.2, w.1, w.2.1, some ⟨it.2.2.2.1, it.2.2.2.2, it.1.prio, it.1.flow⟩⟩
    else none))).flatten

/-- The activations that can be granted on an RTK die: core free, or its running thread of lower
priority at a step boundary (R334, R336). -/
def DuState.rtkCands (cfg : DuCfg) (cores : List CoreEntry) (e : SeqEnv) (d : DuState) : List GrantCand :=
  let busy := d.busyFlows cfg cores
  ((d.threads.zip cores).zipIdx.map (fun tc =>
    let ts := tc.1.1.zip tc.1.2.ctxs
    let run := ts.find? (fun p => p.1.status == .running)
    ts.zipIdx.filterMap (fun p =>
      let t := p.1.1
      let c := p.1.2
      let ph := ((stepOf cores tc.2 t.step).map (·.phase)).getD 0
      let free := match run with
        | none => true
        | some r => !r.1.started && decide (r.2.prio < c.prio)
      if t.status = .ready && free && phaseOpen e ph && (t.service || !busy.contains c.flow) then
        some ⟨c.prio, t.ready, p.2, 0, tc.2, p.2, none⟩
      else none))).flatten

/-- The grant record (R332). -/
def grantBytes (item : Nat) (dyn : Bool) (arg : Nat) (mslot : Option Nat) (now : Nat) : List Byte :=
  leBytes 2 (item + if dyn then 4096 else 0) ++ leBytes 2 arg ++ leBytes 1 (mslot.getD 0xFF) ++ zeroBytes 3
  ++ leBytes 8 now

/-- Where a thread's grant slot stands in its cluster's dual-port region (R332). -/
def grantOffset (cfg : DuCfg) (c t : Nat) : Nat := cfg.grantBase + (c % 4 * 8 + t) * 16

/-! ### Quiescence (R352) -/

/-- The die is quiescent; `flight` says that a message or SIGNAL to it is under way (R352). -/
def DuState.quiescent (cfg : DuCfg) (flight : Bool) (d : DuState) : Bool :=
  let ts := d.threads.flatten
  cfg.mode == .rtk && !flight
  && ts.any (fun t => t.status == .waiting)
  && ts.all (fun t => t.status == .halted || t.status == .killed
      || match t.wait with
         | .event ev _ => t.status == .waiting && !(cfg.binds.any (fun b => b.target == ev))
         | _ => false)

/-- The state frame of R319: 64 bytes. -/
def frameBytes (step thread core reason ssp now pending issued epoch : Nat) : List Byte :=
  padTo 64 (leBytes 2 (step + 4096 * thread) ++ leBytes 1 core ++ leBytes 1 reason ++ leBytes 4 ssp
    ++ leBytes 8 now ++ leBytes 4 pending ++ leBytes 4 issued ++ leBytes 4 epoch)

/-- The push test of R319. -/
def pushOk (c : CtxEntry) (ssp : Nat) : Bool :=
  ssp % 64 == 0 && decide (c.base ≤ ssp ∧ ssp + 64 ≤ c.base + c.size)

/-! ### Reactions (R316) -/

/-- The actions of a reaction entry (R316). -/
inductive Action where
  | continue_ | retireRefill | retireVoid | skip | goto | fault
  deriving DecidableEq, Repr

/-- An action from its code. -/
def Action.ofCode (n : Nat) : Action :=
  match n with
  | 0 => .continue_ | 1 => .retireRefill | 2 => .retireVoid | 3 => .skip | 4 => .goto | _ => .fault

/-- The default reaction of a flag (R316). -/
def defaultAction (code : Nat) : Action :=
  if [0x05, 0x07, 0x08, 0x09, 0x0A, 0x0B, 0x0E, 0x0F, 0x14].contains code then .continue_ else .fault

/-- The reaction to a flag of a command that step `s` issued (R316). -/
def reactionOf (s : SeqStep) (code : Nat) : Action :=
  if code = 1 ∨ code = 0x0C ∨ code = 0x0D then .fault
  else match s.rx.find? (fun r => r.1 == code && code != 0) with
  | some r => Action.ofCode r.2
  | none => defaultAction code

end Sys2Proof.Machine
end

