-- ==== Sys2Proof/Machine/ImageChecks.lean ====
section
/-!
DEFINITION. An image's parameters as the engines read them (R321), and the CONTENT checks of a load (R305,
with the limits of the chapters that own the sections).
-/
namespace Sys2Proof.Machine

open Sys2Proof

/-! ### Parameters as the engines read them -/

/-- The Enlarger's parameters (R108). -/
def enlParamsOf (ps : List Param) : EnlParams :=
  ⟨paramVals ps 1, paramVals ps 2, paramVal ps 3 0 == 1, paramVals ps 4, paramVals ps 5, paramVal ps 6 0,
   paramVal ps 6 1, paramVal ps 6 2⟩

/-- The collision parameters (R163). -/
def chiselParamsOf (ps : List Param) (m : MiscCfg) : ChiselParams :=
  ⟨paramVal ps 0x10 0, m.pairCap, m.statCap, m.egoTmax, m.truncateFar⟩

/-- The cost and splice parameters (R185). -/
def costParamsOf (ps : List Param) (m : MiscCfg) : CostParams :=
  let v := paramVal ps
  { bilinear := m.bilinear, lw := paramVals ps 0x20, truncCell := v 0x21 0,
    wk := v 0x22 0, wkd := v 0x22 1, wa := v 0x22 2, wl := v 0x22 3,
    sk := v 0x23 0, skd := v 0x23 1, sa := v 0x23 2, sl := v 0x23 3,
    alatMax := v 0x22 4, vref := signed 16 (v 0x22 5), wp := v 0x22 6, sp := v 0x23 4,
    dw := paramVals ps 0x24, wr := v 0x22 7, sr := v 0x23 5, rdw := paramVals ps 0x25,
    splBack := v 0x26 0, splFwd := v 0x26 1, splSpan := v 0x26 2, splLead := v 0x26 3,
    splRamp := v 0x26 4, splNdet := v 0x26 5 }

/-- A binary32 integer value as a number (R321: PRF_CAP). -/
def f32Int (x : F32) : Int := (fToFixed 32 0 x).1

/-- The proofer limit table; the PID holds PL_DEC ahead of PL_ACC (R270, R321). -/
def proofLimitsOf (ps : List Param) : ProofLimits :=
  let f (i : Nat) : F32 := BitVec.ofNat 32 (paramVal ps 0x60 i)
  ⟨f 0, f 2, f 1, f 3, f 4, f 5, f 6, f 7, f 8, f 9, f 10, f 11, (f32Int (f 12)).toNat⟩

/-- Templates with their parameter values (R321). -/
def Image.tmpls (i : Image) : List Template := i.templates.zipIdx.map (fun t => t.1.withParams i.params t.2)

/-- The kernels in use, by body and bin (R109). DESIGN CHOICE: under EXACT a patched MB gives new kernels, in use from
the next snapshot on, though R109 fixes the kernel used at load (log entry 123). -/
def Image.kernelsOf (i : Image) (ps : List Param) : List (List (List Run)) :=
  match i.kernels with
  | .table ks => ks
  | .exact => i.ego.zipIdx.map (fun b => (List.range 16).map (fun h =>
      kernelExact i.world.cLsb (nth 0 (paramVals ps 5) b.2 : Nat) b.1 h))

/-- KRMAX (R110). -/
def krMaxOf (ks : List (List (List Run))) : Nat := (ks.map (fun b => (b.map kernelReach).foldl max 0)).foldl max 0

/-- R109 and R110 on the kernels: a table omits nothing that the exact kernel holds, no reach of
128. -/
def Image.kernelsOk (i : Image) (ps : List Param) : Bool :=
  let ex := ({ i with kernels := .exact } : Image).kernelsOf ps
  let ks := i.kernelsOf ps
  krMaxOf ks ≤ 127 && krMaxOf ex ≤ 127
  && ks.length == i.ego.length && ks.all (fun b => b.length == 16)
  && (ex.zip ks).all (fun b => (b.1.zip b.2).all (fun k => runsWithin k.1 k.2))

/-! ### CONTENT (R305 class 6) -/

/-- What the sections of an image hold, as far as each can be read within its own limits. -/
structure Sections where
  world : Option WorldCfg
  ego : Option (List EgoBody)
  kernels : Option KernelsCfg
  lib : List Byte
  tmpls : Option (List Template)
  params : Option (List Param)
  decls : Option (Fin 17)
  roadmap : Option RmParams
  misc : Option MiscCfg
  record : List Byte

/-- The plaintext of the section of a type. -/
def rawOf (ss : List Section) (t : Nat) : List Byte := ((ss.find? (fun s => s.type == t)).map (·.raw)).getD []

/-- The limits of MISC_CFG: NSAMP, the horizon, and the parameters of R163, R240, R256 and R261. -/
def MiscCfg.ok (m : MiscCfg) : Bool :=
  16 ≤ m.nsamp && m.nsamp ≤ 128 && decide ((m.nsamp - 1) * m.dts ≤ 12000 ∧ 8000 ≤ (m.nsamp - 1) * m.dts)
  && 1 ≤ m.pairCap && m.pairCap ≤ 64 && 1 ≤ m.statCap && m.statCap ≤ 64 && 1 ≤ m.egoTmax && m.egoTmax ≤ 16
  && fle 0x3D800000#32 m.dsMin && fle m.dsMin 0x41000000#32
  && fle 0x3A800000#32 m.vstop && fle m.vstop fOne
  && 1000 ≤ m.truncMinMs && m.truncMinMs ≤ 12000

/-- The sections read. -/
def Sections.of (ss : List Section) : Sections :=
  let raw := rawOf ss
  let mi := (Config.miscCfg (raw 12)).filter (·.ok)
  let ts := templatesOf 16 (raw 8)
  ⟨(Config.worldCfg (raw 4)).filter (·.ok), (Config.egoModel (raw 5)).filter egoModelOk, Config.kernels (raw 6), raw 7,
   ts.filter (fun ts => decide (1 ≤ ts.length ∧ ts.length ≤ 16)),
   match mi, ts with
   | some m, some ts => paramsOf (raw 3) m.nsamp
       (fun t => (ts[t]?).map (fun x => blockCount x.nx x.nu x.ni x.ninit)) ts.length
   | _, _ => none,
   Config.decls (raw 9), (Config.roadmapCfg (raw 10)).filter (·.ok), mi, raw 11⟩

/-- The image of the sections, without its armatures. -/
def Sections.image (h : ImgHeader) (ss : List Section) (x : Sections) : Option Image := do
  return ⟨h, [], certsOf (rawOf ss 2), ← x.params, ← x.world, ← x.ego, ← x.kernels, x.lib, ← x.tmpls, (← x.decls).val,
    ← x.roadmap, ← x.misc⟩

/-- A path of the library (R134, R135): its KIND among those of its section, its head, station 0 at the start. -/
def LibPath.ok (kinds : List Nat) (decls : Nat) (p : LibPath) : Bool :=
  p.kind == 0 || (kinds.contains p.kind && !p.rsv
    && (if p.kind = 1 then p.decl == 0 else decide (p.decl < max 1 decls))
    && (p.stns.head?).any (fun s => s.x == 0 && s.y == 0 && s.psi == 0))

/-- A profile of the library (R135): S from 0 and never falling, V at least 0, no span above SPANMAX. -/
def profileOk (l : LibHdr) (p : List ProfEntry) : Bool :=
  (p.head?).any (fun e => e.s == 0) && p.all (fun e => decide (0 ≤ e.v))
  && (p.zip (p.drop 1)).all (fun e => decide (e.1.s ≤ e.2.s) && decide ((spanOf l.step e.1.s e.2.s).2 ≤ l.spanmax))

/-- A safelight profile ends at rest and keeps S once V is 0 (R153). -/
def stopsAtRest (p : List ProfEntry) : Bool :=
  let rest := p.dropWhile (fun e => e.v != 0)
  (p.getLast?).any (fun e => e.v == 0) && rest.all (fun e => some e.s == (rest.head?).map (·.s))

/-- The library's rules (R126, R131, R133 to R135, R153). -/
def libraryOk (lib : List Byte) (m : MiscCfg) (bodies decls : Nat) : Bool :=
  let l := LibHdr.ofBytes lib
  let bins := l.nd * l.nkb * l.nab1 * l.nab2
  let paths := (List.range (bins * l.npath)).map (libPath lib l l.pathOff)
  let slPaths (g : Nat) := (List.range l.npathSl).map (fun p => libPath lib l l.slPathOff (g * l.npathSl + p))
  let profs := (List.range (l.nsb * l.nq)).map (libProfile lib l l.profOff)
  let slProfs := (List.range (l.nsb * l.nqSl)).map (libProfile lib l l.slProfOff)
  !l.rsv && l.nsamp == m.nsamp && l.dts == m.dts
  && decide (2048 ≤ l.step ∧ l.step ≤ 16384) && 2 ≤ l.nstn && l.nstn ≤ 1024 && 1 ≤ l.nd && l.nd ≤ 2
  && 1 ≤ l.nsb && l.nsb ≤ 32 && 1 ≤ l.nkb && l.nkb ≤ 32 && 1 ≤ l.nab1 && l.nab1 ≤ 16
  && 1 ≤ l.nab2 && l.nab2 ≤ 16 && (2 ≤ bodies || l.nab1 == 1) && (3 ≤ bodies || l.nab2 == 1)
  && 1 ≤ l.spanmax && l.spanmax ≤ 64 && 1 ≤ l.npath && l.npath ≤ 65536 && 1 ≤ l.nq && l.nq ≤ 1024
  && 1 ≤ l.npathSl && l.npathSl ≤ 4096 && 1 ≤ l.nqSl && l.nqSl ≤ 256
  && [l.thOff, l.pathOff, l.profOff, l.slPathOff, l.slProfOff].all (· % 64 == 0)
  && (libTables lib l).all (fun t => (t.zip (t.drop 1)).all (fun e => decide (e.1 ≤ e.2)))
  && paths.all (LibPath.ok [1] decls) && profs.all (profileOk l)
  && slProfs.all (fun p => profileOk l p && stopsAtRest p)
  && (List.range bins).all (fun g => (slPaths g).any (·.kind == 2) && (slPaths g).all (LibPath.ok [2, 3] decls))

/-- The templates of an image: one of GEO and one of TS at least (R239). -/
def tmplKindsOk (ts : List Template) : Bool := ts.any (·.kind == .geo) && ts.any (·.kind == .ts)

/-- The proofer's limits and the horizon of a list of parameters (R163, R270, R321). -/
def limitsOk (i : Image) (ps : List Param) : Bool :=
  let lim := proofLimitsOf ps
  let conv (m : QM F32) : Option F32 :=
    match ((ExceptT.run m).run {}).1 with
    | .ok x => some x
    | .error _ => none
  let kMax := conv (k16M ((i.ego.map (·.kappaMax)).foldl max 0))
  let artMax := if i.ego.length < 2 then none else
    conv (radM (((i.ego.drop 1).map (·.artMax)).foldl max 0 : Nat))
  let alat := paramVal ps 0x22 4
  let prfCap : F32 := BitVec.ofNat 32 (paramVal ps 0x60 12)
  lim.ok kMax artMax (if alat = 0 then none else conv (v16M alat))
  && (fOfScaled (f32Int prfCap) 0).val == prfCap
  && decide ((i.misc.nsamp - 1) * i.misc.dts ≤ paramVal ps 6 1 * 250)

/-- The checks of CONTENT that a parameter takes part in, also rerun on a patch (R322): templates,
kernels, proofer limits, horizon (R109, R110, R163, R239, R270). -/
def contentOk (i : Image) (ps : List Param) : Bool :=
  (i.templates.zipIdx.map (fun t => t.1.withParams ps t.2)).all Template.ok && i.kernelsOk ps && limitsOk i ps

/-- The check record of PROOFER_LIMITS against the values the image carries (R270). -/
def proofRecordOk (rec : List Byte) (ps : List Param) : Bool :=
  rec.length == 16 && getLe rec 0 2 == 1 && getLe rec 2 2 == 0 && getLe rec 8 8 == 0
  && getLe rec 4 4 == crc32c (((paramVals ps 0x60).map (leBytes 4)).flatten)

/-- Whether a section passes CONTENT. A check that takes another section in is made where that one can be
read, and is counted with the section that it is about. -/
def Sections.passes (h : ImgHeader) (ss : List Section) (x : Sections) (t : Nat) : Bool :=
  let whole (f : Image → Bool) : Bool := ((x.image h ss).map f).getD true
  match t with
  | 3 => (x.params.isSome || x.misc.isNone || x.tmpls.isNone)
      && whole (fun i => limitsOk i i.params)
  | 4 => x.world.isSome
  | 5 => x.ego.isSome
  | 6 => x.kernels.isSome && whole (fun i => i.kernelsOk i.params)
  | 7 => match x.misc, x.ego, x.decls with
    | some m, some e, some d => libraryOk x.lib m e.length d.val
    | _, _, _ => true
  | 8 => (x.tmpls.map tmplKindsOk).getD false && whole (fun i => i.tmpls.all Template.ok)
  | 9 => x.decls.isSome
  | 10 => x.roadmap.isSome
  | 11 => (x.params.map (proofRecordOk x.record)).getD true
  | 12 => x.misc.isSome
  | _ => true

/-- CONTENT (R305): the sections in table order; the image without its armatures, or the refusal. -/
def contentCheck (h : ImgHeader) (ss : List Section) : Except Refused Image :=
  let x := Sections.of ss
  match ss.zipIdx.find? (fun s => !x.passes h ss s.1.type) with
  | some s => .error { cls := 6, sect := some s.2, offset := some (s.1.off + Config.failOffset s.1.type s.1.raw % max 1 s.1.raw.length) }
  | none => match x.image h ss with
    | some i => .ok i
    | none => .error { cls := 6 }

end Sys2Proof.Machine
end

