-- ==== Sys2Proof/Machine/Memory.lean ====
section
/-!
DEFINITION. Byte memories as sparse lists in canonical form, and the map of device addresses
(R356, R357).
-/
namespace Sys2Proof.Machine

open Sys2Proof

/-- A memory: addresses strictly rising, no entry equal to what an unlisted address reads as, 0
(log entry 2). -/
abbrev Memory := List Host.Cell

/-- One byte read. -/
def Memory.get (m : Memory) (a : Nat) : Byte :=
  match m with
  | [] => 0
  | (b, v) :: r => if b = a then v else Memory.get r a

/-- One byte written: an entry placed in order, or removed where the byte is 0. -/
def Memory.set (m : Memory) (a : Nat) (v : Byte) : Memory :=
  match m with
  | [] => if v = 0 then [] else [(a, v)]
  | (b, w) :: r =>
    if a < b then (if v = 0 then (b, w) :: r else (a, v) :: (b, w) :: r)
    else if a = b then (if v = 0 then r else (a, v) :: r)
    else (b, w) :: Memory.set r a v

/-- `n` bytes from an address. -/
def Memory.read (m : Memory) (a n : Nat) : List Byte := (List.range n).map (fun i => m.get (a + i))

/-- Bytes written from an address upward. -/
def Memory.write (m : Memory) (a : Nat) (bs : List Byte) : Memory :=
  match bs with
  | [] => m
  | b :: r => Memory.write (m.set a b) (a + 1) r

/-- Every address of a range emptied. -/
def Memory.clear (m : Memory) (a n : Nat) : Memory := m.filter (fun c => c.1 < a || a + n ≤ c.1)

/-- Every address that a test names emptied. -/
def Memory.clearWhere (m : Memory) (p : Nat → Bool) : Memory := m.filter (fun c => !p c.1)

/-- Entries strictly above a bound, none of them 0, addresses rising. -/
def Memory.wfFrom (lo : Option Nat) : Memory → Bool
  | [] => true
  | (a, v) :: r => (lo.all (· < a)) && v != 0 && Memory.wfFrom (some a) r

/-- The canonical form. -/
def Memory.wf (m : Memory) : Bool := m.wfFrom none

/-! ### Device addresses (R356, R357) -/

/-- The first device address of a die's LPDDR. -/
def lpddrBase (die : Nat) : Nat := die * 0x200000000
/-- The first device address of a die's SRAM. -/
def sramBase (die : Nat) : Nat := 0x10000000000 + die * 0x100000000
/-- Shared memory of a global cluster. -/
def sharedBase (cl : Nat) : Nat := sramBase (cl / 4) + cl % 4 * 0x400000
/-- Scratchpad of a global core. -/
def scratchBase (core : Nat) : Nat := sramBase (core / 16) + 0x1000000 + core % 16 * 0x80000
/-- Dual-port region of a global cluster. -/
def dualBase (cl : Nat) : Nat := sramBase (cl / 4) + 0x2000000 + cl % 4 * 0x10000
/-- World store of a die. -/
def worldBase (die : Nat) : Nat := sramBase die + 0x3000000
/-- The hub's SRAM. -/
def hubBase : Nat := 0x18000000000

/-- The memories a device address can lie in (R357). -/
inductive Space where
  | lpddr (die : Nat)
  | shared (cl : Nat)
  | scratch (core : Nat)
  | dual (cl : Nat)
  | world (die : Nat)
  | hubWorld | hubProof | hubMu | hubRe | hubFw
  deriving DecidableEq, Repr

/-- The memory a device address lies in and the offset within it; none where R357 lists nothing.
`cap` is a die's LPDDR capacity. -/
def spaceOf (cap : Nat) (a : Nat) : Option (Space × Nat) :=
  if a < 0x10000000000 then
    let die := a / 0x200000000
    if die < 8 ∧ a % 0x200000000 < cap then some (.lpddr die, a % 0x200000000) else none
  else if a < hubBase then
    let die := (a - 0x10000000000) / 0x100000000
    let o := (a - 0x10000000000) % 0x100000000
    if 8 ≤ die then none
    else if o < 0x1000000 then
      some (.shared (die * 4 + o / 0x400000), o % 0x400000)
    else if o < 0x1800000 then
      some (.scratch (die * 16 + (o - 0x1000000) / 0x80000), (o - 0x1000000) % 0x80000)
    else if 0x2000000 ≤ o ∧ o < 0x2040000 then some (.dual (die * 4 + (o - 0x2000000) / 0x10000), (o - 0x2000000) % 0x10000)
    else if 0x3000000 ≤ o ∧ o < 0x4000000 then some (.world die, o - 0x3000000)
    else none
  else
    let o := a - hubBase
    if o < 0x200000 then some (.hubWorld, o)
    else if o < 0x2C0000 then some (.hubProof, o - 0x200000)
    else if o < 0x300000 then some (.hubMu, o - 0x2C0000)
    else if o < 0x340000 then some (.hubRe, o - 0x300000)
    else if o < 0x380000 then some (.hubFw, o - 0x340000)
    else none

/-- The addresses of a range at which another memory can begin: its first, its last, and every multiple of 64 KiB in it
(R357). -/
def edgesOf (a n : Nat) : List Nat :=
  a :: (a + n - 1) :: (List.range ((a % 0x10000 + n - 1) / 0x10000)).map (fun k => (a / 0x10000 + k + 1) * 0x10000)

/-- A range cut at multiples of 64 KiB: first address and length of each piece. -/
def piecesOf (a n : Nat) : List (Nat × Nat) :=
  (List.range ((a % 0x10000 + n - 1) / 0x10000 + 1)).map (fun k =>
    let lo := max a ((a / 0x10000 + k) * 0x10000)
    (lo, min (a + n) ((a / 0x10000 + k + 1) * 0x10000) - lo))

/-- The window of an address: a die's LPDDR, a die's SRAM, the hub's (R356). -/
def daWindow (a : Nat) : Nat :=
  if a < 0x10000000000 then a / 0x200000000 else if a < hubBase then 64 + (a - 0x10000000000) / 0x4000000 else 65536

end Sys2Proof.Machine
end

