-- ==== Sys2Proof/Machine/ArmatureChecks.lean ====
section
/-!
DEFINITION. The ARMATURE, RESOURCE, DIES and ECLK checks of a load (R305 to R316, R339, R350, with the
refusal rules of the engines' commands), the choice of armature (R310), and what a patch is held against (R322).
-/
namespace Sys2Proof.Machine

open Sys2Proof

/-! ### What a core's steps issue -/

/-- A command that a step issues: the step's index, PHASE, the slot's engine, the pool index and the word. -/
structure Issued where
  step : Nat
  phase : Nat
  engine : Engine
  pool : Nat
  word : Nat

/-- The commands that a core's steps issue (R314, R315, R317). -/
def CoreEntry.issued (c : CoreEntry) : List Issued :=
  c.steps.zipIdx.flatMap (fun w =>
    match SeqStep.ofWord w.1 with
    | none => []
    | some s =>
      if s.kind ≠ .issue then []
      else s.cmds.zipIdx.flatMap (fun p =>
        if p.1 = 0xFFF then []
        else (List.range (if bitAt s.ind p.2 then 4 else 1)).map (fun k =>
          ⟨w.2, s.phase, Config.slotEngine w.1 p.2, p.1 + k, nth 0 c.pool (p.1 + k)⟩)))

/-- The engines of a step's slots. -/
def SeqStep.engines (s : SeqStep) (w : Nat) : List Engine :=
  if s.kind ≠ .issue then [] else
    (s.cmds.zipIdx.filter (fun p => p.1 != 0xFFF)).map (fun p => Config.slotEngine w p.2)

/-- The steps that a thread can go to from a step: NEXT, and GOTO where a reaction names it (R314, R316). -/
def CoreEntry.after (c : CoreEntry) (k : Nat) : List Nat :=
  match (c.steps[k]?).bind SeqStep.ofWord with
  | none => []
  | some s => if s.kind = .halt then [] else s.next :: (if s.rx.any (fun r => r.1 != 0 && r.2 == 4) then [s.goto] else [])

/-- The steps reached from a list of steps; a step where `stop` holds is not left. -/
def CoreEntry.reach (c : CoreEntry) (stop : Nat → Bool) : Nat → List Nat → List Nat → List Nat
  | 0, _, seen => seen
  | f + 1, todo, seen =>
    let new_ := (todo.flatMap (fun k => if stop k then [] else c.after k)).filter (fun k => !seen.contains k)
    let new_ := new_.foldl (fun (acc : List Nat) k => if acc.contains k then acc else acc ++ [k]) []
    if new_.isEmpty then seen else c.reach stop f new_ (seen ++ new_)

/-! ### Steps (R313 to R316, R339) -/

/-- A code that a step's commands or its KIND can raise (R316). -/
def SeqStep.raises (s : SeqStep) (es : List Engine) (code : Nat) : Bool :=
  let has (xs : List Engine) : Bool := es.any (fun e => xs.contains e)
  match code with
  | 0x01 => !es.isEmpty
  | 0x02 | 0x03 | 0x04 => has [.ce]
  | 0x05 => has [.pe, .ce, .ke, .de]
  | 0x06 => has [.pe]
  | 0x07 => has [.de]
  | 0x08 | 0x09 => has [.ke]
  | 0x0A | 0x0C | 0x0D => has [.se]
  | 0x0B => has [.se, .qe]
  | 0x0E | 0x0F | 0x10 | 0x11 => has [.qe]
  | 0x12 => s.kind == .msg || (s.kind == .issue && s.cmds.zipIdx.any (fun p => p.1 != 0xFFF && bitAt s.ind p.2))
  | 0x13 => s.kind == .get || s.kind == .signal || s.kind == .msg
  | 0x14 => s.kind == .timedWait
  | _ => false

/-- The reactions that a flag allows (R123, R158, R177, R196, R229, R265, R316): 0 CONTINUE, 1 RETIRE_REFILL,
2 RETIRE_VOID, 3 SKIP, 4 GOTO, 5 FAULT. -/
def flagAllows (slot : Bool) (code act : Nat) : Bool :=
  match code with
  | 0x01 | 0x0C | 0x0D => act == 5
  | 0x02 => [0, 1, 4, 5].contains act
  | 0x03 | 0x04 => [1, 4, 5].contains act
  | 0x06 => [2, 4, 5].contains act
  | 0x10 | 0x11 => act == 4 || act == 5
  | 0x12 => (if slot then [3, 4, 5] else [0, 3, 4, 5]).contains act
  | 0x13 | 0x14 => [0, 3, 4, 5].contains act
  | _ => [0, 4, 5].contains act

/-- The operand of a step (R339): of the own die's mode, its reserved bits 0, its events, templates and roles
those that the die named holds. -/
def operandOk (a : Armature) (slot : DieSlot) (c : CoreEntry) (s : SeqStep) : Bool :=
  let o := s.operand
  let rtk := slot.du.mode == .rtk
  let ev (g : DuCfg) (e : Nat) : Bool := decide (e < g.events.length)
  let to_ (k : Nat) : Option DuCfg := (a.slots[k]?).map (·.du)
  match s.kind with
  | .issue => s.cmds.zipIdx.all (fun p => p.1 == 0xFFF
      || decide (p.1 + (if bitAt s.ind p.2 then 3 else 0) < c.pool.length))
  | .get => !rtk && field o 0 16 != 0 && field o 16 32 == 0
  | .waitEvent => rtk && ev slot.du (field o 0 8) && field o 9 39 == 0
  | .signal => rtk && (to_ (field o 9 3)).any (fun g => ev g (field o 0 8)) && field o 12 36 == 0
  | .timedWait => rtk && (if bitAt o 8 then ev slot.du (field o 0 8) else field o 0 8 == 0) && field o 10 6 == 0
  | .msg => field o 40 8 == 0
      && (if bitAt o 3 then field o 0 3 == 0 && field o 4 4 == 0 && field o 16 12 == 0
          else (to_ (field o 0 3)).any (fun g =>
            decide (field o 16 12 < if g.mode = .rtk then g.events.length else g.tmpls.length)
            && (field o 8 8 == 0xFF || (field o 8 8 != 0 && field o 8 8 != 0xFE && g.roles.contains (field o 8 8)))))
  | .halt => o == 0

/-- A step (R313, R316, R339). -/
def stepOk (a : Armature) (slot : DieSlot) (c : CoreEntry) (w : Nat) : Bool :=
  match SeqStep.ofWord w with
  | none => false
  | some s =>
    let used := s.rx.filter (fun r => r.1 != 0)
    s.phase ≤ 8 && field w 10 2 == 0 && decide (s.next < c.steps.length) && decide (s.goto < c.steps.length)
    && operandOk a slot c s
    && used.all (fun r => s.raises (s.engines w) r.1 && flagAllows (s.kind == .issue) r.1 r.2)
    && noDup (used.map (·.1))

/-! ### Command pools -/

/-- The size of a space (R305, R309); LPDDR is not bounded here. -/
def spaceSize (sp : Nat) : Nat :=
  match sp with
  | 1 => 4 * 2 ^ 20 | 2 => 512 * 1024 | 3 => 64 * 1024 | 4 => 0x380000 | _ => 2 ^ 40

/-- A range of a space that a command uses, the KINDs of region it may lie in (none: any), and whether the
command writes it (R309). -/
structure CmdRange where
  space : Nat
  unit : Nat
  lo : Nat
  size : Nat
  kinds : List Nat
  out : Bool

/-- A region reaches a unit. -/
def Region.on (g : Region) (sp unit : Nat) : Bool := g.space == sp && (g.unit == unit || g.unit == 0xFF)

/-- A range lies inside its space and inside a region of a matching KIND, and no output overlaps steps, pool or
the armature copy (R309). -/
def rangeOk (rs : List Region) (r : CmdRange) : Bool :=
  r.size == 0 ||
  (decide (r.lo + r.size ≤ spaceSize r.space)
  && rs.any (fun g => g.on r.space r.unit && decide (g.off ≤ r.lo ∧ r.lo + r.size ≤ g.off + g.size)
      && (r.kinds.isEmpty || r.kinds.contains g.kind))
  && (!r.out || !rs.any (fun g => g.on r.space r.unit && [0x01, 0x02, 0x0E].contains g.kind
      && decide (g.off < r.lo + r.size ∧ r.lo < g.off + g.size))))

/-- The bytes that a template's workspace takes for a number of stages (R263). -/
def workspaceNeed (t : Template) (nst : Nat) : Nat :=
  let n := t.ninit + nst * t.nz + (nst - 1) * t.nx
  up64 (n * (bandWidth t nst + 2) + nst * (t.ni * 6 + t.nz * 8))

/-- The stages that a SOLVE's workspace must serve: a GEO's input samples, else the largest number that the
core's GEO commands can leave, or the library's stations (R152, R240, R263). -/
def solveStages (nstn nin0 : Nat) (t : Template) (d : QeCmd) : Nat :=
  match t.kind with
  | .geo => d.nin
  | .ts => nin0
  | .opt => min nstn 128

/-- The ranges of one command of core `c` of a die slot (R121, R155, R181, R193, R222, R263). `nin0` is the
largest NIN of the core's GEO solves. -/
def commandRanges (i : Image) (ps : List Param) (nin0 c : Nat) (e : Engine) (w : Nat) : List CmdRange :=
  let cl := c / 4
  let nsamp := i.misc.nsamp
  let nstn := (LibHdr.ofBytes i.lib).nstn
  let scratch (off size : Nat) (ks : List Nat) (out : Bool) : CmdRange := ⟨2, c, off * 64, size, ks, out⟩
  let shared (off size : Nat) (ks : List Nat) (out : Bool) : CmdRange := ⟨1, cl, off, size, ks, out⟩
  let result (off size : Nat) : CmdRange := ⟨3, cl, off * 16, size, [0x0F], true⟩
  let dual (off size : Nat) : CmdRange := ⟨3, cl, off * 16, size, [], false⟩
  match e with
  | .pe =>
    let d := PeCmd.ofWord w
    [scratch d.outOff (d.outSize nsamp) (if d.op = 1 ∨ d.op = 2 then [0x04] else []) true,
     scratch d.inOff (d.inSize nsamp nstn) [] false, result d.resultOff 16]
  | .ce =>
    let d := ceOfWord w
    [scratch d.inOff (if d.op = 1 then d.slots * nsamp * 64 else d.count * 64) (if d.op = 1 then [0x04] else []) false,
     scratch d.outOff (if d.op = 2 then 64 else d.count * 64) [0x05] true, result d.resultOff 16]
  | .ke =>
    let d := KeCmd.ofWord w
    [scratch d.inOff (if d.op = 1 then d.slots * nsamp * 64 else d.count * 64)
       (if d.op = 1 then [0x04] else if d.op = 3 then [0x05] else []) false,
     scratch d.outOff (if d.op = 2 then 16 else d.count * 16) [0x06] true, result d.resultOff 16]
  | .se =>
    let d := SeCmd.ofWord w
    let row := if d.op = 2 then d.count * 1280 else d.count * (if d.keyType = 0 then 16 else 8)
    let ks := if d.op = 2 then [0x07] else if d.keyType = 0 then [0x06] else []
    [if d.shared then shared (d.inOff * 64) row ks false else scratch d.inOff row ks false,
     shared (d.outOff * 64) 1280 [0x07] true, dual d.totOff (d.ntot * 16),
     dual d.boundOff (if d.bounded then 16 else 0), result d.resultOff 16]
  | .qe =>
    let d := QeCmd.ofWord w
    let inp (size : Nat) : CmdRange := if d.shared then shared (d.inOff * 64) size [] false else scratch d.inOff size [] false
    let aux (size : Nat) : CmdRange := if d.shared then shared (d.auxOff * 64) size [] false else scratch d.auxOff size [] false
    let offsets := (2 * paramVal ps 0x31 0 + 1) * 64
    let sol := 64 + 64 * nin0
    let hmax := hmaxOf nsamp i.misc.dts
    (match d.op with
     | 1 => match i.templates[d.tmpl]? with
       | none => []
       | some t =>
         let nst := solveStages nstn nin0 t d
         shared (d.workOff * 64) (workspaceNeed t nst) [0x09] true
         :: (match t.kind with
           | .geo => [inp (d.nin * 64), aux (d.nin * offsets), shared (d.outOff * 64) (64 + 64 * nst) [] true]
           | .ts => [inp sol, shared (d.outOff * 64) (64 + 64 * nst) [] true]
           | .opt => [inp (seqStride nstn nsamp), aux (nsamp * offsets),
               shared (d.outOff * 64) (64 + 64 * nst + seqStride nstn nsamp) [] true])
     | 2 => [inp sol, aux sol, shared (d.workOff * 64) (hmax * 64) [] true,
             shared (d.outOff * 64) (64 + 40 * hmax) [0x0A] true]
     | _ => [inp (if d.notraj then 0 else 64), scratch d.auxOff (if d.notraj then 0 else 16) [0x06] false,
             shared (d.outOff * 64) 8 [] true])
    ++ [dual d.orderOff 32, result d.resultOff 64]
  | .de =>
    let d := DeCmd.ofWord w
    let ep := enlParamsOf ps
    [shared d.bufAddr (d.regionSize i.world ep (krMaxOf (i.kernelsOf ps))) (if d.op = 1 then [] else [0x08]) true,
     ⟨3, cl, d.resultAddr, 16, [0x0F], true⟩]
  | .mv0 => [result (MvCmd.ofWord w).resultOff 16]
  | .mv1 => [result (MvCmd.ofWord w).resultOff 16]

/-- The word of a command against its engine's rules (R121, R155, R181, R193, R222, R226, R263, R366). -/
def wordOk (i : Image) (ps : List Param) (e : Engine) (w : Nat) : Bool :=
  let nstn := (LibHdr.ofBytes i.lib).nstn
  let ep := enlParamsOf ps
  match e with
  | .pe => (PeCmd.ofWord w).ok i.misc.nsamp nstn
  | .ce => (ceOfWord w).ceOk i.misc.nsamp ep.nb
  | .ke => (KeCmd.ofWord w).keOk i.misc.nsamp
  | .se => (SeCmd.ofWord w).ok
  | .qe => (QeCmd.ofWord w).ok i.templates.length
  | .de => (DeCmd.ofWord w).ok i.world ep i.ego.length (krMaxOf (i.kernelsOf ps))
  | .mv0 => (MvCmd.ofWord w).ok
  | .mv1 => (MvCmd.ofWord w).ok

/-- A piece of a mover's range as the image sees it: reachable by a mover of slot `k`, inside a region of its die slot
that a mover may write; die numbers are slot numbers (R308, R309, R358, R367). -/
def moverPiece (a : Armature) (k phase : Nat) (write : Bool) (lo n : Nat) : Bool :=
  let inside (die : Nat) (p : Region → Bool) (off : Nat) : Bool := ((a.slots[die]?).map (·.regions)).any (fun rs =>
    rs.any (fun g => p g && decide (g.off ≤ off ∧ off + n ≤ g.off + g.size))
    && (!write || !rs.any (fun g => p g && [0x01, 0x02, 0x0E].contains g.kind
        && decide (g.off < off + n ∧ off < g.off + g.size))))
  match spaceOf 0x1C0000000 lo with
  | some (.lpddr d, off) => inside d (fun g => g.space == 0) off
  | some (.shared c, off) => c / 4 == k && inside k (fun g => g.on 1 (c % 4)) off
  | some (.scratch c, off) => c / 16 == k && inside k (fun g => g.on 2 (c % 16)) off
  | some (.dual c, off) => c / 4 == k && inside k (fun g => g.on 3 (c % 4)) off
  | some (.world d, _) => write && d == k && phase == 1
  | some (.hubMu, _) => write && inside k (fun g => g.space == 4) (lo - hubBase)
  | some (.hubWorld, _) | some (.hubProof, _) | some (.hubRe, _) | some (.hubFw, _) | none => false

/-- A mover's range: within one window, every piece of it reachable (R367). -/
def moverStatic (a : Armature) (k phase : Nat) (write : Bool) (lo n : Nat) : Bool :=
  daWindow lo == daWindow (lo + n - 1) && (piecesOf lo n).all (fun p => moverPiece a k phase write p.1 p.2)

/-- A mover's command in an armature (R366, R367). -/
def moverOk (a : Armature) (k cl phase : Nat) (w : Nat) : Bool :=
  let m := MvCmd.ofWord w
  let own (x : Nat) : Option (Space × Nat) := spaceOf 0x1C0000000 x
  let srcLen := if m.op = 1 then m.len else 16
  let width := if m.op = 4 ∨ m.op = 6 then 8 else 4
  let dst := if m.op ≤ 2 then m.dst else m.dst + m.wsel * width
  let dstLen := if m.op ≤ 2 then m.len else width
  let is (x : Nat) (sp : Space) : Bool := ((own x).map (·.1)) == some sp
  moverStatic a k phase false m.src srcLen && moverStatic a k phase true dst dstLen
  && (m.op == 1 || is m.src (.dual (4 * k + cl))) && (m.op ≤ 2 || is m.dst (.shared (4 * k + cl)))
  && decide (m.src + srcLen ≤ dst ∨ dst + dstLen ≤ m.src)

/-- A SOLVE names a template of the KIND of its use: GEO takes input samples, OPT serves the generator's phase, TS
the rest (R152, R233, R239, R263). -/
def tmplUseOk (i : Image) (phase : Nat) (w : Nat) : Bool :=
  let d := QeCmd.ofWord w
  d.op != 1 || (i.templates[d.tmpl]?).any (fun t =>
    t.kind == (if phase = 3 then TKind.opt else if d.nin ≠ 0 then .geo else .ts) && (t.kind != .geo || 2 ≤ d.nin))

/-- A ring's commands agree on its SLOTS (R181, R193): every check and cost of a stream has the PE's number. -/
def ringsAgree (xs : List Issued) : Bool :=
  let rings := (xs.filter (fun x => x.engine == .pe)).filterMap (fun x =>
    let d := PeCmd.ofWord x.word
    if d.op = 1 ∨ d.op = 2 then some (d.outOff, d.slots) else none)
  let agrees (off slots : Nat) : Bool := rings.all (fun r => r.1 != off || r.2 == slots)
  xs.all (fun x => match x.engine with
    | .ce => let d := ceOfWord x.word; d.op != 1 || agrees d.inOff d.slots
    | .ke => let d := KeCmd.ofWord x.word; d.op != 1 || agrees d.inOff d.slots
    | _ => true)

/-- Passes of a selection entry (R220). -/
def SelEntry.passes (e : SelEntry) : Nat := (e.kTotal + 63) / 64

/-- K of a pass (R220). -/
def SelEntry.passK (e : SelEntry) (p : Nat) : Nat := min 64 (e.kTotal - 64 * p)

/-- An SE command is of a selection-table entry and pass (R226): KEYTYPE, INCL_ZERO, K, BOUNDED, and for a SELECT
the FAMMASK. -/
def ofSelection (a : Armature) (d : SeCmd) : Bool :=
  a.sel.any (fun e => d.keyType == e.keyType && d.inclZero == e.inclZero && (d.op != 1 || d.famMask == e.famMask)
    && (List.range e.passes).any (fun p => d.k == e.passK p && d.bounded == (p != 0)))

/-- A C24 row is exactly the records of the COST_FINAL commands whose results lie at TOT_OFF, in their order, and
no path leads from one of them, or from a thread's start, to the SELECT without waiting for the KE (R226). -/
def rowOk (c : CoreEntry) (xs : List Issued) (sel : Issued) : Bool :=
  let d := SeCmd.ofWord sel.word
  if d.op ≠ 1 ∨ d.keyType ≠ 0 then true
  else
    let finals := xs.filter (fun x => x.engine == .ke && (KeCmd.ofWord x.word).op == 3)
    let at_ (n : Nat) : List Issued := finals.filter (fun x => (KeCmd.ofWord x.word).resultOff == d.totOff + n)
    let row := (List.range d.ntot).foldl (fun (p : Option Nat) n =>
      p.bind (fun p => ((at_ n).head?).bind (fun x =>
        let f := KeCmd.ofWord x.word
        if f.outOff * 64 = p then some (p + f.count * 16) else none))) (some (d.inOff * 64))
    let waits (k : Nat) : Bool := ((c.steps[k]?).bind SeqStep.ofWord).any (fun s => bitAt s.idle 2)
    let starts := c.ctxs.flatMap (fun x => x.start :: (if x.rstart = 0xFFF then [] else [x.rstart]))
    !d.shared && row == some (d.inOff * 64 + d.count * 16)
    && (List.range d.ntot).all (fun n => (at_ n).all (fun x =>
        x.step != sel.step && !(c.reach waits (c.steps.length + 1) [x.step] []).contains sel.step))
    && !(c.reach waits (c.steps.length + 1) starts starts).contains sel.step

/-- The selection-table entries and passes that an SE command's fields agree with (R221, R226). -/
def selectionOf (a : Armature) (d : SeCmd) : List (Nat × Nat) :=
  a.sel.zipIdx.flatMap (fun e =>
    if d.keyType == e.1.keyType && d.inclZero == e.1.inclZero && (d.op != 1 || d.famMask == e.1.famMask) then
      ((List.range e.1.passes).filter (fun p => d.k == e.1.passK p && d.bounded == (p != 0))).map (fun p => (e.2, p))
    else [])

/-- The entries and passes of which a list can be that stands at device address `at_` (R226): SE commands of the
armature write it there, or movers copy it there. `cmds` are the armature's commands with their core; die numbers
are slot numbers (R308). -/
def listsAt (a : Armature) (cmds : List (Nat × Issued)) : Nat → Nat → List (Nat × Nat)
  | 0, _ => []
  | f + 1, at_ =>
    cmds.flatMap (fun x => match x.2.engine with
      | .se =>
        let d := SeCmd.ofWord x.2.word
        if sharedBase (x.1 / 4) + d.outOff * 64 ≠ at_ then []
        else if d.op = 1 then selectionOf a d
        else
          let base := if d.shared then sharedBase (x.1 / 4) else scratchBase x.1
          let ins := (List.range d.count).map (fun n => listsAt a cmds f (base + d.inOff * 64 + n * 1280))
          (selectionOf a d).filter (fun e => ins.all (fun l => l.contains e))
      | .mv0 | .mv1 =>
        let m := MvCmd.ofWord x.2.word
        if m.op = 1 ∧ m.dst ≤ at_ ∧ at_ + 1280 ≤ m.dst + m.len then listsAt a cmds f (m.src + (at_ - m.dst)) else []
      | .pe | .ce | .ke | .qe | .de => [])

/-- The inputs of a MERGE are lists of one selection-table entry and pass, which is the MERGE's own (R226). A list
passes through at most eight commands on its way (log entry 115). -/
def mergeOk (a : Armature) (cmds : List (Nat × Issued)) (core w : Nat) : Bool :=
  let m := SeCmd.ofWord w
  let base := if m.shared then sharedBase (core / 4) else scratchBase core
  let ins := (List.range m.count).map (fun n => listsAt a cmds 8 (base + m.inOff * 64 + n * 1280))
  m.op != 2 || (selectionOf a m).any (fun e => ins.all (fun l => l.contains e))

/-- The commands of an armature, each with its slot core number. -/
def Armature.commands (a : Armature) : List (Nat × Issued) :=
  a.slots.zipIdx.flatMap (fun t => t.1.cores.zipIdx.flatMap (fun y => y.1.issued.map (fun x => (t.2 * 16 + y.2, x))))

/-- The clusters whose rows lie beneath a list at device address `at_`, through at most eight commands (R218; log
entry 115). Clusters and addresses are those of slots (R308). -/
def clustersAt (cmds : List (Nat × Issued)) : Nat → Nat → List Nat
  | 0, _ => []
  | f + 1, at_ =>
    cmds.flatMap (fun x => match x.2.engine with
      | .se =>
        let d := SeCmd.ofWord x.2.word
        if sharedBase (x.1 / 4) + d.outOff * 64 ≠ at_ then []
        else if d.op = 1 then [x.1 / 4]
        else
          let base := if d.shared then sharedBase (x.1 / 4) else scratchBase x.1
          (List.range d.count).flatMap (fun n => clustersAt cmds f (base + d.inOff * 64 + n * 1280))
      | .mv0 | .mv1 =>
        let m := MvCmd.ofWord x.2.word
        if m.op = 1 ∧ m.dst ≤ at_ ∧ at_ + 1280 ≤ m.dst + m.len then clustersAt cmds f (m.src + (at_ - m.dst)) else []
      | .pe | .ce | .ke | .qe | .de => [])

/-- A die MERGE: one over rows of more than one cluster (R218, R228), by the slot core that runs it. -/
def Armature.dieMerge (a : Armature) (core : Nat) (m : SeCmd) : Bool :=
  let base := if m.shared then sharedBase (core / 4) else scratchBase core
  let cs := (List.range m.count).flatMap (fun n => clustersAt a.commands 8 (base + m.inOff * 64 + n * 1280))
  m.op == 2 && match cs with
    | [] => false
    | x :: xs => xs.any (· != x)

/-- The commands of pool entry `n` of core `c` of slot `k` keep their engines' rules (R305, R309). -/
def poolEntryOk (i : Image) (ps : List Param) (a : Armature) (cmds : List (Nat × Issued)) (k : Nat) (slot : DieSlot)
    (c : Nat) (e : CoreEntry) (n : Nat) : Bool :=
  let xs := e.issued
  let nin0 := ((xs.filter (fun x => x.engine == .qe)).map (fun x => (QeCmd.ofWord x.word).nin)).foldl max 1
  (xs.filter (fun x => x.pool == n)).all (fun x =>
    wordOk i ps x.engine x.word
    && (commandRanges i ps nin0 c x.engine x.word).all (rangeOk slot.regions)
    && (match x.engine with
      | .de => x.phase == 2
      | .qe => tmplUseOk i x.phase x.word
      | .se => ofSelection a (SeCmd.ofWord x.word) && rowOk e xs x && mergeOk a cmds (k * 16 + c) x.word
      | .mv0 => moverOk a k (c / 4) x.phase x.word
      | .mv1 => moverOk a k (c / 4) x.phase x.word
      | .pe | .ce | .ke => true))

/-! ### Tables -/

/-- An entry of the family table of the core with slot core number `n`, beside the entry before it (R30, R127). -/
def famOk (n : Nat) (prev : Option FamEntry) (f : FamEntry) : Bool :=
  f.family ≤ 3 && 1 ≤ f.count && f.count ≤ 1024
  && decide (n * 1024 ≤ f.first ∧ f.first + f.count ≤ n * 1024 + 1024)
  && prev.all (fun p => decide (p.first + p.count ≤ f.first))

/-- Two family entries share no (family, ordinal) pair (R127). -/
def famDisjoint (a b : FamEntry) : Bool :=
  a.family != b.family || decide (a.ord0 + a.count ≤ b.ord0 ∨ b.ord0 + b.count ≤ a.ord0)

/-- NCAND is the highest index used, plus 1 (R307). -/
def ncandOk (a : Armature) (fams : List FamEntry) : Bool :=
  a.ncand == (fams.map (fun f => f.first + f.count)).foldl max 0

/-- One region (R309). A region beyond its space is left to RESOURCE where the space's regions are too large
together. -/
def regionOk (rs : List Region) (r : Region) : Bool :=
  let units := if r.space = 2 then 16 else if r.space = 1 ∨ r.space = 3 then 4 else 256
  let total (u : Nat) : Nat := sumNat ((rs.filter (fun g => g.on r.space u)).map (·.size))
  let full := (List.range 16).any (fun u => decide (spaceSize r.space < total u))
  1 ≤ r.kind && r.kind ≤ 0x12 && r.space ≤ 4 && r.off % 64 == 0 && r.size % 64 == 0
  && (decide (r.unit < units) || r.unit == 0xFF) && (decide (r.off + r.size ≤ spaceSize r.space) || full)

/-- Two regions of the same space and unit do not overlap (R309). -/
def regionApart (a b : Region) : Bool :=
  a.space != b.space || (a.unit != b.unit && a.unit != 0xFF && b.unit != 0xFF)
  || decide (a.off + a.size ≤ b.off ∨ b.off + b.size ≤ a.off)

/-- A core entry (R308, R318): its tables in the scratchpad with their CRC, the context windows. -/
def coreOk (e : CoreEntry) : Bool :=
  let size := spaceSize 2
  1 ≤ e.ctxs.length && 1 ≤ e.steps.length && e.steps.length ≤ 4096
  && decide (e.stepsOff + 16 * e.steps.length ≤ size ∧ e.poolOff + 16 * e.pool.length ≤ size)
  && e.tblCrc == crc32c ((e.steps ++ e.pool).flatMap (leBytes 16))

/-- A context entry (R318). -/
def ctxOk (x : CtxEntry) : Bool := decide (64 ≤ x.size ∧ x.base ≤ x.initSsp ∧ x.initSsp < x.base + x.size ∧ x.base + x.size ≤ spaceSize 2)

/-- Reachability in a successor graph within `fuel` rounds: the items with no predecessor left. -/
def acyclicFrom (items : List ItemEntry) : Nat → List Nat → List Nat → Bool
  | 0, _, pend => pend.all (· == 0)
  | f + 1, done, pend =>
    let ready := (List.range items.length).filter (fun k => nth 1 pend k == 0 && !done.contains k)
    if ready.isEmpty then decide (done.length = items.length)
    else
      let succs := (ready.map (fun k => ((items[k]?).map (·.succs)).getD [])).flatten
      acyclicFrom items f (done ++ ready) (pend.zipIdx.map (fun p => p.1 - succs.count p.2))

/-- A core accepts a class: one of its GET steps names it (R339, R350). -/
def CoreEntry.accepts (c : CoreEntry) (cls : Nat) : Bool :=
  c.steps.any (fun w => (SeqStep.ofWord w).any (fun s => s.kind == .get && bitAt s.operand cls))

/-- The ACT_SSP of an event lies in the window of every thread that can wait on it with SETSSP (R350). -/
def actSspOk (c : CoreEntry) (n : Nat) (e : EventEntry) : Bool :=
  !e.sspValid || c.ctxs.all (fun x =>
    let starts := x.start :: (if x.rstart = 0xFFF then [] else [x.rstart])
    let waits := (c.reach (fun _ => false) (c.steps.length + 1) starts starts).any (fun k =>
      ((c.steps[k]?).bind SeqStep.ofWord).any (fun s =>
        s.kind == .waitEvent && field s.operand 0 8 == n && bitAt s.operand 8))
    !waits || decide (x.base ≤ e.actSsp ∧ e.actSsp < x.base + x.size))

/-- The DU configuration's rules (R330, R343, R348 to R350). Items, flows and events beyond the device's are
refused as RESOURCE. -/
def duOk (slot : DieSlot) : Bool :=
  let d := slot.du
  let nctx := sumNat (slot.cores.map (fun c => c.ctxs.length))
  let all := d.items ++ d.tmpls
  let mbox (lo size : Nat) : Bool := (List.range 4).all (fun cl => slot.regions.any (fun r =>
    r.kind == 0x10 && r.on 3 cl && decide (r.off ≤ lo ∧ lo + size ≤ r.off + r.size)))
  d.readable && decide (d.items.length + d.ndyn + nctx ≤ 4096)
  && d.items.all (fun x => decide (1 ≤ x.phase ∧ x.phase ≤ 8)) && d.tmpls.all (fun x => x.phase ≤ 8)
  && all.all (fun x => decide (x.flow < d.nflow)
      && (x.entry == 0xFFF || slot.cores.all (fun c => !c.accepts x.cls || decide (x.entry < c.steps.length))))
  && d.tmpls.all (fun x => x.npred == 0 && x.succs.isEmpty)
  && d.items.zipIdx.all (fun p => p.1.npred == sumNat (d.items.map (fun y => y.succs.count p.2)))
  && acyclicFrom d.items (d.items.length + 1) [] (d.items.map (·.npred))
  && slot.cores.all (fun c => d.events.zipIdx.all (fun e => actSspOk c e.2 e.1))
  && 1 ≤ d.mboxDepth && d.mboxDepth ≤ 64 && 1 ≤ d.nflow && d.binds.length ≤ 64
  && mbox d.grantBase (4 * 8 * 16) && mbox d.mboxBase (4 * d.mboxDepth * 32)
  && (d.mode != .rtk || slot.cores.all (fun c => c.ctxs.all (fun x => decide (x.flow < d.nflow))))
  && (d.mode == .rtk || d.events.isEmpty) && (d.mode == .dataflow || (d.items.isEmpty && d.ndyn == 0))

/-- A core of the armature holds candidates of a family. -/
def Armature.uses (a : Armature) (f : Nat) : Bool :=
  a.slots.any (fun s => s.cores.any (fun c => c.fam.any (fun x => x.family == f)))

/-- An entry of the selection table (R221, R262). -/
def selEntryOk (a : Armature) (e : SelEntry) : Bool :=
  e.kind ≤ 5 && e.keyType == (if e.kind ≥ 4 then 2 else 0) && (e.kind < 4 || !e.inclZero)
  && e.phase == (if e.kind ≥ 4 then 6 else 4)
  && match e.kind with
     | 0 => decide (1 ≤ e.kTotal ∧ e.kTotal ≤ 64) && !bitAt e.famMask 3
     | 1 => decide (1 ≤ e.kTotal ∧ e.kTotal ≤ 8) && e.famMask == 8
     | 2 => decide (2 ≤ a.ng) && e.kTotal == a.ng - 1 && e.famMask == 1
     | 3 => decide (1 ≤ e.kTotal ∧ e.kTotal ≤ 1024) && e.famMask == 15
     | 4 => e.kTotal == 1 && e.famMask == 7
     | _ => e.kTotal == 1 && e.famMask == 8

/-- The selection table as a whole (R221). -/
def selOk (i : Image) (a : Armature) : Bool :=
  let kinds := a.sel.map (·.kind)
  4 ≤ a.sel.length && a.sel.length ≤ 8 && [0, 1, 4, 5].all (fun k => kinds.count k == 1) && kinds.count 3 ≤ 1
  && (kinds.contains 3 == (i.hdr.sheetMode == 1))
  && (!(decide (2 ≤ a.ng) && (a :: i.arms).any (fun b => b.uses 2)) || kinds.contains 2)

/-- The K_TOTAL of a list kind; 0 when the table has none. -/
def Armature.kTotal (a : Armature) (k : Nat) : Nat :=
  ((a.sel.find? (fun e => e.kind == k)).map (·.kTotal)).getD 0

/-- The entries of the solve assignment that serve a rank below K_TOTAL of MAIN or SAFE (R234). -/
def Armature.solvesUsed (a : Armature) : List (Nat × Nat) :=
  a.solve.zipIdx.filter (fun e => if e.2 < 64 then decide (e.2 < a.kTotal 0) else decide (e.2 - 64 < a.kTotal 1))

/-- Entry `k` of the solve assignment names a cluster of the armature's dies, and overlaps no earlier entry of its core
in the certificate's schedule (R234), which is free (log entry 105). -/
def solveEntryOk (i : Image) (n : Nat) (a : Armature) (k : Nat) : Bool :=
  let used := a.solvesUsed
  used.all (fun e => e.2 != k || (decide (e.1 % 32 < a.ndie * 4)
    && used.all (fun q => k ≤ q.2 || q.1 % 128 != e.1 % 128
        || !Config.solvesOverlap (i.certs.filter (fun c => c.arm == n)) q.2 k)))

/-- Generators by armature (R154, R323), and an OPT template where OPT is used (R239). -/
def generatorsOk (i : Image) (a : Armature) : Bool :=
  a.uses 3
  && (if i.hdr.compat then !a.uses 1
      else if a.ndie = 8 then a.uses 0 && a.uses 1 && !a.uses 2
      else a.uses 0 && a.uses 2 && !a.uses 1)
  && (!a.uses 2 || i.templates.any (·.kind == .opt))

/-- A list of commands covers every residue exactly once: every number below 12, the least common multiple of the
strides 1 to 4, is one command's (R119). -/
def coversOnce (xs : List DeCmd) : Bool :=
  (List.range 12).all (fun r => (xs.filter (fun d => r % d.stride == d.phase)).length == 1)

/-- The Enlarger phases of a die (R119): for every body and heading bin the BUILD_CSPACE commands that build it,
for every branch the BUILD_OCC commands that build it, and the BUILD_STATIC commands cover every residue once. -/
def enlPhasesOk (nbody nb : Nat) (slot : DieSlot) : Bool :=
  let cmds := (slot.cores.flatMap CoreEntry.issued).filterMap (fun x =>
    if x.engine = .de then some (DeCmd.ofWord x.word) else none)
  let of_ (op : Nat) : List DeCmd := cmds.filter (fun d => d.op == op)
  (List.range nbody).all (fun b => (List.range 16).all (fun h =>
      coversOnce ((of_ 1).filter (fun d => bitAt d.bodyMask b && bitAt d.binMask h))))
  && (List.range nb).all (fun h => coversOnce ((of_ 2).filter (fun d => bitAt d.binMask h)))
  && coversOnce (of_ 3)

/-- An armature's certificate (R311): one entry for each ECLK step, and every entry of the image's armatures. -/
def certOk (i : Image) (narm arm : Nat) (a : Armature) : Bool :=
  let mine := i.certs.filter (fun c => c.arm == arm)
  i.certs.all (fun c => decide (c.arm < narm))
  && (List.range 4).all (fun s => (mine.filter (fun c => c.step == s)).length == (if s ≤ a.minStep then 1 else 0))

/-- A certificate entry is well formed (R311). -/
def CertEntry.ok (c : CertEntry) : Bool := c.total == sumNat c.ph && c.ph.all (· != 0) && c.rph.all (· != 0)

/-! ### ARMATURE (R305 class 7) -/

/-- The header (R307, R293). -/
def headerOk (i : Image) (ps : List Param) (n : Nat) (a : Armature) : Bool :=
  (if i.hdr.compat then a.ndie == 1 else decide (2 ≤ a.ndie ∧ a.ndie ≤ 8)) && a.compat == i.hdr.compat
  && 4 ≤ a.sel.length && a.sel.length ≤ 8 && decide (1 ≤ a.ng ∧ a.ng ≤ 16 ∧ 1 ≤ a.nsqp ∧ a.nsqp ≤ 4)
  && decide (a.recheckBmask < 2 ^ paramVal ps 6 2)
  && (i.hdr.sheetMode != 2 || decide (a.ncand ≤ 2 ^ 24))
  && (i.arms.take n).all (fun b => b.ndie != a.ndie)

/-- Where an ARMATURE check fails (R306): in the certificate section or the armature's, the offset and size of the
entry whose field fails, size 0 where the offset is the field's own; die slot, core and index. -/
structure ArmFail where
  cert : Bool := false
  off : Nat := 0
  size : Nat := 0
  die : Option Nat := none
  core : Option Nat := none
  index : Option Nat := none

/-- A check of an entry: its RSV fields, then the rest. -/
def entryFails (b : List Byte) (rsv : List (Nat × Nat)) (ok : Bool) (f : ArmFail) : Option ArmFail :=
  match rsvIn b f.off f.size rsv with
  | some o => some { f with off := o, size := 0 }
  | none => if ok then none else some f

/-- ARMATURE for armature `n` in the table's order (R305, R307 to R316): the first check that fails. `cert` is the
CERTIFICATE section. -/
def armatureCheck (i : Image) (ps : List Param) (cert : List Byte) (n : Nat) (a : Armature) : Option ArmFail :=
  let b := a.raw
  let w := leNat (b.take 64)
  let no (ok : Bool) (f : ArmFail) : Option ArmFail := if ok then none else some f
  let slotAt (k : Nat) : Nat := field w 128 32 + 32 * k
  let slotF (k lo len : Nat) : Nat := field (leNat (sliceAt b (slotAt k) 32)) lo len
  let coreAt (k c : Nat) : Nat := slotF k 192 32 + 64 * c
  let coreF (k c lo len : Nat) : Nat := field (leNat (sliceAt b (coreAt k c) 64)) lo len
  let perDie (f : Nat → DieSlot → Option ArmFail) : Option ArmFail := firstSome (a.slots.zipIdx.map (fun s => f s.2 s.1))
  let perCore (f : Nat → DieSlot → Nat → CoreEntry → Option ArmFail) : Option ArmFail :=
    perDie (fun k s => firstSome (s.cores.zipIdx.map (fun c => f k s c.2 c.1)))
  let coreFail (k c : Nat) : ArmFail := { off := coreAt k c, size := 64, die := some k, core := some c }
  let inCore (k c at_ size idx : Nat) : ArmFail :=
    { off := at_ + size * idx, size := size, die := some k, core := some c, index := some idx }
  let fams : List (Nat × Nat × Nat × FamEntry) := a.slots.zipIdx.flatMap (fun s => s.1.cores.zipIdx.flatMap (fun c =>
    c.1.fam.zipIdx.map (fun f => (s.2, c.2, f.2, f.1))))
  let cmds := a.commands
  let certs := (List.range (getLe cert 0 1)).filter (fun k => getLe cert (16 + 96 * k) 1 % 16 == n)
  firstSome [
    entryFails b [(11, 5), (20, 4), (104, 24), (224, 288)] (headerOk i ps n a) { size := 64 },
    perDie (fun k s => entryFails b [(4, 12), (224, 32)] (decide (1 ≤ s.regions.length ∧ s.regions.length ≤ 1024))
      { off := slotAt k, size := 32, die := some k }),
    perDie (fun k s => firstSome (s.regions.zipIdx.map (fun r =>
      entryFails b [(12, 4), (24, 8), (96, 32)] (regionOk s.regions r.1 && (s.regions.take r.2).all (regionApart r.1))
        { off := slotF k 32 32 + 16 * r.2, size := 16, die := some k, index := some r.2 }))),
    perCore (fun k _ c e => entryFails b [(12, 4), (200, 24), (256, 256)] (coreOk e) (coreFail k c)),
    perCore (fun k _ c e => firstSome (e.ctxs.zipIdx.map (fun x =>
      entryFails b [(26, 6), (45, 3), (61, 3), (77, 3), (92, 36)] (ctxOk x.1) (inCore k c (coreF k c 224 32) 16 x.2)))),
    perCore (fun k _ c e => no (decide (1 ≤ e.fam.length ∧ e.fam.length ≤ 8)) (coreFail k c)),
    perCore (fun k _ c e => firstSome (e.fam.zipIdx.map (fun f =>
      entryFails b [(4, 12), (96, 32)] (famOk (k * 16 + c) (if f.2 = 0 then none else e.fam[f.2 - 1]?) f.1)
        (inCore k c (coreF k c 160 32) 16 f.2)))),
    firstSome (fams.zipIdx.map (fun f => no ((fams.take f.2).all (fun g => famDisjoint g.2.2.2 f.1.2.2.2))
      (inCore f.1.1 f.1.2.1 (coreF f.1.1 f.1.2.1 160 32) 16 f.1.2.2.1))),
    no (ncandOk a (fams.map (·.2.2.2))) { off := 4 },
    perCore (fun k s c e => firstSome (e.steps.zipIdx.map (fun x => no (stepOk a s e x.1) (inCore k c e.stepSrc 16 x.2)))),
    perCore (fun k s c e => firstSome ((List.range e.pool.length).map (fun x =>
      no (poolEntryOk i ps a cmds k s c e x) (inCore k c e.poolSrc 16 x)))),
    perCore (fun k _ c e => no (ringsAgree e.issued) (coreFail k c)),
    firstSome (a.sel.zipIdx.map (fun e => entryFails b [(7, 1), (12, 4), (27, 5), (35, 29)] (selEntryOk a e.1)
      { off := field w 160 32 + 8 * e.2, size := 8, index := some e.2 })),
    no (selOk i a) { off := 2, size := 1 },
    firstSome (a.solve.zipIdx.map (fun e => entryFails b [(7, 9)] (solveEntryOk i n a e.2)
      { off := field w 192 32 + 2 * e.2, size := 2, index := some e.2 })),
    no (generatorsOk i a) { size := 64 },
    perDie (fun k s => no (enlPhasesOk i.ego.length (enlParamsOf ps).nb s) { off := slotAt k, size := 32, die := some k }),
    perDie (fun k s => no (duOk s) { off := slotF k 64 32, size := 64, die := some k }),
    entryFails cert [(8, 120)] (certOk i i.hdr.narm n a) { cert := true, size := 16 },
    firstSome (certs.map (fun k => entryFails cert [(6, 26), (608, 160)] (i.certs[k]?.all (·.ok))
      { cert := true, off := 16 + 96 * k, size := 96, index := some k }))]

/-- Armature `n` read from its section (R307). -/
def armatureOf (ss : List Section) (n : Nat) : Option Armature :=
  (ss.find? (fun s => s.type == 1 && s.inst == n)).map (fun s => Armature.ofBytes s.raw)

/-- ARMATURE for armature `n` of the sections (R305, R306): the armature, or the refusal. The offset of the failing
field within its entry is a free value where no RSV field is meant (log entry 11). -/
def armatureUnit (i : Image) (ss : List Section) (n : Nat) : Except Refused Armature :=
  match armatureOf ss n with
  | none => .error { cls := 7, arm := some n }
  | some a =>
    match armatureCheck i i.params (rawOf ss 2) n a with
    | none => .ok a
    | some f =>
      let sect := ss.zipIdx.find? (fun s => if f.cert then s.1.type == 2 else s.1.type == 1 && s.1.inst == n)
      let inner := if f.size = 0 then 0 else
        Config.failOffset 1 (sliceAt (if f.cert then rawOf ss 2 else a.raw) f.off f.size) % f.size
      .error { cls := 7, sect := sect.map (·.2), arm := some n, die := f.die, core := f.core, index := f.index
               offset := sect.map (fun s => s.1.off + f.off + inner) }

/-! ### RESOURCE (R305 class 8) -/

/-- RESOURCE for armature `n` (R305). `free` is the free usable LPDDR by physical die (R302),
`dies` the physical dies of the slots, `bound` the world streams bound to a ring. LPDDR and RINGS are not an
armature's (the example after R306). -/
def resourceCheck (i : Image) (free : Nat → Nat) (dies : List Nat) (bound : Nat → Bool) (n : Nat) (a : Armature) :
    Option Refused :=
  let no (code : Nat) (arm die core : Option Nat) (need have_ : Nat) : Option Refused :=
    if need ≤ have_ then none
    else some { cls := 8, check := code, arm := arm, die := die, core := core, need := some need, have_ := some have_ }
  let perDie (f : Nat → DieSlot → Option Refused) : Option Refused :=
    firstSome (a.slots.zipIdx.map (fun s => f s.2 s.1))
  let inSpace (s : DieSlot) (sp unit : Nat) : Nat := sumNat ((s.regions.filter (fun r => r.on sp unit)).map (·.size))
  let perCore (f : Nat → Nat → CoreEntry → DieSlot → Option Refused) : Option Refused :=
    perDie (fun k s => firstSome (s.cores.zipIdx.map (fun c => f k c.2 c.1 s)))
  let perCluster (code sp size : Nat) : Option Refused :=
    perDie (fun k s => firstSome ((List.range 4).map (fun c => no code (some n) (some k) none (inSpace s sp c) size)))
  let hub := sumNat (a.slots.map (fun s => sumNat ((s.regions.filter (fun r => r.space == 4)).map (·.size))))
  let strs := (List.range 16).filter (fun s => (i.world.stream s).kind != .unused)
  firstSome [
    perDie (fun k s => match dies[k]? with
      | none => none
      | some d => no 1 none (some d) none s.lpFoot (free d)),
    perCluster 2 1 (4 * 2 ^ 20),
    perCore (fun k c _ s => no 3 (some n) (some k) (some c) (inSpace s 2 c) (512 * 1024)),
    perCluster 4 3 (64 * 1024),
    no 5 (some n) none none hub (768 * 1024),
    perCore (fun k c e _ => no 6 (some n) (some k) (some c) e.steps.length 4096),
    perCore (fun k c e _ => no 7 (some n) (some k) (some c) e.pool.length 4096),
    perDie (fun k s => no 8 (some n) (some k) none (s.du.items.length + s.du.ndyn) 4096),
    perDie (fun k s => no 9 (some n) (some k) none s.du.nflow 1024),
    perDie (fun k s => no 10 (some n) (some k) none s.du.events.length 256),
    perCore (fun k c e _ => no 11 (some n) (some k) (some c) e.ctxs.length 8),
    no 12 none none none strs.length (strs.filter bound).length]

/-! ### Choosing an armature (R310) -/

/-- The number of the armature with the largest NDIE at or below `n` (R310). -/
def chooseArm (arms : List Armature) (n : Nat) : Option Nat :=
  (arms.zipIdx.foldl (fun (best : Option (Nat × Nat)) a =>
    if a.1.ndie ≤ n then
      match best with
      | none => some (a.1.ndie, a.2)
      | some b => if b.1 < a.1.ndie then some (a.1.ndie, a.2) else best
    else best) none).map (·.2)

/-- DIES and ECLK (R305): healthy planning dies and the present ECLK step. -/
def diesCheck (i : Image) (healthy eclk : Nat) : Option Refused :=
  let least := ((i.arms.map (·.ndie)).min?).getD 2
  match chooseArm i.arms healthy with
  | none => some { cls := 9, need := some (max 2 least), have_ := some healthy }
  | some k =>
    if healthy < 2 then some { cls := 9, need := some (max 2 least), have_ := some healthy }
    else match i.arms[k]? with
    | none => none
    | some a => if a.minStep < eclk then
        some { cls := 10, arm := some k, need := some a.minStep, have_ := some eclk } else none

/-- Whether a patch passes (R320, R322): every value in bounds and every check that depends on a
parameter. -/
def patchOk (i : Image) (ps : List Param) : Bool :=
  ps.all Param.ok && contentOk i ps
  && i.arms.zipIdx.all (fun a => (armatureCheck i ps [] a.2 { a.1 with raw := [] }).isNone)

/-- The certificate entry in force (R312). -/
def Image.cert (i : Image) (arm step : Nat) : Option CertEntry :=
  i.certs.find? (fun c => c.arm == arm && c.step == step)

end Sys2Proof.Machine
end

