-- ==== Sys2Proof/Machine/Coherence.lean ====
section
/-!
DEFINITION. Line caches and home directories (R375 to R380): MSI states, one transaction per line at
its home, ordering of requests, coherent uncached accesses, and what a fence does to them (R407).
-/
namespace Sys2Proof.Machine

open Sys2Proof

/-- A line cache's valid states (R377). -/
inductive CacheSt where
  | m | s
  deriving DecidableEq, Repr

/-- A line held by the cache of a cluster (R375); `line` is DA / 64. -/
structure CLine where
  cluster : Nat
  line : Nat
  st : CacheSt
  data : List Byte
  deriving DecidableEq, Repr

/-- The access of an engine that caused a cache's request (R379); a write carries its offset and
bytes. -/
structure CAccess where
  cluster : Nat
  line : Nat
  write : Option (Nat × List Byte)
  deriving DecidableEq, Repr

/-- A directory entry's state (R376). -/
inductive DirSt where
  | uncached
  | shared (vec : Nat)
  | modified (owner : Nat)
  deriving DecidableEq, Repr

/-- The requests that a home serves (R377, R380). -/
inductive HomeReqKind where
  | gets | getm | ucRead
  | ucWrite (off : Nat) (bytes : List Byte)
  deriving DecidableEq, Repr

/-- A request with its requester identifier (R376, R378). -/
structure HomeReq where
  req : Nat
  kind : HomeReqKind
  deriving DecidableEq, Repr

/-- The transaction in progress on a line: its request, the sharers whose INV_ACK is missing, and
the owner recalled (R377, R378). -/
structure HomeTxn where
  req : HomeReq
  acks : List Nat
  recalled : Option Nat
  deriving DecidableEq, Repr

/-- A home's view of a line (R376, R378): state, transaction and waiting requests. -/
structure DirEntry where
  line : Nat
  st : DirSt
  txn : Option HomeTxn
  waiting : List HomeReq
  deriving DecidableEq, Repr

/-- Messages from a home to a cache, or a sharer's answer, under way (R377). -/
inductive CohMsg where
  | data (cluster line : Nat) (st : CacheSt) (bytes : List Byte)
  | inv (cluster line : Nat)
  | invAck (cluster line : Nat)
  | recall (cluster line : Nat) (toS : Bool)
  | wbAck (cluster line : Nat)
  | respErr (req line : Nat)
  deriving DecidableEq, Repr

/-- Caches, directories and messages of the package. -/
structure CohState where
  caches : List CLine
  dir : List DirEntry
  acc : List CAccess
  msgs : List CohMsg
  /-- what the last coherent uncached read of a requester returned, by identifier (R380) -/
  uc : List (Nat × List Byte)
  /-- poisoned lines (R388, R407) -/
  poison : List Nat
  deriving DecidableEq, Repr

/-- Nothing cached. -/
def CohState.empty : CohState := ⟨[], [], [], [], [], []⟩

/-- A line's directory entry; lines without one are uncached and idle. -/
def CohState.entry (c : CohState) (line : Nat) : DirEntry :=
  (c.dir.find? (fun e => e.line == line)).getD ⟨line, .uncached, none, []⟩

/-- A line's directory entry replaced; an idle uncached one is not listed. -/
def CohState.setEntry (c : CohState) (e : DirEntry) : CohState :=
  let rest := c.dir.filter (fun x => x.line != e.line)
  if e.st = .uncached ∧ e.txn = none ∧ e.waiting = [] then { c with dir := rest }
  else { c with dir := insertBy (fun a b => decide (a.line ≤ b.line)) e rest }

/-- The line held by a cluster. -/
def CohState.held (c : CohState) (cl line : Nat) : Option CLine :=
  c.caches.find? (fun x => x.cluster == cl && x.line == line)

/-- A cluster's copy dropped. -/
def CohState.dropLine (c : CohState) (cl line : Nat) : CohState :=
  { c with caches := c.caches.filter (fun x => !(x.cluster == cl && x.line == line)) }

/-- A cluster's copy put in place. -/
def CohState.putLine (c : CohState) (x : CLine) : CohState :=
  { (c.dropLine x.cluster x.line) with caches := x :: (c.dropLine x.cluster x.line).caches }

/-- A message under way. -/
def CohState.send (c : CohState) (m : CohMsg) : CohState := { c with msgs := c.msgs ++ [m] }

/-- A message delivered. -/
def CohState.take (c : CohState) (m : CohMsg) : CohState := { c with msgs := c.msgs.erase m }

/-- Lines that are poisoned no more: wholly rewritten (R388). -/
def CohState.sound (c : CohState) (ls : List Nat) : CohState :=
  { c with poison := c.poison.filter (fun l => !ls.contains l) }

/-- The sharers of a vector, ascending. -/
def sharersOf (vec : Nat) : List Nat := (List.range 32).filter (bitAt vec)

/-- A result with the LPDDR lines it writes. -/
structure CohOut where
  st : CohState
  writes : List (Nat × List Byte)

/-- What a home answers when nothing stands in the way: grant or perform the access (R377, R380). An
uncached read of a poisoned line ends in error, and only a write of the whole line makes it sound (R388).
`rd` reads a line of LPDDR. -/
def CohState.complete (c : CohState) (rd : Nat → List Byte) (e : DirEntry) (r : HomeReq) : CohOut :=
  let free := { e with txn := none }
  match r.kind with
  | .gets =>
    let vec := match e.st with
      | .shared v => setBit v r.req
      | _ => 2 ^ r.req
    ⟨(c.setEntry { free with st := .shared vec }).send (.data r.req e.line .s (rd e.line)), []⟩
  | .getm =>
    ⟨(c.setEntry { free with st := .modified r.req }).send (.data r.req e.line .m (rd e.line)), []⟩
  | .ucRead =>
    let own := match e.st with
      | .modified o => (c.held o e.line).map (·.data)
      | .uncached | .shared _ => none
    if own = none ∧ e.line ∈ c.poison then ⟨(c.setEntry free).send (.respErr r.req e.line), []⟩
    else ⟨{ (c.setEntry free) with uc := insertKey r.req (own.getD (rd e.line)) c.uc }, []⟩
  | .ucWrite off bs =>
    let c := c.setEntry { free with st := .uncached }
    ⟨if bs.length = 64 then c.sound [e.line] else c, [(e.line, overlay (rd e.line) off bs)]⟩

/-- The cache still has an access of its own to perform on the line: an INV or RECALL is held
(R379). Data granted and not yet arrived counts; a request still waiting at the home does not. -/
def CohState.holds (c : CohState) (cl line : Nat) : Bool :=
  c.msgs.any (fun m => match m with
    | .data a b _ _ => a == cl && b == line
    | _ => false)

/-- A transaction started on a line that is not busy (R377 to R380). -/
def CohState.start (c : CohState) (rd : Nat → List Byte) (e : DirEntry) (r : HomeReq) : CohOut :=
  let excl := match r.kind with
    | .getm => true
    | .ucWrite _ _ => true
    | _ => false
  match e.st with
  | .modified o =>
    if r.kind = .ucRead then
      -- R379, R380: an owner that still waits for its line performs its one access before the copy is taken
      if (c.held o e.line).isNone ∧ c.holds o e.line then ⟨c.setEntry { e with txn := some ⟨r, [], some o⟩ }, []⟩
      else c.complete rd e r
    else ⟨(c.setEntry { e with txn := some ⟨r, [], some o⟩ }).send (.recall o e.line (r.kind == .gets)), []⟩
  | .shared v =>
    let others := (sharersOf v).filter (· != r.req)
    if excl && !others.isEmpty then
      ⟨others.foldl (fun c s => c.send (.inv s e.line)) (c.setEntry { e with txn := some ⟨r, others, none⟩ }), []⟩
    else c.complete rd e r
  | .uncached => c.complete rd e r

/-- The requests waiting for a line served as far as they can be (R378); `f` bounds their number. -/
def CohState.serve (rd : Nat → List Byte) (line : Nat) : Nat → CohOut → CohOut
  | 0, o => o
  | f + 1, o =>
    let e := o.st.entry line
    match e.txn, e.waiting with
    | none, r :: rest =>
      let rd' (l : Nat) : List Byte := ((o.writes.reverse.find? (fun w => w.1 == l)).map (·.2)).getD (rd l)
      let x := (o.st.setEntry { e with waiting := rest }).start rd' { e with waiting := rest } r
      CohState.serve rd line f ⟨x.st, o.writes ++ x.writes⟩
    | _, _ => o

/-- A request arrives at its home (R378): served, or made to wait while the line is busy. -/
def CohState.request (c : CohState) (rd : Nat → List Byte) (line : Nat) (r : HomeReq) : CohOut :=
  let e := c.entry line
  CohState.serve rd line 1 ⟨c.setEntry { e with waiting := e.waiting ++ [r] }, []⟩

/-- A request of a transaction whose obstacle is gone is completed, and the next ones served. -/
def CohState.finish (c : CohState) (rd : Nat → List Byte) (line : Nat) : CohOut :=
  let e := c.entry line
  match e.txn with
  | none => ⟨c, []⟩
  | some t =>
    let x := c.complete rd e t.req
    CohState.serve rd line (e.waiting.length + 1) x

/-- A writeback applied (R377, R378): the line is UNCACHED and WB_ACK is sent. A transaction that
was recalling the line from this owner goes on with the data written back. -/
def CohState.putm (c : CohState) (rd : Nat → List Byte) (cl line : Nat) : CohOut :=
  match c.held cl line with
  | none => ⟨c, []⟩
  | some x =>
    if x.st = .s then ⟨c, []⟩
    else
      let e := c.entry line
      let c := (((c.dropLine cl line).sound [line]).setEntry { e with st := .uncached }).send (.wbAck cl line)
      let rd' (l : Nat) : List Byte := if l = line then x.data else rd l
      let o := match e.txn with
        | some t => if t.recalled = some cl then c.finish rd' line else ⟨c, []⟩
        | none => CohState.serve rd' line (e.waiting.length + 1) ⟨c, []⟩
      ⟨o.st, (line, x.data) :: o.writes⟩

/-- A cache receives line data and performs its access (R379). A full set first gives up an S line
silently; with eight M lines the data waits for a writeback. -/
def CohState.dataIn (c : CohState) (cl line : Nat) (st : CacheSt) (bytes : List Byte) : CohState :=
  let set := c.caches.filter (fun x => x.cluster == cl && x.line % 1024 == line % 1024 && x.line != line)
  let victim := set.find? (fun x => x.st == .s)
  if 8 ≤ set.length ∧ victim = none then c
  else
    let c1 := if 8 ≤ set.length then
        match victim with
        | some v => c.dropLine cl v.line
        | none => c
      else c
    let a := c1.acc.find? (fun a => a.cluster == cl && a.line == line)
    let d := match a.bind (·.write) with
      | some (off, bs) => overlay bytes off bs
      | none => bytes
    let c2 := c1.putLine ⟨cl, line, st, d⟩
    { (c2.take (.data cl line st bytes)) with
      acc := c2.acc.filter (fun a => !(a.cluster == cl && a.line == line)) }

/-- An uncached read that waited for the owner's one access takes its copy (R379, R380). -/
def CohState.dataDone (c : CohState) (rd : Nat → List Byte) (cl line : Nat) : CohOut :=
  let e := c.entry line
  match e.txn with
  | some t =>
    if t.req.kind = .ucRead ∧ t.recalled = some cl ∧ (c.held cl line).isSome then
      CohState.finish (c.setEntry { e with txn := some { t with recalled := none } }) rd line
    else ⟨c, []⟩
  | none => ⟨c, []⟩

/-- The transaction in progress on a line fails: what it has sent is withdrawn, and its requester sees RESP_ERR (R374,
R397). -/
def CohState.failTxn (c : CohState) (line : Nat) : CohState :=
  let e := c.entry line
  match e.txn with
  | none => c
  | some t =>
    let c := { c with msgs := c.msgs.filter (fun m => match m with
      | .inv _ l | .invAck _ l | .recall _ l _ => l != line
      | .data _ _ _ _ | .wbAck _ _ | .respErr _ _ => true) }
    (c.setEntry { e with txn := none }).send (.respErr t.req.req line)

/-- A coherence message is lost (R397): line data and a writeback's acknowledgement end in error at the cache, which
then holds nothing; an invalidation, its answer or a recall fails its transaction; an error answer is given again. -/
def CohState.loseMsg (c : CohState) (m : CohMsg) : CohState :=
  match m with
  | .data cl l _ _ =>
    let e := c.entry l
    let st := match e.st with
      | .modified o => if o = cl then DirSt.uncached else .modified o
      | .shared v => if clrBit v cl = 0 then .uncached else .shared (clrBit v cl)
      | .uncached => .uncached
    let txn := e.txn.map (fun t => { t with recalled := t.recalled.filter (· != cl), acks := t.acks.filter (· != cl) })
    let c := { c.take m with
      acc := c.acc.filter (fun a => !(a.cluster == cl && a.line == l))
      msgs := (c.take m).msgs.filter (fun x => match x with
        | .inv a b | .recall a b _ => !(a == cl && b == l)
        | .data _ _ _ _ | .invAck _ _ | .wbAck _ _ | .respErr _ _ => true) }
    (c.setEntry { e with st := st, txn := txn }).send (.respErr cl l)
  | .wbAck cl l => (c.take m).send (.respErr cl l)
  | .inv _ l | .invAck _ l | .recall _ l _ => (c.take m).failTxn l
  | .respErr _ _ => c

/-- A sharer receives INV (R377): it drops the line and answers. -/
def CohState.invIn (c : CohState) (cl line : Nat) : CohState :=
  if c.msgs.contains (.inv cl line) ∧ !c.holds cl line then
    ((c.dropLine cl line).take (.inv cl line)).send (.invAck cl line)
  else c

/-- A home receives INV_ACK (R377): the last one lets the transaction complete. -/
def CohState.invAckIn (c : CohState) (rd : Nat → List Byte) (cl line : Nat) : CohOut :=
  if c.msgs.contains (.invAck cl line) then
    let c := c.take (.invAck cl line)
    let e := c.entry line
    match e.txn with
    | none => ⟨c, []⟩
    | some t =>
      let acks := t.acks.filter (· != cl)
      let c := c.setEntry { e with txn := some { t with acks := acks } }
      if acks.isEmpty ∧ t.recalled = none then c.finish rd line else ⟨c, []⟩
  else ⟨c, []⟩

/-- An owner receives RECALL (R377, R379): it returns the line, the home writes it to LPDDR and
completes the transaction. A RECALL that crossed a writeback has been answered by it. -/
def CohState.recallIn (c : CohState) (rd : Nat → List Byte) (cl line : Nat) (toS : Bool) : CohOut :=
  if c.msgs.contains (.recall cl line toS) ∧ !c.holds cl line then
    let c := c.take (.recall cl line toS)
    let e := c.entry line
    if (e.txn.bind (·.recalled)) ≠ some cl then ⟨c, []⟩
    else match c.held cl line with
    | none => c.finish rd line
    | some x =>
      let c := if toS then c.putLine { x with st := .s } else c.dropLine cl line
      let c := (c.sound [line]).setEntry { e with st := if toS then .shared (2 ^ cl) else .uncached }
      let rd' (l : Nat) : List Byte := if l = line then x.data else rd l
      let o := c.finish rd' line
      ⟨o.st, (line, x.data) :: o.writes⟩
  else ⟨c, []⟩

/-- A requester is one of a die's caches or movers (R378). -/
def reqOfDie (die r : Nat) : Bool := if r < 32 then r / 4 == die else r < 96 && (r - 32) / 8 == die

/-- A directory entry after a fence (R407 step 3): the die's caches leave the vector and own nothing, and
its requests and the answers owed by its caches are waited for no more. -/
def DirEntry.fence (e : DirEntry) (die : Nat) : DirEntry :=
  let isOwn (cl : Nat) : Bool := cl / 4 == die
  let st := match e.st with
    | .shared v =>
      let v' := v - (v / 16 ^ die % 16) * 16 ^ die
      if v' = 0 then DirSt.uncached else .shared v'
    | .modified o => if isOwn o then .uncached else .modified o
    | .uncached => .uncached
  let txn := match e.txn with
    | none => none
    | some t => if reqOfDie die t.req.req then none
                else some { t with acks := t.acks.filter (fun a => !isOwn a)
                                   recalled := t.recalled.filter (fun o => !isOwn o) }
  { e with st := st, txn := txn, waiting := e.waiting.filter (fun r => !reqOfDie die r.req) }

/-- What a fence does (R407 step 3): the die's requesters leave the sharer vectors, lines it owned
become UNCACHED and poisoned, and every cache drops the lines homed on the die, whose requests are
answered RESP_ERR. The INV and RECALL of a request that the die had under way are withdrawn. The number
counts the poisoned lines. `homeOf` gives a line's home die. -/
def CohState.fence (c : CohState) (homeOf : Nat → Option Nat) (die : Nat) : CohState × Nat :=
  let isOwn (cl : Nat) : Bool := cl / 4 == die
  let here (l : Nat) : Bool := homeOf l == some die
  let live := c.dir.filter (fun e => !here e.line)
  let owned := live.filter (fun e => match e.st with
    | .modified o => isOwn o
    | .uncached | .shared _ => false)
  let gone := (live.filter (fun e => (e.txn.map (fun t => reqOfDie die t.req.req)).getD false)).map (·.line)
  let dir := (live.map (fun e => e.fence die)).filter (fun e => !(e.st == .uncached && e.txn == none && e.waiting.isEmpty))
  let asked := (c.dir.filter (fun e => here e.line)).flatMap (fun e =>
    ((e.txn.map (·.req)).toList ++ e.waiting).map (fun r => CohMsg.respErr r.req e.line))
  let cut := c.msgs.filterMap (fun m => match m with
    | .data cl l _ _ => if here l then some (CohMsg.respErr cl l) else none
    | .inv _ _ | .invAck _ _ | .recall _ _ _ | .wbAck _ _ | .respErr _ _ => none)
  let errs := (asked ++ cut).filter (fun m => match m with
    | .respErr r _ => !reqOfDie die r
    | .data _ _ _ _ | .inv _ _ | .invAck _ _ | .recall _ _ _ | .wbAck _ _ => false)
  ({ c with
     caches := c.caches.filter (fun x => !isOwn x.cluster && !here x.line)
     dir := dir
     acc := c.acc.filter (fun a => !isOwn a.cluster)
     msgs := c.msgs.filter (fun m => match m with
       | .data cl l _ _ | .wbAck cl l => !isOwn cl && !here l
       | .inv cl l | .invAck cl l | .recall cl l _ => !isOwn cl && !here l && !gone.contains l
       | .respErr r _ => !reqOfDie die r) ++ errs
     poison := c.poison.filter (fun l => !here l) ++ owned.map (·.line) }, owned.length)

/-- A line taken as far as it can go: its transaction completed once it waits for nobody, else the
requests that wait for an idle line served. -/
def CohState.advance (rd : Nat → List Byte) (o : CohOut) (line : Nat) : CohOut :=
  let e := o.st.entry line
  match e.txn with
  | some t =>
    if t.acks.isEmpty ∧ t.recalled = none then
      let x := o.st.finish rd line
      ⟨x.st, o.writes ++ x.writes⟩
    else o
  | none => CohState.serve rd line (e.waiting.length + 1) o

/-- Every line taken as far as it can go: what follows a fence or a flush. -/
def CohState.serveAll (c : CohState) (rd : Nat → List Byte) : CohOut :=
  (c.dir.map (·.line)).foldl (CohState.advance rd) ⟨c, []⟩

/-- A directory entry after the cache of a cluster was emptied; a RECALL of a line written back is
answered by that. -/
def DirEntry.flush (e : DirEntry) (cl : Nat) : DirEntry :=
  let st := match e.st with
    | .modified o => if o = cl then DirSt.uncached else .modified o
    | .shared v =>
      let v' := clrBit v cl
      if v' = 0 then DirSt.uncached else .shared v'
    | .uncached => .uncached
  { e with st := st, txn := e.txn.map (fun t => { t with recalled := t.recalled.filter (· != cl) }) }

/-- A cluster's cache emptied by a restart: its M lines are written back, its S lines dropped
(R388, R488). A line whose data is still on its way arrives afterwards, for no access. -/
def CohState.flush (c : CohState) (cl : Nat) : CohOut :=
  let ms := c.caches.filter (fun x => x.cluster == cl && x.st == .m)
  let dir := c.dir.map (fun e => if c.holds cl e.line then e else e.flush cl)
  ⟨{ (c.sound (ms.map (·.line))) with
     caches := c.caches.filter (fun x => x.cluster != cl)
     dir := dir.filter (fun e => !(e.st == .uncached && e.txn == none && e.waiting.isEmpty))
     acc := c.acc.filter (fun a => a.cluster != cl) },
   ms.map (fun x => (x.line, x.data))⟩

/-- Never two copies of a line in M, and none in M beside another copy. -/
def CohState.single (c : CohState) : Bool :=
  c.caches.all (fun x => x.st == .s || (c.caches.filter (fun y => y.line == x.line)).length == 1)

end Sys2Proof.Machine
end

