-- ==== Sys2Proof/Machine/Rings.lean ====
section
/-!
DEFINITION. Ring contexts, doorbells, descriptors and completions of the host interface (R414 to
R442), as data and as checks on bytes.
-/
namespace Sys2Proof.Machine

open Sys2Proof

/-- The three kinds of ring (R415). -/
inductive RingType where
  | submission | completion | event
  deriving DecidableEq, Repr

/-- A ring context (R415). -/
structure RingCtx where
  type : RingType
  prio : Nat
  stream : Option Nat
  log2 : Nat
  gen : Nat
  base : Nat
  db : Nat
  pair : Nat
  vector : Nat
  irqEn : Bool
  coalCnt : Nat
  coalUs : Nat
  crc : Nat
  deriving DecidableEq, Repr

/-- Entries of a ring (R415). -/
def RingCtx.size (c : RingCtx) : Nat := 2 ^ c.log2

/-- TYPE's code (R415). -/
def RingType.ofCode (n : Nat) : Option RingType :=
  if n = 1 then some .submission else if n = 2 then some .completion else if n = 3 then some .event else none

/-- A context's 32 bytes read, TYPE taken from the low bits (R415). -/
def RingCtx.ofBytes (b : List Byte) : Option RingCtx :=
  let w := leNat (b.take 32)
  (RingType.ofCode (field w 0 2)).map (fun t =>
    ⟨t, field w 2 2, if bitAt w 12 then some (field w 8 4) else none, field w 16 5, field w 24 8, field w 32 64,
     field w 96 64, field w 160 14, field w 176 11, bitAt w 187, field w 192 8, field w 200 16, field w 224 32⟩)

/-- The causes of a failed table load (R416). -/
inductive LoadCause where
  | crc | reserved | address | pair | duplicate | read | busy | attnBase
  deriving DecidableEq, Repr

/-- A cause's code (R416). -/
def LoadCause.code : LoadCause → Nat
  | .crc => 1 | .reserved => 2 | .address => 3 | .pair => 4 | .duplicate => 5 | .read => 6 | .busy => 7 | .attnBase => 8

/-- The fields of one context against R414 and R415; causes in ascending order. -/
def ctxFieldCause (b : List Byte) : Option LoadCause :=
  let w := leNat (b.take 32)
  if !crcOk 32 (b.take 32) then some .crc
  else match RingCtx.ofBytes b with
  | none => none
  | some c =>
    let sub := c.type = .submission
    let rsv := field w 4 4 != 0 || field w 13 3 != 0 || field w 21 3 != 0 || field w 174 2 != 0
      || field w 188 4 != 0 || field w 216 8 != 0
    let foreign := if sub then c.vector != 0 || c.irqEn || c.coalCnt != 0 || c.coalUs != 0
      else c.prio != 0 || c.stream.isSome || field w 8 4 != 0
    if c.log2 < 4 ∨ 16 < c.log2 ∨ rsv ∨ foreign then some .reserved
    else if 2 ^ 52 ≤ c.base ∨ c.base % 4096 ≠ 0 ∨ 2 ^ 52 ≤ c.db ∨ c.db % 8 ≠ 0 then some .address
    else if !sub ∧ c.pair ≠ 0 then some .pair
    else none

/-- The contexts of a table of `n` entries, checked in ascending ring number (R416): the rings, or the
first failure with its ring number. `slot r` gives context r's bytes. -/
def checkTable (slot : Nat → List Byte) (n : Nat) : Except (Nat × LoadCause) (List (Nat × RingCtx)) :=
  let types (r : Nat) : Nat := getLe (slot r) 0 1 % 4
  (List.range n).foldlM (fun (acc : List (Nat × RingCtx)) (r : Nat) =>
    if types r = 0 then .ok acc
    else match ctxFieldCause (slot r), RingCtx.ofBytes (slot r) with
    | some c, _ => .error (r, c)
    | none, none => .ok acc
    | none, some c =>
      if c.type = .submission ∧ ¬(c.pair < n ∧ types c.pair = 2) then .error (r, .pair)
      else if c.type = .submission ∧ acc.any (fun e => e.2.type == .submission && e.2.db == c.db) then
        .error (r, .duplicate)
      else if c.type = .event ∧ acc.any (fun e => e.2.type == .event) then .error (r, .duplicate)
      else .ok (acc ++ [(r, c)])) []

/-! ### Descriptors -/

/-- The opcodes of R431. -/
def opcodes : List Nat :=
  [0x0001, 0x0010, 0x0011, 0x0012, 0x0020, 0x0021, 0x0022, 0x0023, 0x0030, 0x0031, 0x0040, 0x0041, 0x0042, 0x0043,
   0x0050, 0x0051, 0x0060, 0x0061, 0x0070]

/-- The bit fields that each opcode's operand map assigns (R84, R85, R87, R89, R90, R433): (first
bit, length). -/
def opFields (op : Nat) : List (Nat × Nat) :=
  let payload := [(128, 64), (192, 64), (256, 32), (288, 32)]
  match op with
  | 0x0010 => [(128, 64), (192, 64), (256, 64), (320, 1)]
  | 0x0011 => [(128, 64)]
  | 0x0012 => payload
  | 0x0020 => payload ++ [(320, 8), (328, 8), (336, 16), (352, 32), (384, 32), (416, 8)]
  | 0x0021 => payload ++ [(320, 32), (352, 32), (384, 16)]
  | 0x0022 => payload ++ [(320, 8), (336, 16)]
  | 0x0023 => [(128, 240)]
  | 0x0030 => [(128, 320)]
  | 0x0031 => [(128, 64), (192, 64), (256, 40), (296, 40), (336, 16)]
  | 0x0040 => [(128, 64)]
  | 0x0041 => [(128, 64)]
  | 0x0042 => [(128, 64)]
  | 0x0043 => [(128, 64)]
  | 0x0050 => [(128, 8), (136, 8), (144, 1), (152, 1), (160, 32)]
  | 0x0051 => [(128, 1), (160, 32), (192, 160)]
  | 0x0060 => [(128, 8), (192, 64), (256, 32)]
  | 0x0061 => [(128, 208)]
  | 0x0070 => [(128, 3)]
  | _ => []

/-- Every operand bit that the opcode's map does not assign is 0 (R430). -/
def opRsvOk (d : Nat) (op : Nat) : Bool :=
  let mask := (opFields op).foldl (fun m f => m ||| (2 ^ f.2 - 1) * 2 ^ f.1) 0
  let operands := field d 128 320 * 2 ^ 128
  operands &&& mask == operands

/-- A ring that R431 allows for an opcode: a stream ring carries only its stream's world opcode and
those open to any submission ring. -/
def opRingOk (op : Nat) (streamOp : Option Nat) : Bool :=
  match streamOp with
  | some s => op == s || [0x0001, 0x0023, 0x0040, 0x0041, 0x0042, 0x0043].contains op
  | none => !([0x0020, 0x0021, 0x0022].contains op)

/-- A descriptor's fixed fields (R427). -/
structure DescHead where
  opcode : Nat
  irq : Bool
  fence : Bool
  trace : Bool
  seq : Nat
  tag : Nat
  deriving DecidableEq, Repr

/-- The fixed fields of a slot's 64 bytes (R427). -/
def DescHead.ofBytes (b : List Byte) : DescHead :=
  ⟨getLe b 0 2, bitAt (getLe b 2 1) 0, bitAt (getLe b 2 1) 1, bitAt (getLe b 2 1) 2, getLe b 4 4, getLe b 8 8⟩

/-- The status values (R438). -/
inductive Status where
  | ok | okDegraded | crc | badDesc | refused | resource | noImage | dma | deadline | cancelled | suspended
  | queued | stale | unknownTag | noCandidate | verifyMismatch | faultRestart | solverNonfinite | fatal
  deriving DecidableEq, Repr

/-- A status value (R438). -/
def Status.code : Status → Nat
  | .ok => 0x0000 | .okDegraded => 0x0001 | .crc => 0x0010 | .badDesc => 0x0011 | .refused => 0x0012
  | .resource => 0x0013 | .noImage => 0x0014 | .dma => 0x0015 | .deadline => 0x0020 | .cancelled => 0x0021
  | .suspended => 0x0022 | .queued => 0x0023 | .stale => 0x0024 | .unknownTag => 0x0025 | .noCandidate => 0x0026
  | .verifyMismatch => 0x0030 | .faultRestart => 0x0031 | .solverNonfinite => 0x0032 | .fatal => 0x00FF

/-- The opcodes whose operands the rows of R104 check, in their order. -/
def worldOps : List Nat := [0x0020, 0x0021, 0x0022, 0x0023]

/-- Checks 2 to 6 of R429 and the RSV operands of R430, those of world descriptors left to R104. `fatal` is a fatal
start (R405). -/
def descCheck (b : List Byte) (count : Nat) (streamOp : Option Nat) (fatal : Bool) : Option Status :=
  let h := DescHead.ofBytes b
  if !crcOk 64 (b.take 64) then some .crc
  else if getLe b 56 4 ≠ 0 ∨ getLe b 2 2 / 8 ≠ 0 then some .badDesc
  else if h.seq ≠ count % 2 ^ 32 then some .badDesc
  else if !opcodes.contains h.opcode || !opRingOk h.opcode streamOp then some .badDesc
  else if fatal ∧ h.opcode ≠ 0x0060 then some .fatal
  else if h.trace ∧ h.opcode ≠ 0x0030 ∧ h.opcode ≠ 0x0031 then some .badDesc
  else if !worldOps.contains h.opcode && !opRsvOk (leNat (b.take 64)) h.opcode then some .badDesc
  else none

/-- An address a descriptor names (R414). -/
def addrOk (a align : Nat) : Bool := decide (a < 2 ^ 52) && a % align == 0

/-- An outstanding descriptor (R424, R426). -/
structure Desc where
  ring : Nat
  head : DescHead
  bytes : List Byte
  deriving DecidableEq, Repr

/-- A completion due (R435, R437). -/
structure Compl where
  /-- the submission ring -/
  ring : Nat
  tag : Nat
  status : Status
  opcode : Nat
  seq : Nat
  r0 : Nat
  r1 : Nat
  /-- signal at once (R436) -/
  now : Bool
  /-- HEARTBEAT_OUT toggles after it (R283) -/
  heartbeat : Bool
  deriving DecidableEq, Repr

/-- The 32 bytes of completion `i` of a ring of 2^log2 entries (R435). -/
def Compl.bytes (c : Compl) (time i log2 : Nat) : List Byte :=
  leBytes 8 c.tag ++ leBytes 2 c.status.code ++ leBytes 2 c.opcode ++ leBytes 4 c.seq ++ leBytes 4 c.r0
  ++ leBytes 4 c.r1 ++ leBytes 8 (time % 2 ^ 63 + (1 - i / 2 ^ log2 % 2) * 2 ^ 63)

/-- Why a ring is in ERROR (R440, R441). -/
inductive RingError where
  | overrun | readFail | slotFail
  deriving DecidableEq, Repr

/-- A ring error's code (R441). -/
def RingError.code : RingError → Nat
  | .overrun => 1 | .readFail => 2 | .slotFail => 3

/-- An active ring (R416, R418, R435, R440). For a submission ring `count` is the descriptors
fetched and `peer` the TAIL last seen; for a completion or event ring `count` is the entries written
and `peer` the HEAD last seen. -/
structure Ring where
  num : Nat
  ctx : RingCtx
  count : Nat
  peer : Nat
  error : Option RingError
  /-- consecutive failed reads of the doorbell record, and of a slot -/
  dbFails : Nat
  slotFails : Nat
  /-- completions written since the last message (R436) -/
  unsignalled : Nat
  deriving DecidableEq, Repr

/-- A ring right after a successful load (R416). -/
def Ring.fresh (e : Nat × RingCtx) : Ring := ⟨e.1, e.2, 0, 0, none, 0, 0, 0⟩

/-- A doorbell record read: TAIL or HEAD, where GEN matches (R418). -/
def doorbellOf (gen : Nat) (b : List Byte) : Option Nat :=
  if getLe b 4 2 = gen then some (getLe b 0 4) else none

/-- The descriptors that wait to be fetched (R418). -/
def Ring.waiting (r : Ring) : Nat := (r.peer + 2 ^ 32 - r.count % 2 ^ 32) % 2 ^ 32

/-- A submission ring after its doorbell record was read (R418, R420, R440). -/
def Ring.doorbell (r : Ring) (rec : Option (List Byte)) : Ring :=
  match rec with
  | none => { r with dbFails := r.dbFails + 1,
                     error := if 1 ≤ r.dbFails then some (r.error.getD .readFail) else r.error }
  | some b =>
    match doorbellOf r.ctx.gen b with
    | none => { r with dbFails := 0 }
    | some v =>
      let r := { r with dbFails := 0, peer := v }
      let beyond := match r.ctx.type with
        | .submission => decide (r.ctx.size < r.waiting)
        | .completion => decide (r.ctx.size < (r.count + 2 ^ 32 - v) % 2 ^ 32)
        | .event => false
      if beyond then { r with error := some (r.error.getD .overrun) } else r

/-- A completion ring has room for one more entry (R435). -/
def Ring.room (r : Ring) : Bool :=
  r.error.isNone && decide ((r.count + 2 ^ 32 - r.peer) % 2 ^ 32 < r.ctx.size)

end Sys2Proof.Machine
end

