-- ==== Sys2Proof/Machine/LongOps.lean ====
section
/-!
DEFINITION. Long operations: classes, states, conflicts and controls (R446 to R464).
-/
namespace Sys2Proof.Machine

open Sys2Proof

/-- The classes of long operation (R446). -/
inductive OpClass where
  | scrubLp | scrubSram | selftest | retrain | recal | load | grow | ledger
  deriving DecidableEq, Repr

/-- A class's code (R446). -/
def OpClass.code : OpClass → Nat
  | .scrubLp => 0x01 | .scrubSram => 0x02 | .selftest => 0x03 | .retrain => 0x04 | .recal => 0x05 | .load => 0x10
  | .grow => 0x11 | .ledger => 0x12

/-- The class that MAINT_START's CLASS names (R446). -/
def OpClass.ofMaint (n : Nat) : Option OpClass :=
  if n = 1 then some .scrubLp else if n = 2 then some .scrubSram else if n = 3 then some .selftest
  else if n = 4 then some .retrain else if n = 5 then some .recal else none

/-- The states of R448. -/
inductive OpState where
  | queued | running | suspending | suspended | cancelling | done | cancelled | failed
  deriving DecidableEq, Repr

/-- A state's code (R448). -/
def OpState.code : OpState → Nat
  | .queued => 1 | .running => 2 | .suspending => 3 | .suspended => 4 | .cancelling => 5 | .done => 6
  | .cancelled => 7 | .failed => 8

/-- Active: running, suspending or cancelling (R448). -/
def OpState.active (s : OpState) : Bool := s == .running || s == .suspending || s == .cancelling
/-- Terminal: done, cancelled or failed (R448). -/
def OpState.terminal (s : OpState) : Bool := s == .done || s == .cancelled || s == .failed

/-- The stages of a load (R301). -/
inductive LoadStage where
  | fetch | verify | unpack | check | activate
  deriving DecidableEq, Repr

/-- A control that waits for its target (R453). -/
inductive CtlKind where
  | suspend | resume | cancel
  deriving DecidableEq, Repr

/-- A long operation. -/
structure LongOp where
  desc : Desc
  cls : OpClass
  st : OpState
  /-- stopped at a checkpoint for a cycle, or waiting for an idle window (R450) -/
  yielded : Bool
  /-- suspended by a SELFTEST_FIELD (R462) -/
  auto : Bool
  /-- DIE_MASK; for a load and a growth, the dies they use -/
  dies : Nat
  hub : Bool
  waitIdle : Bool
  /-- units completed (R437) -/
  units : Nat
  /-- units failed or skipped (R437) -/
  bad : Nat
  /-- units that passed their checkpoint and failed (R450, R459) -/
  lost : Nat
  /-- units of a load's stage still to do (R301) -/
  left : Nat
  /-- units still to do by die, 8 for the hub; of SELFTEST_FIELD and RETRAIN_LP the dies not yet begun
  (R446, R457, R459) -/
  todo : List (Nat × Nat)
  /-- the die out of service (R457) -/
  current : Option Nat
  stage : LoadStage
  /-- a restart has rolled it back since the last counted checkpoint (R455) -/
  rolled : Bool
  /-- the status of a failed operation (R455) -/
  status : Status
  /-- controls that wait for it (R453) -/
  waiting : List (CtlKind × Desc)
  /-- it has run: device time when it first did (R516) -/
  start : Option Nat
  /-- cancelled at a cycle's release: its completion waits for the cycle's end (R451) -/
  late : Bool
  /-- the result words of an activated load (R303) -/
  words : Option (Nat × Nat)
  deriving DecidableEq, Repr

/-- An operation as its descriptor starts it (R448). -/
def LongOp.new (d : Desc) (cls : OpClass) : LongOp :=
  ⟨d, cls, .running, false, false, 0, false, false, 0, 0, 0, 0, [], none, .fetch, false, .ok, [], none, false, none⟩

/-- Units that are still to do on a die. -/
def LongOp.todoOf (o : LongOp) (d : Nat) : Nat := sumNat ((o.todo.filter (fun x => x.1 == d)).map (·.2))

/-- A die leaves a maintenance operation: its units count as skipped (R455). -/
def LongOp.dropDie (d : Nat) (o : LongOp) : LongOp :=
  let cur := o.current = some d
  { o with dies := clrBit o.dies d, bad := o.bad + o.todoOf d + (if cur then 1 else 0)
           todo := o.todo.filter (fun x => x.1 != d), current := if cur then none else o.current }

/-- The operation names at least one planning die. -/
def LongOp.anyDie (a : LongOp) : Bool := a.dies != 0

/-- The pairs of classes that always conflict, that conflict where a die is named, and that conflict
on a shared die (R460), one order of each pair. -/
inductive Clash where
  | never | all | anyDie | sameDie
  deriving DecidableEq, Repr

/-- The matrix of R460. -/
def clash : OpClass → OpClass → Clash
  | .load, .load | .grow, .grow | .recal, .recal | .ledger, .ledger => .all
  | .selftest, .load | .selftest, .grow | .selftest, .selftest | .selftest, .retrain | .selftest, .recal => .anyDie
  | .load, .selftest | .grow, .selftest | .retrain, .selftest | .recal, .selftest => .anyDie
  | .retrain, .load | .retrain, .grow | .retrain, .retrain | .load, .retrain | .grow, .retrain => .anyDie
  | .scrubLp, .scrubLp | .scrubLp, .selftest | .scrubLp, .retrain | .selftest, .scrubLp | .retrain, .scrubLp => .sameDie
  | .scrubSram, .scrubSram | .scrubSram, .selftest | .scrubSram, .retrain | .selftest, .scrubSram
  | .retrain, .scrubSram => .sameDie
  | .scrubLp, _ | .scrubSram, _ | .selftest, _ | .retrain, _ | .recal, _ | .load, _ | .grow, _ | .ledger, _ => .never

/-- Whether a class's operations name dies by DIE_MASK (R460). -/
def OpClass.masked : OpClass → Bool
  | .scrubLp | .scrubSram | .selftest | .retrain => true
  | .recal | .load | .grow | .ledger => false

/-- Two operations conflict (R460). -/
def LongOp.conflicts (a b : LongOp) : Bool :=
  match clash a.cls b.cls with
  | .never => false
  | .all => true
  | .anyDie => (a.cls.masked && a.anyDie) || (b.cls.masked && b.anyDie)
  | .sameDie => a.dies &&& b.dies != 0 || (a.cls == .scrubSram && b.cls == .scrubSram && a.hub && b.hub)

/-- The operations and the completions that a change brings: descriptor with status. -/
structure OpsOut where
  ops : List LongOp
  done : List (Desc × Status)

/-- An operation conflicts with some active one. -/
def blocked (ops : List LongOp) (a : LongOp) : Bool :=
  ops.any (fun o => o.st.active && o.desc != a.desc && a.conflicts o)

/-- An operation told from the others by its descriptor. -/
def mapOp (f : LongOp → LongOp) (d : Desc) (ops : List LongOp) : List LongOp :=
  ops.map (fun o => if o.desc = d then f o else o)

/-- The scrubs on whose account alone a SELFTEST_FIELD would queue (R462). -/
def scrubsBlocking (ops : List LongOp) (a : LongOp) : Bool :=
  a.cls == .selftest && blocked ops a && ops.all (fun o => !(o.st.active && o.desc != a.desc && a.conflicts o)
    || o.cls == .scrubLp || o.cls == .scrubSram)

/-- The active scrubs that a SELFTEST_FIELD meets marked AUTO and suspending (R462). -/
def autoSuspend (ops : List LongOp) (a : LongOp) : List LongOp :=
  ops.map (fun o =>
    if o.st.active ∧ o.desc ≠ a.desc ∧ a.conflicts o ∧ o.st = .running then { o with st := .suspending, auto := true }
    else o)

/-- An operation started: queued, running, or running once the scrubs stop (R461, R462). -/
def startOp (ops : List LongOp) (a : LongOp) : List LongOp :=
  if scrubsBlocking ops a then autoSuspend ops a ++ [{ a with st := .running }]
  else ops ++ [{ a with st := if blocked ops a then .queued else .running }]

/-- An operation resumed from SUSPENDED: running, queued, or running once the scrubs stop (R461, R462). -/
def resumeOp (t : LongOp) (ops : List LongOp) : List LongOp :=
  if scrubsBlocking ops t then mapOp (fun o => { o with st := .running }) t.desc (autoSuspend ops t)
  else mapOp (fun o => { o with st := if blocked ops t then .queued else .running }) t.desc ops

/-- The queued operations examined in their start order (R461). -/
def dequeueOps (ops : List LongOp) : List LongOp :=
  ops.foldl (fun acc o =>
    match acc.find? (fun x => x.desc == o.desc) with
    | some x =>
      if x.st != .queued then acc
      else if scrubsBlocking acc x then mapOp (fun y => { y with st := .running }) x.desc (autoSuspend acc x)
      else if blocked acc x then acc
      else mapOp (fun y => { y with st := .running }) x.desc acc
    | none => acc) ops

/-- The scrubs that resume when no SELFTEST_FIELD holds them (R462). -/
def autoResume (ops : List LongOp) : List LongOp :=
  ops.foldl (fun acc o =>
    if o.st = .suspended ∧ o.auto ∧ ¬acc.any (fun x => x.cls == .selftest && !x.st.terminal
        && (x.start.isSome || x.st.active) && x.conflicts o) then
      mapOp (fun y => { y with auto := false, st := if blocked acc y then .queued else .running }) o.desc acc
    else acc) ops

/-- The controls that wait for an operation which has ended, completed (R453). -/
def endControls (o : LongOp) : List (Desc × Status) :=
  o.waiting.map (fun w =>
    (w.2, match o.st, w.1 with
      | .cancelled, .cancel => .ok
      | .cancelled, _ => .cancelled
      | _, _ => .refused))

/-- An operation's new terminal state: its waiting controls complete, the queue is examined, scrubs
resume (R453, R461, R462). -/
def endOp (st : OpState) (status : Status) (d : Desc) (ops : List LongOp) : OpsOut :=
  match ops.find? (fun o => o.desc == d) with
  | none => ⟨ops, []⟩
  | some o =>
    let e := { o with st := st, status := status, yielded := false }
    ⟨autoResume (dequeueOps (mapOp (fun _ => { e with waiting := [] }) d ops)), endControls e⟩

/-- An operation left the active states by suspension: its SUSPEND completes, a waiting RESUME acts
(R453, R461). -/
def suspendedOp (d : Desc) (ops : List LongOp) : OpsOut :=
  match ops.find? (fun o => o.desc == d) with
  | none => ⟨ops, []⟩
  | some o =>
    let resumes := o.waiting.filter (fun w => w.1 == .resume)
    let done := (o.waiting.filter (fun w => w.1 == .suspend)).map (fun w => (w.2, Status.ok))
    let ops := mapOp (fun x => { x with st := .suspended, yielded := false, waiting := [] }) d ops
    let ops := dequeueOps ops
    if resumes.isEmpty then ⟨ops, done⟩
    else ⟨resumeOp o ops,
          done ++ resumes.map (fun w => (w.2, Status.ok))⟩

/-- SUSPEND on a target (R453). -/
def ctlSuspend (c : Desc) (t : LongOp) (ops : List LongOp) : OpsOut :=
  if t.cls = .load ∧ t.stage = .activate then ⟨ops, [(c, .refused)]⟩
  else match t.st with
  | .queued => ⟨mapOp (fun o => { o with st := .suspended }) t.desc ops, [(c, .ok)]⟩
  | .running => ⟨mapOp (fun o => { o with st := .suspending, waiting := o.waiting ++ [(.suspend, c)] }) t.desc ops, []⟩
  | .suspending | .suspended => ⟨mapOp (fun o => { o with auto := false }) t.desc ops, [(c, .suspended)]⟩
  | .cancelling | .done | .cancelled | .failed => ⟨ops, [(c, .refused)]⟩

/-- RESUME on a target (R453). -/
def ctlResume (c : Desc) (t : LongOp) (ops : List LongOp) : OpsOut :=
  if t.cls = .load ∧ t.stage = .activate then ⟨ops, [(c, .refused)]⟩
  else match t.st with
  | .queued => ⟨ops, [(c, .queued)]⟩
  | .suspending =>
    if t.auto then ⟨ops, [(c, .queued)]⟩
    else ⟨mapOp (fun o => { o with waiting := o.waiting ++ [(.resume, c)] }) t.desc ops, []⟩
  | .suspended =>
    if t.auto then ⟨ops, [(c, .queued)]⟩
    else ⟨resumeOp t ops, [(c, if blocked ops t && !scrubsBlocking ops t then .queued else .ok)]⟩
  | .running | .cancelling | .done | .cancelled | .failed => ⟨ops, [(c, .refused)]⟩

/-- CANCEL on a long operation (R453). The pending SUSPEND of a suspending target completes with
STATUS_CANCELLED. -/
def ctlCancel (c : Desc) (t : LongOp) (ops : List LongOp) : OpsOut :=
  if t.cls = .load ∧ t.stage = .activate then ⟨ops, [(c, .refused)]⟩
  else match t.st with
  | .done | .cancelled | .failed => ⟨ops, [(c, .refused)]⟩
  | .cancelling => ⟨mapOp (fun o => { o with waiting := o.waiting ++ [(.cancel, c)] }) t.desc ops, []⟩
  | .queued | .running | .suspending | .suspended =>
    let pend := (t.waiting.filter (fun w => w.1 == .suspend)).map (fun w => (w.2, Status.cancelled))
    ⟨mapOp (fun o => { o with st := .cancelling, auto := false,
                              waiting := o.waiting.filter (fun w => w.1 != .suspend) ++ [(.cancel, c)] }) t.desc ops,
     pend⟩

/-- The restart of a unit holds the operation's work (R455). `arm` says whether a die is of the
active armature. -/
def LongOp.heldBy (arm : Nat → Bool) (u : RUnit) (o : LongOp) : Bool :=
  match o.cls, u with
  | .load, .hub | .grow, .hub | .scrubLp, .hub | .scrubSram, .hub | .recal, .hub => true
  | .grow, .die d => arm d
  | .grow, .cluster c => arm (c / 4)
  | .scrubLp, .die d | .scrubSram, .die d => bitAt o.dies d
  | .scrubSram, .cluster c => bitAt o.dies (c / 4)
  | _, _ => false

/-- A restart of a unit: operations whose work it holds return to their last counted checkpoint, and
an active one rolled back before fails (R455). -/
def rollbackOps (arm : Nat → Bool) (u : RUnit) (ops : List LongOp) : OpsOut :=
  ops.foldl (fun (acc : OpsOut) (o : LongOp) =>
    if !o.heldBy arm u || o.st.terminal then acc
    else if !o.st.active then acc
    else if o.rolled then
      let r := endOp .failed .faultRestart o.desc acc.ops
      ⟨r.ops, acc.done ++ r.done⟩
    else ⟨mapOp (fun x => { x with rolled := true }) o.desc acc.ops, acc.done⟩) ⟨ops, []⟩

/-- Every operation that meets a condition ended in one state. -/
def endWhere (p : LongOp → Bool) (st : OpState) (status : Status) (ops : List LongOp) : OpsOut :=
  ops.foldl (fun (acc : OpsOut) (o : LongOp) =>
    if p o && !o.st.terminal then
      let r := endOp st status o.desc acc.ops
      ⟨r.ops, acc.done ++ r.done⟩
    else acc) ⟨ops, []⟩

/-- The operations of a fenced die (R455): one that `uses` it fails; a maintenance operation loses the die's
units, and ends, or stops where it was asked to, when it has none left or the die was in progress (R457). -/
def fenceOps (uses : LongOp → Bool) (d : Nat) (ops : List LongOp) : OpsOut :=
  let f := endWhere uses .failed .faultRestart ops
  f.ops.foldl (fun (acc : OpsOut) (o : LongOp) =>
    if !o.cls.masked || !bitAt o.dies d || o.st.terminal then acc
    else
      let x := o.dropDie d
      let ops := mapOp (fun y => { x with st := y.st, auto := y.auto }) o.desc acc.ops
      let ended := x.current.isNone && x.todo.all (fun u => u.2 == 0)
      let here := o.current == some d
      let r : OpsOut := match o.st with
        | .running => if ended then endOp .done .ok o.desc ops else ⟨ops, []⟩
        | .suspending => if ended then endOp .done .ok o.desc ops else if here then suspendedOp o.desc ops else ⟨ops, []⟩
        | .cancelling => if here then endOp .cancelled .cancelled o.desc ops else ⟨ops, []⟩
        | .queued | .suspended | .done | .cancelled | .failed => ⟨ops, []⟩
      ⟨r.ops, acc.done ++ r.done⟩) f

/-- A cycle is released: every active operation but the two maintenance tests stops at its next
checkpoint (R451). -/
def yieldOps (ops : List LongOp) : OpsOut :=
  ops.foldl (fun (acc : OpsOut) (o : LongOp) =>
    if o.cls = .selftest ∨ o.cls = .retrain then acc
    else match o.st with
    | .running => ⟨mapOp (fun x => { x with yielded := true }) o.desc acc.ops, acc.done⟩
    | .suspending => let r := suspendedOp o.desc acc.ops; ⟨r.ops, acc.done ++ r.done⟩
    | .cancelling =>
      let r := endOp .cancelled .cancelled o.desc acc.ops
      ⟨mapOp (fun x => { x with late := true }) o.desc r.ops, acc.done ++ r.done⟩
    | .queued | .suspended | .done | .cancelled | .failed => acc) ⟨ops, []⟩

/-- QUERY_OP's result words for a long operation (R450). -/
def LongOp.query (o : LongOp) : Nat × Nat :=
  (o.st.code + 256 * boolNat o.yielded + 512 * boolNat o.auto + 65536 * o.cls.code, o.units + o.lost)

end Sys2Proof.Machine
end

