-- ==== Sys2Proof/Machine/Patina.lean ====
section
/-!
DEFINITION. The always-on domain: calendar, Patina counters and thermal cycles, checkpoints, the
fault log, rollback counters and the ledger's views (R503 to R517, R570).
-/
namespace Sys2Proof.Machine

open Sys2Proof

/-- The counters of R506. -/
structure Counters where
  powerOn : Nat
  commits : Nat
  therm : Nat
  /-- die-major, 9 times 8 bins -/
  hist : List Nat
  stress : List Nat
  /-- rail-major, 16 rails times within and beyond -/
  supply : List Nat
  /-- die-major, 8 dies times types 1 to 8 -/
  corr : List Nat
  corrHub : Nat
  rstCluster : Nat
  rstDie : Nat
  rstHub : Nat
  fences : Nat
  holdCuts : Nat
  proofMm : Nat
  images : Nat
  frTotal : Nat
  frDropped : Nat
  calSteps : Nat
  restores : Nat
  deriving DecidableEq, Repr

/-- All counters 0. -/
def Counters.zero : Counters :=
  ⟨0, 0, 0, List.replicate 72 0, List.replicate 9 0, List.replicate 32 0, List.replicate 64 0, 0, 0, 0, 0, 0, 0, 0, 0,
   0, 0, 0, 0⟩

/-- An unsigned counter of `bits` bits counts up and saturates (R506). -/
def satInc (bits n : Nat) (by_ : Nat := 1) : Nat := min (n + by_) (2 ^ bits - 1)

/-- A ledger read in progress (R516): slots and log positions still to copy, in order; those
overwritten since the start; the bytes copied; how many were skipped. -/
structure LedRead where
  slots : List Nat
  poss : List Nat
  overSlots : List Nat
  overPoss : List Nat
  body : List Byte
  skipped : Nat
  deriving DecidableEq, Repr

/-- The AON domain (R503 to R517). -/
structure Aon where
  /-- VDD_IO or VBAT_AON supplies the domain -/
  powered : Bool
  /-- the retention RAM's CRC fails (R503, R512) -/
  lost : Bool
  ctr : Counters
  /-- the state of R508 -/
  tLo : Option Int
  tHi : Int
  risen : Bool
  /-- the fault-record ring, oldest first, at most 256 -/
  ring : List FaultRec
  calSec : Nat
  calSub : Nat
  calAcc : Nat
  calOk : Bool
  xtal : Bool
  /-- checkpoint slots: copies A and B (R510) -/
  slots : List (Nat × (List Byte × List Byte))
  badSlots : List Nat
  /-- number of the next checkpoint -/
  ckseq : Nat
  /-- POWER_ON_S at the last checkpoint; none before the first -/
  lastCk : Option Nat
  /-- a fault checkpoint is due 120 s after the previous one (R511) -/
  faultCk : Bool
  /-- the NVM fault log: position with copies A and B (R510) -/
  log : List (Nat × (List Byte × List Byte))
  logCount : Nat
  /-- the 24 h window of POWER_ON_S and the records logged in it (R515) -/
  logWin : Nat
  logWinCount : Nat
  /-- INFO and CHECKER records that the next checkpoint logs (R515) -/
  logQueue : List FaultRec
  /-- 16 rollback counters: copies A and B as 8 bytes (R513) -/
  rollback : List (List Byte × List Byte)
  /-- POWER_ON_S of the identity region's last write -/
  stamp : Nat
  /-- the hub die serial (R510, R553) -/
  serial : Nat
  read : Option LedRead
  /-- the copy that view 0 reads (R517), and LED_WIN_ADDR -/
  latch : List Byte
  winAddr : Nat
  deriving DecidableEq, Repr

/-! ### Temperature and wear -/

/-- 2^96, the scale in which the exponential is evaluated. -/
def expScale : Int := (2 ^ 96 : Nat)

/-- e^x for x in units of 2^-96, |x| below 2^3: reduced by 2^8, a 24-term series, then squared back. -/
def expFix (x : Int) : Int :=
  let y := x / 256
  let series := (List.range 24).foldl (fun (p : Int × Int) (k : Nat) =>
    let t := p.2 * y / expScale / ((k : Int) + 1)
    (p.1 + t, t)) (expScale, expScale)
  (List.range 8).foldl (fun (v : Int) (_ : Nat) => v * v / expScale) series.1

/-- AFT[t + 40] (R507): 2^16 times the Arrhenius factor, rounded to nearest. -/
def aft (t : Int) : Nat :=
  let num : Int := 812310 * (100 * t - 5500)
  let den : Int := 32815 * (100 * t + 27315)
  ((expFix (num * expScale / den) * (2 ^ 17 : Nat) + expScale) / (2 * expScale)).toNat

/-- The whole °C of a die's hottest reading in 1/16 °C, clamped (R507). -/
def wholeDeg (r : Int) : Int := max (-40) (min 150 (-(-r / 16)))

/-- The temperature bin (R507). -/
def tempBin (t : Int) : Nat :=
  if t < 0 then 0 else if t < 25 then 1 else if t < 55 then 2 else if t < 75 then 3 else if t < 90 then 4
  else if t < 105 then 5 else if t < 115 then 6 else 7

/-- One die's sample (R507). -/
def Counters.sampleDie (c : Counters) (x : Nat) (r : Int) : Counters :=
  let t := wholeDeg r
  { c with hist := modAt (satInc 32 ·) c.hist (x * 8 + tempBin t),
           stress := modAt (fun s => satInc 64 s (aft t)) c.stress x }

/-- The thermal-cycle rule on one sample T in 1/16 °C (R508). -/
def Aon.thermSample (a : Aon) (t : Int) : Aon :=
  if a.risen then
    let hi := max a.tHi t
    if t ≤ hi - 640 then
      { a with ctr := { a.ctr with therm := satInc 32 a.ctr.therm }, risen := false, tLo := some t, tHi := hi }
    else { a with tHi := hi }
  else
    let lo := min (a.tLo.getD t) t
    if lo + 640 ≤ t then { a with tLo := some lo, risen := true, tHi := t } else { a with tLo := some lo }

/-! ### The calendar -/

/-- One TCLK period of the calendar: the accumulator of R504 (log entry 14). -/
def Aon.calTick (a : Aon) : Aon :=
  if !a.powered then a
  else
    let acc := a.calAcc + 32768
    if acc < 100000000 then { a with calAcc := acc }
    else if a.calSub + 1 < 32768 then { a with calAcc := acc - 100000000, calSub := a.calSub + 1 }
    else { a with calAcc := acc - 100000000, calSub := 0, calSec := (a.calSec + 1) % 2 ^ 64 }

/-- The calendar set to a value that stood `late` ticks ago (R505). -/
def Aon.calSet (a : Aon) (sec sub : Nat) (late : Int) : Aon :=
  let units : Int := ((sec * 32768 + sub : Nat) : Int) + late * 32768 / 100000000
  let u := (units % ((2 ^ 64 * 32768 : Nat) : Int)).toNat
  { a with calSec := u / 32768, calSub := u % 32768, calOk := true,
           ctr := { a.ctr with calSteps := satInc 16 a.ctr.calSteps } }

/-! ### Checkpoints -/

/-- Why a checkpoint is written (R509). -/
inductive CkReason where
  | timer | shutdown | fault | restore | live
  deriving DecidableEq, Repr

/-- REASON's code (R509). -/
def CkReason.code : CkReason → Nat
  | .timer => 1 | .shutdown => 2 | .fault => 3 | .restore => 4 | .live => 0xFF

/-- The 896 bytes of a checkpoint record (R509). -/
def Aon.record (a : Aon) (reason : CkReason) (slot ckseq : Nat) : List Byte :=
  let c := a.ctr
  let us (xs : List Nat) : List Byte := xs.flatMap (leBytes 4)
  withCrc (padTo 892 (leBytes 4 0x414E5450 ++ leBytes 2 1 ++ leBytes 1 slot ++ leBytes 1 reason.code ++ leBytes 8 ckseq
    ++ leBytes 8 a.calSec ++ leBytes 2 (a.calSub + 32768 * boolNat a.calOk) ++ leBytes 2 c.restores ++ zeroBytes 4
    ++ leBytes 8 c.powerOn ++ leBytes 8 c.commits ++ leBytes 4 c.therm ++ leBytes 4 c.images ++ leBytes 4 c.rstCluster
    ++ leBytes 4 c.rstDie ++ leBytes 4 c.rstHub ++ leBytes 4 c.fences ++ leBytes 4 c.holdCuts ++ leBytes 4 c.proofMm
    ++ leBytes 8 c.frTotal ++ leBytes 4 c.frDropped ++ leBytes 2 c.calSteps ++ zeroBytes 2
    ++ us c.hist ++ c.stress.flatMap (leBytes 8) ++ us c.supply ++ us c.corr ++ leBytes 4 c.corrHub))

/-- The counters that a checkpoint record holds (R509, R512). -/
def Counters.ofRecord (b : List Byte) : Counters :=
  let us (off n : Nat) : List Nat := (List.range n).map (fun i => getLe b (off + 4 * i) 4)
  { powerOn := getLe b 32 8, commits := getLe b 40 8, therm := getLe b 48 4, images := getLe b 52 4,
    rstCluster := getLe b 56 4, rstDie := getLe b 60 4, rstHub := getLe b 64 4, fences := getLe b 68 4,
    holdCuts := getLe b 72 4, proofMm := getLe b 76 4, frTotal := getLe b 80 8, frDropped := getLe b 88 4,
    calSteps := getLe b 92 2, restores := getLe b 26 2, hist := us 96 72,
    stress := (List.range 9).map (fun i => getLe b (384 + 8 * i) 8), supply := us 456 32, corr := us 584 64,
    corrHub := getLe b 840 4 }

/-- A copy of a checkpoint that counts: CK_CRC and LMAGIC valid (R512). -/
def ckValid (b : List Byte) : Bool := b.length == 896 && crcOk 896 b && getLe b 0 4 == 0x414E5450

/-- The copy of a slot that is used: A, else B (R512, R516). -/
def validCopy (ok : List Byte → Bool) (c : List Byte × List Byte) : Option (List Byte) :=
  if ok c.1 then some c.1 else if ok c.2 then some c.2 else none

/-- The newest checkpoint with a valid copy (R512). -/
def Aon.newest (a : Aon) : Option (List Byte) :=
  (a.slots.filterMap (fun s => validCopy ckValid s.2)).foldl (fun best b =>
    match best with
    | none => some b
    | some x => if getLe x 8 8 < getLe b 8 8 then some b else some x) none

/-- The first slot, from `k` upward, that is not marked bad (R511). -/
def Aon.goodSlot (a : Aon) (k : Nat) : Nat :=
  (((List.range 128).map (fun i => (k + i) % 128)).find? (fun s => !a.badSlots.contains s)).getD (k % 128)

/-- One record written to the NVM log (R515). -/
def Aon.logOne (a : Aon) (r : FaultRec) : Aon :=
  let win := a.ctr.powerOn / 86400
  let n := if a.logWin = win then a.logWinCount else 0
  if r.cls.code < 2 ∧ 4896 ≤ n then
    { a with logWin := win, logWinCount := n, ctr := { a.ctr with frDropped := satInc 32 a.ctr.frDropped } }
  else
    let p := a.logCount % 448
    { a with logWin := win, logWinCount := n + 1, logCount := a.logCount + 1, log := insertKey p (r.bytes, r.bytes) a.log,
             read := a.read.map (fun l => { l with overPoss := p :: l.overPoss }) }

/-- A checkpoint written (R511): the waiting log records first, then the slot; `fails` slots in turn
fail both read-backs and are marked bad in the identity region, whose last write that is (R513). The 600 s
count restarts. -/
def Aon.checkpoint (a : Aon) (reason : CkReason) (fails : Nat := 0) : Aon :=
  let a := a.logQueue.foldl Aon.logOne { a with logQueue := [] }
  let a := (List.range fails).foldl (fun (x : Aon) (_ : Nat) =>
    { x with badSlots := x.badSlots ++ [x.goodSlot (x.ckseq % 128)], stamp := x.ctr.powerOn }) a
  let k := a.goodSlot (a.ckseq % 128)
  let r := a.record reason k a.ckseq
  { a with slots := insertKey k (r, r) a.slots, ckseq := a.ckseq + 1, lastCk := some a.ctr.powerOn, faultCk := false,
           read := a.read.map (fun l => { l with overSlots := k :: l.overSlots }) }

/-- Seconds since the last checkpoint (R511). -/
def Aon.sinceCk (a : Aon) : Nat := match a.lastCk with | some t => a.ctr.powerOn - t | none => a.ctr.powerOn

/-- A fault record of class CYCLE or above asks for a checkpoint: at once, or 120 s after the
previous one (R511). -/
def Aon.faultCheckpoint (a : Aon) : Aon :=
  if a.lastCk.isNone ∨ 120 ≤ a.sinceCk then a.checkpoint .fault else { a with faultCk := true }

/-- A fault numbered and entered in the AON ring and the log (R476, R477, R515). -/
def Aon.enter (a : Aon) (f : Fault0) (merged time : Nat) : Aon × FaultRec :=
  let n := a.ctr.frTotal + 1
  let r : FaultRec := ⟨f.code, f.cls, f.loc, f.d0 % 2 ^ 32, f.d1 % 2 ^ 32, merged, time, n % 2 ^ 32⟩
  let c := { a.ctr with
    frTotal := satInc 64 a.ctr.frTotal
    fences := if f.code = .dieFenced ∧ f.d0 ≠ 3 then satInc 32 a.ctr.fences else a.ctr.fences
    holdCuts := if f.code = .holdCut then satInc 32 a.ctr.holdCuts else a.ctr.holdCuts }
  let ring := a.ring ++ [r]
  let a := { a with ctr := c, ring := ring.drop (ring.length - 256) }
  if 2 ≤ f.cls.code then ((a.logOne r).faultCheckpoint, r) else ({ a with logQueue := a.logQueue ++ [r] }, r)

/-! ### Rollback counters -/

/-- A copy's value, where its CRC is valid (R513). -/
def rbCopy (b : List Byte) : Option Nat := if b.length = 8 ∧ crcOk 8 b then some (getLe b 0 4) else none

/-- A rollback counter as read: the larger valid copy, or all ones (R513). -/
def Aon.rbRead (a : Aon) (k : Nat) : Nat :=
  let c := nth ([], []) a.rollback k
  match rbCopy c.1, rbCopy c.2 with
  | some x, some y => max x y
  | some x, none => x
  | none, some y => y
  | none, none => 0xFFFFFFFF

/-- A rollback counter written, copy A then copy B (R299, R513). -/
def Aon.rbWrite (a : Aon) (k v : Nat) : Aon :=
  let b := withCrc (leBytes 4 v)
  { a with rollback := setAt a.rollback k (b, b), stamp := a.ctr.powerOn }

/-! ### Power-up -/

/-- Power-up of the AON domain (R512): the counters go on from an intact retention RAM; otherwise
from the newest valid checkpoint, or from 0. -/
def Aon.powerUp (a : Aon) : Aon :=
  let a := { a with powered := true }
  if !a.lost then a
  else
    let a := { a with lost := false, tLo := none, tHi := 0, risen := false, ring := [], logQueue := [], faultCk := false,
                      read := none, lastCk := none }
    match a.newest with
    | some b =>
      let c := Counters.ofRecord b
      let a := { a with ctr := { c with commits := satInc 64 c.commits (2 ^ 24), restores := satInc 16 c.restores },
                        ckseq := getLe b 8 8 + 1 }
      a.checkpoint .restore
    | none => ({ a with ctr := { Counters.zero with restores := 1 }, ckseq := 0 } : Aon).checkpoint .restore

/-! ### The ledger's views -/

/-- The summary of R516: the present counters as one record. -/
def Aon.summary (a : Aon) : List Byte := a.record .live 0 (a.ckseq - 1)

/-- The AON ring, oldest first, then zeros (R516). -/
def Aon.ringBytes (a : Aon) : List Byte := padTo 8192 (a.ring.flatMap FaultRec.bytes)

/-- The entry of the ring whose RSEQ mod 256 is `i`, as 32 bytes (R495, R570). -/
def Aon.ringAt (a : Aon) (i : Nat) : List Byte :=
  match a.ring.find? (fun r => r.rseq % 256 == i) with
  | some r => r.bytes
  | none => zeroBytes 32

/-- A log copy that counts: its FR_CRC valid. -/
def frValid (b : List Byte) : Bool := b.length == 32 && crcOk 32 b

/-- The slots with a valid checkpoint, in ascending CKSEQ, and the log positions with a valid record,
in ascending RSEQ (R516). -/
def Aon.ledStart (a : Aon) : LedRead :=
  let ss := a.slots.filterMap (fun s => (validCopy ckValid s.2).map (fun b => (getLe b 8 8, s.1)))
  let ps := a.log.filterMap (fun p => (validCopy frValid p.2).map (fun b => (getLe b 24 4, p.1)))
  let ord (xs : List (Nat × Nat)) : List Nat := (sortBy (fun x y => x.1 ≤ y.1) xs).map (·.2)
  ⟨ord ss, ord ps, [], [], [], 0⟩

/-- The part's length (R516). -/
def ledLength (part : Nat) : Nat := if part = 0 then 896 else if part = 1 then 129152 else 8192

/-- Entries copied until the body holds `n` bytes: checkpoints, then zeros up to 128 of them, then
fault records and zeros up to 448; an overwritten entry is written as zeros and counted (R516). -/
def ledExtend (a : Aon) (n : Nat) : Nat → LedRead → LedRead
  | 0, l => l
  | f + 1, l =>
    if n ≤ l.body.length then l
    else if l.body.length < 128 * 896 then
      match l.slots with
      | [] => ledExtend a n f { l with body := l.body ++ zeroBytes 896 }
      | k :: r =>
        let skip := l.overSlots.contains k
        let b := if skip then none else (lookupKey k a.slots).bind (validCopy ckValid)
        ledExtend a n f { l with slots := r, body := l.body ++ b.getD (zeroBytes 896), skipped := l.skipped + boolNat skip }
    else
      match l.poss with
      | [] => { l with body := l.body ++ zeroBytes 32 } |> ledExtend a n f
      | k :: r =>
        let skip := l.overPoss.contains k
        let b := if skip then none else (lookupKey k a.log).bind (validCopy frValid)
        ledExtend a n f { l with poss := r, body := l.body ++ b.getD (zeroBytes 32), skipped := l.skipped + boolNat skip }

/-- The rollback counters as u32 (R516). -/
def Aon.rbBytes (a : Aon) : List Byte := (List.range 16).flatMap (fun k => leBytes 4 (a.rbRead k))

/-- The full-history header (R516). -/
def ledHeader (a : Aon) (start skipped : Nat) : List Byte :=
  let nck := (a.slots.filter (fun s => (validCopy ckValid s.2).isSome)).length
  let nfr := (a.log.filter (fun p => (validCopy frValid p.2).isSome)).length
  withCrc (padTo 60 (leBytes 4 0x414E5450 ++ leBytes 2 1 ++ leBytes 2 1 ++ leBytes 8 a.serial ++ leBytes 2 nck
    ++ leBytes 2 nfr ++ leBytes 2 skipped ++ zeroBytes 2 ++ leBytes 8 start))

/-- One word of a ledger view (R570): 0 past the view's end. -/
def Aon.viewWord (a : Aon) (view i : Nat) : Nat :=
  match view with
  | 0 => getLe a.latch (4 * i) 4
  | 1 => getLe (a.ringAt (i / 8)) (4 * (i % 8)) 4
  | 2 => if i < 16 then a.rbRead i else 0
  | _ => 0

/-- Words of a view (R570). -/
def viewLen (view : Nat) : Nat := if view = 0 then 224 else if view = 1 then 2048 else if view = 2 then 16 else 0

/-- The AON domain as it stands at the model's reset: intact and unused (log entry 14). -/
def Aon.fresh : Aon :=
  ⟨true, false, Counters.zero, none, 0, false, [], 0, 0, 0, false, true, [], [], 0, none, false, [], 0, 0, 0, [],
   List.replicate 16 (withCrc (leBytes 4 0), withCrc (leBytes 4 0)), 0, 0, none, [], 0⟩

end Sys2Proof.Machine
end

