-- ==== Sys2Proof/Machine/StateTypes.lean ====
section
/-!
DEFINITION. The parts of the block's state: start-up and dies, links, host interface, registers, time,
clocks and power, safety management interface, image, planning cycle, engines.
-/
namespace Sys2Proof.Machine

open Sys2Proof

/-- How far the hub's start-up has come (R398, R405). -/
inductive BootSt where
  | held | starting | ready | fatal
  deriving DecidableEq, Repr

/-- The hub's start-up state, fuses and key slots (R298, R398, R553, R577). -/
structure Boot where
  st : BootSt
  /-- PWRGD_IN high and RESET_IN# released as filtered (R583) -/
  pwrgd : Bool
  resetHeld : Bool
  stepping : Nat
  fuseMask : Nat
  sigSlots : List (Option SigSlot)
  encSlots : List (Option (List Byte))
  sris : Bool
  derated : Bool
  /-- the firmware that runs is copy A, B (R490) -/
  fwUsed : Option Nat
  /-- PCIe Subsystem Vendor ID and Subsystem ID (R411, R589) -/
  ssvid : Nat
  ssid : Nat
  /-- device time of TR (R398) -/
  tr : Option Nat
  /-- the reference capacity's LPCAP, once R404 has decided it -/
  lpcap : Option Nat
  deriving DecidableEq, Repr

/-- Why a die is out of service beside a fence: a maintenance operation or a restart (R36, R408). -/
inductive OutOf where
  | service | test | retrain | restart | standby
  deriving DecidableEq, Repr

/-- A planning die as the hub sees it (R24, R398 to R409). -/
structure DieSt where
  /-- PD_PWR_ENn (R399) -/
  enable : Bool
  /-- reset released -/
  running : Bool
  healthy : Bool
  fenced : Option FenceCause
  /-- serial recorded at start-up (R402) -/
  serial : Option Nat
  presence : Bool
  /-- the last training report received (R400) -/
  report : Option TrainReport
  out : OutOf
  /-- ready to rejoin at the next cycle boundary (R408, R457) -/
  rejoin : Bool
  /-- the die takes part in the cycle boundary's choice: healthy and in service (R36) -/
  inService : Bool
  /-- hub-link losses since the last commit (R392) -/
  hubLosses : Nat
  /-- a warm restart trains the hub link in full (R489) -/
  fullTrain : Bool
  /-- the next Enlarge phase rebuilds every tile: the die has rejoined (R113) -/
  allTiles : Bool
  deriving DecidableEq, Repr

/-- A die before it is enabled. -/
def DieSt.off : DieSt := ⟨false, false, false, none, none, false, none, .service, false, false, 0, false, false⟩

/-- Dies and links of the package: hub links 0 to 7, ring links 8 to 15 (R389). -/
structure Package where
  dies : List DieSt
  links : List Link
  /-- ring-link mask (R555) -/
  ringMask : Nat
  deriving DecidableEq, Repr

/-- STATE of RING_TBL_LOAD (R557). -/
inductive TblSt where
  | none_ | loading | loaded | error
  deriving DecidableEq, Repr

/-- The MSI-X table's part that the device acts on: mask bits and pending bits, by vector, as the
vectors not masked and those pending (R436). -/
structure Msix where
  unmasked : List Nat
  pend : List Nat
  deriving DecidableEq, Repr

/-- A message or store that the device has sent towards the host, newest last; the model's own
record of what left the block (log entry 5). -/
inductive Sent where
  | msix (vector : Nat)
  | heartbeat (level : Bool)
  deriving DecidableEq, Repr

/-- The PCIe function and the ring engine (R411 to R445, R551). -/
structure HostIf where
  /-- host memory as the device sees it (log entry 3) -/
  mem : Memory
  /-- ranges of host memory whose reads fail (R442) -/
  fails : List (Nat × Nat)
  linkUp : Bool
  perst : Bool
  d3hot : Bool
  tblBase : Nat
  tblCount : Nat
  attnBase : Nat
  attnLatched : Nat
  /-- RING_TBL_BASE as the last load took it (R444) -/
  tblLatched : Nat
  attnPoll : Nat
  tblSt : TblSt
  lcause : Nat
  lring : Nat
  rings : List Ring
  ringErr : Bool
  attnFail : Nat
  /-- group counters last seen (R420) -/
  attnSeen : List Nat
  /-- the next group of the rotation (R420) -/
  rotate : Nat
  /-- poll period in µs and device time of the last find (R421) -/
  period : Nat
  lastFind : Nat
  /-- the ring number at which the round robin goes on, by class (R423) -/
  turn : List Nat
  /-- fetched descriptors held on their rings (R424) -/
  held : List Desc
  /-- started descriptors not yet served by their command -/
  started : List Desc
  /-- started descriptors whose completion is not yet written, in start order (R426, R448) -/
  waiting : List Desc
  /-- completions due, not yet written (R435) -/
  due : List Compl
  msix : Msix
  sent : List Sent
  /-- fault records raised while the event ring could not be written (R439) -/
  evLost : Nat
  deriving DecidableEq, Repr

/-- A PMBus target's registers (R567). -/
structure PmbTgt where
  tgt : Nat
  vi : Nat
  ts : Nat
  err : Nat
  deriving DecidableEq, Repr

/-- The BAR0 registers that no other part of the state holds, with the pair latches and staging
registers (R545 to R570). -/
structure Regs where
  rank : List Nat
  hold : List Nat
  stalePeriod : Nat
  finAction : Nat
  lock : Bool
  limit : Nat
  thrHi : Nat
  thrLo : Nat
  pmbCfg : Nat
  pmb : List PmbTgt
  syncCfg : Nat
  pinf : List Nat
  /-- HI latches of the six pairs, in the order of R547, and the CAL_SUB latch -/
  hiLatch : List Nat
  subLatch : Nat
  /-- staging registers of RING_TBL_BASE and ATTN_BASE -/
  staging : List Nat
  /-- BAR0 writes held during a hub core restart: offset, byte enables, value (R552) -/
  heldWrites : List (Nat × Nat × Nat)
  /-- the value that the last register read returned -/
  lastRead : Nat
  deriving DecidableEq, Repr

/-- A correction being slewed: what remains, signed, TCLK periods since its last step, and whether a SET_TIME asked
for it (R338, R501, R502). -/
structure Slew where
  left : Int
  count : Nat
  set : Bool
  deriving DecidableEq, Repr

/-- Device time, the SCLK counter and SYNC_IN (R499 to R502, R568, R585). -/
structure TimeBase where
  now : Nat
  sclk : Nat
  slew : Option Slew
  /-- steps that wait for the first moment without a cycle, with their descriptors -/
  steps : List (Int × Desc)
  syncE : Int
  syncD : Nat
  syncFar : Nat
  syncIgn : Nat
  /-- SCLK count of the last accepted edge -/
  lastEdge : Option Nat
  stuck : Bool
  freeEdge : Bool
  deriving DecidableEq, Repr

/-- The four power states (R535). -/
inductive PState where
  | active | idle | standby | off
  deriving DecidableEq, Repr

/-- A power state's code (R535). -/
def PState.code : PState → Nat
  | .active => 0 | .idle => 1 | .standby => 2 | .off => 3

/-- The power state that a code names (R535). -/
def PState.ofCode (n : Nat) : PState :=
  if n = 0 then .active else if n = 1 then .idle else if n = 2 then .standby else .off

/-- Clocks, throttling and power states (R521 to R543). -/
structure ClockPower where
  pll : Bool
  step : Nat
  target : Nat
  cool : Nat
  calm : Nat
  floorHot : Nat
  /-- the last evaluation was hot (R528) -/
  hot : Bool
  alert : Bool
  tNow : Int
  tSite : Nat
  tDie : Nat
  req : PState
  reached : PState
  /-- the transition under way, and the latest request latched in it (R535) -/
  busy : Option PState
  latched : Option PState
  /-- the request then to go on with, from STANDBY to IDLE (R535) -/
  after : Option PState
  /-- the transition's own work is done, and only its end is awaited (R535) -/
  acted : Bool
  discarded : Nat
  /-- cluster clocks run -/
  clocksOn : Bool
  deriving DecidableEq, Repr

/-- The safety management interface (R493 to R497). -/
structure Smi where
  /-- the response that the next frame returns: RSTAT, ADDR, DATA -/
  rstat : Nat
  addr : Nat
  data : Nat
  /-- the response that the last frame returned on MISO -/
  miso : List Byte
  crcErrs : Nat
  framingErrs : Nat
  /-- consecutive frames in error (R497) -/
  run : Nat
  /-- COMMIT_SEQ's HI latch (R495) -/
  hiLatch : Nat
  deriving DecidableEq, Repr

/-- A parameter patch accepted and waiting for its snapshot (R322). -/
structure Patch where
  entries : List PatchEntry
  gen : Nat
  deriving DecidableEq, Repr

/-- A load's staged image, told by its descriptor (R301). -/
structure Staged where
  desc : Desc
  bytes : List Byte
  img : Option Image
  /-- ready to activate -/
  ready : Bool
  deriving DecidableEq, Repr

/-- The image, its patches and what is derived from it (R303, R322, R143). -/
structure ImgState where
  active : Option Image
  /-- parameter values in force (R320, R322) -/
  params : List Param
  patches : List Patch
  /-- patch generation (R322) -/
  gen : Nat
  staged : List Staged
  /-- armature in force, once a snapshot or activation chose it (R310) -/
  arm : Option Nat
  /-- the dies that hold its tables, in slot order (R308, R310) -/
  used : List Nat
  /-- roadmap: region, node count, edge static costs (R143, R204) -/
  region : Option RmRegion
  nodes : Nat
  estat : List EStat
  deriving DecidableEq, Repr

/-- A list of the merge tree as the hub holds it: armature entry, pass, source die (8: the merged
hub list) (R230). -/
structure HubList where
  entry : Nat
  pass : Nat
  die : Nat
  list : SList
  deriving DecidableEq, Repr

/-- A trajectory as KEY handed it over (R262): its core, the solve order's KIND, the trajectory, TSAMPLE
of its re-check, its cost record and the row entry's value. -/
structure Emitted where
  core : Nat
  cand : Nat
  kind : Nat
  ord : Nat
  traj : Traj
  tsample : Nat
  cost : CostRec
  raw : Nat
  deriving DecidableEq, Repr

/-- A solve order given out in this cycle (R235). -/
structure Ordered where
  core : Nat
  order : SolveOrder
  deriving DecidableEq, Repr

/-- The outcome of a retouch cycle's search (R207 to R209). -/
inductive Splice where
  | notBlocked | spliced (kb v : Nat) | noDetour (kb : Nat) | tooClose (kb : Nat)
  deriving DecidableEq, Repr

/-- The cycle in progress (R27). -/
structure Cycle where
  desc : Desc
  retouch : Bool
  /-- 1 to 8 -/
  phase : Nat
  arm : Nat
  /-- dies of the cycle, ascending: slot k of the armature runs on the k-th (R308) -/
  dies : List Nat
  degraded : Bool
  step : Nat
  release : Nat
  releaseSclk : Nat
  /-- SCLK count at the present phase's release (R470) -/
  phaseSclk : Nat
  /-- cores, by global number, that have reported the end of their share of the phase (R27, R314) -/
  passed : List Nat
  lists : List HubList
  orders : List Ordered
  emits : List Emitted
  costs : List CostRec
  counts : CycleCounts
  /-- the candidates counted as void (R129, R293) -/
  voided : List Nat
  /-- a selected candidate was dropped by a non-finite solve (R37) -/
  nonfinite : Bool
  /-- the deadline of OPT's solves, fixed at phase 3's release (R253) -/
  optDl : Nat
  drops : Nat × Nat
  /-- OPT candidates that a failed solve makes void for the cycle (R152) -/
  optVoid : List Nat
  splice : Option Splice
  /-- the spliced pose sequence at 10 ms steps (R209) -/
  path : List Sample
  proofPlan : ProofResult
  proofSafe : ProofResult
  /-- the sticky binary32 flags of each proof (R52) -/
  proofFlags : FFlags × FFlags
  /-- trace records written and dropped (R434) -/
  traced : Nat
  traceLost : Nat
  /-- the parameter values of this cycle's snapshot (R322) -/
  params : List Param
  deriving DecidableEq, Repr

/-- What the hub keeps between cycles (R28, R274, R288). -/
structure CycSt where
  cur : Option Cycle
  queue : List Desc
  /-- mismatches of the last cycles that ran proof, newest first (R274) -/
  history : List Bool
  /-- held copies of the last commit's plan and safelight plan records, with PLAN_PG's bank (R288) -/
  held : Option (List Byte × List Byte)
  lastCommit : Option Nat
  /-- the last release (R457) -/
  lastRelease : Option Nat
  /-- phase epoch of the hub (R341) -/
  epoch : Nat
  /-- the hub's own stale drops with the first one's epoch (R344) -/
  stale : Nat × Nat
  /-- streams whose world mirror no die yielded intact after a hub core restart (R491) -/
  lost : List Nat
  /-- dies whose configuration space misses the tiles that an abandoned cycle's snapshot marked: they build every
  tile in their next cycle (R112) -/
  unbuilt : List Nat
  deriving DecidableEq, Repr

/-- A solution that a cluster's QE made in this cycle, of GEO or of TS: what TS and EMIT need beside the
solution's record in memory (R240, R241, R263). -/
structure Solved where
  cluster : Nat
  geo : Option GeoSol
  ts : Option TsSol
  deriving DecidableEq, Repr

/-- A candidate that a core's PE has written into an output ring (R128, R156): the ring's scratchpad
offset ÷ 64 and the slot. -/
structure RingCand where
  core : Nat
  cand : Nat
  ring : Nat
  slot : Nat
  /-- retired as void by the sequencer (R129, R316) -/
  void : Bool
  /-- retired by the sequencer: the slot is free (R178) -/
  retired : Bool
  deriving DecidableEq, Repr

/-- A stream command under way at the head of its queue (R156, R178, R193): candidates begun, candidates
ended, and what its result counts. -/
structure StreamRun where
  core : Nat
  engine : Engine
  next : Nat
  done : Nat
  /-- CHECK_STREAM: the verdicts completed (R182) -/
  verdicts : List VRec
  voids : Nat
  unbound : Nat
  sat : Bool
  clay : Bool
  clim : Bool
  deriving DecidableEq, Repr

/-- A lane of a collision engine in CHECK_STREAM (R177, R178): the candidate it has taken, the verdict it
has reached and the verdict-cache entry to be written when the candidate retires (R202). -/
structure Lane where
  core : Nat
  lane : Nat
  cand : Nat
  verdict : Option VRec
  entry : Option (List Byte)
  deriving DecidableEq, Repr

/-- Engines: queues, flags under way, solves held, streams under way (R128, R243, R314, R316). -/
structure EngSt where
  queues : List EngQueue
  flags : List EngFlag
  solved : List Solved
  runs : List StreamRun
  lanes : List Lane
  /-- candidates in the pose engines' output rings (R128, R178, R197) -/
  stream : List RingCand
  /-- verdict of each CHECK_TRAJ of the cycle by `trajKey` (R180, R261) -/
  trajs : List (Nat × VRec)
  /-- candidates, with their cores, whose path stations saturated: SAT stays in the candidate's record (R42) -/
  pathSat : List (Nat × Nat)
  /-- the core, numbered in its cluster, that holds the grant of a cluster's QE (R252, R371) -/
  qeOwners : List (Nat × Nat)
  deriving DecidableEq, Repr

end Sys2Proof.Machine
end

