-- ==== Sys2Proof/Machine/State.lean ====
section
/-!
DEFINITION. The state of the block as plain data, its value at reset, and the reasons a command can
stop.
-/
namespace Sys2Proof.Machine

open Sys2Proof

/-- Everything the block holds, with the queue of waiting commands. -/
structure State where
  /-- commands that wait, first in first out -/
  pending : List Instr
  /-- counter of the free values taken (log entry 1) -/
  free : Nat
  boot : Boot
  pkg : Package
  host : HostIf
  regs : Regs
  time : TimeBase
  clk : ClockPower
  saf : Safety
  aon : Aon
  smi : Smi
  world : World
  img : ImgState
  cyc : CycSt
  ops : List LongOp
  /-- memories of the dies and the hub by device address -/
  mem : Memory
  coh : CohState
  eng : EngSt
  /-- dispatch units and sequencers by die -/
  du : List DuState
  /-- messages under way, oldest first (R341) -/
  msgs : List Msg
  deriving DecidableEq, Repr

/-- Why the block stops. Safe: the specification gives no effect there. -/
inductive Fault where
  /-- Raised by a meaning whose command carries operands that its row cannot carry: a record of
  another length, an engine command word of another operation or one that no image can hold, a
  command for a unit that does not exist. Safe. -/
  | malformed
  deriving DecidableEq, Repr

/-- Why a command has no meaning. -/
inductive Refusal where
  /-- Raised by the dispatcher for a command that the model does not give a meaning yet. Safe. -/
  | notModelled (mnemonic : String)
  deriving DecidableEq, Repr

/-- Fuses and key slots as the model takes them: stepping A2, every die enabled, no key provisioned
(R553, log entry 13). -/
def Boot.reset : Boot :=
  ⟨.held, false, true, 0x12, 0xFF, List.replicate 4 none, List.replicate 8 none, false, false, none, 0x1F3C, 0x8800, none, none⟩

/-- Every rail off, every link down (R530, R399). -/
def Package.reset : Package := ⟨List.replicate 8 DieSt.off, List.replicate 16 Link.reset, 0⟩

/-- The PCIe function and ring engine after a power-on reset (R551, R556 to R558). -/
def HostIf.reset : HostIf :=
  ⟨[], [], false, false, false, 0, 0, 0, 0, 0, 0x00641401, .none_, 0, 0, [], false, 0, List.replicate 512 0, 0, 20, 0,
   [0, 0, 0, 0], [], [], [], [], ⟨[], []⟩, [], 0⟩

/-- The registers' Reset column (R559 to R569). -/
def Regs.reset : Regs :=
  ⟨[0x0000CDEF, 0x89ABCDEF, 0x01234567, 0x00ABCDEF, 0x00ABCDEF, 0x0000CDEF], [20000, 2000, 500, 10000, 2000],
   20000, 0, false, 3, 0x0780, 0x06E0, 0, List.replicate 16 ⟨0, 0, 0, 0⟩, 1000000 * 4096,
   [10 + 65536 * 100, 10, 20 + 65536 * 100, 10, 100 + 65536 * 1000], List.replicate 6 0, 0, [0, 0], [], 0⟩

/-- The registers at reset, the HI latches of the pairs HUB_SERIAL and CAL_SEC at those pairs' values
(R547). -/
def Regs.latched (a : Aon) : Regs :=
  { Regs.reset with hiLatch := [a.serial / 2 ^ 32, 0, 0, 0, 0, a.calSec / 2 ^ 32]
                    subLatch := a.calSub + 2 ^ 31 * boolNat a.calOk }

/-- Device time 0, no correction, no edge seen (R499, R568). -/
def TimeBase.reset : TimeBase := ⟨0, 0, none, [], 0, 0, 0, 0, none, false, false⟩

/-- ECLK step 0, throttle controller at its start, power state ACTIVE (R526, R530, R565). -/
def ClockPower.reset : ClockPower :=
  ⟨false, 0, 0, 0, 0, 0, false, false, 0, 0, 0, .active, .active, none, none, none, false, 0, true⟩

/-- The first response is NO_PREV; nothing counted (R494, R495). -/
def Smi.reset : Smi := ⟨0x06, 0, 0, [], 0, 0, 0, 0⟩

/-- No world (R101). -/
def World.reset : World :=
  ⟨0, 0, List.replicate 16 ⟨[], none⟩, [], [], [], [], 0, 0, none, 0, List.replicate 256 0, true, 0, 0, []⟩

/-- No image (R303). -/
def ImgState.reset : ImgState := ⟨none, [], [], 0, [], none, [], none, 0, []⟩

/-- No cycle, no held plan (R287, R288). -/
def CycSt.reset : CycSt := ⟨none, [], [], none, none, none, 0, (0, 0), [], []⟩

/-- No engine command, flag, solution or list. -/
def EngSt.reset : EngSt := ⟨[], [], [], [], [], [], [], [], []⟩

/-- The block in a power-on reset that holds the AON domain `a` (R530, R531). -/
def State.porWith (a : Aon) (boot : Boot) : State :=
  { pending := [], free := 0, boot := boot, pkg := Package.reset, host := HostIf.reset, regs := Regs.latched a,
    time := TimeBase.reset, clk := ClockPower.reset, saf := Safety.reset (a.ctr.frTotal % 2 ^ 32), aon := a,
    smi := Smi.reset, world := World.reset, img := ImgState.reset, cyc := CycSt.reset, ops := [], mem := [],
    coh := CohState.empty, eng := EngSt.reset, du := List.replicate 8 DuState.empty, msgs := [] }

/-- The block right after reset: in power-on reset, before T0 (R530); an unused AON domain (log
entry 14). -/
def State.reset : State := State.porWith Aon.fresh Boot.reset

end Sys2Proof.Machine
end

