-- ==== Sys2Proof/Machine/Ops.lean ====
section
/-!
DEFINITION. The named operations over the whole state: memories, host writes, completions, MSI-X,
fault records, the end of a cycle, fences and the reaction to a fault.
-/
namespace Sys2Proof.Machine

open Sys2Proof

/-- The outcome of a meaning. -/
abbrev Out := Host.Outcome State Fault Refusal

/-! ### Free values -/

/-- The next free value (log entry 1). -/
def State.freeVal (s : State) : BitVec 64 := Config.freeWord s.free
/-- `n` free bytes, from the free values that follow. -/
def State.freeBytes (s : State) (n : Nat) : List Byte :=
  (List.range n).map (fun i => BitVec.ofNat 8 (Config.freeWord (s.free + i)).toNat)
/-- `n` free values used up. -/
def State.spend (s : State) (n : Nat) : State := { s with free := s.free + n }

/-! ### Dies, image, armature -/

/-- A die's record. -/
def State.die (s : State) (d : Nat) : DieSt := nth DieSt.off s.pkg.dies d
/-- The lowest-numbered healthy die beside `d`: the source of a restoring copy (R101). -/
def State.restoreFrom (s : State) (d : Nat) : Option Nat :=
  (List.range 8).find? (fun x => x != d && (s.die x).healthy && (s.die x).running)

/-- A die's record changed. -/
def State.mapDie (s : State) (d : Nat) (f : DieSt → DieSt) : State :=
  { s with pkg := { s.pkg with dies := modAt f s.pkg.dies d } }
/-- A die's dispatch unit. -/
def State.duOf (s : State) (d : Nat) : DuState := nth DuState.empty s.du d
/-- A die's dispatch unit changed. -/
def State.mapDu (s : State) (d : Nat) (f : DuState → DuState) : State := { s with du := modAt f s.du d }

/-- The healthy dies, ascending (R404). -/
def State.healthy (s : State) : List Nat := (List.range 8).filter (fun d => (s.die d).healthy)
/-- The dies in service, ascending: slot k of the armature is the k-th of them (R30, R308, R310). -/
def State.serving (s : State) : List Nat := (List.range 8).filter (fun d => (s.die d).healthy && (s.die d).inService)

/-- The armature in force (R310). -/
def State.armature (s : State) : Option Armature := do (← s.img.active).arms[← s.img.arm]?

/-- Some armature of the active image fits `n` dies in service, two dies at least being healthy (R36, R310,
R323). -/
def State.fits (s : State) (n : Nat) : Bool :=
  match s.img.active with
  | some i => (chooseArm i.arms n).isSome && decide (2 ≤ s.healthy.length)
  | none => false

/-- The armature slot that a die serves: between cycles of the dies that hold its tables (R308, R310; log entry 120). -/
def State.slotOf (s : State) (d : Nat) : Option Nat :=
  let ds := match s.cyc.cur with | some c => c.dies | none => s.img.used
  (ds.zipIdx.find? (fun p => p.1 == d)).map (·.2)

/-- The die slot of a die, of the armature in force. -/
def State.dieSlot (s : State) (d : Nat) : Option DieSlot := do (← s.armature).slots[← s.slotOf d]?

/-- A die's DU configuration (R348). -/
def State.duCfg (s : State) (d : Nat) : Option DuCfg := (s.dieSlot d).map (·.du)
/-- The 128-bit words of a table that stands in device memory. -/
def State.words (s : State) (a n : Nat) : List Nat := (List.range n).map (fun k => leNat (s.mem.read (a + 16 * k) 16))
/-- A core's tables, its steps and pool as they stand in its scratchpad (R308, R317). -/
def State.cores (s : State) (d : Nat) : List CoreEntry :=
  (((s.dieSlot d).map (·.cores)).getD []).zipIdx.map (fun e =>
    let base := scratchBase (d * 16 + e.2)
    { e.1 with steps := s.words (base + e.1.stepsOff) e.1.steps.length
               pool := s.words (base + e.1.poolOff) e.1.pool.length })

/-- A cycle waits for its release and nothing but a checkpoint of a long operation keeps it back (R28, R451, R487;
log entry 45). -/
def State.canRelease (s : State) : Bool :=
  s.cyc.cur.isNone && !s.cyc.queue.isEmpty && s.saf.due.isEmpty && s.saf.active.isEmpty && s.clk.busy.isNone
  && s.clk.reached == .active

/-- The floor step: MIN_STEP of the active armature, 3 with no image (R524). -/
def State.floor (s : State) : Nat :=
  if s.img.active.isNone then 3 else (s.armature.map (·.minStep)).getD 3

/-- The phase in progress, 0 outside a cycle. -/
def State.phase (s : State) : Nat := (s.cyc.cur.map (·.phase)).getD 0

/-- What a sequencer step sees (R314, R338). -/
def State.seqEnv (s : State) : SeqEnv :=
  { phase := s.phase
    longop := s.ops.any (fun o => o.cls == .grow && o.st.active && !o.yielded)
    halt := s.canRelease || s.ops.any (fun o => o.cls == .grow && (o.st == .suspending || o.st == .cancelling))
    sclk := s.time.sclk, now := s.time.now
    release := (s.cyc.cur.map (·.release)).getD 0
    retouch := (s.cyc.cur.map (·.retouch)).getD false }

/-- A die's usable LPDDR (R383, R404). -/
def State.lpCap (s : State) : Nat := (s.boot.lpcap.map usableBytes).getD 0

/-! ### Memories -/

/-- The memory that a device address lies in (R357). -/
def State.space (s : State) (a : Nat) : Option (Space × Nat) := spaceOf s.lpCap a
/-- Device memory written. -/
def State.poke (s : State) (a : Nat) (bs : List Byte) : State := { s with mem := s.mem.write a bs }

/-- Bytes that a mover or a packet writes into SRAM: in a world store they stand where R103 lays them. -/
def State.sramWrite (s : State) (a : Nat) (bs : List Byte) : State :=
  match s.space a with
  | some (.world d, off) => { s.poke a bs with world := s.world.store d off bs }
  | _ => s.poke a bs
/-- Device memory read. -/
def State.peek (s : State) (a n : Nat) : List Byte := s.mem.read a n

/-- A write to host memory: posted, and lost while the link is down or the function in reset
(R412, R443). -/
def State.hostWrite (s : State) (a : Nat) (bs : List Byte) : State :=
  if s.host.linkUp && !s.host.perst then { s with host := { s.host with mem := s.host.mem.write a bs } } else s

/-- A read of host memory, which fails in a failing range (R442). -/
def State.hostRead (s : State) (a n : Nat) : Option (List Byte) :=
  if !s.host.linkUp || s.host.perst then none
  else if s.host.fails.any (fun r => r.1 < a + n && a < r.1 + r.2) then none
  else some (s.host.mem.read a n)

/-- What the host has made visible taken over. -/
def State.look (s : State) (v : HostView) : State :=
  { s with host := { s.host with mem := v.stores.foldl (fun m e => m.write e.1 e.2) s.host.mem, fails := v.fails } }

/-! ### MSI-X and completions -/

/-- A message on a vector: sent, or pending while the vector is masked (R436). -/
def State.message (s : State) (v : Nat) : State :=
  if s.host.msix.unmasked.contains v then { s with host := { s.host with sent := s.host.sent ++ [.msix v] } }
  else { s with host := { s.host with msix := { s.host.msix with pend := v :: s.host.msix.pend.filter (· != v) } } }

/-- A loaded ring by number. -/
def State.ring (s : State) (n : Nat) : Option Ring := s.host.rings.find? (fun r => r.num == n)
/-- A loaded ring changed. -/
def State.mapRing (s : State) (n : Nat) (f : Ring → Ring) : State :=
  { s with host := { s.host with rings := s.host.rings.map (fun r => if r.num = n then f r else r) } }

/-- The ring's message, where IRQ_EN is set; the completions written before it are signalled (R436). -/
def State.signalRing (s : State) (n : Nat) : State :=
  match s.ring n with
  | none => s
  | some r =>
    let s := s.mapRing n (fun r => { r with unsignalled := 0 })
    if r.ctx.irqEn then s.message r.ctx.vector else s

/-- An entry has been written to a completion or event ring: its message where one is due (R436). -/
def State.wrote (s : State) (n : Nat) (now : Bool) : State :=
  let s := s.mapRing n (fun r => { r with count := r.count + 1, unsignalled := r.unsignalled + 1 })
  match s.ring n with
  | none => s
  | some r => if now ∨ max 1 r.ctx.coalCnt ≤ r.unsignalled then s.signalRing n else s

/-- A due completion is the descriptor's (R435). -/
def Compl.of (d : Desc) (c : Compl) : Bool := c.ring == d.ring && c.seq == d.head.seq && c.opcode == d.head.opcode

/-- The descriptor's completion is due. -/
def State.isDue (s : State) (d : Desc) : Bool := s.host.due.any (Compl.of d)

/-- A completion made due for a descriptor (R435). A PLAN_CYCLE or RETOUCH_PLAN completion, and one
with IRQ, is signalled at once (R436). -/
def State.complete (s : State) (d : Desc) (st : Status) (r0 r1 : Nat) (beat : Bool := false) : State :=
  let cyc := d.head.opcode == 0x0030 || d.head.opcode == 0x0031
  { s with host := { s.host with
      due := s.host.due ++ [⟨d.ring, d.head.tag, st, d.head.opcode, d.head.seq, r0 % 2 ^ 32, r1 % 2 ^ 32,
                             cyc || d.head.irq, beat⟩] } }

/-- Completions for a list of descriptors, with result words 0. -/
def State.completeAll (s : State) (xs : List (Desc × Status)) : State :=
  xs.foldl (fun s x => s.complete x.1 x.2 0 0) s

/-- The result words of a long operation's completion (R437, R449). -/
def State.opWords (s : State) (o : LongOp) : Nat × Nat :=
  match o.words with
  | some w => w
  | none =>
  match o.cls with
  | .grow => (s.img.nodes, o.units)
  | .ledger =>
    let part := getLe o.desc.bytes 16 1
    (min (o.units * 4096) (ledLength part), ledLength part)
  | _ => (o.units, o.bad)

/-- The bound sources that fire on every die of the armature, put to each DU (R347). -/
def State.fireOn (s : State) (ds : List Nat) (src : BindSource) (arg : Nat) : State :=
  ds.foldl (fun s d =>
    match s.duCfg d with
    | some cfg =>
      if cfg.binds.any (fun b => b.source == src && (b.arg == arg || src == .cycleEnd)) then
        s.mapDu d (fun u => { u with fires := u.fires ++ [(src, arg)] })
      else s
    | none => s) s

/-- An operation runs: neither yielded nor stopped. -/
def LongOp.runs (o : LongOp) : Bool := o.st == .running && !o.yielded

/-- An operation runs for the first time: a ROADMAP_GROW with RESET sets its region and empties the
roadmap, a LEDGER_READ notes what it will copy (R433, R516). -/
def State.begin_ (s : State) (o : LongOp) : State :=
  if o.start.isSome then s
  else
    let s := { s with ops := mapOp (fun x => { x with start := some s.time.now }) o.desc s.ops }
    match o.cls with
    | .grow =>
      let b := o.desc.bytes
      if bitAt (getLe b 16 1) 0 then
        { s with img := { s.img with
          region := some ⟨getSle b 24 4, getLe b 28 4, getSle b 32 4, getLe b 36 4, getSle b 40 2, getSle b 42 2⟩
          nodes := 0, estat := [] } }
      else s
    | .ledger => { s with aon := { s.aon with read := some s.aon.ledStart } }
    | _ => s

/-- What follows when operations start or resume: the binding LONGOP_RUN fires on their dies, and the
saved threads of a growth take their contexts again (R347, R452). `old` are the operations before. -/
def State.opsRun (s : State) (old : List LongOp) : State :=
  let fresh (o : LongOp) : Bool := o.runs && !old.any (fun x => x.desc == o.desc && x.runs)
  let s := if s.cyc.cur.isNone then s
    else { s with ops := s.ops.map (fun o =>
      if fresh o ∧ o.cls ≠ .selftest ∧ o.cls ≠ .retrain then { o with yielded := true } else o) }
  let new := s.ops.filter fresh
  let s := new.foldl State.begin_ s
  let s := new.foldl (fun (s : State) o =>
    s.fireOn ((List.range 8).filter (fun d => bitAt o.dies d)) .longopRun o.cls.code) s
  if s.cyc.cur.isNone && s.ops.any (fun o => o.cls == .grow && o.runs) then { s with du := s.du.map DuState.restore } else s

/-- The completion of an ended operation made due (R449). -/
def State.completeOp (s : State) (o : LongOp) : State :=
  let w := s.opWords o
  let st := match o.st with | .done => Status.ok | .cancelled => .cancelled | _ => o.status
  s.complete o.desc st w.1 w.2

/-- A suspended load repeats its CHECK stage when it resumes (R456). -/
def recheck (gs : List Staged) (o : LongOp) : LongOp :=
  if o.cls = .load ∧ o.st = .suspended ∧ o.stage = .check then
    { o with left := ((gs.find? (fun g => g.desc == o.desc)).map (fun g => (ImgHeader.ofBytes g.bytes).narm)).getD o.left }
  else o

/-! ### Fault records -/

/-- A record written into the event ring: the entry, then the counts at DB_ADDR (R439). -/
def State.eventWrite (s : State) (b : List Byte) : State :=
  match s.host.rings.find? (fun r => r.ctx.type == .event) with
  | none => s
  | some r =>
    if !s.host.linkUp || s.host.perst || !s.saf.alive || s.saf.active.contains .hub then
      { s with host := { s.host with evLost := s.host.evLost + 1 } }
    else
      let s := s.hostWrite (r.ctx.base + r.count % r.ctx.size * 32) b
      let s := s.hostWrite r.ctx.db (leBytes 4 ((r.count + 1) % 2 ^ 32) ++ leBytes 4 (s.host.evLost % 2 ^ 32))
      s.wrote r.num false

/-- A record sent to its three places (R477): the AON ring, the event ring, the summary. -/
def State.send (s : State) (f : Fault0) (merged : Nat) : State :=
  let r := s.aon.enter f merged s.time.now
  let s := { s with aon := r.1 }
  let s := s.eventWrite r.2.bytes
  if 2 ≤ f.cls.code then { s with saf := { s.saf with unacked := s.saf.unacked ++ [(r.2.rseq, f.cls.code)] } } else s

/-- A fault recorded: an INFO record within an open window of its code and location is counted;
one outside opens a window (R477). -/
def State.record (s : State) (f : Fault0) : State :=
  if f.cls ≠ .info then s.send f 0
  else
    let same (w : MergeWin) : Bool := w.first.code == f.code && w.first.loc == f.loc
    if s.saf.windows.any same then
      { s with saf := { s.saf with windows := s.saf.windows.map (fun w =>
          if same w then { w with last := f, count := min 255 (w.count + 1) } else w) } }
    else
      let s := s.send f 0
      match s.aon.ring.getLast? with
      | some r => { s with saf := { s.saf with windows := s.saf.windows ++ [⟨r, f, 0⟩] } }
      | none => s

/-- A Patina counter of R506 changed. -/
def State.count (s : State) (f : Counters → Counters) : State := { s with aon := { s.aon with ctr := f s.aon.ctr } }

/-! ### The end of a cycle -/

/-- FLT_STALE_DROP of the dies, and of the hub, whose count is not 0 (R344). -/
def State.staleReports (s : State) : State :=
  let s := (List.range 8).foldl (fun (s : State) d =>
    let u := s.duOf d
    if u.stale = 0 then s
    else (s.record ⟨.staleDrop, .info, ⟨d, 15, 15, 0xA⟩, u.stale, u.staleEpoch⟩).mapDu d
      (fun u => { u with stale := 0, staleEpoch := 0 })) s
  if s.cyc.stale.1 = 0 then s
  else
    let s := s.record ⟨.staleDrop, .info, Loc.hub 0, s.cyc.stale.1, s.cyc.stale.2⟩
    { s with cyc := { s.cyc with stale := (0, 0) } }

/-- An operation at work between cycles. -/
def LongOp.atWork (o : LongOp) : Bool := o.st.active && !o.yielded

/-- A run of long operations between cycles ends where some that were at work are so no longer: stale drops are
reported (R344). `old` are the operations before. -/
def State.runEnds (s : State) (old : List LongOp) : State :=
  if s.cyc.cur.isNone && old.any (fun o => o.atWork && !s.ops.any (fun x => x.desc == o.desc && x.atWork)) then s.staleReports
  else s

/-- Operations changed, the completions of controls and of operations that ended made due (R449,
R453); the end of a run reported (R344). An ended operation stays until its completion is written (R448). -/
def State.withOps (s : State) (r : OpsOut) : State :=
  let old := s.ops
  let ended := r.ops.filter (fun o => o.st.terminal && !old.any (fun x => x.desc == o.desc && x.st.terminal))
  let staged := s.img.staged.filter (fun g => !ended.any (fun o => o.desc == g.desc))
  let s := { s with ops := r.ops.map (fun o => recheck s.img.staged o), img := { s.img with staged := staged }
                    du := if r.ops.any (fun o => o.cls == .grow && !o.st.terminal) then s.du
                      else s.du.map (fun u => { u with saved := [] }) }
  let s := (ended.filter (fun o => !o.late)).foldl State.completeOp s
  ((s.completeAll r.done).opsRun old).runEnds old

/-- The plan area's address that a cycle descriptor names (R433). -/
def Desc.planArea (d : Desc) : Nat := getLe d.bytes 32 5 * 4096
/-- The world time that a cycle descriptor names. -/
def Desc.worldTime (d : Desc) : Nat := getLe d.bytes 16 8

/-- Void candidates of a family and the other counts come from the cycle; hub list counts from its
lists (R293). -/
def Cycle.hubCounts (c : Cycle) (sel : List SelEntry) : List Nat :=
  (List.range 6).map (fun k => sumNat ((c.lists.filter (fun l =>
    l.die == 8 && (sel[l.entry]?.map (·.kind)) == some k)).map (fun l => l.list.entries.length)))

/-- The cycle status record (R293). -/
def State.statusRec (s : State) (c : Cycle) (st : Status) (committed : Bool) : StatusRec :=
  { tag := c.desc.head.tag, epoch := s.world.epoch, status := st.code, committed := committed
    egoLimit := (do let i ← s.img.active; let e ← s.world.ego; pure (egoLimit i.ego e)).getD false
    degraded := c.degraded, retouch := c.retouch, arm := c.arm, w := s.world.worldTime, endTime := s.time.now
    seq := s.aon.ctr.commits, updDropped := s.world.updDropped, tilesDropped := s.world.tilesDropped
    counts := { c.counts with hubCount := c.hubCounts ((s.armature.map (·.sel)).getD []) }
    proofPlan := c.proofPlan, proofSafe := c.proofSafe
    mmRun := mmRun s.cyc.history, mm100 := mm100 s.cyc.history }

/-- The trace area of a cycle descriptor: address and length (R434). -/
def traceArea (d : Desc) (sheetBankLen : Nat) : Option (Nat × Nat) :=
  if !d.head.trace then none
  else if d.head.opcode = 0x0030 then
    let base := getLe d.bytes 37 5 * 4096
    some (base + 2 * sheetBankLen, getLe d.bytes 42 2 * 4096 - 2 * sheetBankLen)
  else some (getLe d.bytes 37 5 * 4096, getLe d.bytes 42 2 * 4096)

/-- The capacity of the contact sheet (R292). -/
def sheetCap (i : Image) (a : Armature) : Nat :=
  if i.hdr.sheetMode = 2 then sumNat ((((a.slots.map (·.cores)).flatten.map (·.fam)).flatten).map (·.count))
  else if i.hdr.sheetMode = 1 then a.kTotal 3
  else 0

/-- SHEET_BANK, 0 in mode NONE (R292, R434). -/
def State.sheetBankLen (s : State) : Nat :=
  match s.img.active, s.armature with
  | some i, some a => if i.hdr.sheetMode = 0 then 0 else sheetBank (sheetCap i a)
  | _, _ => 0

/-- The trace header, written last (R434). -/
def State.traceHeader (s : State) (c : Cycle) : State :=
  match traceArea c.desc s.sheetBankLen with
  | none => s
  | some (a, _) =>
    s.hostWrite a (withCrc (padTo 60 (leBytes 8 c.desc.head.tag ++ leBytes 4 s.world.epoch ++ leBytes 4 c.traced
      ++ leBytes 4 c.traceLost)))

/-- The cycle ends: status record, trace header, completion; stale drops reported; the phase epoch
advances; yielded operations go on (R293, R341, R344, R451). The completion's words are given. -/
def State.endCycle (s : State) (st : Status) (r0 r1 : Nat) (committed : Bool) : State :=
  match s.cyc.cur with
  | none => s
  | some c =>
    let s := s.hostWrite (c.desc.planArea + 0x100 * (1 + s.world.epoch % 2)) (s.statusRec c st committed).bytes
    let s := s.traceHeader c
    let s := s.complete c.desc st r0 r1 committed
    let s := s.fireOn c.dies .cycleEnd 0
    let s := s.staleReports
    let s := (s.ops.filter (·.late)).foldl State.completeOp s
    let old := s.ops
    let s := { s with cyc := { s.cyc with cur := none, epoch := (s.cyc.epoch + 1) % 2 ^ 32 } }
    State.opsRun { s with ops := s.ops.map (fun o => { o with yielded := false, late := false }) } old

/-- The result words of a cycle that ended by itself (R286, R209). -/
def State.cycleWords (s : State) (c : Cycle) : Nat × Nat :=
  if c.retouch then
    match c.splice with
    | some .notBlocked => (0, 0xFFFFFFFF)
    | some (.spliced kb v) => (1, kb % 65536 + 65536 * (v % 65536))
    | some (.noDetour kb) => (2, kb % 65536 + 65536 * 0xFFFF)
    | some (.tooClose kb) => (3, kb % 65536 + 65536 * 0xFFFF)
    | none => (0, 0xFFFFFFFF)
  else (planResult0 c.drops.1 c.drops.2, s.world.epoch)

/-- The engines' commands and flags dropped, and every thread of the dies stopped (R407, R487); a flag with a fault
cause still reaches its sequencer. -/
def State.stopEngines (s : State) : State :=
  { s with eng := { s.eng with queues := [], flags := s.eng.flags.filter (fun f => f.cause.isSome), runs := [], lanes := [] } }

/-- A cycle abandoned on account of a fault (R37, R286): word 0 is 0, word 1 the epoch; a retouch
cycle's words too. Before Enlarge has ended, the tiles that its snapshot marked stand unbuilt: its dies rebuild
every tile in their next cycle (R112). -/
def State.abandon (s : State) (st : Status) : State :=
  match s.cyc.cur with
  | none => s
  | some k =>
    let s := { s with cyc := { s.cyc with unbuilt := (if k.phase ≤ 2 then k.dies else []) ++ s.cyc.unbuilt } }
    (s.endCycle st 0 s.world.epoch false).stopEngines

/-! ### Fences -/

/-- The coherence state and LPDDR after what a home did: its writes go to memory. -/
def State.withCoh (s : State) (o : CohOut) : State :=
  { s with coh := o.st, mem := o.writes.foldl (fun m w => m.write (w.1 * 64) w.2) s.mem }

/-- A line of LPDDR read by its home. -/
def State.homeRead (s : State) (line : Nat) : List Byte := s.peek (line * 64) 64

/-- The die of an address's home: LPDDR of the die (R376). -/
def homeOf (line : Nat) : Option Nat := if line * 64 < 0x10000000000 then some (line * 64 / 0x200000000) else none

/-- A hub or ring link of a die taken out (R407 step 2): hub link d, ring links 8 + d and
8 + (d + 7) mod 8. -/
def State.dropLinks (s : State) (d : Nat) : State :=
  let ls := [d, 8 + d, 8 + (d + 7) % 8]
  { s with pkg := { s.pkg with
      links := ls.foldl (fun l i => modAt (fun k => { k with st := .lost }) l i) s.pkg.links
      ringMask := clrBit (clrBit s.pkg.ringMask d) ((d + 7) % 8) } }

/-- The history is cleared when the restarts that it caused have ended: completed, or come to nothing with their dies
(R274). -/
def State.endVerify (s : State) : State :=
  let dies := (s.saf.active ++ s.saf.due).any (fun u => match u with | .die _ => true | .cluster _ | .hub => false)
  if s.saf.verifyRestart ∧ !dies then
    { s with cyc := { s.cyc with history := [] }, saf := { s.saf with verifyRestart := false } }
  else s

/-- A fenced die's links, copies and memories taken out (R407). -/
def State.fenceData (s : State) (d : Nat) : State :=
  let s := s.dropLinks d
  let s := s.withCoh ((s.coh.fence homeOf d).1.serveAll s.homeRead)
  { s with mem := (s.mem.clear (lpddrBase d) 0x200000000).clear (sramBase d) 0x100000000 }

/-- A fenced die switched off, its dispatch unit and restarts with it, the roadmap lost; cause FENCE (R407). -/
def State.fenceOff (s : State) (d : Nat) : State :=
  let s := { s with img := { s.img with nodes := 0, estat := [] } }
  let s := s.mapDie d (fun x => { x with enable := false, running := false })
  let s := s.mapDu d (fun _ => DuState.empty)
  let saf := if s.fits s.healthy.length then s.saf else s.saf.set 6
  { s with saf := { saf with
      causes := setBit saf.causes 2
      due := saf.due.filter (fun u => u.dieOf != some d), active := saf.active.filter (fun u => u.dieOf != some d),
      watch := saf.watch.filter (fun u => u.dieOf != some d) } }

/-- The fence procedure (R407) with its cause, `abandonAs` being the status of the causing fault. -/
def State.fenceDie (s : State) (d : Nat) (cause : FenceCause) (abandonAs : Status := .faultRestart) : State :=
  if (s.die d).fenced.isSome then s
  else
    let s := s.mapDie d (fun x => { x with healthy := false, inService := false, fenced := some cause, rejoin := false,
                                           out := .service })
    let s := s.abandon abandonAs
    let lost := (s.coh.fence homeOf d).2
    let s := s.fenceData d
    let uses (o : LongOp) : Bool := o.cls == .grow || (o.cls == .load && bitAt o.dies d && !s.img.staged.any (fun g => g.desc == o.desc))
    (((s.withOps (fenceOps uses d s.ops)).fenceOff d).endVerify).send ⟨.dieFenced, .fence, Loc.ofDie d, cause.code, lost⟩ 0

/-! ### Reactions -/

/-- The units of a fatal fault that leave the ring engine dead (R480). -/
def Fault0.killsRing (f : Fault0) : Bool :=
  f.code == .clock || f.code == .supply || (f.loc.die == 8 && (f.loc.cl == 1 || f.loc.cl == 7))

/-- Queued cycles and every waiting descriptor but LEDGER_READ complete with STATUS_FATAL (R480). -/
def State.fatalEnds (s : State) : State :=
  let q := s.cyc.queue
  let s := { s with cyc := { s.cyc with queue := [] } }
  let s := q.foldl (fun (s : State) (d : Desc) => s.complete d .fatal 0 0) s
  let w := (s.host.waiting ++ s.host.held).filter (fun d =>
    d.head.opcode != 0x0060 && !s.isDue d && !s.ops.any (fun o => o.desc == d))
  let s := w.foldl (fun (s : State) (d : Desc) => s.complete d .fatal 0 0) s
  { s with host := { s.host with held := s.host.held.filter (fun d => d.head.opcode == 0x0060)
                                 started := s.host.started.filter (fun d => d.head.opcode == 0x0060) } }

/-- The planning dies are switched off; a ring engine that is not alive holds nothing more to write (R480). -/
def State.fatalOff (s : State) : State :=
  let s := s.stopEngines
  let s := { s with pkg := { s.pkg with dies := s.pkg.dies.map (fun (x : DieSt) => { x with enable := false, running := false }) },
                    time := { s.time with steps := [] } }
  if s.saf.alive then s
  else { s with host := { s.host with due := [], held := [], started := [], waiting := [] }, ops := [] }

/-- A fatal fault (R479, R480): planning stops, the planning dies are switched off, the cycle and the
operations but LEDGER_READ end with STATUS_FATAL, queued cycles complete so; a ring engine that is not
alive writes nothing more. -/
def State.fatal (s : State) (alive : Bool) : State :=
  let s := { s with saf := { s.saf with fatal := true, alive := s.saf.alive && alive, causes := setBit s.saf.causes 7,
                                        due := [], active := s.saf.active.filter (fun u => u == RUnit.hub) } }
  let s := s.abandon .fatal
  (s.withOps (endWhere (fun o => o.cls != OpClass.ledger) .failed .fatal s.ops)).fatalEnds.fatalOff

/-- A die's DU enters RECOVERING from detection to completion (R345, R487). -/
def State.recovering (s : State) (u : RUnit) : State :=
  match u.dieOf with
  | some d => s.mapDu d (fun x => { x with serve := .recovering, refused := if x.serve = .recovering then x.refused else [] })
  | none => s

/-- A restart falls due (R479, R480, R487): cause RESTART, the cycle abandoned. -/
def State.restartDue (s : State) (u : RUnit) : State :=
  let s := { s with saf := { s.saf with causes := setBit s.saf.causes 2, due := addDue u s.saf.due } }
  (s.abandon .faultRestart).recovering u

/-- A fault of a restart class escalated or taken (R480, R481). -/
def State.restartFault (s : State) (u : RUnit) : State :=
  match s.saf.escalate u with
  | .restart v => s.restartDue v
  | .fence d => s.fenceDie d .repeat_
  | .fatal => s.fatal true

/-- A fault raised: its record, then the reaction of its class (R479). The fence of class FENCE is the
caller's, which knows its cause. -/
def State.fault (s : State) (f : Fault0) : State :=
  let s := s.record f
  match f.cls with
  | .info | .checker => s
  | .cycle => s.abandon .faultRestart
  | .restartCluster | .restartDie | .restartHub => match f.unit with | some u => s.restartFault u | none => s
  | .fence => s
  | .hold => { s with saf := { s.saf with causes := setBit s.saf.causes (if f.code = .therm then 3 else 4) } }
  | .fatal => s.fatal (!f.killsRing)

/-- Faults of one SCLK raised in their order (R477). -/
def State.faults (s : State) (fs : List Fault0) : State := (orderFaults fs).foldl State.fault s

end Sys2Proof.Machine
end

