-- ==== Sys2Proof/Machine/EngineOps.lean ====
section
/-!
DEFINITION. What every engine command shares: the queue it comes from, the checkers' findings, the
result record, its flags, and coherent access to LPDDR (R314, R316, R380, R387, R388, R469).
-/
namespace Sys2Proof.Machine

open Sys2Proof

/-! ### Queues -/

/-- The queue of a unit's engine. -/
def State.queueOf (s : State) (unit : Nat) (e : Engine) : List QCmd :=
  ((s.eng.queues.find? (fun q => q.unit == unit && q.engine == e)).map (·.cmds)).getD []

/-- The queue of a unit's engine replaced. -/
def State.setQueue (s : State) (unit : Nat) (e : Engine) (cs : List QCmd) : State :=
  let rest := s.eng.queues.filter (fun q => !(q.unit == unit && q.engine == e))
  { s with eng := { s.eng with queues := if cs.isEmpty then rest else rest ++ [⟨unit, e, cs⟩] } }

/-! ### Rank arbitration (R370 to R372) -/

/-- The rank of a requester of a class (R559). -/
def State.rankAt (s : State) (cls : ArbClass) (r : Nat) : Nat :=
  match cls with
  | .qe => field (nth 0 s.regs.rank 0) (4 * r) 4
  | .lpddr => field (nth 0 s.regs.rank (1 + r / 8)) (4 * (r % 8)) 4
  | .utx => field (nth 0 s.regs.rank 3) (4 * r) 4
  | .pcie => field (nth 0 s.regs.rank 4) (4 * r) 4
  | .led => field (nth 0 s.regs.rank 5) (4 * r) 4

/-- An arbiter's decision among ascending waiting requesters (R371): the highest rank, the lower number on a tie. -/
def arbBest (rank : Nat → Nat) (waiting : List Nat) : Option Nat :=
  waiting.foldl (fun (best : Option Nat) k =>
    match best with
    | none => some k
    | some b => if rank b < rank k then some k else some b) none

/-- The cores that wait for their cluster's QE. -/
def State.qeWaiting (s : State) (cl : Nat) : List Nat := (List.range 4).filter (fun k => !(s.queueOf (cl * 4 + k) .qe).isEmpty)

/-- The core that owns a cluster's QE (R252, R371, R372): the one that holds the grant, whatever the ranks are now;
with none held, the decision among those that wait. -/
def State.qeWinner (s : State) (cl : Nat) : Option Nat :=
  match lookupKey cl s.eng.qeOwners with
  | some k => if (s.qeWaiting cl).contains k then some k else arbBest (s.rankAt .qe) (s.qeWaiting cl)
  | none => arbBest (s.rankAt .qe) (s.qeWaiting cl)

/-- A free QE decides as soon as a core waits; an owner keeps its grant (R371). -/
def State.qeDecide (s : State) (cl : Nat) : State :=
  let rest := s.eng.qeOwners.filter (fun x => x.1 != cl)
  { s with eng := { s.eng with qeOwners := match s.qeWinner cl with | some k => rest ++ [(cl, k)] | none => rest } }

/-- A core's QE command has ended: the grant is dropped and the QE decides again with the present ranks (R252, R371,
R372). -/
def State.qeDrop (s : State) (cl : Nat) : State :=
  State.qeDecide { s with eng := { s.eng with qeOwners := s.eng.qeOwners.filter (fun x => x.1 != cl) } } cl

/-- A command placed behind those of its engine; one for a QE requests it (R371). -/
def State.enqueue (s : State) (unit : Nat) (e : Engine) (c : QCmd) : State :=
  let s := s.setQueue unit e (s.queueOf unit e ++ [c])
  if e = .qe then s.qeDecide (unit / 4) else s

/-- The command at the head of a queue leaves it, `rest` staying; a QE's grant ends with it (R252). -/
def State.dequeue (s : State) (unit : Nat) (e : Engine) (rest : List QCmd) : State :=
  let s := s.setQueue unit e rest
  if e = .qe then s.qeDrop (unit / 4) else s

/-- The command has ended: its slot of the issuing step no longer runs (R314). -/
def State.commandDone (s : State) (c : QCmd) : State :=
  s.mapDu (c.core / 16) (fun d => d.mapThread (c.core % 16) c.thread (fun t =>
    if t.step = c.step then { t with issued := clrBit t.issued c.slot } else t))

/-- A flag sent to the issuing sequencer (R25, R316). -/
def State.flag (s : State) (c : QCmd) (code : Nat) (lane cand : Nat := 0xFFFFFFFF) (cause : Option Fault0 := none)
    (also : List Nat := []) : State :=
  { s with eng := { s.eng with flags := s.eng.flags ++ [⟨c.core, c.thread, c.step, c.slot, code, lane, cand, cause, also⟩] } }

/-- The FAULT flag with its cause (R25, R316): what the sequencer's FAULT reaction raises. -/
def State.flagFault (s : State) (c : QCmd) (cause : Option Fault0) (cand : Nat := 0xFFFFFFFF) : State :=
  s.flag c 0x1 0xFFFFFFFF cand cause

/-- Flags sent in ascending code order, those whose condition holds. -/
def State.flagsWhere (s : State) (c : QCmd) (fs : List (Nat × Bool)) : State :=
  fs.foldl (fun s f => if f.2 then s.flag c f.1 else s) s

/-! ### Results -/

/-- A result record at RESULT_OFF of the cluster's dual-port region. -/
def State.result (s : State) (cl off : Nat) (bs : List Byte) : State := s.poke (dualBase cl + off * 16) bs

/-- A location of an engine (R476): engine codes 2 to 9; QE, DE and the movers serve a whole cluster. -/
def engineLoc (core : Nat) (e : Engine) : Loc :=
  ⟨core / 16, core / 4 % 4, if e.index < 4 then core % 4 else 15, e.index + 2⟩

/-- A corrected error counted at its die (R506): types 1 to 8, 9 at the hub. -/
def State.corrected (s : State) (die m : Nat) : State :=
  s.count (fun c =>
    if m = 9 then { c with corrHub := satInc 32 c.corrHub }
    else if 1 ≤ m then { c with corr := modAt (satInc 32 ·) c.corr (die * 8 + m - 1) } else c)

/-- FLT_ECC_UNCORR of a word consumed at a location: class by memory type (R387, R479). -/
def eccFault (loc : Loc) (mem bank line : Nat) : Fault0 :=
  let cls : FClass := if mem = 4 ∨ mem = 6 then .restartDie else if mem = 9 then .restartHub else .restartCluster
  ⟨.eccUncorr, cls, loc, mem + 256 * bank, line % 2 ^ 31⟩

/-- The fault that an engine's checkers report (R228, R250, R387, R469). `code` is the check's fault
code, `op` and `cand` the data words. -/
def engineFault (loc : Loc) (code : FCode) (op cand : Nat) : HwEvent → Option Fault0
  | .clean => none
  | .corrected _ => none
  | .checker => some ⟨code, .checker, loc, op + 2 ^ 31, cand⟩
  | .data => some ⟨code, .restartCluster, loc, op, cand⟩
  | .permanent => some ⟨code, .restartCluster, loc, op + 2 ^ 30, cand⟩
  | .ecc m b o => some (eccFault loc m.val b.val (o / 64))

/-- The checkers' finding lets the command's results stand (R469). -/
def hwKeeps : HwEvent → Bool
  | .clean | .checker | .corrected _ => true
  | .data | .permanent => false
  | .ecc _ _ _ => false

/-- The fault code and data words of a finding in an engine's command (R228, R250, R469): the residue
path's operation code and candidate, the SE's check, the QE's check. Which candidate or check it was only
the silicon says: a free value (log entry 1). -/
def findingWords (s : State) (e : Engine) (op first count : Nat) : FCode × Nat × Nat :=
  let v := s.freeVal.toNat
  match e with
  | .se => (.sumcheck, v % 7 + 1, v / 2 ^ 32)
  | .qe => (.abft, v % 2 + 1, v / 2 ^ 32)
  | _ => (.residue, op, if count = 0 then 0xFFFFFFFF else first + v % count)

/-- An uncorrectable word of a cluster's line cache (R388): a line in S is dropped, to be fetched again, and
nothing was consumed; a line in M goes back to its home poisoned, and the word was consumed: the fault that
follows is the second component. Which line it was is a free value, a line held for reading only among them
(log entry 102). -/
def State.cacheWord (s : State) (cl : Nat) (loc : Loc) (bank line : Nat) : State × Option Fault0 :=
  let mine := s.coh.caches.filter (fun x => x.cluster == cl)
  let hit := mine[s.freeVal.toNat % (mine.length + 1)]?
  let s := s.spend 1
  let clean (s : State) : State := s.record ⟨.eccUncorr, .info, loc, 5 + 256 * bank, line % 2 ^ 31 + 2 ^ 31⟩
  match hit with
  | none => (clean s, none)
  | some x =>
    let s := { s with coh := s.coh.dropLine cl x.line }
    match x.st with
    | .s => (clean s, none)
    | .m =>
      let s := { s with coh := { (s.coh.setEntry { s.coh.entry x.line with st := .uncached }) with
        poison := x.line :: s.coh.poison.filter (· != x.line) } }
      let s := s.withCoh (CohState.advance s.homeRead ⟨s.coh, []⟩ x.line)
      (s, some (eccFault loc 5 bank line))

/-- A command worked on with what its checkers report (R316, R387, R388, R469). A finding against the data
drops the results: the FAULT flag carries the finding, a fault as `adjust` makes it, to the issuing sequencer,
whose reaction raises it (R25), and `failed` writes the result record. One against the checker keeps the results
and is recorded. `first` and `count` are the command's candidates, count 0 for none. -/
def State.checked (s : State) (c : QCmd) (e : Engine) (hw : HwEvent) (op first count : Nat)
    (body : State → State) (failed : Fault0 → State → State) (adjust : Fault0 → Fault0 := id) : State :=
  match hw with
  | .ecc ⟨5, _⟩ b o =>
    let r := s.cacheWord (c.core / 4) (engineLoc c.core e) b.val (o / 64)
    match r.2 with
    | none => body r.1
    | some f => failed f (r.1.flagFault c (some f))
  | _ =>
    let s := match hw with | .corrected m => s.corrected (c.core / 16) m.val | _ => s
    let f := findingWords s e op first count
    match engineFault (engineLoc c.core e) f.1 f.2.1 f.2.2 hw with
    | none => body s
    | some x =>
      if hwKeeps hw then (body (s.spend 1)).fault x
      else failed (adjust x) ((s.spend 1).flagFault c (some (adjust x)) (if count = 0 then 0xFFFFFFFF else f.2.2))

/-- An engine command run to its end: it must stand at the head of its engine's queue, or nothing happens
(log entry 8). `body` gives the effect of the command itself, `failed` the record of a faulted one. -/
def State.engineRun (s : State) (unit : Nat) (e : Engine) (w : BitVec 128) (hw : HwEvent) (op first count : Nat)
    (body : QCmd → State → State) (failed : QCmd → Fault0 → State → State) (adjust : Fault0 → Fault0 := id) : State :=
  match s.queueOf unit e with
  | [] => s
  | c :: rest =>
    if c.word ≠ w.toNat then s
    else ((s.dequeue unit e rest).commandDone c).checked c e hw op first count (body c) (failed c) adjust

/-! ### Streams (R156, R178, R193, R197) -/

/-- The stream command of a core's engine under way; a new one where none is. -/
def State.runOf (s : State) (core : Nat) (e : Engine) : StreamRun :=
  (s.eng.runs.find? (fun r => r.core == core && r.engine == e)).getD ⟨core, e, 0, 0, [], 0, 0, false, false, false⟩

/-- A stream command of a core's engine is under way. -/
def State.runs (s : State) (core : Nat) (e : Engine) : Bool := s.eng.runs.any (fun r => r.core == core && r.engine == e)

/-- A stream command under way noted. -/
def State.setRun (s : State) (r : StreamRun) : State :=
  { s with eng := { s.eng with runs := s.eng.runs.filter (fun x => !(x.core == r.core && x.engine == r.engine)) ++ [r] } }

/-- The stream command of a core's engine is no longer under way, its lanes with it. -/
def State.endRun (s : State) (core : Nat) (e : Engine) : State :=
  { s with eng := { s.eng with
      runs := s.eng.runs.filter (fun x => !(x.core == core && x.engine == e))
      lanes := if e = .ce then s.eng.lanes.filter (fun x => x.core != core) else s.eng.lanes } }

/-- A stream command takes what it can of its work and stays at the head of its queue until it has ended
(R156, R178, R193): `body` does the work, `ended` says whether none is left, and `finish` then writes the
result. -/
def State.streamRun (s : State) (core : Nat) (e : Engine) (w : BitVec 128) (hw : HwEvent) (op first count : Nat)
    (body : QCmd → State → State) (ended : State → Bool) (finish failed : QCmd → State → State) : State :=
  match s.queueOf core e with
  | [] => s
  | c :: rest =>
    if c.word ≠ w.toNat then s
    else
      let leave (s : State) : State := ((s.setQueue core e rest).commandDone c).endRun core e
      s.checked c e hw op first count
        (fun s => let s := body c s
                  if ended s then leave (finish c s) else s)
        (fun _ s => leave (failed c s))

/-! ### Coherent access -/

/-- The lines that a range of device addresses touches. -/
def linesOf (a n : Nat) : List Nat := (List.range ((a % 64 + n + 63) / 64)).map (fun i => a / 64 + i)

/-- A cache's modified copy of a line. -/
def State.ownerOf (s : State) (line : Nat) : Option CLine :=
  s.coh.caches.find? (fun c => c.line == line && c.st == .m)

/-- A line as a coherent access sees it (R377, R380). -/
def State.lineNow (s : State) (line : Nat) : List Byte :=
  match s.ownerOf line with
  | some c => c.data
  | none => s.peek (line * 64) 64

/-- A coherent read of a range. -/
def State.cohRead (s : State) (a n : Nat) : List Byte :=
  (((linesOf a n).flatMap s.lineNow).drop (a % 64)).take n

/-- A coherent uncached write (R380): cached copies return to their home and are invalidated, then the
bytes are written; a poisoned line wholly rewritten is sound again (R388). -/
def State.cohWrite (s : State) (a : Nat) (bs : List Byte) : State :=
  let ls := linesOf a bs.length
  let mem := ls.foldl (fun m l => match s.ownerOf l with | some c => m.write (l * 64) c.data | none => m) s.mem
  let whole (l : Nat) : Bool := a ≤ l * 64 && l * 64 + 64 ≤ a + bs.length
  { s with
    mem := mem.write a bs
    coh := { s.coh with
      caches := s.coh.caches.filter (fun c => !ls.contains c.line)
      dir := s.coh.dir.map (fun e => if ls.contains e.line ∧ e.txn.isNone then { e with st := .uncached } else e)
      poison := s.coh.poison.filter (fun l => !(ls.contains l && whole l)) } }

/-- A range touches a poisoned line of which no cache holds a sound copy (R380, R388). -/
def State.poisoned (s : State) (a n : Nat) : Bool :=
  (linesOf a n).any (fun l => s.coh.poison.contains l && (s.ownerOf l).isNone)

/-- A line's home can answer: a healthy die that runs, of its usable LPDDR (R356, R395). -/
def State.homeUp (s : State) (line : Nat) : Bool :=
  match s.space (line * 64) with
  | some (.lpddr d, _) => (s.die d).healthy && (s.die d).running
  | _ => false

/-- The die on which a requester stands (R378): none for the hub; the scrub stands on every line's home. -/
def reqDie (req line : Nat) : Option Nat :=
  if req < 32 then some (req / 4) else if req < 96 then some ((req - 32) / 8) else if req = 97 then homeOf line else none

/-- A line's home can answer a requester: of another die than its own only while the home's hub link is not down
(R395); a link in recovery makes its traffic wait (R392; log entry 126). -/
def State.homeFor (s : State) (req line : Nat) : Bool :=
  let up (d : Nat) : Bool := match (nth Link.reset s.pkg.links d).st with
    | .up | .recovering => true
    | .down | .lost => false
  s.homeUp line && (reqDie req line == homeOf line || (homeOf line).any up)

/-- A range of LPDDR holds a line that is busy at its home, or whose data is on its way to a cache: a
coherent access to it waits (R378, R379). -/
def State.cohBusy (s : State) (a n : Nat) : Bool :=
  let within (l : Nat) : Bool := a / 64 ≤ l && l ≤ (a + n - 1) / 64
  decide (a < 0x10000000000) && (s.coh.dir.any (fun e => within e.line && e.txn.isSome)
    || s.coh.msgs.any (fun m => match m with
      | .data _ l _ _ => within l
      | .inv _ _ | .invAck _ _ | .recall _ _ _ | .wbAck _ _ | .respErr _ _ => false))

end Sys2Proof.Machine
end

