-- ==== Sys2Proof/Machine/EngineEnv.lean ====
section
/-!
DEFINITION. What an engine command sees: the image and armature in force, the snapshot, the occupancy
lists and configuration-space layers of its die, and the candidates its core has expanded (R118, R128,
R175, R185).
-/
namespace Sys2Proof.Machine

open Sys2Proof

/-- The parameter values in force: those of the cycle's snapshot, else those of the image (R322). -/
def State.params (s : State) : List Param :=
  match s.cyc.cur with
  | some c => c.params
  | none => s.img.params

/-- The image, the armature, the die's slot, the parameters and the snapshot's ego state. -/
structure EngEnv where
  img : Image
  arm : Armature
  slot : DieSlot
  ps : List Param
  ego : Ego

/-- Where a die's LPDDR holds a section of a length in its region of a KIND; none where no such region of the slot
holds it (R301, R309; log entry 120). -/
def State.placeOf (s : State) (die kind n : Nat) : Option Nat := do
  let r ← (← s.dieSlot die).regions.find? (fun r => r.kind == kind && r.space == 0 && decide (n ≤ r.size))
  return lpddrBase die + r.off

/-- The library as a die's engines read it: from its LPDDR, where the die has it there (R301). -/
def State.libOf (s : State) (die : Nat) (i : Image) : List Byte :=
  match s.placeOf die 0x0C i.lib.length with
  | some a => s.cohRead a i.lib.length
  | none => i.lib

/-- What the engines of a die see; none without an image, an armature slot or a snapshot. -/
def State.engEnv (s : State) (die : Nat) : Option EngEnv := do
  let i ← s.img.active
  return ⟨{ i with lib := s.libOf die i }, ← s.armature, ← s.dieSlot die, s.params, ← s.world.ego⟩

/-- The region of a kind for a unit (R309). -/
def DieSlot.region (d : DieSlot) (kind unit : Nat) : Option Region :=
  d.regions.find? (fun r => r.kind == kind && (r.unit == unit || r.unit == 0xFF))

/-- The enlarger's parameters. -/
def EngEnv.enl (e : EngEnv) : EnlParams := enlParamsOf e.ps

/-- The library header of the image. -/
def EngEnv.lib (e : EngEnv) : LibHdr := LibHdr.ofBytes e.img.lib

/-- Where the occupancy region of a cluster begins: OCC_ADDR (R118). DESIGN CHOICE: the engines read at the KIND 0x08
region's offset, wherever a DE's BUF_ADDR made it write (log entry 124). -/
def EngEnv.occBase (e : EngEnv) (cl : Nat) : Nat :=
  sharedBase cl + ((e.slot.region 0x08 (cl % 4)).map (·.off)).getD 0

/-- Occupancy entries read from memory: `n` u16 entries (R118). -/
def State.occEntries (s : State) (a n : Nat) : OccRec := OccRec.ofEntries ((records 2 n (s.peek a (2 * n))).map leNat)

/-- What a collision command of a cluster sees (R175). -/
def State.chiselEnv (s : State) (e : EngEnv) (cl : Nat) : ChiselEnv :=
  let p := e.enl
  let tt := e.img.world.tt
  { cfg := e.img.world, ego := e.img.ego, prm := chiselParamsOf e.ps e.img.misc, ns := p.ns
    w := s.world.worldTime, s0 := s.world.s0, d0 := s.world.d0
    objects := s.world.objects, statics := s.world.statics
    occ := fun k => s.occEntries (e.occBase cl + k * 32) 16
    stat := fun t => s.occEntries (e.occBase cl + p.ns * p.nb * tt * 32 + t * 64) 32
    nb := p.nb }

/-- Where tile `key % 256` of the bundle of body and bin `key / 256` begins in a die's world store (R103). -/
def csAddr (die key : Nat) : Nat := worldBase die + 0x200000 + key / 256 * 0x40000 + key % 256 * 0x400

/-- A configuration-space value of a die (R103, R106). -/
def State.csAt (s : State) (c : WorldCfg) (die b h i j : Nat) : Nat :=
  let t := c.tileOf i j
  (s.mem.get (csAddr die ((b * 16 + h) * 256 + t.1) + t.2)).toNat

/-! ### Verdict caches (R200, R203) -/

/-- The family table of a core (R127). -/
def State.famTable (s : State) (core : Nat) : List FamEntry := (((s.cores (core / 16))[core % 16]?).map (·.fam)).getD []

/-- The device address of a core's verdict-cache region (R200, R309). -/
def State.cacheBase (s : State) (core : Nat) : Option Nat :=
  ((s.dieSlot (core / 16)).bind (fun d => d.region 0x0B (core % 16))).map (fun r => lpddrBase (core / 16) + r.off)

/-- The device address of a candidate's entry in the region at `base`: a core's indices are 1,024 from a multiple of
1,024 on (R30, R200). -/
def cacheAddr (base cand : Nat) : Nat := base + cand % 1024 * 128

/-- VALID cleared in every entry of the cores that a test names (R203): bits [63:56] of each, all but VALID being 0. -/
def State.clearCaches (s : State) (p : Nat → Bool) : State :=
  let bases := ((List.range 128).filter p).filterMap s.cacheBase
  { s with mem := s.mem.clearWhere (fun a => bases.any (fun b =>
      decide (b ≤ a ∧ a < b + 1024 * 128) && (a - b) % 128 == 7)) }

/-! ### Streams -/

/-- Step `n` of a core. -/
def State.stepAt (s : State) (c n : Nat) : Option SeqStep := stepOf (s.cores (c / 16)) (c % 16) n

/-- The roadmap growth at work stands at its checkpoints: no running thread of the used dies is within PHASE 0 work
between two of them (R314, R447, R451). -/
def State.growStops (s : State) : Bool :=
  !s.ops.any (fun o => o.cls == .grow && o.st.active && !o.yielded)
  || s.img.used.all (fun d => (s.duOf d).threads.zipIdx.all (fun ts => ts.1.all (fun x =>
      x.status != .running || match s.stepAt (d * 16 + ts.2) x.step with
        | none => true
        | some st => st.phase != 0 || st.kind == .halt || (st.ckpt && !x.started))))

/-- What a cost command of a die sees (R185). -/
def State.costEnv (s : State) (e : EngEnv) (die : Nat) : CostEnv :=
  { cfg := e.img.world, prm := costParamsOf e.ps e.img.misc, ego := e.img.ego, s0 := s.world.s0, d0 := s.world.d0
    nsamp := e.img.misc.nsamp, dts := e.img.misc.dts, cs := s.csAt e.img.world die }

/-- PROB of an object's branch in the snapshot (R190). -/
def State.probAt (s : State) (n h : Nat) : Nat := ((lookupKey n s.world.objects).map (fun o => o.probOf h)).getD 0

/-- A candidate's family and ordinal by the family tables of the armature (R127). -/
def Armature.famOf (a : Armature) (cand : Nat) : Option (Nat × Nat) :=
  (((a.slots.map (·.cores)).flatten.map (·.fam)).flatten.find? (fun f =>
    decide (f.first ≤ cand ∧ cand < f.first + f.count))).map (fun f => (f.family, f.ord0 + (cand - f.first)))

/-- A candidate as it stands in a core's output ring (R128, R156). -/
def State.ringCand (s : State) (core cand : Nat) : Option RingCand :=
  s.eng.stream.find? (fun r => r.core == core && r.cand == cand)

/-- The entries of a core's candidates that a test names leave the rings. -/
def State.dropStream (s : State) (core : Nat) (p : Nat → Bool) : State :=
  { s with eng := { s.eng with stream := s.eng.stream.filter (fun r => !(r.core == core && p r.cand)) } }

/-- A core's entry changed. -/
def State.mapStream (s : State) (core cand : Nat) (f : RingCand → RingCand) : State :=
  { s with eng := { s.eng with stream := s.eng.stream.map (fun r => if r.core = core ∧ r.cand = cand then f r else r) } }

/-- An expansion waits in the pose engine's queue or is under way there that still has to write a candidate into a
ring (R156, R178). -/
def State.toExpand (s : State) (core ring cand : Nat) : Bool :=
  (s.queueOf core .pe).zipIdx.any (fun q =>
    let d := PeCmd.ofWord q.1.word
    let from_ := if q.2 = 0 then (s.runOf core .pe).next else 0
    (d.op == 1 || d.op == 2) && d.outOff == ring && decide (d.first + from_ ≤ cand ∧ cand < d.first + d.count))

/-- A candidate that the pose engine has written into a ring, no expansion still having to write it (R178). -/
def State.written (s : State) (core ring cand : Nat) : Option RingCand :=
  (s.ringCand core cand).filter (fun r => r.ring == ring && !s.toExpand core ring cand)

/-- The samples of a candidate in its slot of a ring, NSAMP of them (R156); none but the void mark where the sequencer
has retired it as void (R129, R316). -/
def State.ringSamples (s : State) (nsamp : Nat) (r : RingCand) : List Sample :=
  if r.void then [voidSample]
  else
    let ps := (records 64 nsamp (s.peek (scratchBase r.core + r.ring * 64 + r.slot * (nsamp * 64)) (64 * nsamp))).map Sample.ofBytes
    if isVoid ps then [voidSample] else ps

/-- Counts of the cycle changed (R293). -/
def State.tally (s : State) (f : CycleCounts → CycleCounts) : State :=
  { s with cyc := { s.cyc with cur := s.cyc.cur.map (fun c => { c with counts := f c.counts }) } }

/-- The cycle changed. -/
def State.mapCycle (s : State) (f : Cycle → Cycle) : State :=
  { s with cyc := { s.cyc with cur := s.cyc.cur.map f } }

/-- A candidate counted as void in its family, once in a cycle (R129, R293). -/
def State.countVoid (s : State) (e : EngEnv) (cand : Nat) : State :=
  s.mapCycle (fun k =>
    if k.phase ≠ 3 ∨ k.voided.contains cand then k
    else { k with
      voided := k.voided ++ [cand]
      counts := { k.counts with void := k.counts.void.zipIdx.map (fun v =>
        v.1 + boolNat ((e.arm.famOf cand).map (·.1) == some v.2)) } })

/-- Records of memory. -/
def State.recordsAt (s : State) (a size n : Nat) : List (List Byte) := records size n (s.peek a (size * n))

end Sys2Proof.Machine
end

