-- ==== Sys2Proof/Machine/CeExec.lean ====
section
/-!
DEFINITION. The collision engine's commands: CHECK_STREAM, CHECK_TRAJ and CHECK_POSES (R161 to R184), with the
lanes of a stream (R177 to R179) and the verdict cache (R200 to R203).
-/
namespace Sys2Proof.Machine

open Sys2Proof

/-- Samples at an address. -/
def State.samplesAt (s : State) (a n : Nat) : List Sample := (s.recordsAt a 64 n).map Sample.ofBytes

/-- The flags of one lane's verdict (R177): SAT where it arose in an earlier ECLK, then the one that decides. Flags
that arise together with the deciding one take no reaction of their own. -/
def State.verdictFlags (s : State) (c : QCmd) (lane cand : Nat) (r : VRec) (early : Bool) : State :=
  let s := if early then s.flag c 0x5 lane cand else s
  s.flag c (if r.verdict.isLethal then 0x2 else if r.trunc then 0x3 else 0x4) lane cand none
    (if r.sat ∧ !early then [5] else [])

/-- The issuing step goes on after HIT, so that END follows (R179). -/
def State.goesOn (s : State) (c : QCmd) : Bool := (s.stepAt c.core c.step).any (fun st => reactionOf st 0x2 == .continue_)

/-- The verdict cache may serve a candidate of a command (R200). -/
def EngEnv.caches (e : EngEnv) (cand : Nat) (d : KeCmd) : Bool :=
  let f := (e.arm.famOf cand).map (·.1)
  d.op == 1 && !d.flag && (f == some 0 || f == some 3)

/-- A lane's verdict on its candidate, and the cache entry that its retirement writes (R174, R201, R202). With
`miss`, the entry is read with an uncorrectable error and counts as a miss (R203). -/
def State.laneVerdict (s : State) (e : EngEnv) (core : Nat) (d : KeCmd) (cand : Nat) (miss : Bool) (ps : List Sample) :
    VRec × Option (List Byte) :=
  let v := s.chiselEnv e (core / 4)
  match if e.caches cand d then s.cacheBase core else none with
  | none => (v.verdictOf d.flag d.bmask ps, none)
  | some b =>
    let (sb, g) := egoBins e.img.lib e.lib e.ego
    let old := if miss then none else CacheEntry.ofBytes (s.cohRead (cacheAddr b cand) 128)
    let r := v.verdictFrom d.flag d.bmask (cacheHit (s.world.forDie e.img.world (core / 16)) e.ego cand g sb old) ps
    (r.1, some (cacheWrite v s.world e.ego cand g sb r.2 ps).bytes)

/-- A verdict record written (R176). -/
def State.putVerdict (s : State) (core : Nat) (d : KeCmd) (cand : Nat) (r : VRec) : State :=
  s.poke (scratchBase core + d.outOff * 64 + (cand - d.first) * 64) (r.bytes cand)

/-- The counts CAPPED and TRUNCS of a command's verdicts reach the status record (R182, R293). -/
def State.checkCounts (s : State) (rs : List VRec) : State :=
  s.tally (fun k => { k with
    capped := k.capped + (rs.filter (fun r => r.verdict == .cap || r.verdict == .sattile)).length
    truncs := k.truncs + (rs.filter (fun r => r.trunc)).length })

/-! ### CHECK_STREAM -/

/-- A COST_STREAM waits in the cost engine's queue or is under way there that still has to read a candidate of a
ring (R197). -/
def State.toCost (s : State) (core ring cand : Nat) : Bool :=
  (s.queueOf core .ke).zipIdx.any (fun q =>
    let d := KeCmd.ofWord q.1.word
    let from_ := if q.2 = 0 then (s.runOf core .ke).next else 0
    d.op == 1 && d.inOff == ring && decide (d.first + from_ ≤ cand ∧ cand < d.first + d.count))

/-- The lanes of a stream given its first candidates, where they are not yet (R178). -/
def State.startLanes (s : State) (core : Nat) (d : KeCmd) : State :=
  if s.runs core .ce then s
  else
    let n := min d.lanes d.count
    let run := s.runOf core .ce
    let s := s.setRun { run with next := n }
    let new := (List.range n).map (fun (j : Nat) => (⟨core, j, d.first + j, none, none⟩ : Lane))
    { s with eng := { s.eng with lanes := s.eng.lanes.filter (fun l => l.core != core) ++ new } }

/-- A lane of a core. -/
def State.laneOf (s : State) (core j : Nat) : Option Lane := s.eng.lanes.find? (fun l => l.core == core && l.lane == j)

/-- A lane replaced, or left without a candidate. -/
def State.setLane (s : State) (core j : Nat) (l : Option Lane) : State :=
  { s with eng := { s.eng with lanes := s.eng.lanes.filter (fun x => !(x.core == core && x.lane == j)) ++ l.toList } }

/-- Lane `j` reaches its candidate's verdict, once the pose engine has written the candidate and every COST_STREAM of
the ring has read it (R178, R197), and raises its flags. -/
def State.laneStep (s : State) (e : EngEnv) (core : Nat) (d : KeCmd) (c : QCmd) (miss : Option Nat) (j : Nat) : State :=
  match s.laneOf core j with
  | none => s
  | some l =>
    match if l.verdict.isSome || s.toCost core d.inOff l.cand then none else s.written core d.inOff l.cand with
    | none => s
    | some r =>
      let ps := s.ringSamples e.img.misc.nsamp r
      let o := s.laneVerdict e core d l.cand (miss == some j) ps
      let early := (s.chiselEnv e (core / 4)).satBefore d.flag d.bmask ps o.1
      (s.setLane core j (some { l with verdict := some o.1, entry := o.2 })).verdictFlags c j l.cand o.1 early

/-- CHECK_STREAM (R177, R178, R181): every lane goes as far as it can. -/
def State.checkStreamBody (s : State) (core : Nat) (d : KeCmd) (miss : Option Nat) (c : QCmd) : State :=
  match s.engEnv (core / 16) with
  | none => s
  | some e => (List.range d.lanes).foldl (fun (s : State) j => s.laneStep e core d c miss j) (s.startLanes core d)

/-- *Retire and refill lane* (R178, R202): the verdict record and the cache entry are written, the candidate's slot is
freed, and the lane takes the lowest candidate that no lane has yet taken. -/
def State.retireLane (s : State) (core cand : Nat) : State :=
  match s.eng.lanes.find? (fun l => l.core == core && l.cand == cand), (s.queueOf core .ce).head? with
  | some ⟨_, j, _, some v, entry⟩, some q =>
    let d := ceOfWord q.word
    let run := s.runOf core .ce
    let s := s.putVerdict core d cand v
    let s := match s.cacheBase core, entry with
      | some b, some bs => s.cohWrite (cacheAddr b cand) bs
      | _, _ => s
    let s := s.mapStream core cand (fun r => { r with retired := true })
    let more := decide (run.next < d.count)
    let s := s.setLane core j (if more then some ⟨core, j, d.first + run.next, none, none⟩ else none)
    s.setRun { run with next := run.next + boolNat more, done := run.done + 1, verdicts := run.verdicts ++ [v] }
  | _, _ => s

/-- The result of a stream whose candidates have all retired (R182). -/
def State.checkStreamEnd (s : State) (core : Nat) (d : KeCmd) (c : QCmd) : State :=
  let rs := (s.runOf core .ce).verdicts
  (s.result (core / 4) d.resultOff (chiselResult rs (s.goesOn c) false)).checkCounts rs

/-- The result of a faulted CE command (R182, R184): what its candidates raised before, with FAULT; whether a HIT
arose in the same ECLK is a free value. -/
def State.checkFailed (s : State) (core : Nat) (d : KeCmd) (c : QCmd) : State :=
  let done := (s.runOf core .ce).verdicts
  let under := (s.eng.lanes.filter (fun l => l.core == core)).filterMap (·.verdict)
  let hit : List VRec := if bitAt s.freeVal.toNat 0 then [{ VRec.init with verdict := .geom }] else []
  let raised := getLe (chiselResult (done ++ under ++ hit) (s.goesOn c) true) 8 8
  (s.spend 1).result (core / 4) d.resultOff ((chiselResult done false true).take 8 ++ leBytes 8 raised)

/-! ### CHECK_TRAJ and CHECK_POSES -/

/-- The key of a core's trajectory among the verdicts of the cycle (R261). -/
def trajKey (core cand : Nat) : Nat := core * 2 ^ 32 + cand

/-- CHECK_TRAJ (R180): one record for the whole sequence. The flag's lane is the one that took the deciding sample. -/
def State.checkTrajBody (s : State) (core : Nat) (d : KeCmd) (c : QCmd) : State :=
  match s.engEnv (core / 16) with
  | none => s
  | some e =>
    let v := s.chiselEnv e (core / 4)
    let ps := s.samplesAt (scratchBase core + d.inOff * 64) d.count
    let r := v.verdictOf d.flag d.bmask ps
    let k := if r.verdict.isLethal then r.sample else if r.trunc then r.tsample else d.count - 1
    let s := s.putVerdict core d d.first r
    let s := { s with eng := { s.eng with trajs := insertKey (trajKey core d.first) r s.eng.trajs } }
    let s := (s.result (core / 4) d.resultOff (chiselResult [r] (s.goesOn c) false)).checkCounts [r]
    s.verdictFlags c (k % d.lanes) d.first r (v.satBefore d.flag d.bmask ps r)

/-- The command checks corridor offset poses: they are the samples at IN_OFF, each moved to the
2 NCORR + 1 offsets (R151, R242; log entry 24). -/
def EngEnv.corridorForm (e : EngEnv) (phase : Nat) (d : KeCmd) : Bool :=
  d.bmask == e.arm.recheckBmask && (phase == 3 || phase == 5) && d.count % (2 * paramVal e.ps 0x31 0 + 1) == 0

/-- The poses a CHECK_POSES command checks. -/
def State.posesOf (s : State) (e : EngEnv) (core : Nat) (d : KeCmd) : List Sample :=
  let a := scratchBase core + d.inOff * 64
  if e.corridorForm s.phase d then
    let n := paramVal e.ps 0x31 0
    let w := 2 * n + 1
    let step : Int := paramVal e.ps 0x30 0
    ((s.samplesAt a (d.count / w)).map (fun p => (List.range w).map (fun (j : Nat) =>
      p.shift (((j : Int) - (n : Int)) * step) e.img.ego.length))).flatten
  else s.samplesAt a d.count

/-- CHECK_POSES (R165, R180): one record per pose; a pose's flags arise in one ECLK. -/
def State.checkPosesBody (s : State) (core : Nat) (d : KeCmd) (c : QCmd) : State :=
  match s.engEnv (core / 16) with
  | none => s
  | some e =>
    let v := s.chiselEnv e (core / 4)
    let rs := (s.posesOf e core d).map (v.verdictPose d.flag d.bmask e.img.misc.dts e.img.misc.nsamp)
    let s := rs.zipIdx.foldl (fun (s : State) r => s.putVerdict core d (d.first + r.2) r.1) s
    let s := (s.result (core / 4) d.resultOff (chiselResult rs (s.goesOn c) false)).checkCounts rs
    rs.zipIdx.foldl (fun (s : State) r => s.verdictFlags c (r.2 % d.lanes) (d.first + r.2) r.1 false) s

/-! ### Rows -/

/-- A CE command of one operation. -/
def State.ceRun (s : State) (core : Nat) (w : BitVec 128) (hw : HwEvent) (op : Nat) (body : KeCmd → QCmd → State → State) :
    Out :=
  let d := ceOfWord w.toNat
  if d.op ≠ op then .fault .malformed
  else .next (s.engineRun core .ce w hw op d.first (if op = 2 then 1 else d.count) (body d)
    (fun c _ s => s.checkFailed core d c))

/-- A stream taken further, a lane's cache entry being unreadable where `miss` names one. -/
def State.checkStream (s : State) (core : Nat) (w : BitVec 128) (hw : HwEvent) (d : KeCmd) (miss : Option Nat) : State :=
  s.streamRun core .ce w hw 1 d.first d.count (fun c s => s.checkStreamBody core d miss c)
    (fun s => (s.engEnv (core / 16)).isNone || decide (d.count ≤ (s.runOf core .ce).done)) (fun c s => s.checkStreamEnd core d c)
    (fun c s => s.checkFailed core d c)

/-- CHECK_STREAM (R178, R181). An uncorrectable word of LPDDR is a word of a verdict-cache entry, which the gather unit
alone reads there: the entry of some lane, a free value, counts as a miss, and the error is recorded as not consumed
(R203). -/
def execCheckStream (core : Core) (w : BitVec 128) (hw : HwEvent) (s : State) : Out :=
  let d := ceOfWord w.toNat
  if d.op ≠ 1 then .fault .malformed
  else match hw with
  | .ecc ⟨7, _⟩ b o =>
    if (s.cacheBase core).isSome && !d.flag && (s.queueOf core .ce).head?.any (fun q => q.word == w.toNat) then
      let s' := s.checkStream core w .clean d (some (s.freeVal.toNat % d.lanes))
      .next ((s'.spend 1).record ⟨.eccUncorr, .info, engineLoc core .ce, 7 + 256 * b.val, o / 64 % 2 ^ 31 + 2 ^ 31⟩)
    else .next (s.checkStream core w hw d none)
  | _ => .next (s.checkStream core w hw d none)

/-- CHECK_TRAJ (R181). -/
def execCheckTraj (core : Core) (w : BitVec 128) (hw : HwEvent) (s : State) : Out :=
  s.ceRun core w hw 2 (fun d c s => s.checkTrajBody core d c)
/-- CHECK_POSES (R181). -/
def execCheckPoses (core : Core) (w : BitVec 128) (hw : HwEvent) (s : State) : Out :=
  s.ceRun core w hw 3 (fun d c s => s.checkPosesBody core d c)

end Sys2Proof.Machine
end

