-- ==== Sys2Proof/Machine/KeExec.lean ====
section
/-!
DEFINITION. The cost engine's commands: COST_STREAM, COST_TRAJ and COST_FINAL (R185 to R198), and the static costs of
the roadmap's edges as a die holds them (R204).
-/
namespace Sys2Proof.Machine

open Sys2Proof

/-- The result of a faulted KE command (R195): what a COST_STREAM's candidates raised before, with FAULT. -/
def State.costFailed (s : State) (core : Nat) (d : KeCmd) (_c : QCmd) : State :=
  let r := s.runOf core .ke
  s.result (core / 4) d.resultOff (keResult r.next 0 0 r.sat r.clay r.clim true)

/-- Records of 16 bytes written from OUT_OFF on (R193). -/
def State.putRecs (s : State) (core : Nat) (d : KeCmd) (rs : List (List Byte)) : State :=
  s.poke (scratchBase core + d.outOff * 64) rs.flatten

/-- The flags of a candidate's costing: SAT, CLAY, CLIM (R196). -/
def State.costFlags (s : State) (c : QCmd) (cand : Nat) (q : Partial) : State :=
  let s := if q.sat then s.flag c 0x5 0xFFFFFFFF cand else s
  let s := if q.clay then s.flag c 0x8 0xFFFFFFFF cand else s
  if q.clim then s.flag c 0x9 0xFFFFFFFF cand else s

/-- The partial record of a stream's candidate: a void one has no samples to cost (R129, R189). -/
def CostEnv.costRing (v : CostEnv) (ps : List Sample) : Partial :=
  if isVoid ps then ⟨0, false, false, false, 0xFFFF⟩ else v.costSamples false ps

/-- The next candidate of a COST_STREAM costed, once the pose engine has written it (R178, R189, R193 to R196). -/
def State.costNext (s : State) (e : EngEnv) (core : Nat) (d : KeCmd) (c : QCmd) : State :=
  let run := s.runOf core .ke
  let cand := d.first + run.next
  match if run.next < d.count then s.written core d.inOff cand else none with
  | none => s
  | some r =>
    let q := (s.costEnv e (core / 16)).costRing (s.ringSamples e.img.misc.nsamp r)
    let s := s.poke (scratchBase core + d.outOff * 64 + run.next * 16) (q.bytes cand)
    let s := s.setRun { run with next := run.next + 1, sat := run.sat || q.sat, clay := run.clay || q.clay, clim := run.clim || q.clim }
    s.costFlags c cand q

/-- COST_STREAM goes as far as it can (R193). -/
def State.costStreamBody (s : State) (core : Nat) (d : KeCmd) (c : QCmd) : State :=
  match s.engEnv (core / 16) with
  | none => s
  | some e => (List.range d.count).foldl (fun (s : State) _ => s.costNext e core d c) s

/-- The result of a COST_STREAM (R195). -/
def State.costStreamEnd (s : State) (core : Nat) (d : KeCmd) (_c : QCmd) : State :=
  let r := s.runOf core .ke
  s.result (core / 4) d.resultOff (keResult r.next 0 0 r.sat r.clay r.clim false)

/-- COST_TRAJ (R189, R193). -/
def State.costTrajBody (s : State) (core : Nat) (d : KeCmd) (c : QCmd) : State :=
  match s.engEnv (core / 16) with
  | none => s
  | some e =>
    let ps := s.samplesAt (scratchBase core + d.inOff * 64) d.count
    let q := (s.costEnv e (core / 16)).costSamples true ps
    let s := s.putRecs core d [q.bytes d.first]
    let s := s.result (core / 4) d.resultOff (keResult 1 0 0 q.sat q.clay q.clim false)
    s.costFlags c d.first q

/-- COST_FINAL (R190, R192, R193): verdict and partial records become cost records; those of the
candidate stream stay for the contact sheet (R290). -/
def State.costFinalBody (s : State) (core : Nat) (d : KeCmd) (c : QCmd) : State :=
  match s.engEnv (core / 16) with
  | none => s
  | some e =>
    let v := s.costEnv e (core / 16)
    let vs := (s.recordsAt (scratchBase core + d.inOff * 64) 64 d.count).map VRec.ofBytes
    let qs := (s.recordsAt (scratchBase core + d.outOff * 64) 16 d.count).map Partial.ofBytes
    let rs := (vs.zip qs).zipIdx.map (fun x => v.costFinal s.probAt d.flag (d.first + x.2) x.1.1 x.1.2)
    let cleth := (rs.filter (fun r => r.verdict == .free && (r.clay || r.clim))).length
    let s := s.putRecs core d (rs.map CostRec.bytes)
    let s := s.result (core / 4) d.resultOff (keResult rs.length cleth (ksumOf rs) (rs.any (·.sat)) false false false)
    let s := if s.phase ≤ 4 ∧ !d.flag then s.mapCycle (fun k => { k with costs := k.costs ++ rs }) else s
    rs.foldl (fun (s : State) r => if r.sat then s.flag c 0x5 0xFFFFFFFF r.cand else s) s

/-- The static cost of an edge of the roadmap of `cnt` nodes, established in the present snapshot on a die (R204). -/
def State.edgeEntry (s : State) (e : EngEnv) (die : Nat) (r : RmRegion) (x : Nat × Nat) : EStat :=
  let p := e.img.roadmap
  let g := edgeStat (s.chiselEnv e (4 * die)) (s.costEnv e die) e.lib.step (rmNode p r x.1) (rmNode p r x.2)
  ⟨x.1, x.2, g.1, s.world.epoch, s.world.s0, s.world.d0, g.2⟩

/-- The costs of the roadmap's edges after growth: those of the edges that stand, and those of the edges that the
growth created; none before the first snapshot, where an edge is stale anyway (R146, R205; log entry 108). -/
def State.grownEdges (s : State) : List EStat :=
  match s.img.used.head?.bind (fun d => (s.engEnv d).map (fun e => (d, e))), s.img.region with
  | some (d, e), some r =>
    let kmax := (e.img.ego.head?.map (·.kappaMax)).getD 0
    ((List.range s.img.nodes).map (fun n =>
      (edgeSet e.img.roadmap r kmax s.img.nodes n).map (fun m =>
        (s.img.estat.find? (fun y => y.src == n && y.dst == m)).getD (s.edgeEntry e d r (n, m))))).flatten
  | _, _ => s.img.estat

/-- A KE command of one operation. -/
def State.keRun (s : State) (core : Nat) (w : BitVec 128) (hw : HwEvent) (op : Nat) (body : KeCmd → QCmd → State → State) :
    Out :=
  let d := KeCmd.ofWord w.toNat
  if d.op ≠ op then .fault .malformed
  else .next (s.engineRun core .ke w hw op d.first (if op = 2 then 1 else d.count) (body d)
    (fun c _ s => s.costFailed core d c))

/-- COST_STREAM (R193). -/
def execCostStream (core : Core) (w : BitVec 128) (hw : HwEvent) (s : State) : Out :=
  let d := KeCmd.ofWord w.toNat
  if d.op ≠ 1 then .fault .malformed
  else .next (s.streamRun core .ke w hw 1 d.first d.count (fun c s => s.costStreamBody core d c)
    (fun s => (s.engEnv (core / 16)).isNone || decide (d.count ≤ (s.runOf core .ke).next))
    (fun c s => s.costStreamEnd core d c) (fun c s => s.costFailed core d c))
/-- COST_TRAJ (R193). -/
def execCostTraj (core : Core) (w : BitVec 128) (hw : HwEvent) (s : State) : Out :=
  s.keRun core w hw 2 (fun d c s => s.costTrajBody core d c)
/-- COST_FINAL (R193). -/
def execCostFinal (core : Core) (w : BitVec 128) (hw : HwEvent) (s : State) : Out :=
  s.keRun core w hw 3 (fun d c s => s.costFinalBody core d c)

end Sys2Proof.Machine
end

