-- ==== Sys2Proof/Machine/Guess.lean ====
section
/-!
DEFINITION. The held plan as a source of poses: its samples, the guesses of the optimisation generator and
their progress (R150, R152, R207, R280, R281).
-/
namespace Sys2Proof.Machine

open Sys2Proof

/-- The held plan's anchor, world time and samples (R280). -/
def heldPlan (b : List Byte) : Anchor × Nat × List TSample :=
  (⟨getSle b 40 4, getSle b 44 4, getLe b 48 2⟩, getLe b 24 8, (records 40 (getLe b 6 2) (b.drop 256)).map TSample.ofBytes)

/-- The bounds between two successive samples, for the one that answers for them (R138, R139, R207): SAG 0,
D the distance of the body-0 origins rounded up, tv[b] the change of body b's heading (log entry 31). -/
def sampleSpan (ego : List EgoBody) (a b own : Sample) : List BoundXY :=
  let dx := (b.body 0).x - (a.body 0).x
  let dy := (b.body 0).y - (a.body 0).y
  let d : Int := (isqrtCeil (dx * dx + dy * dy).toNat : Nat)
  halfBound ego 0 (halfArc true 0 d) ((List.range 3).map (fun k => iabs (diffA16 (b.body k).h (a.body k).h)))
    [0, code 16 (own.art 1), code 16 (own.art 2)]

/-- A pose sequence with its swept bounds (R138, R140, R207). -/
def sweepSeq (ego : List EgoBody) (ps : List Sample) : List Sample :=
  ps.zipIdx.map (fun x =>
    let p := x.1
    let fwd := match ps[x.2 + 1]? with
      | some n => sampleSpan ego p n p
      | none => []
    let back := if x.2 = 0 then [] else match ps[x.2 - 1]? with
      | some q => sampleSpan ego q p p
      | none => []
    p.withBounds ego.length ((List.range 3).map (fun b => (nth .zero fwd b).max (nth .zero back b))))

/-! ### Guesses (R150) -/

/-- The pose between two samples 10 ms apart, `f` ticks after the first (R75, R150). -/
def betweenSamples (f : Nat) (a b : Sample) : Sample :=
  let body (x : BodySample × BodySample) : BodySample :=
    ⟨lerp x.1.x x.2.x f 1000000, lerp x.1.y x.2.y f 1000000, lerpA16 x.1.h x.2.h f 1000000, 0, 0⟩
  { a with bodies := (a.bodies.zip b.bodies).map body, v := lerp a.v b.v f 1000000, acc := lerp a.acc b.acc f 1000000
           kappa := lerp a.kappa b.kappa f 1000000, kdot := lerp a.kdot b.kdot f 1000000 }

/-- The held plan's samples in P32 and A16 (R258, R260); none where one is not finite. -/
def heldSamples (ego : List EgoBody) (an : Anchor) (ts : List TSample) : Option (List Sample) :=
  ts.zipIdx.mapM (fun x =>
    match ((ExceptT.run (recheckSample ego an ts x.2 x.1)).run {}).1 with
    | .ok p => some p
    | .error _ => none)

/-- Guess 0: the held plan at the sample times, held at its last sample after its end (R150); the swept bounds as
those of a held plan (log entry 31). -/
def planGuess (ego : List EgoBody) (nsamp dts w : Nat) (held : List Byte) : List Sample :=
  let (an, w0, ts) := heldPlan held
  match heldSamples ego an ts with
  | none => [voidSample]
  | some ps =>
    let at_ (k : Nat) : Sample :=
      let el := w + k * dts * 100000 - w0
      let i := el / 1000000
      match ps[i]?, ps[i + 1]? with
      | some a, some b => betweenSamples (el % 1000000) a b
      | _, _ => nth voidSample ps (ps.length - 1)
    sweepSeq ego ((List.range nsamp).map (fun k => { at_ k with t := k * dts }))

/-- Guess entry `n` of the held plan record: geometric bin, profile, path (R280, R281). -/
def guessEntry (held : List Byte) (n : Nat) : Option (Nat × Nat × Nat) :=
  if n < getLe held 61 1 then some (getLe held (96 + 8 * n) 2, getLe held (98 + 8 * n) 2, getLe held (100 + 8 * n) 4) else none

/-- The guess that OPT ordinal `o` refines (R150); void while no plan is held or where the guess list does not
reach it. -/
def State.guess (s : State) (e : EngEnv) (o : Nat) : List Sample :=
  match s.cyc.held with
  | none => [voidSample]
  | some h =>
    let n := o % max 1 e.arm.ng
    if n = 0 then planGuess e.img.ego e.img.misc.nsamp e.img.misc.dts s.world.worldTime h.1
    else match guessEntry h.1 (n - 1) with
      | none => [voidSample]
      | some x => expandBin e.img.lib e.lib e.img.ego e.ego false (egoBins e.img.lib e.lib e.ego).1 x.1 x.2.2 x.2.1

/-- The profile that follows a guess's progress (R152): S[k] = max(S[k - 1], X0[k] - X0[0]). -/
def progress (ps : List Sample) : List ProfEntry :=
  let x0 := ((ps.head?).map (fun p => (p.body 0).x)).getD 0
  (ps.foldl (fun (st : Nat × List ProfEntry) p =>
    let k := max st.1 ((p.body 0).x - x0).toNat
    (k, st.2 ++ [⟨k, speedMag p.v, p.acc⟩])) (0, [])).2

/-- The sample list of candidate `i` of an EXPAND_LIB command: an OPT candidate's guess, else the library's
(R136, R150; log entry 56). -/
def State.libSamples (s : State) (e : EngEnv) (d : PeCmd) (i : Nat) : List Sample :=
  if (e.arm.famOf (d.first + i)).map (·.1) = some 2 then s.guess e (d.ord + i)
  else expandLib e.img.lib e.lib e.img.ego e.ego d.section_ (d.ord + i)

end Sys2Proof.Machine
end

