-- ==== Sys2Proof/Machine/PeExec.lean ====
section
/-!
DEFINITION. The pose engine's commands: EXPAND_LIB, EXPAND_SEQ, BUILD_PATH and RM_SEARCH (R126 to
R158).
-/
namespace Sys2Proof.Machine

open Sys2Proof

/-- The bytes of a station sequence with its profile (log entry 22). -/
def seqBytes (ss : List Station) (prof : List ProfEntry) : List Byte :=
  padTo (up64 (24 * ss.length)) (ss.map Station.bytes).flatten ++ (prof.map ProfEntry.bytes).flatten

/-- The stations at an address. -/
def State.stationsAt (s : State) (a n : Nat) : List Station := (s.recordsAt a 24 n).map Station.ofBytes

/-- The profile behind `nstn` stations. -/
def State.profileAt (s : State) (a nstn nsamp : Nat) : List ProfEntry :=
  (s.recordsAt (a + up64 (24 * nstn)) 8 nsamp).map ProfEntry.ofBytes

/-- SAT of a candidate stays in its record from the sample on at which it arises, or from the first where its
stations saturated (R42, log entry 116). -/
def stickySat (sat : Bool) : List Sample → List Sample
  | [] => []
  | p :: ps => { p with sat := sat || p.sat } :: stickySat (sat || p.sat) ps

/-- The pose engine may write a slot of a ring (R156): no candidate that the command itself wrote, or that a queued
CHECK_STREAM names, holds it unretired (log entry 10). -/
def State.slotFree (s : State) (core : Nat) (d : PeCmd) (slot : Nat) : Bool :=
  !s.eng.stream.any (fun r => r.core == core && r.ring == d.outOff && r.slot == slot && !r.retired
    && (decide (d.first ≤ r.cand ∧ r.cand < d.first + (s.runOf core .pe).next)
      || (s.queueOf core .ce).any (fun q =>
        let k := ceOfWord q.word
        k.op == 1 && k.inOff == d.outOff && decide (k.first ≤ r.cand ∧ r.cand < k.first + k.count))))

/-- A candidate written into a slot: the samples, and the entry of the ring in place of the slot's last one; one that
is retired as void keeps its mark (R129, R156). -/
def State.putSlot (s : State) (core : Nat) (d : PeCmd) (nsamp cand slot : Nat) (ps : List Sample) : State :=
  let s := s.poke (scratchBase core + d.outOff * 64 + slot * (nsamp * 64)) (ps.map Sample.bytes).flatten
  let others := s.eng.stream.filter (fun r => r.void || !(r.core == core && r.ring == d.outOff && r.slot == slot))
  { s with eng := { s.eng with stream := others ++ [⟨core, cand, d.outOff, slot, false, false⟩] } }

/-- The next candidate of an EXPAND written, once its slot is free, with its counts and flags (R128, R129, R156 to
R158). `gen` gives the samples of candidate FIRST + i. -/
def State.expandNext (s : State) (e : EngEnv) (core : Nat) (d : PeCmd) (c : QCmd) (gen : State → Nat → List Sample) : State :=
  let run := s.runOf core .pe
  let slot := run.next % d.slots
  if d.count ≤ run.next ∨ !s.slotFree core d slot then s
  else
    let cand := d.first + run.next
    let ps := stickySat (s.eng.pathSat.contains (core, cand)) (gen s run.next)
    let s := s.putSlot core d e.img.misc.nsamp cand slot ps
    let s := if isVoid ps then s.countVoid e cand else s
    let s := s.setRun { run with next := run.next + 1, voids := run.voids + boolNat (isVoid ps)
                                 unbound := run.unbound + (ps.filter (·.unbound)).length
                                 sat := run.sat || ps.any (·.sat) }
    let s := if ps.any (·.sat) then s.flag c 0x5 0xFFFFFFFF cand else s
    if isVoid ps then s.flag c 0x6 0xFFFFFFFF cand else s

/-- An EXPAND goes as far as it can (R156); at its start earlier entries of its candidates leave the rings. -/
def State.expandBody (s : State) (core : Nat) (d : PeCmd) (gen : EngEnv → State → Nat → List Sample) (c : QCmd) : State :=
  match s.engEnv (core / 16) with
  | none => s
  | some e =>
    let s := if s.runs core .pe then s
      else (s.dropStream core (fun k => decide (d.first ≤ k ∧ k < d.first + d.count))).setRun (s.runOf core .pe)
    (List.range d.count).foldl (fun (s : State) _ => s.expandNext e core d c (gen e)) s

/-- The result of an EXPAND (R157): DONE counts every candidate of the command, void ones too (log entry 117). -/
def State.expandEnd (s : State) (core : Nat) (d : PeCmd) (fault : Bool) (_c : QCmd) : State :=
  let r := s.runOf core .pe
  s.result (core / 4) d.resultOff (peResult r.next r.voids r.unbound 0 r.sat (r.voids != 0) fault)

/-- An EXPAND command of one operation. -/
def State.expandRun (s : State) (core : Nat) (w : BitVec 128) (hw : HwEvent) (op : Nat)
    (gen : PeCmd → EngEnv → State → Nat → List Sample) : Out :=
  let d := PeCmd.ofWord w.toNat
  if d.op ≠ op then .fault .malformed
  else .next (s.streamRun core .pe w hw op d.first d.count (fun c s => s.expandBody core d (gen d) c)
    (fun s => (s.engEnv (core / 16)).isNone || decide (d.count ≤ (s.runOf core .pe).next))
    (fun c s => s.expandEnd core d false c) (fun c s => s.expandEnd core d true c))

/-- An OPT candidate is void while no plan is held and once a solve of it has failed (R150 to R152). -/
def State.optIsVoid (s : State) (e : EngEnv) (cand : Nat) : Bool :=
  (e.arm.famOf cand).map (·.1) == some 2
  && (s.cyc.held.isNone || (s.cyc.cur.map (fun c => c.optVoid.contains cand)).getD false)

/-- The samples of candidate FIRST + i of an EXPAND_SEQ: sequence `i` of the input (R139, R141, R150 to R152, R155). -/
def State.seqSamples (s : State) (e : EngEnv) (core : Nat) (d : PeCmd) (i : Nat) : List Sample :=
  let h := e.lib
  let n := e.img.misc.nsamp
  let a := scratchBase core + d.inOff * 64 + i * seqStride h.nstn n
  if s.optIsVoid e (d.first + i) then [voidSample]
  else expandSeq e.img.ego n ⟨⟨0, 0, 0, true, 0, e.ego.reverse⟩, h.step, s.stationsAt a h.nstn, s.profileAt a h.nstn n,
    e.img.misc.dts⟩

/-- The profile that no sequence can follow: the candidate built with it is void (log entry 22). -/
def badProfile (nsamp : Nat) : List ProfEntry := List.replicate nsamp ⟨0xFFFFFFFF, 0, 0⟩

/-- A path list entry read back: the nodes of a path, none for no path. -/
def State.pathAt (s : State) (img : Image) (r : RmRegion) (a : Nat) : List RmNode :=
  let n := getLe (s.peek a 4) 0 4
  ((s.recordsAt (a + 4) 4 (min n 1039)).map leNat).map (rmNode img.roadmap r)

/-- The profile of a sequence built in STATIONS mode (R152): the progress of the guess that an OPT candidate
refines, else the one stored behind the stations (log entry 22). -/
def State.stationsProfile (s : State) (e : EngEnv) (d : PeCmd) (a : Nat) : List ProfEntry :=
  let n := e.img.misc.nsamp
  if (e.arm.famOf d.first).map (·.1) = some 2 then
    let g := s.guess e d.ord
    if isVoid g then badProfile n else progress g
  else s.profileAt a d.count n

/-- SAT of a candidate's stations kept until its samples take it over (R42). -/
def State.keepPathSat (s : State) (core cand : Nat) (sat : Bool) : State :=
  if sat ∧ !s.eng.pathSat.contains (core, cand) then
    { s with eng := { s.eng with pathSat := s.eng.pathSat ++ [(core, cand)] } }
  else s

/-- BUILD_PATH (R141, R142, R148, R149, R152): from a node list in CUBIC mode, from raw stations in STATIONS
mode. -/
def State.buildPathBody (s : State) (core : Nat) (d : PeCmd) (c : QCmd) : State :=
  match s.engEnv (core / 16) with
  | none => s
  | some e =>
    let n := e.img.misc.nsamp
    let step := e.lib.step
    let a := scratchBase core + d.inOff * 64
    let path := match s.img.region with
      | some r => s.pathAt e.img r a
      | none => []
    let raw : List (Int × Int × Nat × Int) :=
      if d.mode then (s.stationsAt a d.count).map (fun x => (x.x, x.y, x.psi, x.kappa))
      else cubicRaw step d.count e.ego path
    let missing := !d.mode && path.isEmpty
    let ss := finishStations e.img.ego step e.ego (satRaw raw)
    let range := missing || !stationsInBand step ss
    let prof := if range then badProfile n
      else if d.mode then s.stationsProfile e d a
      else roadmapProfile n e.img.misc.dts e.ego path
    let sat := (!missing && rawSat e.img.ego step e.ego raw) || (!d.mode && speedSat e.ego)
    let s := s.poke (scratchBase core + d.outOff * 64) (seqBytes ss prof)
    let s := s.result (core / 4) d.resultOff (peResult d.count (boolNat range) 0 0 sat range false)
    let s := s.keepPathSat core d.first sat
    let s := if sat then s.flag c 0x5 0xFFFFFFFF d.first else s
    if range then s.flag c 0x6 0xFFFFFFFF d.first else s

/-- The goal of the cycle's descriptor (R147, R433). -/
def Desc.goal (d : Desc) : RmGoal := ⟨getSle d.bytes 44 4, getSle d.bytes 48 4, getSle d.bytes 52 4⟩

/-- ESTAT of an edge as cached; an edge without one is lethal (R147, R204). -/
def State.estatOf (s : State) (n m : Nat) : Nat :=
  ((s.img.estat.find? (fun x => x.src == n && x.dst == m)).map (·.cost)).getD c24Lethal

/-- RM_SEARCH (R147): the paths of ordinals ORD to ORD + COUNT - 1 as a path list (log entry 23), and SAT where a sum
of the search or the ego's |SPEED| saturates (R41, R43). -/
def State.rmSearchBody (s : State) (core : Nat) (d : PeCmd) (c : QCmd) : State :=
  match s.engEnv (core / 16), s.img.region, s.cyc.cur with
  | some e, some r, some cy =>
    let kmax := (e.img.ego.head?.map (·.kappaMax)).getD 0
    let cs := rmSearch e.img.roadmap r kmax s.img.nodes (paramVal e.ps 0x32 0) s.estatOf e.ego
    let ps := (List.range d.count).map (fun i => rmPath e.img.roadmap r cy.desc.goal cs (d.ord + i))
    let entry (p : Option (List Nat)) : List Byte :=
      let ns := (p.getD []).take 1039
      leBytes 4 ns.length ++ (ns.map (leBytes 4)).flatten
    let s := ps.zipIdx.foldl (fun (s : State) x =>
      s.poke (scratchBase core + d.outOff * 64 + x.2 * pathStride) (entry x.1)) s
    let sat := cs.any (·.sat) || speedSat e.ego
    let s := s.result (core / 4) d.resultOff
      (peResult (ps.filter (·.isSome)).length 0 0 (((rmWindow e.img.roadmap r s.img.nodes e.ego.x).length + 15) / 16)
        sat false false)
    if sat then s.flag c 0x5 else s
  | some _, _, _ => s.result (core / 4) d.resultOff (peResult 0 0 0 0 false false false)
  | none, _, _ => s

/-- A PE command of one operation that writes no ring. -/
def State.peRun (s : State) (core : Nat) (w : BitVec 128) (hw : HwEvent) (op : Nat) (body : PeCmd → QCmd → State → State) :
    Out :=
  let d := PeCmd.ofWord w.toNat
  if d.op ≠ op then .fault .malformed
  else .next (s.engineRun core .pe w hw op d.first (if op = 4 then 0 else 1) (body d)
    (fun _ _ s => s.result (core / 4) d.resultOff (peResult 0 0 0 0 false false true)))

/-- EXPAND_LIB (R155). -/
def execExpandLib (core : Core) (w : BitVec 128) (hw : HwEvent) (s : State) : Out :=
  s.expandRun core w hw 1 (fun d e s i => s.libSamples e d i)
/-- EXPAND_SEQ (R155). -/
def execExpandSeq (core : Core) (w : BitVec 128) (hw : HwEvent) (s : State) : Out :=
  s.expandRun core w hw 2 (fun d e s i => s.seqSamples e core d i)
/-- BUILD_PATH (R155). -/
def execBuildPath (core : Core) (w : BitVec 128) (hw : HwEvent) (s : State) : Out :=
  s.peRun core w hw 3 (fun d c s => s.buildPathBody core d c)
/-- RM_SEARCH (R155). -/
def execRmSearch (core : Core) (w : BitVec 128) (hw : HwEvent) (s : State) : Out :=
  s.peRun core w hw 4 (fun d c s => s.rmSearchBody core d c)

end Sys2Proof.Machine
end

