-- ==== Sys2Proof/Machine/QeExec.lean ====
section
/-!
DEFINITION. The solver engine's commands: SOLVE with its GEO, TS and OPT templates, EMIT and KEY
(R152, R233 to R265), and the arbitration of a cluster's QE (R252, R371).
-/
namespace Sys2Proof.Machine

open Sys2Proof

/-! ### Arbitration and deadlines -/

/-- The certified budget of phase `p` of the cycle in ticks (R253, R311). -/
def State.budget (s : State) (c : Cycle) (p : Nat) : Nat :=
  match s.img.active.bind (fun i => i.cert c.arm c.step) with
  | some e => nth 0 (if c.retouch then e.rph else e.ph) (p - 1)
  | none => 0

/-- Device time at which the budget of the phase in progress ends (R253). -/
def State.phaseDeadline (s : State) (c : Cycle) : Nat :=
  s.time.now - (s.time.sclk - c.phaseSclk) / 6 + s.budget c c.phase

/-! ### Forming a problem -/

/-- The template a SOLVE names, with the parameters in force (R239). -/
def EngEnv.tmpl (e : EngEnv) (n : Nat) : Option Template :=
  (e.img.templates[n]?).map (fun t => t.withParams e.ps n)

/-- The anchor of the conversions: the snapshot ego (R257, R259). -/
def EngEnv.anchor (e : EngEnv) : Anchor := ⟨e.ego.x, e.ego.y, e.ego.heading⟩

/-- The input of GEO and OPT beside their samples. -/
def EngEnv.geoIn (e : EngEnv) (t : Template) : GeoIn :=
  { t := t, nbody := e.img.ego.length, dsMin := e.img.misc.dsMin, ncorr := paramVal e.ps 0x31 0
    corrStep := paramVal e.ps 0x30 0, ego := e.ego }

/-- The base of a QE command's input (R263). -/
def QeCmd.base (d : QeCmd) (core : Nat) : Nat := if d.shared then sharedBase (core / 4) else scratchBase core

/-- FREE flags of the offset poses of input sample `i` (R151, R181, R242). -/
def State.freeFlags (s : State) (e : EngEnv) (core : Nat) (d : QeCmd) (i : Nat) : List Bool :=
  let w := 2 * paramVal e.ps 0x31 0 + 1
  ((s.recordsAt (d.base core + d.auxOff * 64 + i * w * 64) 64 w).map VRec.ofBytes).map
    (fun r => r.verdict == .free && !r.trunc)

/-- The profile entry in force at an arc: its index (log entry 26). -/
def profIndex (prof : List ProfEntry) (arc : Int) : Nat :=
  (prof.zipIdx.filter (fun p => decide ((p.1.s : Int) ≤ arc))).foldl (fun m p => max m p.2) 0

/-- The parameters of OPT (R151, R152, R236, R241): the stages are the built stations, STEP apart, the
lateral direction is +d. -/
def optForm (g : GeoIn) (an : Anchor) (step : Int) (variant : Nat) (ss : List Station) (prof : List ProfEntry)
    (free : Nat → List Bool) : QM GeoForm := do
  let us := unwrapHeadings an.psi (ss.map (·.psi))
  let at_ (k : Nat) : Nat := profIndex prof ((k : Int) * step)
  let refs ← (ss.zip us).zipIdx.mapM (fun x => do
    let st := x.1.1
    let (co, si) := trig st.psi
    return (⟨← anchoredM st.x an.x, ← anchoredM st.y an.y, ← radM x.1.2, ← d32M co, ← d32M si, ← k16M st.kappa,
      ← v16M (speedMag (((prof[at_ x.2]?).map (·.v)).getD 0)),
      ← (if 2 ≤ g.nbody then radM (signed 16 st.art1) else pure fZero),
      ← (if 3 ≤ g.nbody then radM (signed 16 st.art2) else pure fZero)⟩ : Ref))
  let d ← p32M step
  let ds := List.replicate (ss.length - 1) d
  let sv ← ds.foldlM (fun (acc : List F32) x => do
    return acc ++ [← addM (nth fZero acc (acc.length - 1)) x]) [fZero]
  match ((List.range ss.length).map (fun k => corridorRun g.ncorr variant (free (at_ k)))).mapM id with
  | none => return .blocked ss.length
  | some rs =>
    let cs ← rs.mapM (corridorBounds g.corrStep)
    let pv := (refs.zip cs).zipIdx.map (fun x =>
      [fOne, x.1.1.kappa, nth fZero ds x.2, x.1.1.speed, x.1.1.art1, x.1.1.art2, x.1.2.1, x.1.2.2])
    match refs with
    | [] => return .blocked 0
    | r0 :: _ =>
      let pe ← radM (unwrapOne an.psi g.ego.heading)
      let dpsi ← subM pe r0.psi
      let a1 ← if 2 ≤ g.nbody then do subM (← radM (signed 16 g.ego.art1)) r0.art1 else pure fZero
      let a2 ← if 3 ≤ g.nbody then do subM (← radM (signed 16 g.ego.art2)) r0.art2 else pure fZero
      let dk ← subM (← k16M g.ego.curv) r0.kappa
      return .ready (List.range ss.length) refs sv ds pv [fOne, fneg r0.y, dpsi, a1, a2, dk, fZero, fZero]

/-- The stations that an OPT solution gives (R152, R255): d and psi of each stage, with its curvature. -/
def optStations (an : Anchor) (m : List Nat) (refs : List Ref) (z : List (List F32)) (ss : List Station) :
    QM (List Station) :=
  ss.zipIdx.mapM (fun x =>
    match refs[x.2]?, z[x.2]? with
    | some r, some zk => do
      let g ← stageGeo true m r zk
      let y ← toAnchoredM g.y an.y
      let p ← toA16M g.psi
      let k ← toI16M f2p4 g.k
      return { x.1 with y := y.val, psi := p, kappa := k.val }
    | _, _ => pure x.1)

/-- The poses min(i m, N - 1) of a spliced sequence (R236). -/
def thinned (ps : List Sample) : List Sample :=
  let n := ps.length
  let m := max 1 ((n - 1 + 126) / 127)
  (List.range ((n - 1 + m - 1) / m + 1)).filterMap (fun i => ps[min (i * m) (n - 1)]?)

/-! ### Results -/

/-- A binary32 where it is finite, else a finite one: no other value leaves the engine (R64). -/
def asFinite (x : F32) : F32 := if isFinite32 x then x else x ^^^ 0x00800000#32

/-- A free binary32 for a result field that nothing states, of the bytes that the result rests on (log entry 71). -/
def openF (key : List Byte) (i : Nat) : F32 := asFinite (Config.openWord key i)

/-- A result whose OBJ, RP, RD and GAP nothing states. -/
def openResult (key : List Byte) (cand : Nat) (st : QStatus) (kind : Nat) (piv : Option (Nat × Nat)) (fl : FFlags)
    (iter nst : Nat) : QResult :=
  ⟨cand, st, kind, piv, false, fl, iter, nst, openF key 0, openF key 1, openF key 2, openF key 3, 0, 0xFFFF⟩

/-- The stages of a problem that could not be formed: a free value from 1 to 128. -/
def openNst (key : List Byte) : Nat := (Config.openWord key 4).toNat % 128 + 1

/-- A candidate dropped, by KIND of its order (R37, R233, R286). -/
def State.dropCand (s : State) (kind : Nat) : State :=
  s.mapCycle (fun c => { c with drops := if kind = 1 then (c.drops.1, c.drops.2 + 1) else (c.drops.1 + 1, c.drops.2) })

/-- A solve has ended: its status counted, a dropped candidate and a void OPT candidate noted, the result written, the flags
raised (R152, R252, R264, R265). -/
def State.solveEnd (s : State) (core : Nat) (d : QeCmd) (c : QCmd) (o : SolveOrder) (r : QResult) : State :=
  let s := s.tally (fun k => { k with solveSt := modAt (· + 1) k.solveSt r.status.code })
  let s := if r.kind ≠ 2 ∧ !r.status.keeps then s.dropCand o.kind else s
  let s := if r.kind = 2 ∧ !r.status.keeps then s.mapCycle (fun k => { k with optVoid := k.optVoid ++ [o.cand] }) else s
  let s := if r.kind ≠ 2 ∧ r.status = .nonfinite then s.mapCycle (fun k => { k with nonfinite := true }) else s
  let s := s.result (core / 4) d.resultOff r.bytes
  let n := r.status.code
  let s := s.flagsWhere c [(0xB, r.retried), (0xE, r.pivot.isSome), (0xF, n == 2)]
  let s := if n = 3 ∨ n = 4 ∨ n = 6 ∨ n = 7 then s.flag c 0x10 0xFFFFFFFF 0xFFFFFFFF none (if n = 3 then [0xF] else []) else s
  s.flagsWhere c [(0x11, n == 5)]

/-- A solution written to memory and kept for the commands that read it (R263). -/
def State.keepSolved (s : State) (cl : Nat) (d : QeCmd) (x : Solved) (bytes : List Byte) : State :=
  let s := s.poke (sharedBase cl + d.outOff * 64) bytes
  { s with eng := { s.eng with solved := x :: s.eng.solved } }

/-- Entry `i` of the binary32 values of stage record `k` of the solution at an address (R263). -/
def State.stageF (s : State) (a k i : Nat) : F32 := getF32 (s.peek (a + 64 + 64 * k) 64) (4 * i)

/-- The GEO solution at an address: the latest whose header stands there, with s, ds and z as they stand there
(R263; log entry 105). -/
def State.geoAt (s : State) (cl a : Nat) : Option GeoSol :=
  let h := s.peek a 64
  (s.eng.solved.filterMap (fun y => if y.cluster = cl then y.geo else none)).find? (fun g => g.res.bytes == h) |>.map
    (fun g => { g with
      s := (List.range g.s.length).map (fun k => s.stageF a k 0)
      ds := (List.range g.ds.length).map (fun k => s.stageF a k 1)
      z := g.z.zipIdx.map (fun z => (List.range z.1.length).map (fun i => s.stageF a z.2 (2 + i))) })

/-- The TS solution at an address, likewise. -/
def State.tsAt (s : State) (cl a : Nat) : Option TsSol :=
  let h := s.peek a 64
  (s.eng.solved.filterMap (fun y => if y.cluster = cl then y.ts else none)).find? (fun g => g.res.bytes == h) |>.map
    (fun g => { g with z := g.z.zipIdx.map (fun z => (List.range z.1.length).map (fun i => s.stageF a z.2 (2 + i))) })

/-- The numeric end of a solve: FLT_ABFT with bit 30 (R250). -/
def State.abftNumeric (s : State) (core : Nat) (e : QEnd) : State :=
  if e.numeric then
    (s.spend 1).fault ⟨.abft, .info, engineLoc core .qe, 1 + 2 ^ 30, s.freeVal.toNat % 2 ^ 32⟩
  else s

/-! ### SOLVE -/

/-- The operations left before the deadline passes: none are where it has passed; `late` where it passes while the
solve runs (R253, R254). -/
def deadlineIn (now dl : Nat) (late : Option Nat) : Option Nat := if dl ≤ now then some 0 else late

/-- What a solve gave: its result, its solution, the end of its iterations. -/
structure SolveOut where
  res : QResult
  z : List (List F32)
  fin : Option QEnd

/-- What a SOLVE takes beside its command: the checkers' finding kept (R469), the operations before the deadline, and
the free value that picks the factorisation whose checksum fails twice on equal factors (R250). -/
structure SolveEv where
  retried : Bool
  left : Option Nat
  bad : Option Nat

/-- The iteration whose checksum fails: one of those that the solve runs. -/
def badIter (t : Template) (pv : List (List F32)) (pinit : List F32) (q : QSt) (v : Option Nat) : Option Nat :=
  v.bind (fun n => match (solveQP t pv pinit none q).1 with
    | .ok (e, _) => if e.iters = 0 then none else some (n % e.iters)
    | .error x => if x.iter = 0 then none else some (n % x.iter))

/-- A formed problem solved (R244, R250, R264). -/
def solveReady (t : Template) (key : List Byte) (cand : Nat) (ev : SolveEv) (q : QSt)
    (nst : Nat) (pv : List (List F32)) (pinit : List F32) : SolveOut :=
  let q := { q with left := ev.left }
  let r := solveQP t pv pinit (badIter t pv pinit q ev.bad) q
  match r.1 with
  | .ok (e, o) =>
    ⟨⟨cand, e.status, t.kind.code, e.piv, ev.retried, r.2.fl, e.iters, nst, o, e.rp, e.rdn, e.gap, 0, 0xFFFF⟩, e.z, some e⟩
  | .error x => ⟨{ openResult key cand .nonfinite t.kind.code x.piv r.2.fl x.iter nst with retried := ev.retried }, [], none⟩

/-- SOLVE with a GEO or OPT template (R240 to R242, R236). The flags of OPT's output conversions join the solve's (R251,
R259), and their SAT stays in the candidate's record (R42). -/
def State.solveGeo (s : State) (e : EngEnv) (t : Template) (core : Nat) (d : QeCmd) (ev : SolveEv) (late : Option Nat)
    (c : QCmd) : State :=
  let o := SolveOrder.ofBytes (s.peek (dualBase (core / 4) + d.orderOff * 16) 32)
  let opt := t.kind == .opt
  let a := d.base core + d.inOff * 64
  let n := if o.kind = 2 ∧ !opt then (thinned ((s.cyc.cur.map (·.path)).getD [])).length else d.nin
  let ps := s.samplesAt a n
  let ss := s.stationsAt a (min e.lib.nstn 128)
  let prof := s.profileAt a e.lib.nstn e.img.misc.nsamp
  let key := s.peek a (if opt then seqStride e.lib.nstn e.img.misc.nsamp else 64 * n)
  let g := e.geoIn t
  let form := if opt then optForm g e.anchor e.lib.step (o.ord / e.arm.ng) ss prof (s.freeFlags e core d)
    else geoForm g e.anchor ps (s.freeFlags e core d)
  let f := (ExceptT.run form).run {}
  let dl := if opt then (s.cyc.cur.map (·.optDl)).getD 0 else o.solveDl
  let ev := { ev with left := deadlineIn s.time.now dl late }
  let fin (s : State) (r : QResult) : State := s.solveEnd core d c o r
  let rev := ps.any (fun p => decide (p.v < 0))
  match f.1 with
  | .error x => fin s { openResult key o.cand .nonfinite t.kind.code x.piv f.2.fl 0 (openNst key) with retried := ev.retried }
  | .ok (.blocked nst) => fin s (openResult key o.cand .corridor t.kind.code none f.2.fl 0 nst)
  | .ok (.still refs) =>
    let r := openResult key o.cand .converged t.kind.code none f.2.fl 0 1
    match refs.head? with
    | none => fin s r
    | some r0 =>
      let sol := stillSol o rev t.stateMap r0 r f.2.sat
      fin (s.keepSolved (core / 4) d ⟨core / 4, some sol, none⟩ (solutionBytes r sol.s sol.ds sol.z)) r
  | .ok (.ready kept refs sv ds pv pinit) =>
    let out := solveReady t key o.cand ev f.2 kept.length pv pinit
    let s := match out.fin with | some x => s.abftNumeric core x | none => s
    if !out.res.status.keeps then fin s out.res
    else if opt then
      let w := (ExceptT.run (optStations e.anchor t.stateMap refs out.z (s.stationsAt a e.lib.nstn))).run { fl := out.res.ieee }
      let r := { out.res with ieee := w.2.fl }
      match w.1 with
      | .ok built =>
        let tail := (s.peek (a + up64 (24 * e.lib.nstn)) (8 * e.img.misc.nsamp))
        let body := padTo (up64 (24 * e.lib.nstn)) (built.map Station.bytes).flatten ++ tail
        let s := s.keepPathSat core o.cand (f.2.sat || w.2.sat)
        fin (s.keepSolved (core / 4) d ⟨core / 4, none, none⟩ (solutionBytes r sv ds out.z ++ body)) r
      | .error _ => fin s { r with status := .nonfinite }
    else
      let sol : GeoSol := ⟨o.cand, o, kept.length, rev, refs, sv, ds, out.z, t.stateMap, out.res, f.2.sat⟩
      fin (s.keepSolved (core / 4) d ⟨core / 4, some sol, none⟩ (solutionBytes out.res sv ds out.z)) out.res

/-- SOLVE with a TS template, from the GEO solution at IN_OFF (R240, R241). -/
def State.solveTs (s : State) (e : EngEnv) (t : Template) (core : Nat) (d : QeCmd) (ev : SolveEv) (late : Option Nat)
    (c : QCmd) : State :=
  let o := SolveOrder.ofBytes (s.peek (dualBase (core / 4) + d.orderOff * 16) 32)
  let fin (s : State) (r : QResult) : State := s.solveEnd core d c o r
  match s.geoAt (core / 4) (d.base core + d.inOff * 64) with
  | none => s
  | some g =>
    let key := g.res.bytes
    let keep (s : State) (r : QResult) (z : List (List F32)) : State :=
      s.keepSolved (core / 4) d ⟨core / 4, none, some ⟨t.stateMap, z, r⟩⟩ (solutionBytes r g.s g.ds z)
    if g.nst = 1 then
      let r := openResult key o.cand .converged 1 none {} 0 1
      fin (keep s r [[]]) r
    else
      let f := (ExceptT.run (tsParams g (o.kind == 1) e.ego)).run {}
      match f.1 with
      | .error x => fin s { openResult key o.cand .nonfinite 1 x.piv f.2.fl 0 g.nst with retried := ev.retried }
      | .ok (pv, pinit) =>
        let ev := { ev with left := deadlineIn s.time.now o.solveDl late }
        let out := solveReady t key o.cand ev f.2 g.nst pv pinit
        let s := match out.fin with | some x => s.abftNumeric core x | none => s
        if !out.res.status.keeps then fin s out.res else fin (keep s out.res out.z) out.res

/-- SOLVE (R237 to R254). -/
def State.solveBody (s : State) (core : Nat) (d : QeCmd) (ev : SolveEv) (late : Option Nat) (c : QCmd) : State :=
  match s.engEnv (core / 16) with
  | none => s
  | some e =>
    match e.tmpl d.tmpl with
    | none => s
    | some t => if t.kind = .ts then s.solveTs e t core d ev late c else s.solveGeo e t core d ev late c

/-! ### EMIT and KEY -/

/-- EMIT (R256 to R260): the trajectory at OUT_OFF, its re-check samples at WORK_OFF. It has no end but
its own, whatever its values (R264; log entry 27). -/
def State.emitBody (s : State) (core : Nat) (d : QeCmd) (retried : Bool) (c : QCmd) : State :=
  match s.engEnv (core / 16), s.geoAt (core / 4) (d.base core + d.inOff * 64), s.tsAt (core / 4) (d.base core + d.auxOff * 64) with
  | some e, some g, some ts =>
    let m := e.img.misc
    let o := SolveOrder.ofBytes (s.peek (dualBase (core / 4) + d.orderOff * 16) 32)
    let r := (ExceptT.run (emitTraj e.img.ego e.anchor m.vstop (hmaxOf m.nsamp m.dts) g (ts.z.map (mapped ts.map 0)))).run
      { whole := true }
    match r.1 with
    | .error _ => s
    | .ok x =>
      let t : Traj := ⟨o.cand, o.kind, e.anchor, s.world.worldTime, x.tend, g.res.obj, ts.res.obj, g.res.status.code,
        ts.res.status.code, g.res.iter, ts.res.iter, g.res.pivot.isSome || ts.res.pivot.isSome, x.stopj, x.samples⟩
      let s := s.poke (sharedBase (core / 4) + d.outOff * 64) t.bytes
      let s := s.poke (sharedBase (core / 4) + d.workOff * 64) (x.recheck.map Sample.bytes).flatten
      let q := openResult (g.res.bytes ++ ts.res.bytes) o.cand .converged 0xF none r.2.fl 0 g.nst
      (s.result (core / 4) d.resultOff
        { q with retried := retried, nt := x.samples.length, stopj := x.stopj.getD 0xFFFF }.bytes).flagsWhere c [(0xB, retried)]
  | _, _, _ => s

/-- KEY (R261, R262): the FINAL row entry, 8 bytes at OUT_OFF (R263; log entry 28). -/
def State.keyBody (s : State) (core : Nat) (d : QeCmd) (retried : Bool) (c : QCmd) : State :=
  match s.engEnv (core / 16) with
  | none => s
  | some e =>
    let o := SolveOrder.ofBytes (s.peek (dualBase (core / 4) + d.orderOff * 16) 32)
    let a := d.base core + d.inOff * 64
    let head := s.peek a 64
    let t := Traj.ofBytes (s.peek a (64 + 40 * getLe head 6 2))
    let cost := CostRec.ofBytes (s.peek (scratchBase core + d.auxOff * 64) 16)
    let v := (lookupKey (trajKey core o.cand) s.eng.trajs).getD VRec.init
    let pass := !d.notraj && recheckPasses e.img.misc.truncMinMs v cost
    let key := keyValue pass t.objGeo t.objTs (BitVec.ofNat 32 (paramVal e.ps 0x50 0)) cost.cost
    let raw := if d.notraj then fNaN else key.val
    let s := s.poke (sharedBase (core / 4) + d.outOff * 64) (leBytes 4 o.cand ++ leBytes 4 raw.toNat)
    let s := if d.notraj then s
      else s.mapCycle (fun k => { k with
        emits := k.emits ++ [⟨core, o.cand, o.kind, o.ord, t, v.tsample, cost, raw.toNat⟩] })
    let s := if d.notraj ∨ pass then s
      else (s.tally (fun k => { k with recheckFail := k.recheckFail + 1 })).dropCand o.kind
    let q := { openResult head o.cand .converged 0xF none key.fl 0 (openNst head) with retried := retried }
    (s.result (core / 4) d.resultOff q.bytes).flagsWhere c [(0xB, retried)]

/-- The finding of a QE's checkers as R250 attributes it: bit 30 names a numeric end alone. -/
def qeFault (f : Fault0) : Fault0 :=
  if f.code = .abft ∧ bitAt f.d0 30 then { f with d0 := clrBit f.d0 30 } else f

/-- A QE command of one operation, taken when its core wins the cluster's QE (R252, R371). A faulted one writes no
result (R264 gives it no field for the fault). -/
def State.qeRun (s : State) (core : Nat) (w : BitVec 128) (hw : HwEvent) (op : Nat)
    (body : QeCmd → QCmd → State → State) : Out :=
  let d := QeCmd.ofWord w.toNat
  if d.op ≠ op then .fault .malformed
  else if s.qeWinner (core / 4) ≠ some (core % 4) then .next s
  else .next (s.engineRun core .qe w hw op 0 0 (body d) (fun _ _ s => s) qeFault)

/-- SOLVE (R263). `late` is the number of the solve's operations after which the deadline passes, if it passes while
the solve runs. Of a lasting mismatch, which check it was is a free value: the factorisation checksum on equal factors
ends the solve, the residual check restarts the cluster (R250). -/
def execSolve (core : Core) (w : BitVec 128) (hw : HwEvent) (late : Option Nat) (s : State) : Out :=
  let v := s.freeVal.toNat
  if hw = .permanent ∧ v % 2 = 0 then
    s.qeRun core w .clean 1 (fun d c s => (s.spend 1).solveBody core d ⟨false, none, some (v / 2)⟩ late c)
  else s.qeRun core w hw 1 (fun d c s => s.solveBody core d ⟨hw == .checker, none, none⟩ late c)
/-- EMIT (R263). -/
def execEmit (core : Core) (w : BitVec 128) (hw : HwEvent) (s : State) : Out :=
  s.qeRun core w hw 2 (fun d c s => s.emitBody core d (hw == .checker) c)
/-- KEY (R263). -/
def execKey (core : Core) (w : BitVec 128) (hw : HwEvent) (s : State) : Out :=
  s.qeRun core w hw 3 (fun d c s => s.keyBody core d (hw == .checker) c)

end Sys2Proof.Machine
end

