-- ==== Sys2Proof/Machine/SeExec.lean ====
section
/-!
DEFINITION. The select engine's commands: SELECT and MERGE, with their checks (R211 to R229).
-/
namespace Sys2Proof.Machine

open Sys2Proof

/-- The space of the row or of the input lists (R222). -/
def SeCmd.inBase (d : SeCmd) (core : Nat) : Nat :=
  (if d.shared then sharedBase (core / 4) else scratchBase core) + d.inOff * 64

/-- KEYTYPE of a command; a word at rest names one (R226). -/
def SeCmd.keyT (d : SeCmd) : KeyType := (KeyType.ofCode d.keyType).getD .c24

/-- The row of a SELECT (R212). -/
def State.selRow (s : State) (core : Nat) (d : SeCmd) : List Key :=
  if d.keyType = 0 then
    (s.recordsAt (d.inBase core) 16 d.count).map (fun r => ⟨getLe r 0 4, getLe r 4 3⟩)
  else (s.recordsAt (d.inBase core) 8 d.count).map (fun r => ⟨getLe r 0 4, getLe r 4 4⟩)

/-- The bound record a command names: valid, and the pair; the pair is 0 without BOUNDED (R222, R225). -/
def State.seBound (s : State) (core : Nat) (d : SeCmd) : Bool × (Nat × Nat) :=
  if d.bounded then boundOf (s.peek (dualBase (core / 4) + d.boundOff * 16) 16) else (true, (0, 0))

/-- The number of the pass that a bounded SELECT belongs to: the hub lists there are of the SHEET entry
(R220, R221). -/
def State.sePass (s : State) (e : EngEnv) (d : SeCmd) : Nat :=
  if !d.bounded then 0
  else match s.cyc.cur with
    | none => 0
    | some c => (c.lists.filter (fun l => l.die == 8 && ((e.arm.sel[l.entry]?).map (·.kind)) == some 3)).length

/-- The total of a SELECT: the KSUM fields it names, or the input adder (R216). -/
def State.seTotal (s : State) (core : Nat) (d : SeCmd) (row : List Key) : Side :=
  if d.keyType = 0 then
    { Side.zero with sum := sumNat ((s.recordsAt (dualBase (core / 4) + d.totOff * 16) 16 d.ntot).map (fun r => getLe r 4 6)) }
  else Side.ofKeys d.keyT row

/-- The family of a row entry's candidate as its core knows it: a trajectory's from the solve order that the core
runs, every other candidate's from the core's family table (R213, R235; log entry 25). -/
def State.seFamily (s : State) (core : Nat) (d : SeCmd) (cand : Nat) : Option Nat :=
  let order := (s.cyc.cur.map (·.orders)).getD [] |>.find? (fun o => o.core == core && o.order.cand == cand)
  match if d.keyType = 0 then none else order with
  | some o => some o.order.family
  | none => ((s.famTable core).find? (fun f => decide (f.first ≤ cand ∧ cand < f.first + f.count))).map (·.family)

/-- The family test of a SELECT (R213). -/
def State.seElig (s : State) (core : Nat) (d : SeCmd) (cand : Nat) : Bool := (s.seFamily core d cand).any (bitAt d.famMask)

/-- The flags that end an SE command (R229). -/
def State.seFinish (s : State) (core : Nat) (d : SeCmd) (c : QCmd) (l : SList) (retried : Bool) : State :=
  let short := decide (l.entries.length < d.k)
  let s := s.poke (sharedBase (core / 4) + d.outOff * 64) l.bytes
  let s := s.result (core / 4) d.resultOff (seResult l short retried false false false)
  s.flagsWhere c [(0xA, short), (0xB, retried)]

/-- The list without entries of a command that yields none. -/
def SList.empty : SList := ⟨.c24, 0, false, false, (0, 0), 0, 0, [], Side.zero, Side.zero, Side.zero, false⟩

/-- The result of a faulted SE command, and SUMCHK or ORDER beside FAULT where check `n` of R227 failed twice, 0 for
none (R225, R229). -/
def State.seFailed (s : State) (core : Nat) (d : SeCmd) (c : QCmd) (n : Nat) : State :=
  let order := orderCheck n
  let sum := n != 0 && !order
  let s := s.result (core / 4) d.resultOff (seResult SList.empty false false order sum true)
  s.flagsWhere c [(0xC, sum), (0xD, order)]

/-- A die MERGE of a core (R228). -/
def State.seDie (s : State) (core : Nat) (d : SeCmd) : Bool :=
  match s.armature, s.slotOf (core / 16) with
  | some a, some k => a.dieMerge (k * 16 + core % 16) d
  | _, _ => false

/-- Check `n` of R227 fails twice on equal outputs: FLT_SUMCHECK against the cluster or, at a die MERGE, the die
(R228). Data word 1 is free (log entry 1). -/
def State.seFault (s : State) (core : Nat) (d : SeCmd) (c : QCmd) (n : Nat) : State :=
  let f : Fault0 := ⟨.sumcheck, if s.seDie core d then .restartDie else .restartCluster, engineLoc core .se, n,
    s.freeVal.toNat % 2 ^ 32⟩
  ((s.spend 1).flagFault c (some f)).seFailed core d c n

/-- SELECT (R214, R217). -/
def State.selectBody (s : State) (core : Nat) (d : SeCmd) (retried : Bool) (c : QCmd) : State :=
  match s.engEnv (core / 16) with
  | none => s
  | some e =>
    let row := s.selRow core d
    let b := s.seBound core d
    let sp : SelSpec := ⟨d.keyT, d.k, d.inclZero, d.bounded, b.2, s.sePass e d⟩
    let l := selectRow sp (s.seElig core d) b.1 core (s.seTotal core d row) row
    let n := selectCheck row l
    if n = 0 then s.seFinish core d c l retried else s.seFault core d c n

/-- MERGE (R218). -/
def State.mergeBody (s : State) (core : Nat) (d : SeCmd) (retried : Bool) (c : QCmd) : State :=
  let ls := (s.recordsAt (d.inBase core) 1280 d.count).map SList.ofBytes
  let b := s.seBound core d
  let sp : SelSpec := ⟨d.keyT, d.k, d.inclZero, d.bounded, b.2, (ls.head?.map (·.pass)).getD 0⟩
  let l := mergeLists sp ls
  let n := mergeCheck sp ls l
  if n = 0 then s.seFinish core d c l retried else s.seFault core d c n

/-- An SE command of one operation. A check that fails twice on equal outputs restarts the die at a die MERGE (R228). -/
def State.seRun (s : State) (core : Nat) (w : BitVec 128) (hw : HwEvent) (op : Nat)
    (body : SeCmd → Bool → QCmd → State → State) : Out :=
  let d := SeCmd.ofWord w.toNat
  if d.op ≠ op then .fault .malformed
  else
    let twice := hw == .permanent
    .next (s.engineRun core .se w hw op 0 0 (body d (hw == .checker))
      (fun c f s => s.seFailed core d c (if twice then f.d0 % 8 else 0))
      (fun f => if twice && s.seDie core d then { f with cls := .restartDie } else f))

/-- SELECT (R222). -/
def execSelect (core : Core) (w : BitVec 128) (hw : HwEvent) (s : State) : Out :=
  s.seRun core w hw 1 (fun d r c s => s.selectBody core d r c)
/-- MERGE (R222). -/
def execMerge (core : Core) (w : BitVec 128) (hw : HwEvent) (s : State) : Out :=
  s.seRun core w hw 2 (fun d r c s => s.mergeBody core d r c)

end Sys2Proof.Machine
end

