-- ==== Sys2Proof/Machine/SeqOps.lean ====
section
/-!
DEFINITION. What the sequencer rows share: threads and steps, the end of a step, frames, reactions
(R313 to R319, R333 to R336).
-/
namespace Sys2Proof.Machine

open Sys2Proof

/-- Thread `t` of a global core. -/
def State.thr (s : State) (c t : Nat) : Option Thread := (s.duOf (c / 16)).thread (c % 16) t
/-- A thread changed. -/
def State.mapThr (s : State) (c t : Nat) (f : Thread → Thread) : State :=
  s.mapDu (c / 16) (fun d => d.mapThread (c % 16) t f)

/-- The die's mode is RTK. -/
def State.isRtk (s : State) (d : Nat) : Bool := (s.duCfg d).any (fun g => g.mode == .rtk)

/-- The unit number of an engine for a core: movers and the enlarger serve a cluster. -/
def unitOf (c : Nat) (e : Engine) : Nat := if 5 ≤ e.index then c / 4 else c

/-- Every engine that a step's IDLE names is idle, and every flag of the step has been handled (R313,
R314). -/
def State.idleMet (s : State) (c t : Nat) (st : SeqStep) (n : Nat) : Bool :=
  allEngines.all (fun e => !bitAt st.idle e.index || (s.queueOf (unitOf c e) e).isEmpty)
  && !s.eng.flags.any (fun f => f.core == c && f.thread == t && f.step == n)

/-- The core's share of the phase ends (R27, R313). -/
def State.report (s : State) (c : Nat) (st : SeqStep) : State :=
  if st.pend ∧ st.phase = s.phase then
    s.mapCycle (fun k => { k with passed := if k.passed.contains c then k.passed else k.passed ++ [c] })
  else s

/-- A thread goes to a step (R314). -/
def State.goStep (s : State) (c t n : Nat) : State :=
  s.mapThr c t (fun x => { x with step := n, started := false, wait := .none, issued := 0, placed := 0 })

/-- A thread has met its step's conditions: PEND is reported, and it goes to NEXT (R314). -/
def State.endStep (s : State) (c t : Nat) (st : SeqStep) : State := (s.report c st).goStep c t st.next

/-- A stale list or message counted at the hub (R230, R344). -/
def State.hubStale (s : State) (epoch : Nat) : State :=
  let first := if s.cyc.stale.1 = 0 then epoch else s.cyc.stale.2
  { s with cyc := { s.cyc with stale := (s.cyc.stale.1 + 1, first) } }

/-! ### Frames (R319) -/

/-- The context entry of a thread (R318). -/
def State.ctxOf (s : State) (c t : Nat) : Option CtxEntry := ((s.cores (c / 16))[c % 16]?).bind (fun e => e.ctxs[t]?)

/-- PENDING of a thread: its flags raised and not yet handled, bit by code (R319). -/
def State.pendingOf (s : State) (c t : Nat) : Nat :=
  ((s.eng.flags.filter (fun f => f.core == c && f.thread == t)).flatMap (fun f => f.code :: f.also)).foldl setBit 0

/-- FLT_CONTEXT_LOST: the frame goes to the shadow frame and the thread ends; a planning phase's cycle
ends, a long operation's thread ends its operation (R319). -/
def State.contextLost (s : State) (c t : Nat) (x : Thread) (phase : Nat) : State :=
  let base := (s.armature.map (·.shadowBase)).getD 0
  let f := frameBytes x.step t (c % 16) 3 x.ssp s.time.now (s.pendingOf c t) x.issued (s.duOf (c / 16)).epoch
  let s := s.poke (dualBase (c / 4) + base + (c % 4 * 8 + t) * 64) f
  let s := s.mapDu (c / 16) (fun d => match s.duCfg (c / 16) with
    | some g => (d.endItem g s.time.sclk false (c % 16) t).endService (c % 16) t
    | none => d)
  let s := s.mapThr c t (fun x => { x with status := .killed, wait := .none })
  let word1 := x.step + 4096 * t
  if 0 < phase then s.fault ⟨.contextLost, .cycle, ⟨c / 16, c / 4 % 4, c % 4, 1⟩, x.ssp, word1⟩
  else
    let s := s.withOps (endWhere (fun o => o.cls == .grow && o.st.active) .failed .faultRestart s.ops)
    s.fault ⟨.contextLost, .info, ⟨c / 16, c / 4 % 4, c % 4, 1⟩, x.ssp, word1⟩

/-- A frame pushed with its REASON; none where the test of R319 fails. -/
def State.pushFrame (s : State) (c t reason : Nat) (x : Thread) : Option State :=
  match s.ctxOf c t with
  | none => none
  | some k =>
    if pushOk k x.ssp then
      let f := frameBytes x.step t (c % 16) reason x.ssp s.time.now (s.pendingOf c t) x.issued (s.duOf (c / 16)).epoch
      some ((s.poke (scratchBase c + x.ssp) f).mapThr c t (fun y => { y with ssp := y.ssp + 64 }))
    else none

/-! ### Reactions (R316) -/

/-- The phase of a thread's present step. -/
def State.stepPhase (s : State) (c : Nat) (x : Thread) : Nat := ((s.stepAt c x.step).map (·.phase)).getD 0

/-- A thread ended by a FAULT reaction with its frame pushed (R316, R319); one that has ended already stays as it
is. -/
def State.endThread (s : State) (c t : Nat) : State :=
  match s.thr c t with
  | none => s
  | some x =>
    if x.status = .killed then s
    else match s.pushFrame c t 2 x with
    | none => s.contextLost c t x (s.stepPhase c x)
    | some s =>
      let s := s.mapDu (c / 16) (fun d => match s.duCfg (c / 16) with
        | some g => ((d.endItem g s.time.sclk false (c % 16) t).endService (c % 16) t).leaveFifos (c % 16) t
        | none => d)
      s.mapThr c t (fun x => { x with status := .killed, wait := .none })

/-- A FAULT reaction (R316, R319, R478): the thread ends, and the flag's cause is raised, or FLT_STEP_FAULT where it
has none. -/
def State.stepFault (s : State) (c t code step : Nat) (cause : Option Fault0) : State :=
  (s.endThread c t).fault (cause.getD ⟨.stepFault, .restartCluster, ⟨c / 16, c / 4 % 4, c % 4, 1⟩, code, step⟩)

/-- SKIP or GOTO: only a thread that still stands at the issuing step is moved (R316; log entry 29). -/
def State.divert (s : State) (c t step dest : Nat) : State :=
  match s.thr c t with
  | none => s
  | some x =>
    if x.step ≠ step ∨ x.status = .halted ∨ x.status = .killed then s
    else
      let s := s.mapDu (c / 16) (fun d => d.leaveFifos (c % 16) t)
      let s := s.goStep c t dest
      if x.status = .waiting then
        s.mapThr c t (fun y => { y with status := if s.isRtk (c / 16) then .ready else .running })
      else s

/-- A candidate retired as void (R129, R316): its slot of the pose engine's ring is free. -/
def State.retireVoid (s : State) (core cand : Nat) : State :=
  s.mapStream core cand (fun r => { r with void := true, retired := true })

/-- The reaction to a flag (R129, R177 to R179, R229, R316). SUMCHK and ORDER follow a FAULT flag, which has raised
their common cause: they end the thread and raise nothing more. -/
def State.react (s : State) (c t step slot code lane cand : Nat) (cause : Option Fault0) : State :=
  match s.stepAt c step with
  | none => match cause with | some f => s.fault f | none => s
  | some st =>
    match reactionOf st code with
    | .continue_ =>
      if code = 2 then
        { s with eng := { s.eng with flags := s.eng.flags ++ [⟨c, t, step, slot, 4, lane, cand, none, []⟩] } }
      else s
    | .retireRefill => s.retireLane c cand
    | .retireVoid => s.retireVoid c cand
    | .skip => s.divert c t step st.next
    | .goto => s.divert c t step st.goto
    | .fault => if code = 0xC ∨ code = 0xD then s.endThread c t else s.stepFault c t code step cause

/-- A flag that a step raises itself: STALE, REFUSED or TIMEOUT, taken at once (R316). Under CONTINUE
the step has met its own condition. -/
def State.raise (s : State) (c t step code : Nat) : State := s.react c t step 0 code 0xFFFFFFFF 0xFFFFFFFF none

/-- An engine flag reaches its sequencer: the oldest of the core's flags takes its reaction (R316). -/
def execEngineFlag (c : Core) (s : State) : Out :=
  match s.eng.flags.find? (fun f => f.core == c.val) with
  | none => .next s
  | some f =>
    let s := { s with eng := { s.eng with flags := s.eng.flags.erase f } }
    .next (s.react f.core f.thread f.step f.slot f.code f.lane f.cand f.cause)

end Sys2Proof.Machine
end

