-- ==== Sys2Proof/Machine/CycleOps.lean ====
section
/-!
DEFINITION. The hub's part of a planning cycle: the cycle boundary, the release, solve orders, roadmap
costs, the splice search of a retouch cycle, proof and commit (R27 to R37, R204 to R209, R234, R235,
R268 to R293, R310, R322).
-/
namespace Sys2Proof.Machine

open Sys2Proof

/-! ### The cycle boundary -/

/-- A rejoining die's store receives the base layers of the lowest-numbered other healthy die (R101). -/
def State.restoreStore (s : State) (d : Nat) : State :=
  match s.restoreFrom d with
  | some x => { s with world := s.world.copyStore x d }
  | none => s

/-- Dies that wait to rejoin return to service (R310, R408); they rebuild every tile (R113). -/
def State.rejoinDies (s : State) : State :=
  let back (x : DieSt) : Bool := x.rejoin && x.healthy
  let ds := (List.range 8).filter (fun d => back (s.die d))
  ds.foldl (fun (s : State) d =>
    ((s.restoreStore d).mapDie d (fun x => { x with rejoin := false, inService := true, out := .service, allTiles := true })).mapDu d
      (fun u => { u with serve := .serving })) s

/-- FLT_THERM of class HOLD: planning is held (R473, R526). -/
def State.thermHold (s : State) : State :=
  let s := { s with saf := { s.saf with hold := true } }
  s.fault ⟨.therm, .hold, if s.clk.tDie = 8 then Loc.hub 5 else Loc.ofDie s.clk.tDie, s.clk.tSite, code 32 s.clk.tNow⟩

/-- A floor that may be faster than the present step (R528). -/
def State.newFloor (s : State) : State :=
  if s.clk.step ≤ s.floor then { s with clk := { s.clk with target := min s.clk.target s.floor } }
  else if s.clk.hot then s.thermHold
  else { s with clk := { s.clk with target := s.floor, step := s.floor } }

/-- The dies that an armature runs on: the lowest of those in service (R308). -/
def State.usedBy (s : State) (i : Image) (k : Option Nat) : List Nat :=
  match k.bind (fun k => i.arms[k]?) with
  | some a => s.serving.take a.ndie
  | none => []

/-- The library and the armature copy placed in a die's LPDDR (R301, R309; log entry 120). -/
def State.placeCopies (s : State) (d : Nat) : State :=
  let put (s : State) (kind : Nat) (bs : List Byte) : State :=
    match s.placeOf d kind bs.length with
    | some a => s.cohWrite a bs
    | none => s
  match s.img.active, s.armature with
  | some i, some a => put (put s 0x0C i.lib) 0x0E a.raw
  | _, _ => s

/-- A core's steps and pool written into its scratchpad: from the die's armature copy, or from the image where the
die's slot has no region for one (R303, R309, R317). -/
def State.loadCore (s : State) (d c : Nat) (e : CoreEntry) : State :=
  let raw := (s.armature.map (·.raw)).getD []
  let words (src : Nat) (ws : List Nat) : List Byte :=
    match s.placeOf d 0x0E raw.length with
    | some a => if raw.isEmpty then ws.flatMap (leBytes 16) else s.cohRead (a + src) (16 * ws.length)
    | none => ws.flatMap (leBytes 16)
  let base := scratchBase (d * 16 + c)
  (s.poke (base + e.stepsOff) (words e.stepSrc e.steps)).poke (base + e.poolOff) (words e.poolSrc e.pool)

/-- A long operation of the planning dies stands still and keeps its phase 0 work (R351, R452). -/
def State.growthHeld (s : State) : Bool :=
  s.ops.any (fun o => o.cls == .grow && !o.st.terminal && o.st != .queued)

/-- A die's DU state discarded but for what a suspended long operation holds (R351, R452). -/
def State.freshDu (s : State) (d : Nat) : State :=
  match s.duCfg d with
  | some g => s.mapDu d (fun u =>
      DuState.release g (s.cores d) s.seqEnv s.growthHeld (if s.growthHeld then u.discardBut g (s.cores d) true else u.discard))
  | none => s.mapDu d DuState.discard

/-- A used die's tables and DU configuration loaded, its DU state discarded but for what a suspended long operation
holds (R310, R318, R351). -/
def State.loadDie (s : State) (d : Nat) : State :=
  ((((s.dieSlot d).map (·.cores)).getD []).zipIdx.foldl (fun (s : State) e => s.loadCore d e.2 e.1) s).freshDu d

/-- Every used die's tables and DU configuration loaded, every die's DU state discarded (R310, R318, R351). -/
def State.loadTables (s : State) : State := (List.range 8).foldl State.loadDie s

/-- The dies that an armature newly runs on rebuild every tile, and take its copies (R113, R301, R310; log entry
120). -/
def State.takeUp (s : State) (ds : List Nat) : State :=
  let s := (ds.filter (fun d => !s.img.used.contains d)).foldl (fun (s : State) d =>
    s.mapDie d (fun x => { x with allTiles := true })) s
  let s := { s with img := { s.img with used := ds } }
  ds.foldl State.placeCopies s

/-- The armature chosen for the dies in service, with the effects of a switch (R203, R310, R341, R528). A change of
the dies that it runs on is a switch too (log entry 120). -/
def State.chooseArmature (s : State) : State :=
  match s.img.active with
  | none => s
  | some i =>
    let k := if s.healthy.length < 2 then none else chooseArm i.arms s.serving.length
    let ds := s.usedBy i k
    if k = s.img.arm ∧ ds = s.img.used then s
    else
      let s := { s with img := { s.img with arm := k }
                        cyc := { s.cyc with epoch := (s.cyc.epoch + 1) % 2 ^ 32 } }
      let s := if k.isNone then { s with saf := s.saf.set 6 } else s
      ((s.clearCaches (fun _ => true)).takeUp ds).loadTables.newFloor

/-- A cycle boundary (R310, R408). -/
def State.boundary (s : State) : State := s.rejoinDies.chooseArmature

/-! ### The release -/

/-- The sheet and trace areas of a cycle descriptor suffice (R292, R433, R434). -/
def State.areasOk (s : State) (d : Desc) : Bool :=
  let pages := getLe d.bytes 42 2 * 4096
  if d.head.opcode = 0x0030 then
    let bank := s.sheetBankLen
    let none_ := (s.img.active.map (fun i => i.hdr.sheetMode == 0)).getD true
    decide (2 * bank ≤ pages ∨ none_) && (!d.head.trace || decide (2 * bank + 4096 ≤ pages))
    && ((none_ && !d.head.trace) || getLe d.bytes 37 5 != 0)
  else !d.head.trace || decide (4096 ≤ pages)

/-- The first row of R37 that stops a cycle before its release; none where it can start. -/
def State.releaseStop (s : State) (d : Desc) : Option Status :=
  let w := d.worldTime
  match s.img.active, s.armature with
  | some i, some _ =>
    if s.serving.length < 2 && !i.hdr.compat then some .noImage
    else if s.saf.hold || s.saf.ext == some 1 then some .refused
    else if (pickEgo w s.world.egos).isNone then some .stale
    else if d.head.opcode = 0x0031 ∧ s.cyc.held.isNone then some .stale
    else if !s.cyc.lost.isEmpty then some .stale
    else if w < s.world.worldTime then some .badDesc
    else if !s.areasOk d then some .badDesc
    else none
  | _, _ => some .noImage

/-- Pending patches applied, in acceptance order; an Enlarger patch marks every tile (R108, R322). -/
def State.applyPatches (s : State) : State :=
  let enl := s.img.patches.any (fun p => p.entries.any (fun e => decide (1 ≤ e.pid ∧ e.pid ≤ 6)))
  { s with
    img := { s.img with params := s.img.patches.foldl (fun ps p => applyPatch ps p.entries) s.img.params, patches := [] }
    world := { s.world with markAll := s.world.markAll || enl } }

/-- Caches keyed to the epoch cleared where the epoch number wraps (R98, R203, R205). -/
def State.wrapEpoch (s : State) : State :=
  if s.world.epoch = 0xFFFFFFFF then
    { s.clearCaches (fun _ => true) with
             img := { s.img with estat := s.img.estat.map (fun e => { e with epoch := 0 }) } }
  else s

/-- The Snapshot of a cycle (R93 to R100). -/
def State.snap (s : State) (i : Image) (w : Nat) (e : Ego) : State :=
  let s := s.wrapEpoch
  let reach := reachTiles (i.kernelsOf s.img.params).flatten
  { s with world := s.world.snapshot i.world reach w e }

/-- A thread that executes a PHASE 0 step pushes its frame and is kept (R452); a failed push ends it and
its operation (R319). -/
def State.saveThreads (s : State) (d : Nat) : State :=
  (List.range 128).foldl (fun (s : State) k =>
    let c := d * 16 + k / 8
    let t := k % 8
    match s.thr c t, (s.thr c t).bind (fun x => s.stepAt c x.step) with
    | some x, some st =>
      if st.phase = 0 ∧ x.status ≠ .halted ∧ x.status ≠ .killed ∧ st.kind ≠ .halt then
        match s.pushFrame c t 1 x with
        | some s => s.mapDu d (fun u => { u with saved := u.saved ++ [(c % 16, t, { x with mslot := none })] })
        | none => s.contextLost c t x 0
      else s
    | _, _ => s) s

/-- The DU of every die of the cycle at its release (R351, R452). -/
def State.releaseDus (s : State) (ds : List Nat) : State :=
  let held := s.growthHeld
  ds.foldl (fun (s : State) d =>
    let s := if held ∧ (s.duOf d).saved.isEmpty then s.saveThreads d else s
    match s.duCfg d with
    | some g => s.mapDu d (DuState.release g (s.cores d) s.seqEnv held)
    | none => s) s

/-- A cycle begins: the run of long operations ends, patches, snapshot, release of phase 1 (R27, R28, R31, R98, R322, R341, R344, R451). -/
def State.beginCycle (s : State) (d : Desc) (i : Image) (a : Armature) (e : Ego) : State :=
  let s := s.applyPatches.snap i d.worldTime e
  let ds := s.serving.take a.ndie
  let largest := (i.arms.map (·.ndie)).foldl max 0
  let c : Cycle :=
    { desc := d, retouch := d.head.opcode == 0x0031, phase := 1, arm := s.img.arm.getD 0, dies := ds
      degraded := decide (a.ndie < largest), step := s.clk.step, release := s.time.now, releaseSclk := s.time.sclk
      phaseSclk := s.time.sclk, passed := [], lists := [], orders := [], emits := [], costs := []
      counts := CycleCounts.zero, voided := [], nonfinite := false, optDl := 0, drops := (0, 0), optVoid := [], splice := none, path := []
      proofPlan := .notRun, proofSafe := .notRun, proofFlags := ({}, {}), traced := 0, traceLost := 0, params := s.img.params }
  let s := s.withOps (yieldOps s.ops)
  let s := { s with cyc := { s.cyc with cur := some c, epoch := (s.cyc.epoch + 1) % 2 ^ 32, lastRelease := some s.time.now }
                    eng := { EngSt.reset with flags := s.eng.flags.filter (fun f => f.cause.isSome) } }
  (s.releaseDus ds).fireOn ds .phaseRelease 1

/-- The head of the cycle queue released, or completed where R37 starts no cycle. -/
def State.releaseCycle (s : State) (d : Desc) : State :=
  match s.releaseStop d with
  | some st =>
    let s := s.complete d st 0 0
    if st = .noImage then { s with saf := s.saf.set 6 } else s
  | none =>
    match s.img.active, s.armature, pickEgo d.worldTime s.world.egos with
    | some i, some a, some e => s.beginCycle d i a e
    | _, _, _ => s

/-! ### Roadmap costs (R204, R205) -/

/-- The stale out-edges of the window nodes given their cost and the current epoch (R205). -/
def State.refreshEdges (s : State) (c : Cycle) : State :=
  match c.dies.head?.bind s.engEnv, s.img.region, c.dies.head? with
  | some e, some r, some d =>
    let w := s.world.forDie e.img.world d
    if !(((e.arm.slots.map (·.cores)).flatten.map (·.fam)).flatten.any (fun f => f.family == 1)) then s
    else
      let p := e.img.roadmap
      let kmax := (e.img.ego.head?.map (·.kappaMax)).getD 0
      let pairs := ((rmWindow p r s.img.nodes e.ego.x).map (fun n =>
        (edgeSet p r kmax s.img.nodes n).map (fun m => (n, m)))).flatten
      pairs.foldl (fun (s : State) x =>
        let old := s.img.estat.find? (fun y => y.src == x.1 && y.dst == x.2)
        if old.any (fun y => !y.stale w) then s
        else
          let y := s.edgeEntry e d r x
          let rest := s.img.estat.filter (fun z => !(z.src == x.1 && z.dst == x.2))
          { s with img := { s.img with estat := rest ++ [y] } }) s
  | _, _, _ => s

/-! ### The splice search (R207 to R209) -/

/-- Samples j0 to the end of the held plan in P32 and A16, T counted from j0, with their bounds (R60,
R207; log entry 31). -/
def heldSeq (ego : List EgoBody) (w : Nat) (b : List Byte) : List Sample :=
  let (an, w0, ts) := heldPlan b
  let j0 := if w ≤ w0 then 0 else (w - w0 + 999999) / 1000000
  let tail := ts.drop j0
  sweepSeq ego (tail.zipIdx.map (fun x =>
    match ((ExceptT.run (recheckSample ego an tail x.2 x.1)).run {}).1 with
    | .ok p => p
    | .error _ => { voidSample with t := 10 * x.2 }))

/-- The sequence with the samples `ka .. kc` moved by detour `v` (R208). -/
def detourSeq (ego : List EgoBody) (ramp step v ka kc : Nat) (ps : List Sample) : List Sample :=
  sweepSeq ego (ps.zipIdx.map (fun x =>
    if ka ≤ x.2 ∧ x.2 ≤ kc then x.1.shift (detourOffset ramp step v ka kc x.2) ego.length else x.1))

/-- The outcome of a retouch cycle's search and the spliced sequence (R207 to R209). Samples count from
j0. -/
def State.spliceSearch (s : State) (d : Nat) (e : EngEnv) (held : List Byte) : Splice × List Sample :=
  let ego := e.img.ego
  let v := s.chiselEnv e (4 * d)
  let k := s.costEnv e d
  let bm := e.arm.recheckBmask
  let ps := heldSeq ego s.world.worldTime held
  let blocked := ps.zipIdx.map (fun x => (x.2, (v.verdictPose true bm e.img.misc.dts e.img.misc.nsamp x.1).verdict != .free))
  match blockedRun k.prm.splSpan blocked with
  | none => (.notBlocked, [])
  | some (kb, ke) =>
    if kb < k.prm.splBack + k.prm.splLead then (.tooClose kb, [])
    else
      let ka := kb - k.prm.splBack
      let kc := min (ke + k.prm.splFwd) (ps.length - 1)
      let merit (n : Nat) : Nat :=
        let seg := ((detourSeq ego k.prm.splRamp (paramVal e.ps 0x30 0) n ka kc ps).drop ka).take (kc - ka + 1)
        let r := v.verdictOf true bm seg
        orderKeyC24 (k.costFinal s.probAt true n r (k.costSamples true seg)).cost
      let best := (List.range k.prm.splNdet).foldl (fun (b : Option (Nat × Nat)) n =>
        let m := merit n
        if m = 0 then b
        else match b with
        | none => some (n, m)
        | some x => if x.2 < m then some (n, m) else b) none
      match best with
      | none => (.noDetour kb, [])
      | some (n, _) => (.spliced kb n, detourSeq ego k.prm.splRamp (paramVal e.ps 0x30 0) n ka kc ps)

/-! ### Lists and solve orders -/

/-- A retouch cycle builds the lists of its safelight trajectory and its two proofs (R206). -/
def SelEntry.runs (e : SelEntry) (retouch : Bool) : Bool := !retouch || e.kind == 1 || e.kind == 4 || e.kind == 5

/-- The hub list of an entry and pass (R230). -/
def Cycle.hubList (c : Cycle) (entry pass : Nat) : Option SList :=
  (c.lists.find? (fun l => l.die == 8 && l.entry == entry && l.pass == pass)).map (·.list)

/-- The entries of the hub lists of a KIND, in rank order across passes (R220). -/
def Cycle.ranked (c : Cycle) (sel : List SelEntry) (kind : Nat) : List LEntry :=
  ((sel.zipIdx.filter (fun e => e.1.kind == kind)).map (fun e =>
    ((List.range e.1.passes).map (fun p => ((c.hubList e.2 p).map (·.entries)).getD [])).flatten)).flatten

/-- The hub's share of a phase is done: every hub list of the phase exists (R27, R230). -/
def Cycle.hubDone (c : Cycle) (a : Armature) : Bool :=
  a.sel.zipIdx.all (fun e => e.1.phase != c.phase || !e.1.runs c.retouch
    || (List.range e.1.passes).all (fun p => (c.hubList e.2 p).isSome))

/-- A core's share of the phase is done (R27, R313): reported, or no step of the core reports the phase
(log entry 32). A core whose threads have ended without reporting holds the phase until its watchdog. -/
def State.coreDone (s : State) (c : Cycle) (core : Nat) : Bool :=
  let steps := (((s.cores (core / 16))[core % 16]?).map (·.steps)).getD []
  let reports := steps.any (fun w => (SeqStep.ofWord w).any (fun st => st.pend && st.phase == c.phase))
  c.passed.contains core || !reports

/-- Every core of the cycle's dies and the hub have ended the phase (R27). -/
def State.phaseDone (s : State) (c : Cycle) (a : Armature) : Bool :=
  c.dies.all (fun d => (List.range 16).all (fun k => s.coreDone c (d * 16 + k))) && c.hubDone a

/-- The core that a solve table entry names (R234, R308). -/
def Cycle.coreOf (c : Cycle) (w : Nat) : Option Nat :=
  let cl := field w 0 5
  (c.dies[cl / 4]?).map (fun d => d * 16 + cl % 4 * 4 + field w 5 2)

/-- The solve orders of the cycle (R234, R235); a retouch cycle's spliced plan takes the place of the MAIN
list, at entry 0 of the table (log entry 33). -/
def State.solveOrders (s : State) (c : Cycle) (a : Armature) (dl : Nat) : List Ordered :=
  let mk (base kind : Nat) (x : LEntry × Nat) : Option Ordered := do
    let core ← c.coreOf (nth 0 a.solve (base + x.2))
    let f := (a.famOf x.1.key.cand).getD (0, 0)
    return ⟨core, ⟨x.1.key.cand, f.1, kind, x.2, f.2, s.cyc.epoch, dl⟩⟩
  let safe := (c.ranked a.sel 1).zipIdx.filterMap (mk 64 1)
  let main := match c.splice with
    | some (.spliced _ v) => ((c.coreOf (nth 0 a.solve 0)).map (fun k => (⟨k, ⟨v, 2, 2, 0, v, s.cyc.epoch, dl⟩⟩ : Ordered))).toList
    | _ => (c.ranked a.sel 0).zipIdx.filterMap (mk 0 0)
  main ++ safe

/-- The spliced samples that a SOLVE of KIND SPLICE reads, placed in the pose region of its core (R236;
log entry 33). -/
def State.placeSplice (s : State) (c : Cycle) : State :=
  match c.orders.find? (fun o => o.order.kind == 2) with
  | none => s
  | some o =>
    match (s.dieSlot (o.core / 16)).bind (fun x => x.region 0x04 (o.core % 16)) with
    | none => s
    | some r => s.poke (scratchBase o.core + r.off) ((thinned c.path).map Sample.bytes).flatten

/-! ### The contact sheet -/

/-- The candidates of an armature in ascending index order (R127, R290). -/
def Armature.cands (a : Armature) : List Nat :=
  sortBy (fun (x y : Nat) => decide (x ≤ y))
    ((((a.slots.map (·.cores)).flatten.map (·.fam)).flatten.map (fun f => (List.range f.count).map (· + f.first))).flatten)

/-- The entry of a candidate: of its last cost record, or a free value where the cycle made none (R291; log
entry 119). -/
def Cycle.sheetEntry (c : Cycle) (cand : Nat) : SheetEntry :=
  match c.costs.reverse.find? (fun k => k.cand == cand) with
  | some k => SheetEntry.ofCost k
  | none =>
    let w := (Config.openWord (leBytes 4 cand) 0).toNat
    let v := (Config.openWord (leBytes 4 cand) 1).toNat
    ⟨cand, w % 2 ^ 24, field v 0 4, bitAt v 4, bitAt v 5, bitAt v 6, bitAt v 7, field v 8 8⟩

/-- The entries of the contact sheet (R290, R291). -/
def Cycle.sheetEntries (c : Cycle) (i : Image) (a : Armature) : List SheetEntry :=
  if c.retouch then []
  else if i.hdr.sheetMode = 2 then a.cands.map c.sheetEntry
  else if i.hdr.sheetMode = 1 then
    (c.ranked a.sel 3).map (fun x => c.sheetEntry x.key.cand)
  else []

/-- The sheet mode of an image (R292). -/
def Image.sheet (i : Image) : SheetMode :=
  if i.hdr.sheetMode = 2 then .full else if i.hdr.sheetMode = 1 then .bestN else .none

/-- Where a sheet bank begins (R292). -/
def State.sheetAt (s : State) (d : Desc) (seq : Nat) : Nat := getLe d.bytes 37 5 * 4096 + seq % 2 * s.sheetBankLen

/-- The entries written to the sheet bank of the commit to come (R292). -/
def State.writeSheet (s : State) (c : Cycle) (i : Image) (a : Armature) : State :=
  if i.hdr.sheetMode = 0 ∨ c.retouch then s
  else s.hostWrite (s.sheetAt c.desc (s.aon.ctr.commits + 1) + 64) ((c.sheetEntries i a).map SheetEntry.bytes).flatten

/-! ### Proof -/

/-- The trajectory that a FINAL hub list names (R268): of KIND SAFE, or of MAIN and SPLICE. -/
def Cycle.finalOf (c : Cycle) (a : Armature) (safe : Bool) : Option Emitted :=
  ((c.ranked a.sel (if safe then 5 else 4)).head?).bind (fun x =>
    c.emits.find? (fun m => m.cand == x.key.cand && (m.kind == 1) == safe))

/-- A trajectory as the proofer takes it (R268, R269). -/
def Emitted.proof (m : Emitted) : ProofTraj :=
  ⟨m.traj.anchor, [m.traj.tend, m.traj.objGeo, m.traj.objTs], m.traj.stopj.isSome, m.traj.samples, m.cost.bmask, m.cost.trunc, m.tsample⟩

/-- What the proofer reads (R102, R271, R322). -/
def State.proofEnv (s : State) (c : Cycle) (i : Image) (a : Armature) (e : Ego) : ProofEnv :=
  { lim := proofLimitsOf c.params, ego := i.ego, margins := i.world.margins, state := e, w := s.world.worldTime
    objects := s.world.objects, statics := s.world.statics, branches := a.recheckBmask }

/-- The proof of a trajectory; one that never reached the hub fails FORM (R269). -/
def proveEmitted (v : ProofEnv) (safe : Bool) (m : Option Emitted) : ProofResult × FFlags :=
  match m with
  | some m => let r := proveOne v safe m.proof; (.of r.1, r.2)
  | none => (.failed ⟨.form, none, 1⟩, {})

/-- FLT_VERIFY_REPEAT: every healthy die restarts after the cycle's completion; a second one before a
commit restarts the hub too, a third is fatal (R274, R481). -/
def State.verifyFault (s : State) : State :=
  let s := s.record ⟨.verifyRepeat, .restartDie, Loc.package, mmRun s.cyc.history, mm100 s.cyc.history⟩
  let n := s.saf.verifyRuns
  if 2 ≤ n then s.fatal true
  else
    let s := { s with saf := { s.saf with verifyRuns := n + 1, verifyRestart := true } }
    let s := s.healthy.foldl (fun (s : State) d => s.restartDue (.die d)) s
    if n = 1 then s.restartDue .hub else s

/-- The end of a cycle that no trajectory could be put to proof for (R37, R268). -/
def State.endEmpty (s : State) (c : Cycle) : State :=
  let w := s.cycleWords c
  s.endCycle (if c.nonfinite then .solverNonfinite else .noCandidate) w.1 w.2 false

/-! ### The commit -/

/-- The guess entries of a plan record (R281). -/
def Cycle.guessList (c : Cycle) (i : Image) (a : Armature) (e : Ego) : List (Nat × Nat × Nat) :=
  let lib := LibHdr.ofBytes i.lib
  let g := (egoBins i.lib lib e).2
  ((c.ranked a.sel 2).take 15).filterMap (fun x =>
    (a.famOf x.key.cand).map (fun f => (g, f.2 % max 1 lib.nq, f.2 / max 1 lib.nq)))

/-- A record of the commit (R280). -/
def State.planRec (s : State) (c : Cycle) (a : Armature) (m : Emitted) (safe : Bool) (seq : Nat)
    (gs : List (Nat × Nat × Nat)) : PlanRec :=
  let spliced := m.kind = 2
  { traj := m.traj, safe := safe, degraded := c.degraded, spliced := spliced
    dline := m.traj.stGeo == 2 || m.traj.stTs == 2, trunc := m.cost.trunc, seq := seq, epoch := s.world.epoch
    time := s.time.now, key := BitVec.ofNat 32 m.raw, cost := m.cost.cost, bmask := m.cost.bmask
    family := if spliced then 2 else ((a.famOf m.cand).getD (0, 0)).1, arm := c.arm, tsample := m.tsample, ord := m.ord
    guesses := gs }

/-- The restarted units that a commit takes no part of stay watched for a repeat (R481). -/
def State.stillWatched (s : State) : List RUnit :=
  s.saf.watch.filter (fun u => match u.dieOf, s.cyc.cur with
    | some d, some c => !c.dies.contains d
    | _, _ => false)

/-- The device's own copy of the commit and its counters (R278, R288, R392, R482). -/
def State.committed (s : State) (seq : Nat) (plan safe : PlanRec) : State :=
  { s with
    aon := { s.aon with ctr := { s.aon.ctr with commits := seq } }
    saf := { s.saf.commit (s.regs.limit * s.regs.stalePeriod) with watch := s.stillWatched }
    pkg := { s.pkg with dies := s.pkg.dies.map (fun (x : DieSt) => { x with hubLosses := 0 }) }
    cyc := { s.cyc with held := some (plan.bytes, safe.bytes), lastCommit := some s.time.now } }

/-- The Fix phase (R283): records, sheet header, control block, then the cycle's end. -/
def State.fix (s : State) (c : Cycle) (i : Image) (a : Armature) (e : Ego) (p q : Emitted) : State :=
  let seq := s.aon.ctr.commits + 1
  let plan := s.planRec c a p false seq (c.guessList i a e)
  let safe := s.planRec c a q true seq []
  let area := c.desc.planArea
  let bank := area + bankOffset (seq % 2)
  let entries := ((c.sheetEntries i a).map SheetEntry.bytes).flatten
  let s := s.hostWrite bank plan.bytes
  let s := s.hostWrite (bank + 0xC000) safe.bytes
  let s := if i.hdr.sheetMode = 0 ∨ c.retouch then s
    else s.hostWrite (s.sheetAt c.desc seq) (sheetHeader seq s.world.epoch i.sheet s.world.worldTime entries)
  let s := s.hostWrite area (controlBlock seq s.world.epoch s.world.worldTime s.time.now plan safe (entries.length / 8))
  let s := s.committed seq plan safe
  let w := s.cycleWords c
  s.endCycle (if c.degraded then .okDegraded else .ok) w.1 w.2 true

end Sys2Proof.Machine
end

