-- ==== Sys2Proof/Machine/RingOps.lean ====
section
/-!
DEFINITION. Operations of the ring engine: polls, doorbells, ring errors, the choice of a ring, start of
descriptors, completions written and outstanding descriptors (R416 to R442).
-/
namespace Sys2Proof.Machine

open Sys2Proof

/-- Device-time ticks of a number of microseconds (R499). -/
def ticksUs (n : Nat) : Nat := 100 * n

/-- The function answers and masters requests: the link is up and no reset of it holds (R443, R551). -/
def State.linkOk (s : State) : Bool := s.host.linkUp && !s.host.perst

/-- A hub core restart has begun and not ended (R490). -/
def State.hubDown (s : State) : Bool := s.saf.active.contains .hub

/-- The ring engine works: a table is loaded, the hub runs and no fatal fault has stopped it (R398, R416,
R480, R490). -/
def State.ringEngine (s : State) : Bool :=
  s.linkOk && s.host.tblSt == .loaded && s.saf.alive && !s.hubDown
  && (s.boot.st == .ready || s.boot.st == .fatal)

/-! ### Ring errors -/

/-- The ring error record of a submission ring (R441). -/
def Ring.errorRec (r : Ring) (e : RingError) : Compl :=
  ⟨r.num, 0, .badDesc, 0xFFFF, r.count % 2 ^ 32, r.num, e.code, false, false⟩

/-- A ring has entered ERROR: GSTAT's bit and, for a submission ring, its error record (R440, R441). -/
def State.ringFailed (s : State) (r : Ring) (e : RingError) : State :=
  let rec_ := if r.ctx.type = .submission then [r.errorRec e] else []
  { s with host := { s.host with ringErr := true, due := s.host.due ++ rec_ } }

/-- A ring put into ERROR with a cause (R440). -/
def State.ringError (s : State) (n : Nat) (e : RingError) : State :=
  match s.ring n with
  | none => s
  | some r =>
    if r.error.isSome then s else (s.mapRing n (fun x => { x with error := some e })).ringFailed r e

/-! ### Polls -/

/-- A ring that polls look at (R420). -/
def Ring.polled (r : Ring) : Bool := r.ctx.type != .event && r.error.isNone

/-- The groups that hold an enabled submission or completion ring (R420). -/
def State.pollGroups (s : State) : List Nat :=
  (s.host.rings.filter (fun r => r.ctx.type != .event)).map (fun r => r.num / 32)

/-- A ring's doorbell record read (R418, R420, R442); whether it has moved. -/
def State.readDoorbell (s : State) (n : Nat) : State × Bool :=
  match s.ring n with
  | none => (s, false)
  | some r =>
    if !r.polled then (s, false)
    else
      let r' := r.doorbell (s.hostRead r.ctx.db 8)
      let s := s.mapRing n (fun _ => r')
      (match r'.error with | some e => s.ringFailed r' e | none => s, r'.peer != r.peer)

/-- The doorbell records of some rings read, in their order; whether one has moved. -/
def State.readDoorbells (s : State) (ns : List Nat) : State × Bool :=
  ns.foldl (fun (x : State × Bool) n => let y := x.1.readDoorbell n; (y.1, x.2 || y.2)) (s, false)

/-- The rings of a group (R419). -/
def State.groupRings (s : State) (g : Nat) : List Nat :=
  (s.host.rings.filter (fun r => r.num / 32 == g)).map (·.num)

/-- The attention counters of the active span: those that moved with their new values; none where the
read fails (R420, R442). -/
def State.movedGroups (s : State) (lo hi : Nat) : Option (List (Nat × Nat)) :=
  (s.hostRead (s.host.attnLatched + 2 * lo) (2 * (hi - lo + 1))).map (fun b =>
    ((List.range (hi - lo + 1)).map (fun k => (lo + k, getLe b (2 * k) 2))).filter (fun x =>
      nth 0 s.host.attnSeen x.1 != x.2))

/-- The completion rings that are full (R435). -/
def State.fullRings (s : State) : List Nat :=
  (s.host.rings.filter (fun r => r.ctx.type == .completion && !r.room)).map (·.num)

/-- The poll period after a poll (R421). -/
def State.pollPeriod (s : State) (find : Bool) : State :=
  let fast := field s.host.attnPoll 0 8
  let slow := field s.host.attnPoll 8 8
  let now := s.time.now
  if find then { s with host := { s.host with period := fast, lastFind := now } }
  else if now - s.host.lastFind ≤ ticksUs (field s.host.attnPoll 16 16) then
    { s with host := { s.host with period := fast } }
  else { s with host := { s.host with period := min slow (2 * s.host.period) } }

/-- One poll over the active span (R420): moved groups, the group of the rotation, full completion
rings (R435). -/
def State.poll (s : State) (lo hi : Nat) : State :=
  let moved := s.movedGroups lo hi
  let s := match moved with
    | some _ => s
    | none => { s with host := { s.host with attnFail := min 15 (s.host.attnFail + 1) } }
  let ms := moved.getD []
  let rot := if lo ≤ s.host.rotate ∧ s.host.rotate ≤ hi then s.host.rotate else lo
  let gs := ms.map (·.1) ++ (if ms.any (fun x => x.1 == rot) then [] else [rot])
  let ns := (gs.map s.groupRings).flatten
  let full := s.fullRings.filter (fun n => !ns.contains n)
  let r := s.readDoorbells (ns ++ full)
  let s := r.1
  let s := { s with host := { s.host with
    attnSeen := ms.foldl (fun (l : List Nat) (x : Nat × Nat) => setAt l x.1 x.2) s.host.attnSeen
    rotate := if rot < hi then rot + 1 else lo } }
  s.pollPeriod (!ms.isEmpty || r.2)

/-! ### Choosing a ring -/

/-- A completion due for a descriptor, and not a ring error record (R441). -/
def Compl.real (c : Compl) : Bool := c.opcode != 0xFFFF

/-- Fetched descriptors whose completion is neither written nor discarded (R416), by ring and SEQ. -/
def State.outstanding (s : State) : List (Nat × Nat) :=
  s.host.held.map (fun d => (d.ring, d.head.seq)) ++ s.host.waiting.map (fun d => (d.ring, d.head.seq))
  ++ (s.host.due.filter (fun c => c.real && !s.host.waiting.any (fun d => c.of d))).map (fun c => (c.ring, c.seq))

/-- A ring that nothing is fetched from (R423). DESIGN CHOICE: world descriptors of the ring that have started and are
not served yet count toward the four unconsumed updates of R83 (log entry 122). -/
def State.ringBlocked (s : State) (r : Ring) : Bool :=
  s.host.held.any (fun d => d.ring == r.num)
  || (match s.ring r.ctx.pair with | some p => !p.room | none => true)
  || (match r.ctx.stream with
      | some k => decide (4 ≤ (s.world.stream k).queue.length
          + (s.host.started.filter (fun d => d.ring == r.num && streamKindOf d.head.opcode != .unused)).length)
      | none => false)
  || r.error.isSome

/-- The rings that can be fetched from (R423). -/
def State.fetchable (s : State) : List Ring :=
  s.host.rings.filter (fun r => r.ctx.type == .submission && decide (0 < r.waiting) && !s.ringBlocked r)

/-- The ring of a class whose turn it is: the first from a number on, else the lowest (R423). -/
def ringTurn (from_ : Nat) (rs : List Ring) : Option Ring :=
  let low (xs : List Ring) : Option Ring :=
    xs.foldl (fun b r => match b with | none => some r | some x => if r.num < x.num then some r else b) none
  match low (rs.filter (fun r => decide (from_ ≤ r.num))) with
  | some r => some r
  | none => low rs

/-- The ring that the next descriptor is fetched from (R423): highest class, round robin. -/
def State.nextRing (s : State) : Option Ring :=
  let rs := s.fetchable
  let c := (rs.map (fun r => r.ctx.prio)).foldl max 0
  ringTurn (nth 0 s.host.turn c) (rs.filter (fun r => r.ctx.prio == c))

/-! ### Starting a descriptor -/

/-- The opcodes that IDLE refuses (R535). -/
def idleRefuses : List Nat := [0x0030, 0x0031, 0x0050, 0x0051, 0x0010]
/-- The opcodes that STANDBY accepts (R535). -/
def standbyAccepts : List Nat := [0x0001, 0x0023, 0x0061, 0x0060, 0x0043, 0x0011, 0x0012]

/-- A power state refuses an opcode (R535). -/
def PState.refuses (p : PState) (op : Nat) : Bool :=
  match p with
  | .active => false
  | .idle => idleRefuses.contains op
  | .standby => !standbyAccepts.contains op
  | .off => true

/-- The power state refuses an opcode; in a transition what either state refuses (R535; log entry 36). -/
def State.powerRefuses (s : State) (op : Nat) : Bool :=
  s.clk.reached.refuses op || (match s.clk.busy with | some p => p.refuses op | none => false)

/-- A cycle descriptor (R424). -/
def Desc.isCycle (d : Desc) : Bool := d.head.opcode == 0x0030 || d.head.opcode == 0x0031

/-- A fetched descriptor is held on its ring (R424): FENCE with an earlier one of the ring outstanding, or
a cycle descriptor that finds four in the cycle queue. -/
def State.holds (s : State) (d : Desc) : Bool :=
  (d.head.fence && (s.host.waiting.any (fun x => x.ring == d.ring)
    || s.host.due.any (fun c => c.real && c.ring == d.ring)))
  || (d.isCycle && decide (4 ≤ s.cyc.queue.length + (s.host.started.filter Desc.isCycle).length))

/-- A descriptor started: handed to its unit, or refused in the present power state (R424, R535). -/
def State.startDesc (s : State) (d : Desc) : State :=
  if s.powerRefuses d.head.opcode then s.complete d .refused 0 0
  else { s with host := { s.host with started := s.host.started ++ [d], waiting := s.host.waiting ++ [d] } }

/-- The checks of R429 on a slot's bytes, in a stream ring those of R431 with any world opcode passed on
to R104's own check of the kind (log entry 37). -/
def State.fetchCheck (s : State) (r : Ring) (b : List Byte) : Option Status :=
  let op := getLe b 0 2
  let streamOp := r.ctx.stream.map (fun _ => if streamKindOf op = .unused then 0 else op)
  descCheck b r.count streamOp (s.boot.st == .fatal || s.saf.fatal)

/-- A descriptor fetched from a ring (R423, R429). -/
def State.fetchFrom (s : State) (r : Ring) : State :=
  let s := { s with host := { s.host with turn := setAt s.host.turn r.ctx.prio (r.num + 1) } }
  match s.hostRead (r.ctx.base + r.count % r.ctx.size * 64) 64 with
  | none =>
    let s := s.mapRing r.num (fun x => { x with count := x.count + 1, slotFails := x.slotFails + 1 })
    let s := { s with host := { s.host with due := s.host.due ++
      [⟨r.num, 0, .dma, 0, r.count % 2 ^ 32, 0, 0, false, false⟩] } }
    if 1 ≤ r.slotFails then s.ringError r.num .slotFail else s
  | some b =>
    let s := s.mapRing r.num (fun x => { x with count := x.count + 1, slotFails := 0 })
    let h := DescHead.ofBytes b
    let d : Desc := ⟨r.num, h, b⟩
    match s.fetchCheck r b with
    | some .crc => { s with host := { s.host with due := s.host.due ++
        [⟨r.num, h.tag, .crc, h.opcode, r.count % 2 ^ 32, 0, 0, false, false⟩] } }
    | some st => s.complete d st 0 0
    | none =>
      if s.holds d then { s with host := { s.host with held := s.host.held ++ [d] } }
      else s.startDesc d

/-- The oldest started descriptor of an opcode taken up by its unit. -/
def State.take (s : State) (op : Nat) : Option (Desc × State) :=
  (s.host.started.find? (fun d => d.head.opcode == op)).map (fun d =>
    (d, { s with host := { s.host with started := s.host.started.erase d } }))

/-- A descriptor command: the oldest started descriptor of its opcode is served; without one nothing
happens (log entry 8). -/
def State.serve (s : State) (op : Nat) (f : Desc → State → State) : Out :=
  match s.take op with
  | none => .next s
  | some x => .next (f x.1 x.2)

/-! ### Completions -/

/-- A completion leaves the device's books: its descriptor is no longer outstanding (R416, R440). -/
def State.retire (s : State) (c : Compl) : State :=
  let s := { s with host := { s.host with due := s.host.due.erase c, waiting := s.host.waiting.filter (fun d => !c.of d) }
                    ops := s.ops.filter (fun o => !(o.st.terminal && c.of o.desc)) }
  if c.heartbeat then
    let l := !s.saf.heartbeat
    { s with saf := { s.saf with heartbeat := l }, host := { s.host with sent := s.host.sent ++ [.heartbeat l] } }
  else s

/-- The completion ring of a due completion. -/
def State.pairOf (s : State) (c : Compl) : Option Ring := (s.ring c.ring).bind (fun r => s.ring r.ctx.pair)

/-- A due completion can leave: it is written, or discarded at a completion ring in ERROR (R435, R440). -/
def State.canLeave (s : State) (c : Compl) : Bool :=
  match s.pairOf c with
  | none => true
  | some p => p.error.isSome || p.room

/-- A due completion written, or discarded (R435, R440). -/
def State.writeCompl (s : State) (c : Compl) : State :=
  match s.pairOf c with
  | none => s.retire c
  | some p =>
    if p.error.isSome then s.retire c
    else
      let s := s.hostWrite (p.ctx.base + p.count % p.ctx.size * 32) (c.bytes s.time.now p.count p.ctx.log2)
      (s.retire c).wrote p.num c.now

/-! ### The table -/

/-- A failed load (R416, R557). -/
def State.loadFailed (s : State) (ring : Nat) (c : LoadCause) : State :=
  { s with host := { s.host with tblSt := .error, lcause := c.code, lring := ring, rings := [], due := [] } }

/-- Host memory read, nothing for no bytes. -/
def State.hostReadN (s : State) (a n : Nat) : Option (List Byte) := if n = 0 then some [] else s.hostRead a n

/-- RING_TBL_LOAD's LOAD written (R416, R557). -/
def State.loadTable (s : State) : State :=
  let h := s.host
  if !s.outstanding.isEmpty then { s with host := { h with lcause := LoadCause.busy.code } }
  else
    let s := { s with host := { h with attnLatched := h.attnBase, tblLatched := h.tblBase } }
    if 2 ^ 52 ≤ h.tblBase ∨ h.tblBase % 4096 ≠ 0 then s.loadFailed 0x3FFF .address
    else if 2 ^ 52 ≤ h.attnBase ∨ h.attnBase % 4096 ≠ 0 then s.loadFailed 0x3FFF .attnBase
    else
      match s.hostReadN h.tblBase (32 * h.tblCount), s.hostRead h.attnBase 1024 with
      | none, _ => s.loadFailed 0x3FFF .read
      | some b, attn =>
        match checkTable (fun r => sliceAt b (32 * r) 32) h.tblCount, attn with
        | .error e, _ => s.loadFailed e.1 e.2
        | .ok _, none => s.loadFailed 0x3FFF .read
        | .ok rs, some a =>
          { s with host := { s.host with
            tblSt := .loaded, lcause := 0, lring := 0, rings := rs.map Ring.fresh, ringErr := false, due := []
            attnSeen := (List.range 512).map (fun g => getLe a (2 * g) 2), turn := [0, 0, 0, 0], rotate := 0 } }

/-- FLT_REG_ACCESS with a BAR0 offset, byte enables and cause (R549); located in the PCIe unit (log entry
39). -/
def State.regFault (s : State) (off be cause : Nat) : State :=
  s.fault ⟨.regAccess, .info, Loc.hub 7, off, be % 16 + 256 * cause⟩

/-- A BAR0 write during a hub core restart: held, up to 64 of them; a further one is discarded and logged
(R490, R552). -/
def State.holdWrite (s : State) (off be v : Nat) : State :=
  if s.regs.heldWrites.length < 64 then
    { s with regs := { s.regs with heldWrites := s.regs.heldWrites ++ [(off, be, v)] } }
  else s.regFault off be 5

end Sys2Proof.Machine
end

