-- ==== Sys2Proof/Machine/DescExec.lean ====
section
/-!
DEFINITION. The descriptors that complete without being long operations: NOP, world updates, ego states,
cycle descriptors and the controls (R80 to R92, R104, R432, R433, R450, R453).
-/
namespace Sys2Proof.Machine

open Sys2Proof

/-- NOP (R432). -/
def execNop (s : State) : Out := s.serve 0x0001 (fun d s => s.complete d .ok 0 0)

/-! ### The world -/

/-- The stream that a world descriptor feeds: its ring is the lowest one bound to it, and the stream's kind
is the opcode's (R80, R104). -/
def State.streamFor (s : State) (i : Image) (d : Desc) : Option Nat := do
  let r ← s.ring d.ring
  let k ← r.ctx.stream
  guard ((i.world.stream k).kind = streamKindOf d.head.opcode)
  guard (!s.host.rings.any (fun x => x.ctx.stream == some k && decide (x.num < d.ring)))
  return k

/-- The payload that a descriptor names: read and checked (R430, R442, R595). -/
def State.payload (s : State) (d : Desc) : Except Status (List Byte) :=
  if !payloadRangeOk d.head.opcode d.bytes then .error .badDesc
  else
    let n := getLe d.bytes 32 4
    if n = 0 then .ok []
    else
      match s.hostRead (getLe d.bytes 24 8) n with
      | none => .error .dma
      | some p => if crc32c p = getLe d.bytes 36 4 then .ok p else .error .crc

/-- A world descriptor accepted or rejected (R81, R82, R92, R104). -/
def State.worldUpdate (d : Desc) (s : State) : State :=
  match s.img.active with
  | none => s.complete d .noImage 0 0
  | some i =>
    match s.payload d with
    | .error st => s.complete d st 0 0
    | .ok p =>
      match s.streamFor i d with
      | none => s.complete d .badDesc 0 0
      | some k =>
        let ts := getLe d.bytes 16 8
        if s.world.tsLow k ts then s.complete d .badDesc 0 0
        else
          if !opRsvOk (leNat (d.bytes.take 64)) d.head.opcode then s.complete d .badDesc 0 0 else
          match parseUpdate i.world d.head.opcode k d.bytes p with
          | .error .badDesc => s.complete d .badDesc 0 0
          | .error .resource => s.complete d .resource 0 0
          | .ok u =>
            if s.world.full k then { s with host := { s.host with started := d :: s.host.started } }
            else
              let s := { s with world := s.world.stage k ⟨d.head.seq, ts, u.1⟩
                                cyc := { s.cyc with lost := s.cyc.lost.filter (· != k) } }
              s.complete d .ok s.world.nextEpoch u.2

/-- WORLD_LAYER_PATCH (R84 to R86). -/
def execWorldLayerPatch (s : State) : Out := s.serve 0x0020 State.worldUpdate

/-- WORLD_OBJECTS (R84, R87, R88). -/
def execWorldObjects (s : State) : Out := s.serve 0x0021 State.worldUpdate

/-- WORLD_STATIC (R84, R89). -/
def execWorldStatic (s : State) : Out := s.serve 0x0022 State.worldUpdate

/-- EGO_STATE (R90 to R92). -/
def execEgoState (s : State) : Out :=
  s.serve 0x0023 (fun d s =>
    match s.img.active with
    | none => s.complete d .noImage 0 0
    | some i =>
      if !opRsvOk (leNat (d.bytes.take 64)) d.head.opcode then s.complete d .badDesc 0 0 else
      match parseEgo i.ego.length d.bytes with
      | none => s.complete d .badDesc 0 0
      | some e => State.complete { s with world := s.world.keepEgo e } d .ok s.world.nextEpoch 0)

/-! ### Cycle descriptors -/

/-- A cycle descriptor put into the cycle queue (R28, R424). -/
def State.queueCycle (s : State) (d : Desc) : State := { s with cyc := { s.cyc with queue := s.cyc.queue ++ [d] } }

/-- PLAN_CYCLE (R424, R433): GOAL_D_HI is at least GOAL_D_LO. -/
def execPlanCycle (s : State) : Out :=
  s.serve 0x0030 (fun d s =>
    if getSle d.bytes 52 4 < getSle d.bytes 48 4 then s.complete d .badDesc 0 0 else s.queueCycle d)

/-- RETOUCH_PLAN (R424, R433, R434): TRACE_PG is 0 without TRACE; with it TRACE_PAGES is at least 1. -/
def execRetouchPlan (s : State) : Out :=
  s.serve 0x0031 (fun d s =>
    if (!d.head.trace && getLe d.bytes 37 5 != 0) || (d.head.trace && getLe d.bytes 42 2 == 0) then
      s.complete d .badDesc 0 0
    else s.queueCycle d)

/-! ### Controls -/

/-- What TARGET_TAG names (R426, R432): the earliest-started descriptor that carries it, a fetched one, or
one rejected whose completion is due. -/
inductive Target where
  | none_
  | rejected
  | op (o : LongOp)
  | queued (d : Desc)
  | other (d : Desc)

/-- The target of a control (R426, R432). -/
def State.target (s : State) (tag : Nat) : Target :=
  match (s.host.waiting ++ s.host.held).find? (fun d => d.head.tag == tag) with
  | some d =>
    match s.ops.find? (fun o => o.desc == d) with
    | some o => .op o
    | none => if s.cyc.queue.contains d || (d.isCycle && s.host.started.contains d) then .queued d else .other d
  | none => if s.host.due.any (fun c => c.real && c.tag == tag) then .rejected else .none_

/-- TARGET_TAG (R433). -/
def Desc.target (d : Desc) : Nat := getLe d.bytes 16 8

/-- SUSPEND (R453). -/
def execSuspend (s : State) : Out :=
  s.serve 0x0040 (fun d s =>
    match s.target d.target with
    | .none_ => s.complete d .unknownTag 0 0
    | .op o => s.withOps (ctlSuspend d o s.ops)
    | .rejected | .queued _ | .other _ => s.complete d .refused 0 0)

/-- RESUME (R453). -/
def execResume (s : State) : Out :=
  s.serve 0x0041 (fun d s =>
    match s.target d.target with
    | .none_ => s.complete d .unknownTag 0 0
    | .op o => s.withOps (ctlResume d o s.ops)
    | .rejected | .queued _ | .other _ => s.complete d .refused 0 0)

/-- CANCEL (R432, R453): a queued cycle descriptor leaves the queue; one started whose row has not come yet counts as
queued (log entry 21). -/
def execCancel (s : State) : Out :=
  s.serve 0x0042 (fun d s =>
    match s.target d.target with
    | .none_ => s.complete d .unknownTag 0 0
    | .op o => s.withOps (ctlCancel d o s.ops)
    | .queued t =>
      let s := { s with cyc := { s.cyc with queue := s.cyc.queue.erase t }
                        host := { s.host with started := s.host.started.erase t } }
      (s.complete t .cancelled 0 0).complete d .ok 0 0
    | .rejected | .other _ => s.complete d .refused 0 0)

/-- An idle window (R457): the cycle queue empty, no cycle released in the last 100 ms. -/
def State.idleWindow (s : State) : Bool :=
  s.cyc.cur.isNone && s.cyc.queue.isEmpty
  && (match s.cyc.lastRelease with | some t => decide (t + 10000000 ≤ s.time.now) | none => true)

/-- YIELDED as QUERY_OP reports it (R450): a maintenance test between dies waits for a cycle's end or an
idle window. -/
def State.yieldedNow (s : State) (o : LongOp) : Bool :=
  if o.cls = .selftest ∨ o.cls = .retrain then
    o.st == .running && o.current.isNone && (s.cyc.cur.isSome || (o.waitIdle && !s.idleWindow))
  else o.yielded

/-- QUERY_OP (R450): a cycle descriptor reports 0x1 while it waits, anything else that is no long operation
0x2 (log entry 38). -/
def execQueryOp (s : State) : Out :=
  s.serve 0x0043 (fun d s =>
    match s.target d.target with
    | .none_ => s.complete d .unknownTag 0 0
    | .op o => let w := LongOp.query { o with yielded := s.yieldedNow o }; s.complete d .ok w.1 w.2
    | .queued _ => s.complete d .ok 1 0
    | .other t => s.complete d .ok (if t.isCycle ∧ s.host.held.contains t then 1 else 2) 0
    | .rejected => s.complete d .ok 2 0)

end Sys2Proof.Machine
end

