-- ==== Sys2Proof/Machine/LoadOps.lean ====
section
/-!
DEFINITION. Image loads by their stages, activation and unloading (R298 to R306, R310, R455, R456).
-/
namespace Sys2Proof.Machine

open Sys2Proof

/-- A unit of fetch or unpacking: 16 MiB (R301). -/
def chunkLen : Nat := 0x1000000

/-- Units of fetch, or of unpacking, of an image of a length. -/
def loadUnits (len : Nat) : Nat := max 1 ((len + chunkLen - 1) / chunkLen)

/-- IMAGE_ADDR, IMAGE_LEN, REFUSAL_ADDR and IDLE_ACT (R433). -/
def Desc.imageAddr (d : Desc) : Nat := getLe d.bytes 16 8
/-- IMAGE_LEN. -/
def Desc.imageLen (d : Desc) : Nat := getLe d.bytes 24 8
/-- REFUSAL_ADDR. -/
def Desc.refusalAddr (d : Desc) : Nat := getLe d.bytes 32 8
/-- IDLE_ACT. -/
def Desc.idleAct (d : Desc) : Bool := bitAt (getLe d.bytes 40 1) 0

/-- The staging area of a load. -/
def State.stagedOf (s : State) (d : Desc) : Staged := (s.img.staged.find? (fun g => g.desc == d)).getD ⟨d, [], none, false⟩

/-- The staging area of a load changed. -/
def State.mapStaged (s : State) (d : Desc) (f : Staged → Staged) : State :=
  { s with img := { s.img with staged := s.img.staged.map (fun g => if g.desc = d then f g else g) } }

/-- The LPDDR that an image takes on a die: its largest slot (R302, R308). -/
def Image.footprint (i : Image) : Nat := ((i.arms.map (·.slots)).flatten.map (·.lpFoot)).foldl max 0

/-- The usable LPDDR that is free for a load: less the active image and the other staging areas (R302,
R456). -/
def State.lpFree (s : State) (d : Desc) : Nat :=
  let used := ((s.img.active.map Image.footprint).getD 0)
    + sumNat ((s.img.staged.filter (fun g => g.desc != d)).map (fun g => (g.img.map Image.footprint).getD 0))
  s.lpCap - used

/-- ROLLBACK (R299, R305). -/
def State.rollbackCheck (s : State) (b : List Byte) : Option Refused :=
  let h := ImgHeader.ofBytes b
  if h.arbValue < s.aon.rbRead h.arbSlot then some { cls := 3, check := 1, offset := some 32 } else none

/-- The outcome of a unit of a load. -/
inductive LoadOut where
  | dma
  | refused (r : Refused)
  | next (s : State)

/-- A unit of FETCH (R301): one chunk read; FORM on the first, SIGNATURE and ROLLBACK after the last. -/
def State.fetchUnit (s : State) (o : LongOp) : LoadOut :=
  let len := o.desc.imageLen
  let k := loadUnits len - o.left
  match s.hostReadN (o.desc.imageAddr + k * chunkLen) (min chunkLen (len - k * chunkLen)) with
  | none => .dma
  | some b =>
    let all := (if k = 0 then [] else (s.stagedOf o.desc).bytes) ++ b
    let s := s.mapStaged o.desc (fun g => { g with bytes := all })
    let form := if k = 0 then formCheck b len else none
    let h := ImgHeader.ofBytes all
    let rest := if o.left ≤ 1 then
        match signatureCheck all (nth none s.boot.sigSlots h.sigKey) with
        | some r => some r
        | none => s.rollbackCheck all
      else none
    match form, rest with
    | some r, _ => .refused r
    | none, some r => .refused r
    | none, none =>
      let f (x : LongOp) : LongOp :=
        if o.left ≤ 1 then { x with stage := .unpack, left := loadUnits len } else { x with left := x.left - 1 }
      .next { s with ops := mapOp f o.desc s.ops }

/-- The plaintext sections of a staged image (R300). -/
def State.stagedSections (s : State) (b : List Byte) : Except Refused (List Section) :=
  openSections b (nth none s.boot.encSlots (ImgHeader.ofBytes b).encKey)

/-- A unit of UNPACK (R301): DECRYPT and SECTION_CRC with the last. -/
def State.unpackUnit (s : State) (o : LongOp) : LoadOut :=
  if 1 < o.left then .next { s with ops := mapOp (fun x => { x with left := x.left - 1 }) o.desc s.ops }
  else
    let b := (s.stagedOf o.desc).bytes
    match s.stagedSections b with
    | .error r => .refused r
    | .ok _ =>
      .next { s with ops := mapOp (fun x => { x with stage := .check, left := (ImgHeader.ofBytes b).narm }) o.desc s.ops }

/-- A world stream is bound to a ring of the loaded table (R80, R305). -/
def State.streamBound (s : State) (k : Nat) : Bool := s.host.rings.any (fun r => r.ctx.stream == some k)

/-- The checks that follow the last armature (R305): RESOURCE, DIES, ECLK. -/
def State.lastChecks (s : State) (d : Desc) (i : Image) : Option Refused :=
  let dies := s.healthy
  match firstSome (i.arms.zipIdx.map (fun a => resourceCheck i (fun _ => s.lpFree d) dies s.streamBound a.2 a.1)) with
  | some r => some r
  | none => diesCheck i dies.length s.clk.step

/-- A unit of CHECK (R301): CONTENT ahead of the first armature, one armature, the last checks after the
last. -/
def State.checkUnit (s : State) (o : LongOp) : LoadOut :=
  let b := (s.stagedOf o.desc).bytes
  let h := ImgHeader.ofBytes b
  let k := h.narm - o.left
  let image : Except Refused (Image × List Section) := do
    let ss ← s.stagedSections b
    let i ← contentCheck h ss
    let arms := if k = 0 then [] else (((s.stagedOf o.desc).img).map (·.arms)).getD []
    let i := { i with arms := arms }
    let a ← armatureUnit { i with arms := (List.range h.narm).filterMap (armatureOf ss) } ss k
    return ({ i with arms := arms ++ [a] }, ss)
  match image with
  | .error r => .refused r
  | .ok (i, _) =>
    if 1 < o.left then
      .next (State.mapStaged { s with ops := mapOp (fun x => { x with left := x.left - 1 }) o.desc s.ops } o.desc
        (fun g => { g with img := some i }))
    else
      match s.lastChecks o.desc i with
      | some r => .refused r
      | none =>
        .next (State.mapStaged { s with ops := mapOp (fun x => { x with stage := .activate, left := 0 }) o.desc s.ops }
          o.desc (fun g => { g with img := some i, ready := true }))

/-- A load ended by a failed unit, which counts in RESULT1 (R437, R449): the refusal record for a failed
check, STATUS_DMA for a failed read (R306, R442). -/
def State.loadFail (s : State) (o : LongOp) (r : Option Refused) : State :=
  let s := match r with | some x => s.hostWrite o.desc.refusalAddr (x.bytes o.desc.head.tag) | none => s
  let s := { s with ops := mapOp (fun x => { x with bad := x.bad + 1 }) o.desc s.ops }
  s.withOps (endOp .failed (if r.isSome then .resource else .dma) o.desc s.ops)

/-- A counted unit of a load (R301). -/
def State.loadUnit (s : State) (o : LongOp) : State :=
  let out := match o.stage with
    | .fetch | .verify => s.fetchUnit o
    | .unpack => s.unpackUnit o
    | .check => s.checkUnit o
    | .activate => .next s
  match out with
  | .dma => s.loadFail o none
  | .refused r => s.loadFail o (some r)
  | .next s =>
    if o.stage = .activate then s
    else { s with ops := mapOp (fun x => { x with units := x.units + 1, rolled := false }) o.desc s.ops }

/-! ### Activation -/

/-- Growths of the image that leaves are cancelled (R456). -/
def State.cancelGrowth (s : State) : State :=
  s.withOps (endWhere (fun o => o.cls == .grow) .cancelled .cancelled s.ops)

/-- Step 3 of R303: world, roadmap, caches, held plan and history cleared; the updates discarded. -/
def State.clearPlanning (s : State) : State × Nat :=
  let w := s.world.clear
  ({ s with world := w.1, img := { s.img with nodes := 0, estat := [] }, eng := EngSt.reset
            cyc := { s.cyc with held := none, history := [], lost := [] } }, w.2)

/-- ARB_COMMIT (R299): the rollback counter raised. -/
def Aon.arbCommit (a : Aon) (h : ImgHeader) : Aon :=
  if h.arbCommit && decide (a.rbRead h.arbSlot < h.arbValue) then a.rbWrite h.arbSlot h.arbValue else a

/-- Activation of a load (R303, R310, R341). -/
def State.activate (s : State) (o : LongOp) (i : Image) : State :=
  match diesCheck i s.healthy.length s.clk.step with
  | some r => s.loadFail o (some r)
  | none =>
    let s := s.cancelGrowth
    let c := s.clearPlanning
    let s := c.1
    let lost := s.img.patches.length
    let arm := chooseArm i.arms s.serving.length
    let s := { s with
      img := { s.img with active := some i, params := i.params, patches := [], gen := 0, arm := arm }
      aon := ({ s.aon with ctr := { s.aon.ctr with images := satInc 32 s.aon.ctr.images } } : Aon).arbCommit i.hdr
      cyc := { s.cyc with epoch := (s.cyc.epoch + 1) % 2 ^ 32 } }
    let s := ((s.clearCaches (fun _ => true)).takeUp (s.usedBy i arm)).loadTables.newFloor
    let s := { s with ops := mapOp (fun x => { x with words := some (c.2, arm.getD 0 % 256 + 256 * (lost % 256)) }) o.desc s.ops }
    s.withOps (endOp .done .ok o.desc s.ops)

/-- The image unloaded (R304, R36). -/
def State.unload (s : State) : State :=
  let s := s.cancelGrowth.clearPlanning.1
  let s := { s with img := { s.img with active := none, params := [], patches := [], gen := 0, arm := none, used := [] }
                    du := s.du.map DuState.discard, msgs := [], saf := s.saf.set 6 }
  s

end Sys2Proof.Machine
end

