-- ==== Sys2Proof/Machine/LongExec.lean ====
section
/-!
DEFINITION. The commands that start, advance and end long operations, and the descriptors of images and
parameters (R301 to R304, R322, R446 to R463, R516).
-/
namespace Sys2Proof.Machine

open Sys2Proof

/-- A long operation started: running or queued (R448, R461, R462). -/
def State.startLong (s : State) (o : LongOp) : State := s.withOps ⟨startOp s.ops o, []⟩

/-! ### Starting -/

/-- LOAD_IMAGE (R301, R414, R433). -/
def execLoadImage (s : State) : Out :=
  s.serve 0x0010 (fun d s =>
    if !addrOk d.imageAddr 64 ∨ !addrOk d.refusalAddr 64 then s.complete d .badDesc 0 0
    else
      let s := { s with img := { s.img with staged := s.img.staged ++ [Staged.mk d [] none false] } }
      s.startLong { LongOp.new d .load with left := loadUnits d.imageLen, dies := maskOf ((List.range 8).map (fun k => s.healthy.contains k)) })

/-- Whole MiB of a die's usable LPDDR (R446). -/
def State.lpMiB (s : State) : Nat := s.lpCap / 2 ^ 20

/-- Units of SCRUB_SRAM: 42.25 MiB on a die, 3.5 MiB on the hub, in 256 KiB (R446). -/
def sramUnits (d : Nat) : Nat := if d = 8 then 14 else 169

/-- The units of a maintenance operation by die (R446, R457 to R459). -/
def State.maintUnits (s : State) (cls : OpClass) (ds : List Nat) (hub : Bool) (start : Nat) : List (Nat × Nat) :=
  match cls with
  | .scrubLp => ds.map (fun d => (d, s.lpMiB - start))
  | .scrubSram => (ds ++ (if hub then [8] else [])).map (fun d => (d, sramUnits d))
  | .recal => s.healthy.map (fun d => (d, 4)) ++ [(8, 2)]
  | .selftest | .retrain => ds.map (fun d => (d, 1))
  | .load | .grow | .ledger => []

/-- MAINT_START's fields in order (R433, R459). -/
def State.maintOk (s : State) (cls : OpClass) (mask : Nat) (hub wait : Bool) (start : Nat) : Bool :=
  (cls != .recal || mask == 0)
  && (List.range 8).all (fun d => !(bitAt mask d && (s.die d).fenced.isSome))
  && (!hub || cls == .scrubSram) && (!wait || cls == .selftest)
  && (if cls = .scrubLp then decide (start < s.lpMiB) else start == 0)

/-- MAINT_START (R433, R446). -/
def execMaintStart (s : State) : Out :=
  s.serve 0x0050 (fun d s =>
    let mask := getLe d.bytes 17 1
    let hub := bitAt (getLe d.bytes 18 1) 0
    let wait := bitAt (getLe d.bytes 19 1) 0
    let start := getLe d.bytes 20 4
    match OpClass.ofMaint (getLe d.bytes 16 1) with
    | none => s.complete d .badDesc 0 0
    | some cls =>
      if !s.maintOk cls mask hub wait start then s.complete d .badDesc 0 0
      else
        let units := s.maintUnits cls ((List.range 8).filter (bitAt mask)) hub start
        if units.isEmpty then s.complete d .ok 0 0
        else s.startLong { LongOp.new d cls with dies := mask, hub := hub, waitIdle := wait, todo := units })

/-- TARGET and the region fields of ROADMAP_GROW (R143, R433). Without RESET the fields are 0, and a
region set before is needed (log entry 40). -/
def State.growOk (s : State) (d : Desc) : Bool :=
  let b := d.bytes
  let target := getLe b 20 4
  let region : RmRegion := ⟨getSle b 24 4, getLe b 28 4, getSle b 32 4, getLe b 36 4, getSle b 40 2, getSle b 42 2⟩
  target % 1024 == 0 && decide (target ≤ 2 ^ 20)
  && (if bitAt (getLe b 16 1) 0 then region.ok else getLe b 24 20 == 0 && s.img.region.isSome)

/-- The armature in force uses the ROADMAP family (R127, R433). -/
def State.usesRoadmap (s : State) : Bool :=
  match s.armature with
  | some a => (((a.slots.map (·.cores)).flatten.map (·.fam)).flatten).any (fun f => f.family == 1)
  | none => false

/-- A die that does not serve has no room for what the start of a growth would post there (R346, R347). -/
def State.growRefused (s : State) (d : Nat) : Bool :=
  (s.duOf d).serve != .serving && match s.duCfg d with
    | none => false
    | some g => ((g.binds.filter (fun b => b.source == .longopRun && b.arg == 0x11)).foldlM
        (fun (v : DuState) b => v.fire g s.time.sclk b) (s.duOf d)).isNone

/-- ROADMAP_GROW (R143, R146, R346, R433). -/
def execRoadmapGrow (s : State) : Out :=
  s.serve 0x0051 (fun d s =>
    if s.armature.isNone then s.complete d .noImage 0 0
    else if !s.growOk d then s.complete d .badDesc 0 0
    else if !s.usesRoadmap then s.complete d .resource 0 0
    else if s.img.used.any s.growRefused then s.complete d .refused 0 0
    else
      let reset := bitAt (getLe d.bytes 16 1) 0
      if !reset ∧ getLe d.bytes 20 4 ≤ s.img.nodes then s.complete d .ok s.img.nodes 0
      else s.startLong { LongOp.new d .grow with dies := maskOf ((List.range 8).map (fun k => s.serving.contains k)) })

/-- LEDGER_READ (R433, R446, R516). -/
def execLedgerRead (s : State) : Out :=
  s.serve 0x0060 (fun d s =>
    let part := getLe d.bytes 16 1
    if 2 < part ∨ !addrOk (getLe d.bytes 24 8) 64 then s.complete d .badDesc 0 0
    else if getLe d.bytes 32 4 < ledLength part then s.complete d .resource 0 (ledLength part)
    else s.startLong (LongOp.new d .ledger))

/-! ### Checkpoints -/

/-- A stop at a checkpoint (R448, R453): SUSPENDING becomes SUSPENDED, CANCELLING becomes CANCELLED. A growth has
reached one where its threads stand at CKPT steps (R314). -/
def State.stopOp (s : State) (d : Desc) : State :=
  match s.ops.find? (fun o => o.desc == d) with
  | some o =>
    if o.cls = .grow ∧ !s.growStops then s
    else match o.st with
    | .suspending => s.withOps (suspendedOp d s.ops)
    | .cancelling => s.withOps (endOp .cancelled .cancelled d s.ops)
    | .queued | .running | .suspended | .done | .cancelled | .failed => s
  | none => s

/-- The die whose unit comes next: in order for THERMAL_RECAL, the one with most left of the dies that a
scrub serves in parallel (R459). -/
def LongOp.nextDie (o : LongOp) : Option Nat :=
  if o.cls = .recal then (o.todo.find? (fun x => x.2 != 0)).map (·.1)
  else (o.todo.foldl (fun (b : Option (Nat × Nat)) x =>
    if x.2 = 0 then b else match b with | some y => if y.2 < x.2 then some x else b | none => some x) none).map (·.1)

/-- A unit of a maintenance operation passed, good or failed (R450, R459). -/
def LongOp.passUnit (good : Bool) (o : LongOp) : LongOp :=
  match o.nextDie with
  | none => o
  | some d =>
    let o := { o with todo := o.todo.map (fun (x : Nat × Nat) => if x.1 = d then (x.1, x.2 - 1) else x), rolled := false }
    if good then { o with units := o.units + 1 } else { o with bad := o.bad + 1, lost := o.lost + 1 }

/-- What a scrub finds in a failed unit (R388, R459): an INFO record; the unit that owns an SRAM word
restarts at the next cycle boundary. Memory type, bank, cluster and offset are free values (log entry 1). -/
def State.scrubFound (s : State) (cls : OpClass) (d : Nat) : State :=
  let v := s.freeVal.toNat
  let bank := v / 2 ^ 8 % 256
  let off := v / 2 ^ 16 % 2 ^ 31
  let s := s.spend 1
  match cls with
  | .scrubLp => s.record ⟨.eccUncorr, .info, ⟨d, 15, 15, 0xB⟩, 7 + 256 * bank, off + 2 ^ 31⟩
  | .scrubSram =>
    let m := if d = 8 then 9 else v % 6 + 1
    let cl := v / 8 % 4
    let whole := m = 4 ∨ m = 6
    let loc := if d = 8 then Loc.hub 0 else if whole then Loc.ofDie d else ⟨d, cl, 15, 0⟩
    let u : RUnit := if d = 8 then .hub else if whole then .die d else .cluster (4 * d + cl)
    let s := s.record ⟨.eccUncorr, .info, loc, m + 256 * bank, off + 2 ^ 31⟩
    { s with saf := { s.saf with due := addDue u s.saf.due } }
  | _ => s

/-- A unit of LEDGER_READ written (R516): 4 KiB of the part, the full history's header with the last. -/
def State.ledgerUnit (s : State) (o : LongOp) : State :=
  let part := getLe o.desc.bytes 16 1
  let dest := getLe o.desc.bytes 24 8
  let lo := 4096 * o.units
  let hi := min (ledLength part) (lo + 4096)
  if part = 0 then s.hostWrite dest s.aon.summary
  else if part = 2 then s.hostWrite (dest + lo) (sliceAt s.aon.ringBytes lo (hi - lo))
  else
    let l := ledExtend s.aon (hi - 128) 600 (s.aon.read.getD s.aon.ledStart)
    let s := { s with aon := { s.aon with read := some l } }
    let all := zeroBytes 64 ++ s.aon.rbBytes ++ l.body
    let from_ := max lo 64
    let s := s.hostWrite (dest + from_) (sliceAt all from_ (hi - from_))
    if hi = ledLength part then
      State.hostWrite { s with aon := { s.aon with read := none } } dest
        (ledHeader s.aon (o.start.getD 0) l.skipped)
    else s

/-- An operation has finished its last unit (R448). -/
def State.finished (s : State) (o : LongOp) : Bool :=
  match o.cls with
  | .load => false
  | .grow => decide (getLe o.desc.bytes 20 4 ≤ s.img.nodes)
  | .ledger => decide (ledLength (getLe o.desc.bytes 16 1) ≤ 4096 * o.units)
  | .selftest | .retrain => o.todo.isEmpty && o.current.isNone
  | .scrubLp | .scrubSram | .recal => o.todo.all (fun x => x.2 == 0)

/-- A finished operation ends DONE; another stops where it is asked to (R448). -/
def State.afterUnit (s : State) (d : Desc) : State :=
  match s.ops.find? (fun o => o.desc == d) with
  | some o =>
    if o.st.terminal then s
    else if o.st ≠ .cancelling ∧ s.finished o then s.withOps (endOp .done .ok d s.ops)
    else s.stopOp d
  | none => s

/-- A counted checkpoint (R146, R301, R446). -/
def State.countUnit (s : State) (o : LongOp) (good : Bool) : State :=
  let bump (s : State) : State := { s with ops := mapOp (fun x => { x with units := x.units + 1, rolled := false }) o.desc s.ops }
  match o.cls with
  | .load => s.loadUnit o
  | .grow =>
    if s.finished o then s
    else
      let s := { s with img := { s.img with nodes := s.img.nodes + 1024 } }
      bump { s with img := { s.img with estat := s.grownEdges } }
  | .ledger => if s.finished o then s else bump (s.ledgerUnit o)
  | .scrubLp | .scrubSram | .recal =>
    let s := if good then s else match o.nextDie with | some d => s.scrubFound o.cls d | none => s
    { s with ops := mapOp (LongOp.passUnit good) o.desc s.ops }
  | .selftest | .retrain => s

/-- The operation that a TAG names among the active ones. -/
def State.activeOp (s : State) (tag : Nat) : Option LongOp :=
  s.ops.find? (fun o => o.desc.head.tag == tag && o.st.active)

/-- An operation is at work: no cycle is in progress (R451), the hub runs, and a maintenance test is
between dies (R447). -/
def State.opWorks (s : State) (o : LongOp) : Bool :=
  !o.yielded && !s.hubDown
  && (if o.cls = .selftest ∨ o.cls = .retrain then o.current.isNone else s.cyc.cur.isNone)

/-- The operation's checkpoint event (R447 to R455). -/
def State.checkpointOp (s : State) (o : LongOp) (ev : CkEvent) : State :=
  match ev with
  | .plain => s.stopOp o.desc
  | .counted => (s.countUnit o true).afterUnit o.desc
  | .countedBad => (s.countUnit o false).afterUnit o.desc
  | .consumed =>
    let v := s.freeVal.toNat
    let s := (s.spend 1).record ⟨.eccUncorr, .info, Loc.hub 0, v % 9 + 1 + 256 * (v / 16 % 256), v / 2 ^ 16 % 2 ^ 31⟩
    s.withOps (endOp .failed .faultRestart o.desc s.ops)

/-- LONGOP_CHECKPOINT (R344, R447 to R455): an operation that stops or ends here ends its run. -/
def execLongopCheckpoint (tag : Word64) (ev : CkEvent) (s : State) : Out :=
  match s.activeOp tag.toNat with
  | none => .next s
  | some o =>
    if !s.opWorks o then .next s
    else
      .next (s.checkpointOp o ev)

/-- LONGOP_DEQUEUE (R461, R462). -/
def execLongopDequeue (s : State) : Out := .next (s.withOps ⟨autoResume (dequeueOps s.ops), []⟩)

/-! ### Dies out of service -/

/-- The operation of a class that can begin its next die now (R457). -/
def State.dieOp (s : State) (cls : OpClass) (d : Nat) : Option LongOp :=
  s.ops.find? (fun o => o.cls == cls && o.st == .running && o.current.isNone
    && (o.todo.head?.map (·.1)) == some d && !blocked s.ops o
    && s.cyc.cur.isNone && (!o.waitIdle || s.idleWindow)
    && !s.pkg.dies.any (fun x => x.out == .test || x.out == .retrain))

/-- A die's removal from service leaves two dies and an armature that fits (R457). -/
def State.canSpare (s : State) : Bool :=
  let n := s.serving.length - 1
  decide (2 ≤ n) && (s.img.active.isNone || s.fits n)

/-- The die out of service for an operation, or skipped (R457 steps 1 and 2). -/
def State.takeDie (s : State) (o : LongOp) (d : Nat) (why : OutOf) : State :=
  let pop (x : LongOp) : LongOp := { x with todo := x.todo.drop 1 }
  if !s.canSpare then
    let s := { s with ops := mapOp (fun x => { pop x with bad := x.bad + 1 }) o.desc s.ops }
    s.afterUnit o.desc
  else
    let s := { s with ops := mapOp (fun x => { pop x with current := some d }) o.desc s.ops }
    s.mapDie d (fun x => { x with inService := false, out := why })

/-- Every line cache of a die flushed (R489). -/
def State.flushDie (s : State) (d : Nat) : State :=
  (List.range 4).foldl (fun (s : State) k =>
    let s := s.withCoh (s.coh.flush (4 * d + k))
    s.withCoh (s.coh.serveAll s.homeRead)) s

/-- The SRAM contents of a die lost, with what is kept of them in this model (R457, R489). -/
def State.wipeDie (s : State) (d : Nat) : State :=
  { s with
    mem := s.mem.clear (sramBase d) 0x100000000
    eng := { s.eng with
      queues := s.eng.queues.filter (fun q => q.unit / (if q.engine.index < 5 then 16 else 4) != d)
      flags := s.eng.flags.filter (fun f => f.core / 16 != d)
      solved := s.eng.solved.filter (fun x => x.cluster / 4 != d)
      runs := s.eng.runs.filter (fun x => x.core / 16 != d)
      lanes := s.eng.lanes.filter (fun x => x.core / 16 != d)
      stream := s.eng.stream.filter (fun x => x.core / 16 != d)
      trajs := s.eng.trajs.filter (fun x => x.1 / 2 ^ 32 / 16 != d)
      pathSat := s.eng.pathSat.filter (fun x => x.1 / 16 != d) } }

/-- SELFTEST_DIE (R457): the die leaves service; its DU is in TESTING, its SRAM under test. -/
def execSelftestDie (d : Die) (s : State) : Out :=
  let t := if s.cyc.cur.isNone then s.boundary else s
  match t.dieOp .selftest d.val with
  | none => .next s
  | some o =>
    let t := t.takeDie o d.val .test
    if (t.die d.val).out = .test then
      .next (((t.flushDie d.val).wipeDie d.val).mapDu d.val (fun _ => { DuState.empty with serve := .testing }))
    else .next t

/-- RETRAIN_DIE (R458): the die leaves service; its SRAM is kept. -/
def execRetrainDie (d : Die) (s : State) : Out :=
  let t := if s.cyc.cur.isNone then s.boundary else s
  match t.dieOp .retrain d.val with
  | none => .next s
  | some o => .next (t.takeDie o d.val .retrain)

/-- A die that passed its test or training is ready to rejoin; its operation goes on, ends or stops (R457,
R458). -/
def State.dieReady (s : State) (d : Nat) : State :=
  let s := s.mapDie d (fun x => { x with rejoin := true })
  match s.ops.find? (fun o => o.current == some d) with
  | none => s
  | some o =>
    State.afterUnit { s with ops := mapOp (fun x => { x with current := none, units := x.units + 1 }) o.desc s.ops } o.desc

/-- RETRAIN_COMPLETE (R458): ready to rejoin, or fenced with cause LPDDR_TRAIN. -/
def execRetrainComplete (d : Die) (ok : Bool) (s : State) : Out :=
  if (s.die d.val).out ≠ .retrain ∨ (s.die d.val).rejoin then .next s
  else if ok then .next (s.dieReady d.val)
  else .next (s.fenceDie d.val .lpddrTrain)

/-! ### Images and parameters -/

/-- IMAGE_ACTIVATION (R301, R303): no cycle in progress, with IDLE_ACT an empty cycle queue too. -/
def execImageActivation (s : State) : Out :=
  match s.ops.find? (fun o => o.cls == .load && o.stage == .activate && o.st == .running) with
  | none => .next s
  | some o =>
    if s.cyc.cur.isSome ∨ s.hubDown ∨ (o.desc.idleAct ∧ !s.cyc.queue.isEmpty) then .next s
    else
      match (s.stagedOf o.desc).img with
      | some i => .next (s.activate o i)
      | none => .next s

/-- UNLOAD_IMAGE (R304, R433): waits for the first moment no cycle is in progress. -/
def execUnloadImage (s : State) : Out :=
  s.serve 0x0011 (fun d s =>
    let id := getLe d.bytes 16 8
    if s.cyc.cur.isSome then { s with host := { s.host with started := d :: s.host.started } }
    else if id ≠ 0 ∧ s.img.active.map (fun i => i.hdr.id) ≠ some id then s.complete d .stale 0 0
    else s.unload.complete d .ok 0 0)

/-- PATCH_PARAMS (R322): the image as patched, with every patch that waits, is checked as a whole. -/
def execPatchParams (s : State) : Out :=
  s.serve 0x0012 (fun d s =>
    match s.img.active with
    | none => s.complete d .noImage 0 0
    | some i =>
      if getLe d.bytes 16 8 ≠ i.hdr.id then s.complete d .stale 0 0
      else if getLe d.bytes 24 8 % 64 ≠ 0 then s.complete d .badDesc 0 0
      else
        match s.payload d with
        | .error st => s.complete d st 0 0
        | .ok p =>
          match patchEntries i.params p.length p with
          | none => s.complete d .badDesc 0 0
          | some es =>
            let now := s.img.patches.foldl (fun ps x => applyPatch ps x.entries) s.img.params
            if !patchOk i (applyPatch now es) then s.complete d .badDesc 0 0
            else
              let g := s.img.gen + 1
              let s := { s with img := { s.img with patches := s.img.patches ++ [Patch.mk es g], gen := g } }
              s.complete d .ok g s.world.nextEpoch)

end Sys2Proof.Machine
end

