-- ==== Sys2Proof/Machine/StartOps.lean ====
section
/-!
DEFINITION. Operations of power-on reset, start-up and the decision of R404 (R398 to R409, R530, R588,
R589).
-/
namespace Sys2Proof.Machine

open Sys2Proof

/-- The AON domain keeps everything through a power-on reset but a ledger read in progress; LED_WIN_ADDR, the
copy that LED_WIN_DATA reads and CLK_STAT.AON_XTAL take their reset values (R17, R531, R550, R564, R570). -/
def Aon.resetKept (a : Aon) : Aon := { a with read := none, winAddr := 0, latch := [], xtal := true }

/-- A power-on reset (R530, R531): everything but the AON domain, fuses and keys, and what is outside the
device. -/
def State.powerOn (s : State) (pwrgdLow : Bool) : State :=
  let b : Boot := { Boot.reset with pwrgd := !pwrgdLow, stepping := s.boot.stepping, fuseMask := s.boot.fuseMask
                                    sigSlots := s.boot.sigSlots, encSlots := s.boot.encSlots }
  let t := State.porWith s.aon.resetKept b
  { t with pending := s.pending, free := s.free
           host := { t.host with mem := s.host.mem, fails := s.host.fails, sent := s.host.sent } }

/-- A configuration block whose CRC matches, with no reserved bit set (R589). -/
def bootBlockOk (b : List Byte) : Bool :=
  b.length == 64 && crcOk 64 b && getLe b 8 1 / 2 == 0 && (sliceAt b 10 6).all (· == 0) && (sliceAt b 24 36).all (· == 0)

/-- The block that the boot ROM uses: the first whose CRC matches (R589). -/
def bootBlock (a b : List Byte) : Option (List Byte) :=
  if bootBlockOk a then some a else if bootBlockOk b then some b else none

/-- A fatal start (R405): FLT_BOOT, or FLT_CHECKER_LATENT at the hub (R475). No die stays enabled. -/
def State.fatalStart (s : State) (f : Fault0) : State :=
  State.fault { s with boot := { s.boot with st := .fatal } } f

/-- FLT_BOOT with its cause (R478). -/
def bootFault (cause : Nat) : Fault0 := ⟨.boot, .fatal, Loc.hub 0, cause, 0⟩

/-- A die's dispatch unit put into a die state (R345). -/
def State.dieServe (s : State) (d : Nat) (v : DieServe) : State := s.mapDu d (fun u => { u with serve := v })

/-- The dies are coming up: at start-up, or on the way from STANDBY (R398, R536). -/
def State.diesUp (s : State) : Bool :=
  s.boot.st == .starting || (!s.saf.fatal && s.clk.reached == .standby && s.clk.busy == some .active)

/-- A die still owes its training report (R398). -/
def DieSt.owes (x : DieSt) : Bool := x.fenced.isNone && x.report.isNone

/-! ### R404 -/

/-- The reports of the dies that are not fenced, with their numbers. -/
def State.reports (s : State) : List (Nat × TrainReport) :=
  (List.range 8).filterMap (fun d => if (s.die d).fenced.isSome then none else (s.die d).report.map (fun r => (d, r)))

/-- Step 1 of R404: dies whose report fails a check are fenced. -/
def State.checkReports (s : State) : State :=
  s.reports.foldl (fun (s : State) x =>
    match trainCheck s.boot.derated x.2 with
    | some c => s.fenceDie x.1 c
    | none => s) s

/-- Step 2 of R404: the reference capacity, kept until the next power-on reset, and the dies of another
capacity fenced (R536). -/
def State.decideCapacity (s : State) : State :=
  let c := s.boot.lpcap.getD (refCapacity (s.reports.map (fun x => x.2.lpcap)))
  let s := s.reports.foldl (fun (s : State) x => if x.2.lpcap = c then s else s.fenceDie x.1 .lpddrSize) s
  { s with boot := { s.boot with lpcap := some c } }

/-- Step 3 of R404: the ring links in use; the hub links of the remaining dies are up. -/
def State.decideLinks (s : State) : State :=
  let live (d : Nat) : Bool := (s.die d).fenced.isNone
  let ring (n : Nat) : Bool :=
    let m := (n + 1) % 8
    live n && live m && match (s.die n).report, (s.die m).report with
    | some a, some b => ringInUse a b ((s.die n).serial.getD 0) ((s.die m).serial.getD 0)
    | _, _ => false
  let up (l : Link) (b : Bool) : Link := if b then { Link.reset with st := .up } else { l with st := .lost }
  { s with pkg := { s.pkg with
    links := s.pkg.links.zipIdx.map (fun x => if x.2 < 8 then up x.1 (live x.2) else up x.1 (ring (x.2 - 8)))
    ringMask := maskOf ((List.range 8).map ring) } }

/-- The remaining dies are healthy and enter service (R345, R404). -/
def State.enterService (s : State) : State :=
  (List.range 8).foldl (fun (s : State) d =>
    if (s.die d).fenced.isSome then s
    else (s.mapDie d (fun x => { x with healthy := true, inService := true, out := .service, allTiles := true })).dieServe d
      .serving) s

/-- READY (R398 step 9): the stale timer starts (R483). -/
def State.ready (s : State) : State :=
  { s with boot := { s.boot with st := .ready }
           saf := { s.saf with stale := some (s.regs.limit * s.regs.stalePeriod) } }

/-- The decision of R404 at start-up, once every die has reported or been fenced. -/
def State.settle (s : State) : State :=
  if s.boot.st ≠ .starting ∨ s.pkg.dies.any DieSt.owes then s
  else
    let s := s.checkReports.decideCapacity.decideLinks.enterService
    if s.healthy.length < 2 then s.fatalStart (bootFault 3) else s.ready

/-- A die fenced on its way up, and R404 if it was the last (R404, R406). -/
def State.fenceStart (s : State) (d : Nat) (c : FenceCause) : State := (s.fenceDie d c).settle

/-- FLT_CHECKER_LATENT and the fence that goes with it (R475). -/
def State.latentFence (s : State) (d row : Nat) : State :=
  (s.record ⟨.checkerLatent, .fence, Loc.ofDie d, row, 0xFFFFFFFF⟩).fenceDie d .checkerLatent

/-- A presence record fails: the die is fenced with the cause of R402. -/
def State.presenceFail (s : State) (d : Nat) (p : Presence) (c : FenceCause) : State :=
  if c = .checkerLatent then s.latentFence d p.inj else s.fenceDie d c

/-- A presence record against R402, order 8 where the die has been recorded before (R402, R457, R536). -/
def State.presenceCause (s : State) (d : Nat) (p : Presence) : Option FenceCause :=
  match presenceCheck d s.boot.stepping (s.die d).serial p with
  | some c => some c
  | none => if (s.die d).serial.isSome ∧ (s.die d).serial ≠ some p.serial then some .serial else none

end Sys2Proof.Machine
end

