-- ==== Sys2Proof/Machine/PowerOps.lean ====
section
/-!
DEFINITION. Resets of the PCIe function, and the power states with their transitions (R413, R443, R463,
R535 to R538, R551).
-/
namespace Sys2Proof.Machine

open Sys2Proof

/-! ### Resets of the function -/

/-- The host interface after a reset of the function (R443, R551): ring table, attention state and MSI-X
table at their reset values, nothing fetched, started or due. -/
def HostIf.functionReset (h : HostIf) : HostIf :=
  { HostIf.reset with mem := h.mem, fails := h.fails, linkUp := h.linkUp, perst := h.perst, sent := h.sent }

/-- A reset of the function (R443): the cycle abandoned without a write, every operation gone without a
completion, every descriptor discarded, the host-interface fields reset. A die under test or in training
goes on. -/
def State.functionReset (s : State) : State :=
  let p := s.host.perst
  let s := State.abandon { s with host := { s.host with perst := true }, ops := [] } .faultRestart
  let h := s.host.functionReset
  { s with
    host := { h with perst := p }
    regs := { s.regs with staging := [0, 0], hiLatch := setAt (setAt s.regs.hiLatch 1 0) 2 0 }
    cyc := { s.cyc with queue := [] }
    time := { s.time with steps := [] }
    ops := []
    img := { s.img with staged := [] }
    aon := { s.aon with read := none }
    du := s.du.map (fun u => { u with saved := [] }) }

/-! ### Power states -/

/-- Every active operation suspended as SUSPEND would, without a control's completion (R535). -/
def State.suspendAll (s : State) : State :=
  s.ops.foldl (fun (s : State) o =>
    match s.ops.find? (fun x => x.desc == o.desc) with
    | some x =>
      if x.st = .running ∨ x.st = .suspending then
        s.withOps (suspendedOp o.desc (mapOp (fun y => { y with auto := false }) o.desc s.ops))
      else s
    | none => s) s

/-- The same for operations that a leaving one lets start (R461, R535). -/
def State.suspendAllN (s : State) : Nat → State
  | 0 => s
  | n + 1 => s.suspendAll.suspendAllN n

/-- The request for IDLE (R535): running operations are asked to suspend. -/
def State.askIdle (s : State) : State :=
  { s with ops := s.ops.map (fun (o : LongOp) =>
      if o.st = .running ∨ o.st = .suspending then { o with st := .suspending, auto := false } else o) }

/-- A planning die switched off for STANDBY; its health stays (R535, R537). -/
def DieSt.standby (x : DieSt) : DieSt :=
  { x with enable := false, running := false, presence := false, report := none, out := .standby, rejoin := false,
           inService := false }

/-- Every line cache of the package written back and emptied; poisoned lines stay so (R388). -/
def State.flushAll (s : State) : State :=
  let s := (List.range 8).foldl State.flushDie s
  { s with coh := { CohState.empty with poison := s.coh.poison } }

/-- The planning dies put off (R535, R537): the world cleared and what it held back counted, LPDDR in
self-refresh, SRAM lost. -/
def State.diesOff (s : State) : State :=
  let w := s.world.clear
  let s := s.flushAll
  State.endVerify { s with
    world := w.1
    clk := { s.clk with discarded := min 0xFFFF w.2, clocksOn := false }
    eng := EngSt.reset
    cyc := { s.cyc with lost := [] }
    mem := s.mem.clear (sramBase 0) (8 * 0x100000000)
    pkg := { s.pkg with dies := s.pkg.dies.map DieSt.standby, links := s.pkg.links.map (fun _ => Link.reset) }
    du := List.replicate 8 DuState.empty
    msgs := []
    saf := { s.saf with due := s.saf.due.filter (· == RUnit.hub), active := s.saf.active.filter (· == RUnit.hub) } }

/-- What a transition to a state does before it is reached (R463, R535): to STANDBY or OFF the operations
are cancelled, all but LEDGER_READ on the way to STANDBY, and a SHUTDOWN checkpoint is written. -/
def State.powerAct (s : State) (p : PState) : State :=
  let s := match p with
    | .active => s
    | .idle => s.askIdle
    | .standby | .off =>
      let s := s.withOps (endWhere (fun o => p == PState.off || o.cls != OpClass.ledger) .cancelled .cancelled s.ops)
      let s := { s with aon := s.aon.checkpoint .shutdown }
      s.diesOff
  { s with clk := { s.clk with acted := true } }

/-- A transition begins; its work waits for the end of a cycle in progress (R535). STANDBY to IDLE goes
through ACTIVE. -/
def State.powerBegin (s : State) (p : PState) : State :=
  let via := s.clk.reached == PState.standby && p == PState.idle
  let q := if via then PState.active else p
  let s := { s with clk := { s.clk with busy := some q, acted := false, after := if via then some .idle else s.clk.after } }
  if s.cyc.cur.isSome then s else s.powerAct q

/-- A move to a power state asked for (R535): latched during a transition, ignored in OFF or where it is
the present state. -/
def State.powerTo (s : State) (p : PState) : State :=
  if s.clk.reached = .off then s
  else if s.clk.busy.isSome then { s with clk := { s.clk with latched := some p } }
  else if s.clk.reached = p then s
  else s.powerBegin p

/-- A write of PWR_STATE_REQ (R535, R565). -/
def State.powerReq (s : State) (p : PState) : State :=
  if s.clk.reached = .off then s else State.powerTo { s with clk := { s.clk with req := p } } p

/-- ACTIVE reached from STANDBY (R536, R537): R404 over the dies that came back, the armature chosen
again, its tables loaded. -/
def State.wake (s : State) : State :=
  s.checkReports.decideCapacity.decideLinks.enterService.chooseArmature.loadTables

/-- A transition's end can be reached (R535, R536): no cycle in progress; on the way from STANDBY every die
has reported or been fenced; to STANDBY the cancelled operations' completions are written. -/
def State.powerReady (s : State) (p : PState) : Bool :=
  s.cyc.cur.isNone &&
  match p with
  | .active => s.saf.fatal || !(s.clk.reached == PState.standby && s.pkg.dies.any DieSt.owes)
  | .standby => !(s.ringEngine && s.ops.any (fun o => o.st == .cancelled && s.host.due.any (fun c => c.of o.desc && s.canLeave c)))
  | .idle | .off => true

/-- The state reached (R535, R536, R538). -/
def State.powerDone (s : State) (p : PState) : State :=
  let s := match p with
    | .active => if s.clk.reached = PState.standby ∧ !s.saf.fatal then s.wake else s
    | .idle => s.suspendAllN (s.ops.length + 1)
    | .standby => s
    | .off => { s with host := { s.host with linkUp := false }, mem := s.mem.clear 0 0x10000000000, ops := [] }
  { s with clk := { s.clk with reached := p, busy := none, acted := false, clocksOn := p == PState.active } }

/-- After a transition: the second leg of STANDBY to IDLE, else the latched request (R535). -/
def State.powerNext (s : State) : State :=
  match s.clk.after with
  | some q => State.powerBegin { s with clk := { s.clk with after := none } } q
  | none =>
    match s.clk.latched with
    | some q => State.powerTo { s with clk := { s.clk with latched := none } } q
    | none => s

end Sys2Proof.Machine
end

