-- ==== Sys2Proof/Machine/ClockExec.lean ====
section
/-!
DEFINITION. The commands of the monitors: clocks, supplies, temperature with the ECLK step, and the PMBus
master (R471 to R473, R506, R521 to R529, R539 to R541, R567).
-/
namespace Sys2Proof.Machine

open Sys2Proof

/-! ### Clocks -/

/-- The location of a unit told by die number, 8 for the hub's unit `u`. -/
def locOf (d u : Nat) : Loc := if d = 8 then Loc.hub u else Loc.ofDie d

/-- The class of a clock fault (R471); none for a clock that the place does not have. -/
def clockClass (clk loc : Nat) : Option FClass :=
  if clk = 1 then some .fatal
  else if 2 ≤ clk ∧ clk ≤ 4 then some (if loc = 8 then .fatal else .restartDie)
  else if clk = 5 ∧ loc = 8 then some .fatal
  else if clk = 6 ∨ clk = 7 then some .info
  else none

/-- Where a clock's fault is located (log entry 44). -/
def clockLoc (clk loc : Nat) : Loc :=
  if clk = 6 then Loc.hub 7 else if clk = 7 then Loc.hub 6 else if clk = 1 then Loc.hub 5 else locOf loc 5

/-- CLOCK_FAULT (R471, R504). No rule gives data word 1: a free value (log entry 1). -/
def execClockFault (clk : Fin 8) (loc : Fin 9) (s : State) : Out :=
  match clockClass clk.val loc.val with
  | none => .fault .malformed
  | some cls =>
    if s.boot.st = .held ∨ (cls = .restartDie ∧ !(s.die loc.val).running) then .next s
    else
      let s1 := if clk.val = 7 then
          { s with aon := { s.aon with xtal := false, calOk := s.aon.calOk && s.clk.reached != PState.off } }
        else s
      .next ((s1.spend 1).fault ⟨.clock, cls, clockLoc clk.val loc.val, clk.val, s1.freeVal.toNat % 2 ^ 32⟩)

/-! ### Supplies -/

/-- The rails (R472): codes 1 to 8, 0x10 + n. -/
def railOk (r : Nat) : Bool := (1 ≤ r && r ≤ 8) || 16 ≤ r

/-- The rails with a floor of their own (R539). -/
def railFloor (r : Nat) : Bool := r == 1 || r == 2 || 16 ≤ r

/-- The class of an excursion beyond ride-through (R472). -/
def railClass (r : Nat) : FClass :=
  if 16 ≤ r then .restartDie else if r = 6 ∨ r = 8 then .info else .fatal

/-- Where a rail's fault is located: the die it feeds, else the monitors of the hub (log entry 44). -/
def railLoc (r : Nat) : Loc := if 16 ≤ r then Loc.ofDie (r - 16) else Loc.hub 5

/-- A supply counter's index: rail-major, within and beyond ride-through (R506). -/
def railCounter (r : Nat) (beyond : Bool) : Nat := 2 * (if 16 ≤ r then r - 8 else r - 1) + boolNat beyond

/-- SUPPLY_EXCURSION (R472, R506, R539, R540): counted and classified; beyond ride-through on VDD_PCIE the
link goes down. A VDD_PDn monitor counts only while its die is on. -/
def execSupplyExcursion (rail : Fin 24) (belowFloor full : Bool) (s : State) : Out :=
  let r := rail.val
  if !railOk r then .fault .malformed
  else if s.boot.st = .held ∨ (16 ≤ r ∧ !(s.die (r - 16)).running) then .next s
  else
    let beyond := full || (belowFloor && railFloor r)
    let s := s.count (fun c => { c with supply := modAt (satInc 32 ·) c.supply (railCounter r beyond) })
    if !beyond then .next (s.fault ⟨.supply, .info, railLoc r, r, 1⟩)
    else
      let s := s.fault ⟨.supply, railClass r, railLoc r, r, 2⟩
      .next (if r = 6 then s.functionReset else s)

/-! ### Temperature -/

/-- The sites of a die or the hub (R468). -/
def siteOk (x : Fin 9 × Fin 16 × Int) : Bool := decide (x.2.1.val < (if x.1.val = 8 then 2 else 4))

/-- A die or the hub is read: a planning die only while it is powered and not fenced (R526). -/
def State.sampled (s : State) (d : Nat) : Bool := d == 8 || ((s.die d).running && (s.die d).fenced.isNone)

/-- The hottest of some readings, the first of equals. -/
def hottest : List (Fin 9 × Fin 16 × Int) → Option (Fin 9 × Fin 16 × Int)
  | [] => none
  | x :: xs => some (xs.foldl (fun (b : Fin 9 × Fin 16 × Int) x => if b.2.2 < x.2.2 then x else b) x)

/-- CRIT (R527). -/
def critTemp : Int := 0x870

/-- FLT_THERM of class FATAL (R473, R529). -/
def State.thermFatal (s : State) : State :=
  s.fault ⟨.therm, .fatal, locOf s.clk.tDie 5, s.clk.tSite, code 32 s.clk.tNow⟩

/-- A hot evaluation (R526): one step slower, or, ten times in a row at the floor, the hold. -/
def State.evalHot (s : State) : State :=
  let c := { s.clk with cool := 0, calm := 0 }
  let s := if c.target < s.floor then { s with clk := { c with target := c.target + 1, floorHot := 0 } }
    else { s with clk := { c with floorHot := (c.floorHot + 1) % 256 } }
  if 10 ≤ s.clk.floorHot ∧ !s.saf.hold then s.thermHold else s

/-- An evaluation that is not hot (R526): counts towards the hold's end and towards a faster step. -/
def State.evalCool (s : State) : State :=
  let low : Bool := decide (s.clk.tNow < (s.regs.thrLo : Int))
  let cool : Nat := if low then (s.clk.cool + 1) % 65536 else 0
  let calm : Nat := if low then (s.clk.calm + 1) % 65536 else 0
  let c : ClockPower := { s.clk with floorHot := 0, cool := cool, calm := calm }
  if s.saf.hold ∧ 1000 ≤ calm then { s with clk := { c with cool := 0 }, saf := { s.saf with hold := false } }
  else if !s.saf.hold ∧ 100 ≤ cool ∧ 0 < c.target then { s with clk := { c with target := c.target - 1, cool := 0 } }
  else { s with clk := c }

/-- THERMAL_EVALUATION (R473, R526, R529). -/
def execThermalEvaluation (sites : List (Fin 9 × Fin 16 × Int)) (s : State) : Out :=
  if !sites.all siteOk then .fault .malformed
  else
    match hottest (sites.filter (fun x => s.sampled x.1.val)) with
    | none => .next s
    | some x =>
      if s.boot.st = .held then .next s
      else
        let t := x.2.2
        let hot := decide ((s.regs.thrHi : Int) ≤ t) || s.clk.alert
        let s := { s with clk := { s.clk with tNow := t, tSite := x.2.1.val, tDie := x.1.val, hot := hot } }
        let s := if critTemp ≤ t then s.thermFatal else s
        .next (if hot then s.evalHot else s.evalCool)

/-- ECLK_STEP_CHANGE (R525): the target step taken at the first moment no cycle is in progress. -/
def execEclkStepChange (s : State) : Out :=
  if s.boot.st = .held ∨ s.cyc.cur.isSome then .next s
  else .next { s with clk := { s.clk with step := s.clk.target } }

/-- THERM_ALERT_CHANGE (R583): the filtered state of THERM_ALERT#; `level` is true where it is asserted. -/
def execThermAlertChange (level : Bool) (s : State) : Out := .next { s with clk := { s.clk with alert := level } }

/-! ### PMBus -/

/-- The bits of STATUS_WORD that name a fault: all but BUSY, OFF and POWER_GOOD# (log entry 47). -/
def pmbFault (w : Nat) : Bool := [0, 1, 2, 3, 4, 5, 8, 9, 10, 12, 13, 14, 15].any (bitAt w)

/-- One target of a round (R541, R567): its values, or a failed read counted. No rule gives data word 1 of
the record: a free value (log entry 1). -/
def State.pmbTarget (s : State) (t : Nat) (r : Option PmbRead) : State :=
  let p := nth ⟨0, 0, 0, 0⟩ s.regs.pmb t
  if !bitAt p.tgt 7 then s
  else
    let put (s : State) (v : PmbTgt) : State := { s with regs := { s.regs with pmb := setAt s.regs.pmb t v } }
    match r with
    | none => put s { p with err := min 0xFFFF (p.err + 1) }
    | some r =>
      let s := put s { p with tgt := p.tgt % 256 + 256 * (r.vmode % 256), vi := r.vout % 65536 + 65536 * (r.iout % 65536),
                              ts := r.temp % 65536 + 65536 * (r.status % 65536) }
      if pmbFault r.status then
        (s.spend 1).fault ⟨.supply, .info, Loc.hub 5, 0x100 + t, s.freeVal.toNat % 2 ^ 32⟩
      else s

/-- PMBUS_POLL_ROUND (R541, R567): one reading for each of the 16 targets, those not polled ignored. -/
def execPmbusPollRound (reads : List (Option PmbRead)) (s : State) : Out :=
  if reads.length ≠ 16 then .fault .malformed
  else if s.boot.st = .held ∨ !bitAt s.regs.pmbCfg 0 then .next s
  else .next (reads.zipIdx.foldl (fun (s : State) x => s.pmbTarget x.2 x.1) s)

end Sys2Proof.Machine
end

