-- ==== Sys2Proof/Machine/CoherenceExec.lean ====
section
/-!
DEFINITION. The coherence commands: what a home, a cache or a requester does with each message (R375
to R380, R395).
-/
namespace Sys2Proof.Machine

open Sys2Proof

/-- The location of a requester: a line cache, a mover, or the hub for itself and the scrub (R378, R476). -/
def reqLoc (req : Nat) : Loc :=
  if req < 32 then ⟨req / 4, req % 4, 15, 0xD⟩
  else if req < 96 then ⟨(req - 32) / 8, (req - 32) / 2 % 4, 15, 8 + req % 2⟩
  else Loc.hub 0

/-- A request put to a line's home; a home that cannot answer gives RESP_ERR, an address that no home
has raises FLT_ADDR with the requester's cluster restarted (R358, R377, R395). -/
def State.homeRequest (s : State) (req line : Nat) (k : HomeReqKind) : State :=
  match s.space (line * 64) with
  | some (.lpddr _, _) =>
    if s.homeFor req line then s.withCoh (s.coh.request s.homeRead line ⟨req, k⟩)
    else { s with coh := s.coh.send (.respErr req line) }
  | _ => s.fault ⟨.addr, if req < 96 then .restartCluster else .restartHub, reqLoc req, (reqLoc req).eng, line⟩

/-- GETS: a read miss of a cluster's cache (R377). The access waits for its DATA (R379). -/
def execGets (cl : Cluster) (line : Nat) (s : State) : Out :=
  let s := { s with coh := { s.coh with acc := s.coh.acc ++ [CAccess.mk cl.val line none] } }
  .next (s.homeRequest cl line .gets)

/-- GETM: a write miss (R377), with the store that waits for its DATA (R379). -/
def execGetm (cl : Cluster) (line off : Nat) (bytes : List Byte) (s : State) : Out :=
  if 64 < off + bytes.length then .fault .malformed
  else
    let s := { s with coh := { s.coh with acc := s.coh.acc ++ [CAccess.mk cl.val line (some (off, bytes))] } }
    .next (s.homeRequest cl line .getm)

/-- PUTM: the writeback of an evicted M line applied by its home (R378). -/
def execPutm (cl : Cluster) (line : Nat) (s : State) : Out :=
  .next (if s.homeFor cl line then s.withCoh (s.coh.putm s.homeRead cl line)
         else { s with coh := s.coh.send (.respErr cl line) })

/-- The pending access of a cluster to a line rewrites all of it (R388). -/
def CohState.rewrites (c : CohState) (cl line : Nat) : Bool :=
  match (c.acc.find? (fun a => a.cluster == cl && a.line == line)).bind (·.write) with
  | some (_, bs) => bs.length == 64
  | none => false

/-- Data of a poisoned line reaches a cache: the access ends and the requesting cluster restarts (R388). -/
def State.poisonIn (s : State) (cl line : Nat) (m : CohMsg) : State :=
  let l := line % 0x8000000
  let s := { s with coh := { (s.coh.take m) with acc := s.coh.acc.filter (fun a => !(a.cluster == cl && a.line == line)) } }
  s.fault (eccFault (reqLoc cl) 7 (l / 7 % 2) l)

/-- DATA: the oldest line data on its way to the cache arrives; the pending access is performed
(R379), and an uncached read that waited for it takes its copy (R380). A poisoned line is no data, unless the access rewrites all of it (R388). -/
def execData (cl : Cluster) (line : Nat) (s : State) : Out :=
  match s.coh.msgs.find? (fun m => match m with | .data c l _ _ => c == cl.val && l == line | _ => false) with
  | some (.data c l st bs) =>
    if l ∈ s.coh.poison ∧ !s.coh.rewrites c l then .next (s.poisonIn c l (.data c l st bs))
    else
      let s := { s with coh := s.coh.dataIn c l st bs }
      .next (s.withCoh (s.coh.dataDone s.homeRead c l))
  | _ => .next s

/-- INV: a sharer drops its copy and answers INV_ACK (R377). -/
def execInv (cl : Cluster) (line : Nat) (s : State) : Out := .next { s with coh := s.coh.invIn cl line }

/-- INV_ACK: the home counts the acknowledgement (R377). -/
def execInvAck (cl : Cluster) (line : Nat) (s : State) : Out :=
  .next (s.withCoh (s.coh.invAckIn s.homeRead cl line))

/-- RECALL: an owner returns the line after its pending access (R379). -/
def execRecall (cl : Cluster) (line : Nat) (s : State) : Out :=
  match s.coh.msgs.find? (fun m => match m with | .recall c l _ => c == cl.val && l == line | _ => false) with
  | some (.recall c l toS) => .next (s.withCoh (s.coh.recallIn s.homeRead c l toS))
  | _ => .next s

/-- WB_ACK: the cache learns that its writeback was applied; the message is used up (R377). -/
def execWbAck (cl : Cluster) (line : Nat) (s : State) : Out := .next { s with coh := s.coh.take (.wbAck cl line) }

/-- UC_READ: a coherent uncached read (R380). -/
def execUcRead (req : Fin 98) (line : Nat) (s : State) : Out := .next (s.homeRequest req line .ucRead)

/-- UC_WRITE: a coherent uncached write after the copies are invalidated (R380). -/
def execUcWrite (req : Fin 98) (line off : Nat) (bytes : List Byte) (s : State) : Out :=
  if 64 < off + bytes.length then .fault .malformed
  else .next (s.homeRequest req line (.ucWrite off bytes))

/-- A requester's access to a line ends in error. A poisoned line was read: a mover's cluster restarts; the
hub's operation and the scrub record it (R388, R479). Else the requester raises FAULT and its cluster, or the
hub core, restarts; the step is a free value (R397, R478, log entries 1 and 16). -/
def State.accessError (s : State) (req line : Nat) : State :=
  let l := line % 0x8000000
  if line ∈ s.coh.poison ∧ s.homeFor req line then
    if req < 96 then s.fault (eccFault (reqLoc req) 7 (l / 7 % 2) l)
    else if req = 96 then s.record ⟨.eccUncorr, .info, Loc.hub 0, 7 + 256 * (l / 7 % 2), l⟩
    else s.record ⟨.eccUncorr, .info, ⟨line / 0x8000000, 15, 15, 0xB⟩, 7 + 256 * (l / 7 % 2), l + 2 ^ 31⟩
  else
    (s.spend 1).fault ⟨.stepFault, if req < 96 then .restartCluster else .restartHub, reqLoc req, 1, s.freeVal.toNat % 4096⟩

/-- RESP_ERR: the requester's access ends in error (R395, R397). -/
def execRespErr (req : Fin 98) (line : Nat) (s : State) : Out :=
  if !s.coh.msgs.contains (.respErr req line) then .next s
  else
    let s := { s with coh := { (s.coh.take (.respErr req line)) with
      acc := s.coh.acc.filter (fun a => !(a.cluster == req.val && a.line == line)) } }
    .next (s.accessError req line)

end Sys2Proof.Machine
end

