-- ==== Sys2Proof/Machine/Movers.lean ====
section
/-!
DEFINITION. The movers' commands: COPY, FILL and the atomics (R364, R366 to R368).
-/
namespace Sys2Proof.Machine

open Sys2Proof

/-- A die is restarting or about to rejoin, and takes part in no cycle: its world store is being restored (R32,
R101). -/
def State.restoring (s : State) (d : Nat) : Bool :=
  !((s.cyc.cur.map (·.dies)).getD []).contains d
  && ((s.die d).rejoin || s.saf.active.contains (.die d) || (s.duOf d).serve == .recovering)

/-- A die's world store is being written: in the Snapshot of a cycle in which the die takes part, or while it is
restored (R32). -/
def State.worldOpen (s : State) (d : Nat) : Bool :=
  (s.phase == 1 && ((s.cyc.cur.map (·.dies)).getD []).contains d) || s.restoring d

/-- What a mover of a cluster may reach (R358). World stores are written in Snapshot or while their die
is restored. -/
def State.moverReach (s : State) (cl : Nat) (write : Bool) (a : Nat) : Bool :=
  match s.space a with
  | none => false
  | some (sp, _) =>
    match sp with
    | .lpddr _ => true
    | .shared c => c / 4 == cl / 4
    | .dual c => c / 4 == cl / 4
    | .scratch c => c / 16 == cl / 4
    | .world d => write && d == cl / 4 && s.worldOpen d
    | .hubMu => write
    | .hubWorld | .hubProof | .hubRe | .hubFw => false

/-- A range lies within one window, in memories that the mover reaches (R358, R367). -/
def State.moverRange (s : State) (cl : Nat) (write : Bool) (a n : Nat) : Bool :=
  daWindow a == daWindow (a + n - 1) && (edgesOf a n).all (s.moverReach cl write)

/-- Device memory read as a mover reads it: coherently in LPDDR (R358). -/
def State.moverRead (s : State) (a n : Nat) : List Byte :=
  if a < 0x10000000000 then s.cohRead a n else s.peek a n

/-- Device memory written as a mover writes it. -/
def State.moverWrite (s : State) (a : Nat) (bs : List Byte) : State :=
  if a < 0x10000000000 then s.cohWrite a bs else s.sramWrite a bs

/-- The mover's result record (R368). -/
def mvResult (done old : Nat) (fault : Bool) : List Byte :=
  leBytes 4 done ++ leBytes 4 (boolNat fault) ++ leBytes 8 old

/-- The engine of a mover number. -/
def moverEngine (mv : Nat) : Engine := if mv = 0 then .mv0 else .mv1

/-- A command ends in error: the result says FAULT, and the FAULT flag carries the cause, where there is one, to the
issuing sequencer (R316, R368). -/
def State.moverFails (s : State) (c : QCmd) (cl : Nat) (m : MvCmd) (cause : Option Fault0) : State :=
  (s.result cl m.resultOff (mvResult 0 0 true)).flagFault c cause

/-- An access outside R358: FLT_ADDR, the cluster restarting (R358, R368). Data word 0 is the mover's engine code. -/
def State.moverFault (s : State) (c : QCmd) (cl : Nat) (e : Engine) (m : MvCmd) (a : Nat) : State :=
  s.moverFails c cl m (some ⟨.addr, .restartCluster, engineLoc c.core e, e.index + 2, a / 64 % 2 ^ 32⟩)

/-- A read of a poisoned line: FLT_ECC_UNCORR of LPDDR with its channel (R384, R387, R388). -/
def State.moverPoison (s : State) (c : QCmd) (cl : Nat) (e : Engine) (m : MvCmd) (a n : Nat) : State :=
  let line := ((linesOf a n).find? (fun l => s.coh.poison.contains l)).getD (a / 64)
  let l := line % 0x8000000
  s.moverFails c cl m (some (eccFault (engineLoc c.core e) 7 (l / 7 % 2) l))

/-- A coherent access of a mover ends in error, its home not answering: the flag has no fault cause (R316, R368,
R395). -/
def State.moverError (s : State) (c : QCmd) (cl : Nat) (m : MvCmd) : State := s.moverFails c cl m none

/-- The home of an LPDDR address answers a mover of a cluster; SRAM needs none (R378, R395). -/
def State.reachUp (s : State) (cl : Nat) (e : Engine) (a : Nat) : Bool :=
  decide (0x10000000000 ≤ a) || s.homeFor (32 + 2 * cl + (if e = .mv1 then 1 else 0)) (a / 64)

/-- COPY (R366, R368): the whole source is read before the destination is written, the two not
overlapping (R367). -/
def State.copyBody (s : State) (c : QCmd) (cl : Nat) (e : Engine) (m : MvCmd) : State :=
  if !s.moverRange cl false m.src m.len then s.moverFault c cl e m m.src
  else if !s.moverRange cl true m.dst m.len then s.moverFault c cl e m m.dst
  else if !s.reachUp cl e m.src || !s.reachUp cl e m.dst then s.moverError c cl m
  else if s.poisoned m.src m.len then s.moverPoison c cl e m m.src m.len
  else (s.moverWrite m.dst (s.moverRead m.src m.len)).result cl m.resultOff (mvResult (m.len / 16) 0 false)

/-- FILL (R366): the operand record's 64-bit pattern repeated. -/
def State.fillBody (s : State) (c : QCmd) (cl : Nat) (e : Engine) (m : MvCmd) : State :=
  if !s.moverRange cl false m.src 16 then s.moverFault c cl e m m.src
  else if !s.moverRange cl true m.dst m.len then s.moverFault c cl e m m.dst
  else if !s.reachUp cl e m.dst then s.moverError c cl m
  else
    let p := s.peek m.src 8
    (s.moverWrite m.dst (List.replicate (m.len / 8) p).flatten).result cl m.resultOff (mvResult (m.len / 16) 0 false)

/-- An atomic at a shared-memory bank (R364, R366): the old value is returned, the new one is the
operand added modulo the width, or the operand itself. -/
def State.atomicBody (s : State) (c : QCmd) (cl : Nat) (e : Engine) (m : MvCmd) (bytes : Nat) (add : Bool) : State :=
  let a := m.dst + m.wsel * bytes
  let own := match s.space a with | some (.shared k, _) => k == cl | _ => false
  if !s.moverRange cl false m.src 16 then s.moverFault c cl e m m.src
  else if !own then s.moverFault c cl e m a
  else
    let old := getLe (s.peek a bytes) 0 bytes
    let v := getLe (s.peek m.src 8) 0 bytes
    let new_ := if add then (old + v) % 256 ^ bytes else v
    (s.poke a (leBytes bytes new_)).result cl m.resultOff (mvResult 1 old false)

/-- A mover's copy or fill waits while a line that it accesses is busy (R378). -/
def State.moverWaits (s : State) (m : MvCmd) : Bool :=
  (m.op == 1 && s.cohBusy m.src m.len) || (m.op ≤ 2 && s.cohBusy m.dst m.len)

/-- The movers of a die whose next command is a copy or fill that touches the die's LPDDR and waits for no line: the
requesters 5 to 12 of its LPDDR port (R370). -/
def State.portMovers (s : State) (d : Nat) : List Nat :=
  (List.range 8).filterMap (fun k =>
    match s.queueOf (4 * d + k / 2) (moverEngine (k % 2)) with
    | [] => none
    | c :: _ =>
      let m := MvCmd.ofWord c.word
      if m.op ≤ 2 ∧ !s.moverWaits m ∧ ((m.op = 1 ∧ homeOf (m.src / 64) = some d) ∨ homeOf (m.dst / 64) = some d) then some (5 + k)
      else none)

/-- A mover waits for its die's LPDDR port: a mover of higher rank, or of lower number at the same rank, asks for it
too (R371; log entry 19). -/
def State.portTaken (s : State) (cl mv : Nat) : Bool :=
  let me := 5 + cl % 4 * 2 + mv
  (s.portMovers (cl / 4)).contains me && arbBest (s.rankAt .lpddr) (s.portMovers (cl / 4)) != some me

/-- A mover's command of one operation. -/
def State.moverRun (s : State) (cl : Cluster) (mv : Fin 2) (w : BitVec 128) (hw : HwEvent) (op : Nat)
    (body : QCmd → MvCmd → State → State) : Out :=
  let m := MvCmd.ofWord w.toNat
  if m.op ≠ op ∨ !m.ok then .fault .malformed
  else if s.moverWaits m ∨ s.portTaken cl mv then .next s
  else .next (s.engineRun cl (moverEngine mv) w hw op 0 0 (fun c s => body c m s)
    (fun _ _ s => s.result cl m.resultOff (mvResult 0 0 true)))

/-- COPY (R366). -/
def execCopy (cl : Cluster) (mv : Fin 2) (w : BitVec 128) (hw : HwEvent) (s : State) : Out :=
  s.moverRun cl mv w hw 1 (fun c m s => s.copyBody c cl (moverEngine mv) m)
/-- FILL (R366). -/
def execFill (cl : Cluster) (mv : Fin 2) (w : BitVec 128) (hw : HwEvent) (s : State) : Out :=
  s.moverRun cl mv w hw 2 (fun c m s => s.fillBody c cl (moverEngine mv) m)
/-- ADD32 (R364). -/
def execAdd32 (cl : Cluster) (mv : Fin 2) (w : BitVec 128) (hw : HwEvent) (s : State) : Out :=
  s.moverRun cl mv w hw 3 (fun c m s => s.atomicBody c cl (moverEngine mv) m 4 true)
/-- ADD64 (R364). -/
def execAdd64 (cl : Cluster) (mv : Fin 2) (w : BitVec 128) (hw : HwEvent) (s : State) : Out :=
  s.moverRun cl mv w hw 4 (fun c m s => s.atomicBody c cl (moverEngine mv) m 8 true)
/-- SWAP32 (R364). -/
def execSwap32 (cl : Cluster) (mv : Fin 2) (w : BitVec 128) (hw : HwEvent) (s : State) : Out :=
  s.moverRun cl mv w hw 5 (fun c m s => s.atomicBody c cl (moverEngine mv) m 4 false)
/-- SWAP64 (R364). -/
def execSwap64 (cl : Cluster) (mv : Fin 2) (w : BitVec 128) (hw : HwEvent) (s : State) : Out :=
  s.moverRun cl mv w hw 6 (fun c m s => s.atomicBody c cl (moverEngine mv) m 8 false)

end Sys2Proof.Machine
end

