-- ==== Sys2Proof/Machine/CycleExec.lean ====
section
/-!
DEFINITION. The commands of a planning cycle at the hub: release, phase boundary, merge unit, and the
packets of VC2, VC4 and VC5 (R27 to R37, R220, R228, R230, R235, R268 to R283, R393, R477).
-/
namespace Sys2Proof.Machine

open Sys2Proof

/-- CYCLE_RELEASE (R28, R37, R487): the head of the cycle queue is released at the cycle boundary, with no
cycle and no restart in progress, once the long operations stand at a checkpoint (R451). Queued cycles wait for
ACTIVE (log entry 45). -/
def execCycleRelease (s : State) : Out :=
  match s.cyc.cur, s.cyc.queue with
  | some _, _ => .next s
  | none, [] => .next s
  | none, d :: rest =>
    if !s.canRelease ∨ !s.growStops then .next s
    else .next (State.releaseCycle (State.boundary { s with cyc := { s.cyc with queue := rest } }) d)

/-! ### PHASE_BOUNDARY -/

/-- The next phase released: phase epoch, cores' reports forgotten, the binding fires (R27, R341, R347). Phase 3's
release carries the deadline of OPT's solves (R253). -/
def State.nextPhase (s : State) (c : Cycle) : State :=
  let k := { c with phase := c.phase + 1, passed := [], phaseSclk := s.time.sclk }
  let k := if k.phase = 3 then { k with optDl := s.phaseDeadline k } else k
  let s := { s with cyc := { s.cyc with epoch := (s.cyc.epoch + 1) % 2 ^ 32, cur := some k } }
  s.fireOn c.dies .phaseRelease (c.phase + 1)

/-- TBL_CRC over a core's steps and pool as they stand in its scratchpad (R317). -/
def CoreEntry.crcNow (e : CoreEntry) : Nat := crc32c ((e.steps ++ e.pool).flatMap (leBytes 16))

/-- The end of Snapshot (R317): every core's tables are checked; a mismatch is a fault of its cluster, which ends the
cycle. -/
def State.endSnapshot (s : State) (c : Cycle) : State :=
  let bad := c.dies.flatMap (fun d => (s.cores d).zipIdx.filterMap (fun e =>
    if e.1.crcNow = e.1.tblCrc then none
    else some (⟨.tableCrc, .restartCluster, ⟨d, e.2 / 4, e.2 % 4, 1⟩, e.2, e.1.crcNow⟩ : Fault0)))
  if bad.isEmpty then s.nextPhase c else s.faults bad

/-- The end of Enlarge (R113, R205): rejoined dies have rebuilt every tile, edges are refreshed. -/
def State.endEnlarge (s : State) (c : Cycle) : State :=
  let s := c.dies.foldl (fun (s : State) d => s.mapDie d (fun x => { x with allTiles := false })) s
  let s := { s with cyc := { s.cyc with unbuilt := s.cyc.unbuilt.filter (fun d => !c.dies.contains d) } }
  let s := s.nextPhase c
  if c.retouch then s else s.refreshEdges c

/-- The end of Generate and check (R207 to R209): a retouch cycle's outcome other than SPLICED ends it. -/
def State.endGenerate (s : State) (c : Cycle) : State :=
  if !c.retouch then s.nextPhase c
  else
    match c.dies.head?, c.dies.head?.bind s.engEnv, s.cyc.held with
    | some d, some e, some h =>
      let r := s.spliceSearch d e h.1
      let c := { c with splice := some r.1, path := r.2 }
      let s := { s with cyc := { s.cyc with cur := some c } }
      match r.1 with
      | .spliced _ _ => s.nextPhase c
      | .notBlocked | .noDetour _ | .tooClose _ => let w := s.cycleWords c; s.endCycle .ok w.1 w.2 false
    | _, _, _ => s.nextPhase c

/-- The end of Select and merge (R235, R253, R292): the sheet's entries, then the solve orders of phase 5. An empty
MAIN or SAFE list ends the cycle where its FINAL lists do (R268). -/
def State.endSelect (s : State) (c : Cycle) (i : Image) (a : Armature) : State :=
  let s := (s.writeSheet c i a).nextPhase c
  match s.cyc.cur with
  | none => s
  | some k =>
    let k := { k with orders := s.solveOrders k a (s.phaseDeadline k) }
    State.placeSplice { s with cyc := { s.cyc with cur := some k } } k

/-- The end of Re-check (R268): Proof runs only when both FINAL lists hold one entry. -/
def State.endRecheck (s : State) (c : Cycle) (a : Armature) : State :=
  if (c.ranked a.sel 4).isEmpty ∨ (c.ranked a.sel 5).isEmpty then s.endEmpty c else s.nextPhase c

/-- The end of Proof (R29, R269, R273, R274): both proofs, the history, a mismatch or the deadline test. -/
def State.endProof (s : State) (c : Cycle) (i : Image) (a : Armature) (e : Ego) : State :=
  let v := s.proofEnv c i a e
  let p := proveEmitted v false (c.finalOf a false)
  let q := proveEmitted v true (c.finalOf a true)
  let mm := !(p.1 == .pass && q.1 == .pass)
  let c := { c with proofPlan := p.1, proofSafe := q.1, proofFlags := (p.2, q.2) }
  let s := { s with cyc := { s.cyc with cur := some c, history := (mm :: s.cyc.history).take 100 } }
  let w := s.cycleWords c
  if mm then
    let s := s.count (fun k => { k with proofMm := satInc 32 k.proofMm })
    let s := s.endCycle .verifyMismatch w.1 w.2 false
    if verifyRepeat s.cyc.history then s.verifyFault else s
  else if getLe c.desc.bytes 24 8 < s.time.now then s.endCycle .deadline w.1 w.2 false
  else s.nextPhase c

/-- The end of Fix: the commit (R283). -/
def State.endFix (s : State) (c : Cycle) (i : Image) (a : Armature) (e : Ego) : State :=
  match c.finalOf a false, c.finalOf a true with
  | some p, some q => s.fix c i a e p q
  | _, _ => s

/-- A comparator of the hub disagrees in a phase (R275, R479): the proofer in Proof, the Fixer in Fix, the
hub control path else. -/
def State.lockstep (s : State) (phase : Nat) (hw : HwEvent) : State :=
  let unit := if phase = 7 then 3 else if phase = 8 then 8 else 0
  match hw with
  | .ecc m b o => s.fault (eccFault (Loc.hub unit) m.val b.val (o / 64))
  | .clean | .checker | .data | .permanent | .corrected _ =>
    (s.spend 1).fault ⟨.lockstep, if phase = 8 then .fatal else .restartHub, Loc.hub unit, unit, s.freeVal.toNat % 2 ^ 32⟩

/-- PHASE_BOUNDARY (R27): once every die and the hub have ended the phase, the hub does its part and
releases the next one; at the end of Fix the cycle has committed. -/
def execPhaseBoundary (lockstep : HwEvent) (s : State) : Out :=
  match s.cyc.cur, s.img.active, s.armature, s.world.ego with
  | some c, some i, some a, some e =>
    if !s.phaseDone c a then .next s
    else
      match lockstep with
      | .clean | .corrected _ =>
        let s := match lockstep with | .corrected m => s.corrected 8 m.val | _ => s
        .next (match c.phase with
          | 1 => s.endSnapshot c
          | 2 => s.endEnlarge c
          | 3 => s.endGenerate c
          | 4 => s.endSelect c i a
          | 6 => s.endRecheck c a
          | 7 => s.endProof c i a e
          | 8 => s.endFix c i a e
          | _ => s.nextPhase c)
      | .checker | .data | .permanent | .ecc _ _ _ => .next (s.lockstep c.phase lockstep)
  | _, _, _, _ => .next s

/-! ### The merge unit -/

/-- A die's list fails by itself: header agreement, order, a CAND that appears twice in it, or its own identity
(R227, R228). -/
def SList.failsAlone (sp : SelSpec) (l : SList) : Bool :=
  !l.agrees sp || !l.ordered || !noDup (l.entries.map (·.key.cand)) || !l.identity

/-- The MU's fault on outputs that agree and still fail check `n` (R228). -/
def State.muFail (s : State) (sp : SelSpec) (n : Nat) (ls : List HubList) : State :=
  let bad := ls.filter (fun l => l.list.failsAlone sp)
  let s1 := s.spend 1
  let d1 := s.freeVal.toNat % 2 ^ 32
  if bad.isEmpty then s1.fault ⟨.sumcheck, .restartHub, Loc.hub 2, n, d1⟩
  else s1.faults (bad.map (fun l => ⟨.sumcheck, .restartDie, Loc.ofDie l.die, n, d1⟩))

/-- What a pass merges with (R220, R222): the bound is the last pair of the previous pass. -/
def Cycle.passSpec (c : Cycle) (e : SelEntry) (entry pass : Nat) : SelSpec :=
  let kt := (KeyType.ofCode e.keyType).getD .c24
  let bound := match (c.hubList entry (pass - 1)).bind (fun l => l.entries.getLast?) with
    | some x => (okey kt x.key.raw, x.key.cand)
    | none => (0, 0)
  ⟨kt, e.passK pass, e.inclZero, pass != 0, if pass = 0 then (0, 0) else bound, pass⟩

/-- The MU's merge of a pass (R218, R227, R228, R230). -/
def State.muRun (s : State) (c : Cycle) (e : SelEntry) (entry pass : Nat) (hw : HwEvent) (ls : List HubList) : State :=
  let sp := c.passSpec e entry pass
  let out := mergeLists sp (ls.map (·.list))
  let n := mergeCheck sp (ls.map (·.list)) out
  let keep (s : State) : State := s.mapCycle (fun k => { k with lists := k.lists ++ [⟨entry, pass, 8, out⟩] })
  let v := s.freeVal.toNat
  match hw with
  | .ecc m b o => s.fault (eccFault (Loc.hub 2) m.val b.val (o / 64))
  | .data => (s.spend 1).fault ⟨.sumcheck, .restartHub, Loc.hub 2, v % 7 + 1, v / 2 ^ 32⟩
  | .permanent => (s.spend 1).fault ⟨.sumcheck, .restartHub, Loc.hub 2, v % 7 + 1, v / 2 ^ 32⟩
  | .clean | .checker | .corrected _ =>
    let s := match hw with | .corrected m => s.corrected 8 m.val | _ => s
    if n ≠ 0 then s.muFail sp n ls
    else match hw with
    | .checker => (keep (s.spend 1)).fault ⟨.sumcheck, .checker, Loc.hub 2, v % 7 + 1 + 2 ^ 31, v / 2 ^ 32⟩
    | _ => keep s

/-- MU_MERGE (R230): the lists of every die of the cycle have arrived and are merged once. -/
def execMuMerge (entry : Fin 8) (pass : Fin 16) (hw : HwEvent) (s : State) : Out :=
  match s.cyc.cur, s.armature.bind (fun a => a.sel[entry.val]?) with
  | some c, some e =>
    let mine := c.lists.filter (fun l => l.entry == entry.val && l.pass == pass.val)
    let ls := mine.filter (fun l => l.die != 8)
    if e.phase ≠ c.phase ∨ mine.any (fun l => l.die == 8) ∨ !c.dies.all (fun d => ls.any (fun l => l.die == d)) then .next s
    else .next (s.muRun c e entry pass hw ls)
  | _, _ => .next s

/-! ### Packets -/

/-- A merge list from a die reaches the MU (R230). -/
def State.listIn (s : State) (src epoch entry pass : Nat) (bytes : List Byte) : State :=
  match s.cyc.cur, s.armature.bind (fun a => a.sel[entry]?) with
  | some c, some e =>
    if epoch ≠ s.cyc.epoch ∨ !c.dies.contains src then s.hubStale epoch
    else if e.phase ≠ c.phase ∨ e.passes ≤ pass ∨ c.lists.any (fun l => l.entry == entry && l.pass == pass
        && (l.die == src || l.die == 8)) then s
    else s.mapCycle (fun k => { k with lists := k.lists ++ [⟨entry, pass, src, SList.ofBytes bytes⟩] })
  | _, _ => s.hubStale epoch

/-- The bound records that the hub sends (R220, R225). -/
def Cycle.boundBytes (c : Cycle) : List (List Byte) :=
  (c.lists.filter (fun l => l.die == 8)).map (fun l =>
    seResult l.list (decide (l.list.entries.length < l.list.k)) false false false false)

/-- A solve order or bound written into a cluster's dual-port region (R220, R235, R347): only what the hub
has sent (log entry 35); a stale one is dropped at the die and counted at the hub (R235, R342). -/
def State.dualIn (s : State) (epoch cl off : Nat) (bytes : List Byte) : State :=
  let d := cl / 4
  match s.cyc.cur with
  | none => s
  | some c =>
    let order := c.orders.any (fun o => o.core / 4 == cl && o.order.bytes == bytes)
      && some off == s.armature.map (·.orderOff)
    let bound := c.boundBytes.contains bytes && c.dies.contains d && off % 16 == 0 && decide (off + 16 ≤ 65536)
    if !order ∧ !bound then s
    else if epoch ≠ (s.duOf d).epoch then s.hubStale epoch
    else
      let s := s.poke (dualBase cl + off) bytes
      if order then s.fireOn [d] .solveOrder (cl % 4) else s.fireOn [d] .hubBound 0

/-- LIST (R220, R230, R235). -/
def execList (src : Fin 9) (epoch : Nat) (pkt : ListPkt) (s : State) : Out :=
  match pkt with
  | .merge entry pass bytes =>
    if bytes.length ≠ 1280 then .fault .malformed
    else if src.val = 8 then .next s
    else .next (s.listIn src epoch entry pass bytes)
  | .dual cl off bytes => if src.val ≠ 8 then .next s else .next (s.dualIn epoch cl off bytes)

/-- The sender of a packet takes part: the hub, or a healthy die (R395). -/
def State.sends (s : State) (src : Nat) : Bool := src == 8 || ((s.die src).healthy && (s.die src).running)

/-- Where a bulk packet goes: the memory and whether its source reaches it (R358). A world store takes the hub's
data in the Snapshot of a cycle of its die, and the restoring copy of the lowest-numbered other healthy die (R32,
R101). -/
def State.bulkReach (s : State) (src da n : Nat) : Bool :=
  match s.space da, s.space (da + n - 1) with
  | some (.lpddr a, _), some (.lpddr b, _) => a == b
  | some (.world a, _), some (.world b, _) =>
    a == b && ((src == 8 && s.phase == 1 && ((s.cyc.cur.map (·.dies)).getD []).contains a) || (s.restoring a && s.restoreFrom a == some src))
  | some (.dual a, _), some (.dual b, _) => a == b && src == 8
  | some (x, _), some (y, _) => x == y && (x == .hubMu
      || (src == 8 && (x == .hubProof || x == .hubWorld || x == .hubRe || x == .hubFw)))
  | _, _ => false

/-- The die that a bulk packet goes to is there: no packet goes to a fenced one (R395). -/
def State.bulkUp (s : State) (da : Nat) : Bool :=
  let up (d : Nat) : Bool := (s.die d).healthy && (s.die d).running
  match s.space da with
  | some (.lpddr d, _) | some (.world d, _) => up d
  | some (.dual c, _) => up (c / 4)
  | _ => true

/-- Bulk data written to LPDDR: coherently; where a line of it is busy, the part of each line waits as a
request at its home (R378, R380). -/
def State.bulkWrite (s : State) (src da : Nat) (bytes : List Byte) : State :=
  if !s.cohBusy da bytes.length then s.cohWrite da bytes
  else
    let req := if src = 8 then 96 else 32 + 8 * src
    (linesOf da bytes.length).foldl (fun (s : State) l =>
      let lo := max da (l * 64)
      let hi := min (da + bytes.length) (l * 64 + 64)
      s.withCoh (s.coh.request s.homeRead l ⟨req, .ucWrite (lo - l * 64) ((bytes.drop (lo - da)).take (hi - lo))⟩)) s

/-- BULK (R358, R393): a bulk packet's data written at its address; an address its source does not reach
raises FLT_ADDR, and none goes to a fenced die. The cluster of a die's packet is a free value (log entry 1). -/
def execBulk (src : Fin 9) (da : Nat) (bytes : List Byte) (s : State) : Out :=
  if bytes.length = 0 ∨ 256 < bytes.length then .fault .malformed
  else if !s.sends src then .next s
  else if s.bulkReach src da bytes.length then
    if !s.bulkUp da then .next s
    else .next (if da < 0x10000000000 then s.bulkWrite src da bytes else s.sramWrite da bytes)
  else if src.val = 8 then .next (s.fault ⟨.addr, .restartHub, Loc.hub 0, 0, da / 64 % 2 ^ 32⟩)
  else .next ((s.spend 1).fault ⟨.addr, .restartCluster, ⟨src, s.freeVal.toNat % 4, 15, 0xC⟩, 0xC, da / 64 % 2 ^ 32⟩)

/-- The class and code of a fault record's bytes (R476, R478). -/
def Fault0.ofBytes (b : List Byte) : Option Fault0 := do
  let codes : List FCode := [.eccUncorr, .residue, .abft, .sumcheck, .link, .holdCut, .quiescent, .contextLost,
    .phaseOverrun, .verifyRepeat, .clock, .supply, .therm, .checkerLatent, .syncStuck, .lockstep, .stepFault, .addr,
    .staleDrop, .dieFenced, .tableCrc, .extFault, .smi, .regAccess, .boot]
  let classes : List FClass := [.info, .checker, .cycle, .restartCluster, .restartDie, .restartHub, .fence, .hold, .fatal]
  let k ← codes.find? (fun k => k.code == getLe b 0 2)
  let c ← classes.find? (fun c => c.code == getLe b 2 1)
  let x := getLe b 4 1
  let y := getLe b 5 1
  return ⟨k, c, ⟨x % 16, x / 16, y % 16, y / 16⟩, getLe b 16 4, getLe b 20 4⟩

/-- FAULT_REC (R477): a die's record arrives at the hub; it is raised with its class. A checker found latent
fences the die (R475, R479). -/
def execFaultRec (src : Die) (rec : List Byte) (s : State) : Out :=
  if rec.length ≠ 32 then .fault .malformed
  else
    match Fault0.ofBytes rec with
    | none => .next s
    | some f =>
      if !crcOk 32 rec ∨ f.loc.die ≠ src.val ∨ !s.sends src then .next s
      else if f.cls = .fence then .next ((s.fault f).fenceDie src .checkerLatent)
      else .next (s.fault f)

end Sys2Proof.Machine
end

