-- ==== Sys2Proof/Machine/DeExec.lean ====
section
/-!
DEFINITION. The Enlarger's commands: BUILD_CSPACE, BUILD_OCC and BUILD_STATIC (R105 to R123).
-/
namespace Sys2Proof.Machine

open Sys2Proof

/-- DE writes the same bytes into all four clusters' shared memory of its die (R119). -/
def State.broadcast (s : State) (die off : Nat) (bs : List Byte) : State :=
  (List.range 4).foldl (fun s k => s.poke (sharedBase (die * 4 + k) + off) bs) s

/-- The counts of the lowest die of the cycle reach the cycle status record (R122). -/
def State.deCounts (s : State) (die satrec satstat big : Nat) : State :=
  if (s.cyc.cur.bind (fun c => c.dies.head?)) = some die then
    s.tally (fun k => { k with satrec := k.satrec + capU16 satrec, satstat := k.satstat + capU16 satstat,
                               bigcover := k.bigcover + capU16 big })
  else s

/-- The rebuild set of the snapshot (R111); every tile on a die that has rejoined (R113). -/
def State.rebuild (s : State) (e : EngEnv) (die : Nat) : List Nat :=
  if (s.die die).allTiles || s.cyc.unbuilt.contains die then e.img.world.tiles
  else rebuildSet e.img.world (reachTiles (e.img.kernelsOf e.ps).flatten) s.world.changeMask

/-- The result and flags of a DE command: SAT, OSAT (R122, R123). -/
def State.deFinish (s : State) (cl : Nat) (d : DeCmd) (c : QCmd) (tiles satrec satstat big : Nat) (sat : Bool) : State :=
  let s := s.poke (dualBase cl + d.resultAddr) (deResult tiles satrec satstat big sat false)
  (s.deCounts (cl / 4) satrec satstat big).flagsWhere c [(5, sat), (7, satrec != 0 || satstat != 0)]

/-- BUILD_CSPACE (R106, R111, R119): tiles of the die's world store. -/
def State.cspaceBody (s : State) (cl : Nat) (d : DeCmd) (c : QCmd) : State :=
  match s.engEnv (cl / 4) with
  | none => s
  | some e =>
    let r := buildCspace (s.world.forDie e.img.world (cl / 4)) e.img.world e.enl (e.img.kernelsOf e.ps).flatten d (s.rebuild e (cl / 4))
    let s := r.1.foldl (fun (s : State) y => s.poke (csAddr (cl / 4) y.1) y.2) s
    s.deFinish cl d c (d.tiles e.img.world (s.rebuild e (cl / 4))).length 0 0 0 r.2

/-- BUILD_OCC (R114, R115, R118). -/
def State.occBody (s : State) (cl : Nat) (d : DeCmd) (c : QCmd) : State :=
  match s.engEnv (cl / 4) with
  | none => s
  | some e =>
    let r := buildOcc s.world e.img.world e.enl d
    let s := r.1.foldl (fun (s : State) x =>
      s.broadcast (cl / 4) (d.bufAddr + x.1 * 32) ((x.2.toEntries 16).map (leBytes 2)).flatten) s
    s.deFinish cl d c 0 (r.1.filter (fun x => x.2 == .saturated)).length 0 r.2 false

/-- BUILD_STATIC (R116, R118). -/
def State.staticBody (s : State) (cl : Nat) (d : DeCmd) (c : QCmd) : State :=
  match s.engEnv (cl / 4) with
  | none => s
  | some e =>
    let p := e.enl
    let base := d.bufAddr + p.ns * p.nb * e.img.world.tt * 32
    let r := buildStatic s.world e.img.world d (s.rebuild e (cl / 4))
    let s := r.foldl (fun (s : State) x =>
      s.broadcast (cl / 4) (base + x.1 * 64) ((x.2.toEntries 32).map (leBytes 2)).flatten) s
    s.deFinish cl d c r.length 0 (r.filter (fun x => x.2 == .saturated)).length 0 false

/-- A DE command of one operation. -/
def State.deRun (s : State) (cl : Nat) (w : BitVec 128) (hw : HwEvent) (op : Nat) (body : DeCmd → QCmd → State → State) :
    Out :=
  let d := DeCmd.ofWord w.toNat
  if d.op ≠ op then .fault .malformed else .next (s.engineRun cl .de w hw op 0 0 (body d)
    (fun _ _ s => s.poke (dualBase cl + d.resultAddr) (deResult 0 0 0 0 false true)))

/-- BUILD_CSPACE (R121). -/
def execBuildCspace (cl : Cluster) (w : BitVec 128) (hw : HwEvent) (s : State) : Out :=
  s.deRun cl w hw 1 (fun d c s => s.cspaceBody cl d c)
/-- BUILD_OCC (R121). -/
def execBuildOcc (cl : Cluster) (w : BitVec 128) (hw : HwEvent) (s : State) : Out :=
  s.deRun cl w hw 2 (fun d c s => s.occBody cl d c)
/-- BUILD_STATIC (R121). -/
def execBuildStatic (cl : Cluster) (w : BitVec 128) (hw : HwEvent) (s : State) : Out :=
  s.deRun cl w hw 3 (fun d c s => s.staticBody cl d c)

end Sys2Proof.Machine
end

