-- ==== Sys2Proof/Machine/SeqExec.lean ====
section
/-!
DEFINITION. The sequencer's steps: ISSUE, GET, WAIT_EVENT, SIGNAL, TIMED_WAIT, MSG and HALT, and the
expiry of a timed wait (R313 to R315, R331, R335 to R339, R342).
-/
namespace Sys2Proof.Machine

open Sys2Proof

/-- The physical dies of the armature's slots, in slot order (R308). -/
def State.slotDies (s : State) : List Nat := match s.cyc.cur with | some c => c.dies | none => s.img.used

/-- The physical die of an armature slot (R308). -/
def State.dieOfSlot (s : State) (k : Nat) : Option Nat := s.slotDies[k]?

/-- A device address of an armature's table with its slot number replaced by the slot's die (R308, R357). -/
def slotAddr (dies : List Nat) (a : Nat) : Nat :=
  if hubBase ≤ a then a
  else
    let size := if a < 0x10000000000 then 0x200000000 else 0x100000000
    let base := if a < 0x10000000000 then 0 else 0x10000000000
    match dies[(a - base) / size]? with
    | some d => base + d * size + (a - base) % size
    | none => a

/-- A command word of an armature's pool as it runs: a mover's source and destination name slots (R308, R366). -/
def slotWord (dies : List Nat) (e : Engine) (w : Nat) : Nat :=
  match e with
  | .mv0 | .mv1 =>
    let m := MvCmd.ofWord w
    w % 2 ^ 28 + slotAddr dies m.src / 16 * 2 ^ 28 + slotAddr dies m.dst / 16 * 2 ^ 68 + w / 2 ^ 108 * 2 ^ 108
  | _ => w

/-- A step that has not started may start now: its phase is open, and no long operation stops at it (R314, R451). -/
def State.mayStart (s : State) (st : SeqStep) : Bool :=
  phaseOpen s.seqEnv st.phase && !(st.phase == 0 && st.ckpt && s.seqEnv.halt)

/-- The rank of a thread among its core's step events (R333): the priority of the item that it holds, else its
context's PRIO. -/
def State.rankOf (s : State) (c t : Nat) (x : Thread) : Nat :=
  match x.item with
  | some h => h.prio
  | none => ((s.ctxOf c t).map (·.prio)).getD 0

/-- The next command that an ISSUE step has to place meets a full queue (R314). -/
def State.queueFull (s : State) (c n : Nat) (st : SeqStep) (x : Thread) : Bool :=
  let w := (((s.cores (c / 16))[c % 16]?).map (fun k => nth 0 k.steps n)).getD 0
  match (List.range 4).find? (fun i => nth 0xFFF st.cmds i != 0xFFF && !bitAt x.placed i) with
  | some i => decide (Config.queueDepth < (s.queueOf (unitOf c (Config.slotEngine w i)) (Config.slotEngine w i)).length)
  | none => false

/-- A thread has a step event for the sequencer to handle (R314, R333): it runs, and its step can start or end; one
that waits for a queue, for engines, for a message or for room has none. -/
def State.stepEvent (s : State) (c t : Nat) (x : Thread) : Bool :=
  x.status == .running && match s.stepAt c x.step with
    | none => false
    | some st =>
      if x.started ∨ st.kind = .halt then (x.started || s.mayStart st) && x.wait != .msg && s.idleMet c t st x.step
      else s.mayStart st && match st.kind with
        | .issue => !s.queueFull c x.step st x
        | .signal => match (s.duOf (c / 16)).events[field st.operand 0 8]? with
          | some e => bitAt st.operand 8 || !e.fifo.isEmpty || decide (e.count < 255)
          | none => true
        | .get | .waitEvent | .timedWait | .msg | .halt => true

/-- No other thread of the core has a step event that ranks ahead: a higher rank, or an equal one of a lower thread
number (R333). -/
def State.takesStep (s : State) (c t : Nat) (x : Thread) : Bool :=
  (nth [] (s.duOf (c / 16)).threads (c % 16)).zipIdx.all (fun y =>
    y.2 == t || !s.stepEvent c y.2 y.1
    || decide (s.rankOf c y.2 y.1 < s.rankOf c t x ∨ (s.rankOf c y.2 y.1 = s.rankOf c t x ∧ t < y.2)))

/-- A thread runs at a step of a kind and takes the sequencer's step event (R314, R333, R334): thread and step. `started` says whether the step's
own action has been taken; a step not yet started waits for its phase, and a CKPT step of a long operation that is
to stop is not started (R314, R451). -/
def State.atStep (s : State) (c t : Nat) (k : StepKind) : Option (Thread × SeqStep) := do
  let x ← s.thr c t
  let st ← s.stepAt c x.step
  guard (x.status = .running ∧ st.kind = k ∧ (x.started ∨ s.mayStart st) ∧ s.takesStep c t x)
  return (x, st)

/-- A started step whose waits are met ends (R314). -/
def State.tryEnd (s : State) (c t : Nat) (x : Thread) (st : SeqStep) : State :=
  if s.idleMet c t st x.step then s.endStep c t st else s

/-- A step's own action has been taken. -/
def State.markStarted (s : State) (c t : Nat) : State := s.mapThr c t (fun x => { x with started := true })

/-! ### ISSUE -/

/-- A command word with the order's candidate and ordinal (R315): the fields of PE, CE and KE commands
(R155, R181, R193). -/
def withOrder (e : Engine) (w : Nat) (o : SolveOrder) : Nat :=
  let put (v lo len x : Nat) : Nat := v - field v lo len * 2 ^ lo + x % 2 ^ len * 2 ^ lo
  match e with
  | .pe => put (put w 32 32 o.cand) 64 20 o.ord
  | .ce | .ke => put w 40 32 o.cand
  | _ => w

/-- What became of a slot of an ISSUE step: nothing is left to place, the engine's queue is full, or an indirect
slot met a stale order. -/
inductive SlotOut where
  | placed | full | stale
  deriving DecidableEq, Repr

/-- One slot of an ISSUE step (R308, R314, R315). A slot placed before is left. -/
def State.issueSlot (s : State) (c t n : Nat) (st : SeqStep) (i : Nat) : State × SlotOut :=
  let core := (s.cores (c / 16))[c % 16]?
  let idx := nth 0xFFF st.cmds i
  match core with
  | none => (s, .placed)
  | some k =>
    if idx = 0xFFF ∨ (s.thr c t).any (fun x => bitAt x.placed i) then (s, .placed)
    else
      let e := Config.slotEngine (nth 0 k.steps n) i
      let put (s : State) (w : Nat) : State × SlotOut :=
        if Config.queueDepth < (s.queueOf (unitOf c e) e).length then (s, .full)
        else
          ((s.enqueue (unitOf c e) e ⟨slotWord s.slotDies e w, c, t, n, i⟩).mapThr c t (fun x =>
            { x with issued := setBit x.issued i, placed := setBit x.placed i }), .placed)
      if bitAt st.ind i then
        let o := SolveOrder.ofBytes (s.peek (dualBase (c / 4) + (s.armature.map (·.orderOff)).getD 0) 32)
        if o.phaseEpoch ≠ (s.duOf (c / 16)).epoch then
          (s.mapThr c t (fun x => { x with placed := setBit x.placed i }), .stale)
        else put s (withOrder e (nth 0 k.pool (idx + o.family)) o)
      else put s (nth 0 k.pool idx)

/-- The slots of an ISSUE step in order, up to one whose queue is full (R314): the state, whether a queue was full,
and whether an indirect slot met a stale order. -/
def State.issueAll (s : State) (c t n : Nat) (st : SeqStep) : State × Bool × Bool :=
  (List.range 4).foldl (fun (acc : State × Bool × Bool) i =>
    if acc.2.1 then acc
    else
      let r := acc.1.issueSlot c t n st i
      (r.1, r.2 == .full, acc.2.2 || r.2 == .stale)) (s, false, false)

/-- ISSUE (R314, R315): the commands are queued, the step waiting while a queue is full, then it waits for IDLE. -/
def execIssue (c : Core) (t : ThreadNo) (s : State) : Out :=
  match s.atStep c t .issue with
  | none => .next s
  | some (x, st) =>
    if x.started then .next (s.tryEnd c t x st)
    else
      let r := s.issueAll c t x.step st
      let s := if r.2.1 then r.1 else r.1.markStarted c t
      .next (if r.2.2 then s.raise c t x.step 0x12 else s)

/-! ### GET -/

/-- Candidates for a grant on a die (R326, R331, R334): in dataflow mode those whose GET has met its
step's IDLE (R314). -/
def State.grantCands (s : State) (d : Nat) : List GrantCand :=
  match s.duCfg d with
  | none => []
  | some g =>
    let u := s.duOf d
    if g.mode = .rtk then u.rtkCands g (s.cores d) s.seqEnv
    else (u.dataflowCands g (s.cores d) s.seqEnv).filter (fun x =>
      match s.thr (d * 16 + x.core) x.thread with
      | none => false
      | some y => match s.stepAt (d * 16 + x.core) y.step with
        | none => false
        | some st => s.idleMet (d * 16 + x.core) x.thread st y.step)

/-- GET (R331, R346): the held item's service ends, and the thread asks for an item of its classes; on a
die that does not serve, an empty request is refused. -/
def execGet (c : Core) (t : ThreadNo) (s : State) : Out :=
  match s.atStep c t .get, s.duCfg (c / 16) with
  | some (x, st), some g =>
    if x.started then .next (s.tryEnd c t x st)
    else
    let s := s.mapDu (c / 16) (fun d => d.endItem g s.time.sclk true (c % 16) t)
    let ask := s.mapThr c t (fun y => { y with
      status := .waiting, wait := .grant (field st.operand 0 16) s.time.sclk, started := true })
    let d := s.duOf (c / 16)
    if d.serve ≠ .serving ∧ !(ask.grantCands (c / 16)).any (fun k => k.core == c % 16 && k.thread == t.val) then
      .next ((s.markStarted c t).raise c t x.step 0x13)
    else .next ask
  | _, _ => .next s

/-! ### Events -/

/-- WAIT_EVENT (R335, R337): the service ends and the thread takes a count, or waits; granted again, it ends the step. -/
def execWaitEvent (c : Core) (t : ThreadNo) (s : State) : Out :=
  match s.atStep c t .waitEvent with
  | none => .next s
  | some (x, st) =>
    if x.started then .next (s.tryEnd c t x st)
    else
      .next (s.mapDu (c / 16) (DuState.waitEvent s.time.sclk (c % 16) t (field st.operand 0 8) (bitAt st.operand 8)))

/-- SIGNAL (R337, R339, R346): an event of the own die, or a message of role 0xFF to another, whose delivery the step
awaits. A full event stalls the step, or refuses it on a die that does not serve. -/
def execSignal (c : Core) (t : ThreadNo) (s : State) : Out :=
  match s.atStep c t .signal, s.duCfg (c / 16) with
  | some (x, st), some g =>
    if x.started then .next (if x.wait = .msg then s else s.tryEnd c t x st)
    else
      let ev := field st.operand 0 8
      let bcast := bitAt st.operand 8
      match s.dieOfSlot (field st.operand 9 3) with
      | none => .next (s.markStarted c t)
      | some d =>
        if d ≠ c / 16 then
          let m : Msg := ⟨some c, t, some d, 0, 0xFF, ev, (s.duOf (c / 16)).epoch, [], some bcast, false⟩
          let s' := s.mapThr c t (fun y => { y with started := true, wait := .msg })
          .next { s' with msgs := s'.msgs ++ [m] }
        else
          let u := s.duOf d
          match (if bcast then some (u.broadcast g s.time.sclk ev) else u.signal g s.time.sclk ev none) with
          | some u => .next ((s.mapDu d (fun _ => u)).markStarted c t)
          | none => .next (if u.serve = .serving then s else (s.markStarted c t).raise c t x.step 0x13)
  | _, _ => .next s

/-- TIMED_WAIT (R335, R338): the service ends; a deadline, with or without an event; an event's count or a deadline
already passed ends the wait at once, the event first. -/
def execTimedWait (c : Core) (t : ThreadNo) (s : State) : Out :=
  match s.atStep c t .timedWait with
  | none => .next s
  | some (x, st) =>
    if x.started then .next (s.tryEnd c t x st)
    else
      let ticks := field st.operand 16 32
      let dl := (if bitAt st.operand 9 then s.seqEnv.release else s.time.now) + ticks
      let ev := if bitAt st.operand 8 then some (field st.operand 0 8) else none
      let counted : Bool := match ev with
        | some e => ((s.duOf (c / 16)).events[e]?).any (fun v => decide (0 < v.count))
        | none => false
      if counted then .next (s.mapDu (c / 16) (DuState.waitEvent s.time.sclk (c % 16) t (ev.getD 0) false))
      else if dl ≤ s.time.now then
        .next ((s.mapDu (c / 16) (DuState.readied s.time.sclk (c % 16) t none)).raise c t x.step 0x14)
      else
        let s := match ev with
          | some e => s.mapDu (c / 16) (DuState.waitEvent s.time.sclk (c % 16) t e false)
          | none => s.mapDu (c / 16) (fun d => d.endService (c % 16) t)
        .next (s.mapThr c t (fun y => { y with status := .waiting, wait := .timed dl ev }))

/-- A timed wait's deadline is reached (R338): the thread becomes ready with TIMEOUT. -/
def execTimedWaitExpiry (c : Core) (t : ThreadNo) (s : State) : Out :=
  match s.thr c t with
  | none => .next s
  | some x =>
    match x.wait with
    | .timed dl _ =>
      if x.status ≠ .waiting ∨ s.time.now < dl then .next s
      else
        let s := s.mapDu (c / 16) (fun d => d.leaveFifos (c % 16) t)
        let s := s.mapThr c t (fun y => { y with
          status := .ready, ready := s.time.sclk, wait := .none, started := true })
        .next (s.raise c t x.step 0x14)
    | _ => .next s

/-! ### MSG and HALT -/

/-- The message a MSG step sends (R339, R341): the epoch is the one its die holds now. -/
def State.msgOf (s : State) (c t : Nat) (st : SeqStep) : Msg :=
  let o := st.operand
  let hub := bitAt o 3
  ⟨some c, t, if hub then none else s.dieOfSlot (field o 0 3), field o 4 4, field o 8 8, field o 16 12,
   (s.duOf (c / 16)).epoch, s.peek (dualBase (c / 4) + field o 28 12 * 16) 16, none, false⟩

/-- MSG (R342): the message is under way; the step ends once its outcome is known. One to a die slot that
the armature does not use is stale: the hub, which routes between dies, drops it. -/
def execMsg (c : Core) (t : ThreadNo) (s : State) : Out :=
  match s.atStep c t .msg with
  | none => .next s
  | some (x, st) =>
    if x.started then .next (if x.wait = .msg then s else s.tryEnd c t x st)
    else
      let m := s.msgOf c t st
      if !bitAt st.operand 3 ∧ m.die = none then .next (((s.hubStale m.epoch).markStarted c t).raise c t x.step 0x12)
      else
        let s' := s.mapThr c t (fun y => { y with started := true, wait := .msg })
        .next { s' with msgs := s'.msgs ++ [m] }

/-- HALT (R314, R331, R335): once its waits are met the thread ends, and with it the service of what it
holds. -/
def execHalt (c : Core) (t : ThreadNo) (s : State) : Out :=
  match s.atStep c t .halt with
  | none => .next s
  | some (x, st) =>
    if !s.idleMet c t st x.step then .next s
    else
      let s := s.report c st
      let s := s.mapDu (c / 16) (fun d => match s.duCfg (c / 16) with
        | some g => (d.endItem g s.time.sclk true (c % 16) t).endService (c % 16) t
        | none => d)
      .next (s.mapThr c t (fun y => { y with status := .halted, started := false, wait := .none }))

end Sys2Proof.Machine
end

