-- ==== Sys2Proof/Machine/DuExec.lean ====
section
/-!
DEFINITION. The dispatch unit's rows: grants, deliveries, epoch advances, bound sources, quiescence
(R325 to R352, R434).
-/
namespace Sys2Proof.Machine

open Sys2Proof

/-! ### Grants -/

/-- A grant record written (R332). -/
def State.grantRec (s : State) (d : Nat) (g : DuCfg) (core thread item : Nat) (dyn : Bool) (arg : Nat)
    (m : Option (Nat × Nat)) : State :=
  s.poke (dualBase (d * 4 + core / 4) + grantOffset g core thread) (grantBytes item dyn arg (m.map (·.2)) s.time.now)

/-- A grant of an item to a waiting GET (R331, R332): the GET step is left for the item's entry step. -/
def State.grantItem (s : State) (d : Nat) (g : DuCfg) (k : GrantCand) (h : Held) : State :=
  let u := s.duOf d
  let dynIt := if h.dyn then u.dyn.find? (fun x => x.id == h.item) else none
  let num := match dynIt with
    | some x => x.tmpl
    | none => h.item
  let slot := dynIt.bind (·.mslot)
  let ent := if h.dyn then g.tmpls[num]? else g.items[num]?
  let arg := match dynIt with
    | some x => x.arg
    | none => (ent.map (·.arg)).getD 0
  let core := d * 16 + k.core
  let s := s.mapDu d (fun u =>
    if h.dyn then { u with dyn := u.dyn.map (fun x => if x.id = h.item then { x with service := true } else x) }
    else { u with items := setAt u.items h.item .service })
  let s := s.grantRec d g k.core k.thread num h.dyn arg slot
  match s.thr core k.thread with
  | none => s
  | some x =>
    match s.stepAt core x.step with
    | none => s
    | some st =>
      let dest := match ent with
        | some e => if e.entry = 0xFFF then st.next else e.entry
        | none => st.next
      ((s.report core st).goStep core k.thread dest).mapThr core k.thread (fun y =>
        { y with status := .running, item := some h, mslot := slot })

/-- The running thread of a core is preempted (R336): its frame is pushed. Where the push fails the
thread is lost (R319). -/
def State.preempt (s : State) (core : Nat) : State :=
  match ((s.duOf (core / 16)).threads[core % 16]?).bind (fun ts => ts.zipIdx.find? (fun t => t.1.status == .running)) with
  | none => s
  | some (x, t) =>
    match s.pushFrame core t 1 x with
    | none => s.contextLost core t x (s.stepPhase core x)
    | some s => s.mapThr core t (fun y => { y with status := .ready, pushed := true })

/-- A grant of an activation (R332, R334, R336). -/
def State.grantThread (s : State) (d : Nat) (g : DuCfg) (k : GrantCand) : State :=
  let core := d * 16 + k.core
  let s := s.preempt core
  match s.thr core k.thread with
  | none => s
  | some x =>
    let s := s.grantRec d g k.core k.thread k.thread false 0 x.mslot
    s.mapThr core k.thread (fun y => { y with
      status := .running, service := true, pushed := false, ssp := if y.pushed then y.ssp - 64 else y.ssp })

/-- DU_GRANT (R326, R328): the best of the eligible items or activations of the die. -/
def execDuGrant (d : Die) (s : State) : Out :=
  match s.duCfg d, bestGrant (s.grantCands d) with
  | some g, some k =>
    match k.held with
    | some h => .next (s.grantItem d g k h)
    | none => .next (s.grantThread d g k)
  | _, _ => .next s

/-! ### Messages -/

/-- The outcome of a message reaches the thread that sent it (R342, R346): none for a delivery. A stale SIGNAL raises
no flag: STALE is a MSG step's (R316). -/
def State.outcome (s : State) (m : Msg) (flag : Option Nat) : State :=
  match m.src with
  | none => s
  | some c =>
    match s.thr c m.thread with
    | none => s
    | some x =>
      if x.wait ≠ .msg then s
      else
        let s := s.mapThr c m.thread (fun y => { y with wait := .none })
        match flag with
        | none => s
        | some f => if f = 0x12 ∧ m.signal.isSome then s else s.raise c m.thread x.step f

/-- A TRACE message at the hub (R354, R434): a record of the trace area, or one dropped; without an area
discarded. -/
def State.traceMsg (s : State) (c : Cycle) (m : Msg) : State :=
  match traceArea c.desc s.sheetBankLen with
  | none => s
  | some (a, len) =>
    if 64 + 32 * (c.traced + 1) ≤ len then
      (s.hostWrite (a + 64 + 32 * c.traced) (mboxBytes m s.time.now)).mapCycle (fun k => { k with traced := k.traced + 1 })
    else s.mapCycle (fun k => { k with traceLost := k.traceLost + 1 })

/-- A message at the hub: TRACE messages wait for a cycle; any other role is stale there (R340, R341,
R354). -/
def State.deliverHub (s : State) (m : Msg) : State :=
  let gone := { s with msgs := s.msgs.erase m }
  if m.role = 0xFE then
    let t := match s.cyc.cur with
      | none => { gone with msgs := gone.msgs ++ [{ m with told := true }] }
      | some c => gone.traceMsg c m
    if m.told then t else t.outcome m none
  else (gone.hubStale m.epoch).outcome m (some 0x12)

/-- A message at a planning die (R341 to R346). -/
def State.deliverDie (s : State) (d : Nat) (m : Msg) : State :=
  let gone := { s with msgs := s.msgs.erase m }
  let u := s.duOf d
  match s.duCfg d with
  | none => (gone.mapDu d (·.drop m)).outcome m (some 0x12)
  | some g =>
    match u.deliver g s.phase s.time.sclk m with
    | .stale v => (gone.mapDu d (fun _ => v)).outcome m (some 0x12)
    | .full => if u.serve = .serving then s else gone.outcome m (some 0x13)
    | .done v slot =>
      let s := gone.mapDu d (fun _ => v)
      let s := match slot with
        | some k => s.poke (dualBase (d * 4 + m.core / 4) + mboxOffset g m.core k) (mboxBytes m s.time.now)
        | none => s
      s.outcome m none

/-- A delivery stalls: the die serves and has no room for it (R346), or a TRACE message waits at the hub for a
cycle (R354). -/
def State.stalls (s : State) (m : Msg) : Bool :=
  match m.die with
  | none => m.told && s.cyc.cur.isNone
  | some d =>
    (s.duOf d).serve == .serving && match s.duCfg d with
      | none => false
      | some g => match (s.duOf d).deliver g s.phase s.time.sclk m with
        | .full => true
        | .stale _ | .done _ _ => false

/-- The message that arrives next at a die, or at the hub (8): the oldest that does not stall (R341, R346). -/
def State.nextMsg (s : State) (dst : Nat) : Option Msg :=
  s.msgs.find? (fun m => m.die == (if dst = 8 then none else some dst) && !s.stalls m)

/-- MESSAGE_DELIVERY (R341): the next message under way to a die, or to the hub (8). -/
def execMessageDelivery (dst : Fin 9) (s : State) : Out :=
  match s.nextMsg dst with
  | none => .next s
  | some m => .next (if dst.val = 8 then s.deliverHub m else s.deliverDie dst m)

/-- PHASE_EPOCH_ADVANCE (R341): a die receives the hub's phase epoch. -/
def execPhaseEpochAdvance (d : Die) (s : State) : Out :=
  .next (s.mapDu d (fun u => { u with epoch := s.cyc.epoch }))

/-! ### Bound sources and quiescence -/

/-- BOUND_SOURCE_FIRE (R346, R347): the oldest source that fired for the die, at every binding of it. A
binding without room stalls the source while the die serves; on a die that does not serve the source is
refused, which the hub notes (log entry 121). -/
def execBoundSourceFire (d : Die) (s : State) : Out :=
  let u := s.duOf d
  match u.fires, s.duCfg d with
  | [], _ => .next s
  | _ :: rest, none => .next (s.mapDu d (fun u => { u with fires := rest }))
  | (src, arg) :: rest, some g =>
    if u.serve ≠ .serving then .next (s.mapDu d (fun u => { u with fires := rest, refused := u.refused ++ [(src, arg)] }))
    else
      let bs := g.binds.filter (fun b => b.source == src && (b.arg == arg || src == .cycleEnd || src == .hubBound))
      match bs.foldlM (fun (v : DuState) b => v.fire g s.time.sclk b) u with
      | none => .next s
      | some v => .next (s.mapDu d (fun _ => { v with fires := rest }))

/-- A message or SIGNAL to a die is under way (R352). -/
def State.inFlight (s : State) (d : Nat) : Bool := s.msgs.any (fun m => m.die == some d)

/-- The event of the lowest waiting thread of a die (R478). -/
def DuState.waitedEvent (u : DuState) : Nat :=
  ((u.threads.flatten.findSome? (fun t => match t.wait with
    | .event e _ => some e
    | _ => none))).getD 0

/-- A long operation runs on a die (R352, R446): its work there is the die's. -/
def LongOp.runsOn (d : Nat) (o : LongOp) : Bool :=
  o.atWork && match o.cls with
    | .grow | .scrubLp | .scrubSram => bitAt o.dies d
    | .selftest | .retrain => o.current == some d
    | .recal | .load | .ledger => false

/-- QUIESCENCE_EXPIRY (R352): the die has been quiescent for 4,096 SCLK. A cycle in progress fails, a long operation
that runs on the die ends FAILED, and the die restarts. -/
def execQuiescenceExpiry (d : Die) (s : State) : Out :=
  match s.duCfg d with
  | none => .next s
  | some g =>
    let u := s.duOf d
    if !u.quiescent g (s.inFlight d || !u.fires.isEmpty) then .next s
    else
      let s := s.withOps (endWhere (LongOp.runsOn d) .failed .faultRestart s.ops)
      .next (s.fault ⟨.quiescent, .restartDie, ⟨d, 15, 15, 0xA⟩, u.waitedEvent, 0⟩)

end Sys2Proof.Machine
end

