-- ==== Sys2Proof/Machine/LinkExec.lean ====
section
/-!
DEFINITION. The link layer's commands: flits, replays, recovery and loss (R389 to R394).
-/
namespace Sys2Proof.Machine

open Sys2Proof

/-- A link of the package. -/
def State.link (s : State) (l : Nat) : Link := nth Link.reset s.pkg.links l
/-- A link changed. -/
def State.mapLink (s : State) (l : Nat) (f : Link → Link) : State :=
  { s with pkg := { s.pkg with links := modAt f s.pkg.links l } }

/-- Where a link's fault is located: the link endpoint of its die, of the lower die for a ring link
(R476; log entry 44). -/
def linkLoc (l : Nat) : Loc := ⟨l % 8, 15, 15, 0xC⟩

/-- The die number at an end of a link, 8 for the hub (R389). -/
def linkEnd (l e : Nat) : Nat := if l < 8 then (if e = 0 then 8 else l) else if e = 0 then l - 8 else (l - 7) % 8

/-- Link loss (R392): a ring link is disabled; a hub link's die warm-restarts, or is fenced at the second
loss before a commit. -/
def State.linkLoss (s : State) (l : Nat) : State :=
  let s := s.mapLink l (fun k => { k with st := .lost })
  if 8 ≤ l then
    State.fault { s with pkg := { s.pkg with ringMask := clrBit s.pkg.ringMask (l - 8) } } ⟨.link, .info, linkLoc l, l, 2⟩
  else if (s.die l).fenced.isSome then s
  else if 1 ≤ (s.die l).hubLosses then (s.fault ⟨.link, .fence, linkLoc l, l, 2⟩).fenceDie l .hubLink
  else
    (s.mapDie l (fun x => { x with hubLosses := x.hubLosses + 1, fullTrain := true })).fault
      ⟨.link, .restartDie, linkLoc l, l, 2⟩

/-- Link recovery begins, or, at the third within 1 s, the link is lost (R392). -/
def State.linkRecovery (s : State) (l : Nat) : State :=
  let now := s.time.now
  let recent := (s.link l).recoveries.filter (fun t => decide (now < t + 100000000))
  if 2 ≤ recent.length then s.linkLoss l
  else
    (s.mapLink l (fun k => { k with st := .recovering, recoveries := recent ++ [now], stall := [0, 0] })).fault
      ⟨.link, .info, linkLoc l, l, 1⟩

/-- A replay by one end (R391), the eighth without progress leading to recovery (R392). -/
def State.replayFrom (s : State) (l e : Nat) : State :=
  let s := s.mapLink l (fun k => { k with ends := modAt LinkEnd.again k.ends e, replays := k.replays + 1,
                                          stall := modAt (· + 1) k.stall e })
  if 8 ≤ nth 0 (s.link l).stall e then s.linkRecovery l else s

/-- A packet's header and data as they arrive (R393, R394): a malformed header's packet is discarded. -/
def State.packetFlit (s : State) (l e : Nat) (f : Flit) : State :=
  let me := linkEnd l e
  let setRx (h : Option (BitVec 256)) (ds : List (BitVec 256)) (s : State) : State :=
    s.mapLink l (fun k => { k with ends := modAt (fun x => { x with rxHead := h, rxData := ds }) k.ends e })
  if f.ftype = 1 then
    let h := PktHead.ofBits f.payload
    if h.malformed me then (setRx none [] s).fault ⟨.link, .info, linkLoc l, l, 3⟩
    else if h.ndata = 0 then setRx none [] s
    else setRx (some f.payload) [] s
  else if f.ftype = 2 then
    match ((s.link l).end_ e).rxHead with
    | none => s
    | some p =>
      let ds := ((s.link l).end_ e).rxData ++ [f.payload]
      if (PktHead.ofBits p).ndata ≤ ds.length then setRx none [] s else setRx (some p) ds s
  else s

/-- A flit accepted at an end: NAK makes the end resend, and its packet goes on (R391, R393). -/
def State.flitTaken (s : State) (l e : Nat) (f : Flit) : State :=
  (if f.nak && !((s.link l).end_ e).replay.isEmpty then s.replayFrom l e else s).packetFlit l e f

/-- The ring link between two dies (R24), none where they are no neighbours. -/
def ringLinkOf (a b : Nat) : Option Nat :=
  if 8 ≤ a ∨ 8 ≤ b then none else if (a + 1) % 8 = b then some a else if (b + 1) % 8 = a then some b else none

/-- What the packets that leave `src` may take of a link (R33, R395): a ring link coherence and uncached types between
its two dies; a hub link everything else, coherence between ring neighbours too where their ring link is not in use.
0xF is the hub's alone, and nothing is addressed to a die that is fenced or whose hub link is down. -/
def State.carries (s : State) (l e : Nat) (h : PktHead) : Bool :=
  let from_ := linkEnd l e
  let to_ := linkEnd l (1 - e)
  let coherent := decide (1 ≤ h.ptype ∧ h.ptype ≤ 0x0B)
  let onRing := coherent && (ringLinkOf h.src h.dst).any (fun n => bitAt s.pkg.ringMask n)
  let reach := decide (8 ≤ h.dst) || ((s.die h.dst).fenced.isNone && (s.link h.dst).st != .down && (s.link h.dst).st != .lost)
  !h.rsv && decide (1 ≤ h.ptype ∧ h.ptype ≤ 0x12) && reach &&
  (if 8 ≤ l then coherent && h.src == from_ && h.dst == to_
   else if from_ = 8 then (h.dst == to_ || (h.dst == 15 && h.src == 8)) && h.src != to_ && decide (h.src ≤ 8) && !onRing
   else h.src == from_ && h.dst != from_ && decide (h.dst ≤ 8) && !onRing)

/-- An end of a link can send this flit now, a new packet only where the link carries it. -/
def State.sendable (s : State) (l e : Nat) (w : BitVec 320) : Bool :=
  let f := Flit.ofBits w
  ((s.link l).end_ e).canSend w
    && (f.ftype != 1 || ((s.link l).end_ e).resend.isSome || s.carries l e (PktHead.ofBits f.payload))

/-- FLIT_RECEIVED (R389 to R394): the flit `sent` leaves the other end of a link that is up and arrives at end
`end_` with the bits `err` inverted (log entry 100). AKSEQ's advance ends the count of replays without
progress. -/
def execFlitReceived (link : Fin 16) (end_ : Fin 2) (sent err : BitVec 320) (s : State) : Out :=
  let k := s.link link.val
  let far := 1 - end_.val
  if k.st ≠ .up ∨ s.sendable link.val far sent = false then .next s
  else
    let old := k.end_ end_.val
    let r := old.receive (sent ^^^ err)
    let s := s.mapLink link.val (fun k => { k with
      ends := setAt (setAt k.ends far ((k.end_ far).send sent)) end_.val r.1
      stall := if r.1.replay.length < old.replay.length then setAt k.stall end_.val 0 else k.stall })
    match r.2 with
    | some f => .next (s.flitTaken link.val end_.val f)
    | none => .next s

/-- REPLAY_TIMEOUT (R391): an end with unacknowledged flits resends. -/
def execReplayTimeout (link : Fin 16) (end_ : Fin 2) (s : State) : Out :=
  let k := s.link link.val
  if k.st = .up ∧ !(k.end_ end_.val).replay.isEmpty then .next (s.replayFrom link.val end_.val) else .next s

/-- LINK_RECOVERY_DONE (R392): both ends go on and resend, or the link is lost. -/
def execLinkRecoveryDone (link : Fin 16) (ok : Bool) (s : State) : Out :=
  if (s.link link.val).st ≠ .recovering then .next s
  else if ok then .next (s.mapLink link.val (fun k => { k with st := .up, ends := k.ends.map LinkEnd.again }))
  else .next (s.linkLoss link.val)

end Sys2Proof.Machine
end

