-- ==== Sys2Proof/Machine/PatinaExec.lean ====
section
/-!
DEFINITION. The commands of the always-on controller: the one-second sample, checkpoints by time and the
identity region (R506 to R513).
-/
namespace Sys2Proof.Machine

open Sys2Proof

/-- The one-second sample of a die's hottest reading. -/
def Aon.sample (a : Aon) (x : Fin 9 × Int) : Aon := { a with ctr := a.ctr.sampleDie x.1.val x.2 }

/-- The highest of some readings. -/
def maxReading : List (Fin 9 × Int) → Option Int
  | [] => none
  | x :: xs => some (xs.foldl (fun (m : Int) y => max m y.2) x.2)

/-- PATINA_SAMPLE (R506 to R508): a second of power-on, the sampled dies' bins and stress, the thermal
cycle. One reading a die: the hottest of its sites. -/
def execPatinaSample (readings : List (Fin 9 × Int)) (s : State) : Out :=
  if !noDup (readings.map (·.1.val)) then .fault .malformed
  else if s.boot.st = .held ∨ !s.aon.powered then .next s
  else
    let rs := readings.filter (fun x => s.sampled x.1.val)
    let a := { s.aon with ctr := { s.aon.ctr with powerOn := satInc 64 s.aon.ctr.powerOn } }
    let a := rs.foldl Aon.sample a
    .next { s with aon := match maxReading rs with | some t => a.thermSample t | none => a }

/-- Which checkpoint the passing of time asks for (R511). -/
def Aon.timedCheckpoint (a : Aon) : Option CkReason :=
  if 600 ≤ a.sinceCk then some .timer else if a.faultCk && decide (120 ≤ a.sinceCk) then some .fault else none

/-- CHECKPOINT_TIMER (R511): `badSlots` slots in turn fail both read-backs. -/
def execCheckpointTimer (badSlots : Fin 128) (s : State) : Out :=
  if s.boot.st = .held ∨ !s.aon.powered then .next s
  else
    match s.aon.timedCheckpoint with
    | none => .next s
    | some r => .next { s with aon := s.aon.checkpoint r badSlots.val }

/-- A year of power-on: a twenty-fifth of the 788,940,000 s of R514. -/
def yearSeconds : Nat := 31557600

/-- IDENTITY_REFRESH (R513): the identity region rewritten in place, its stamp renewed. -/
def execIdentityRefresh (s : State) : Out :=
  if s.aon.powered ∧ s.aon.stamp + yearSeconds ≤ s.aon.ctr.powerOn then
    .next { s with aon := { s.aon with stamp := s.aon.ctr.powerOn } }
  else .next s

end Sys2Proof.Machine
end

