-- ==== Sys2Proof/Machine/PowerExec.lean ====
section
/-!
DEFINITION. The commands of the PCIe function's resets and of the power states (R413, R443, R535 to R538,
R583).
-/
namespace Sys2Proof.Machine

open Sys2Proof

/-! ### The function -/

/-- FUNCTION_LEVEL_RESET (R443). -/
def execFunctionLevelReset (s : State) : Out := if s.linkOk then .next s.functionReset else .next s

/-- HOT_RESET (R443). -/
def execHotReset (s : State) : Out := if s.linkOk then .next s.functionReset else .next s

/-- LINK_DOWN_RESET (R443); the link trains again at once (log entry 41). -/
def execLinkDownReset (s : State) : Out := if s.linkOk then .next s.functionReset else .next s

/-- PCIE_PERST (R443, R583): the function is held in reset. -/
def execPciePerst (s : State) : Out :=
  if s.boot.st = .held ∨ s.host.perst then .next s
  else .next (State.functionReset { s with host := { s.host with perst := true } })

/-- PCIE_PERST_RELEASE (R583). -/
def execPciePerstRelease (s : State) : Out := .next { s with host := { s.host with perst := false } }

/-- D3HOT_ENTRY (R413): outside STANDBY every operation is cancelled and STANDBY entered. -/
def execD3hotEntry (s : State) : Out :=
  if !s.linkOk then .next s
  else
    let s := { s with host := { s.host with d3hot := true } }
    if s.clk.reached = .standby ∧ s.clk.busy = none then .next s
    else .next ((s.withOps (endWhere (fun _ => true) .cancelled .cancelled s.ops)).powerTo .standby)

/-- D0_RETURN (R413): the device stays in STANDBY. -/
def execD0Return (s : State) : Out := .next { s with host := { s.host with d3hot := false } }

/-! ### Power states -/

/-- PWR_REQ_ACTIVE (R535, R536). -/
def execPwrReqActive (s : State) : Out := if s.linkOk then .next (s.powerReq .active) else .next s

/-- PWR_REQ_IDLE (R535). -/
def execPwrReqIdle (s : State) : Out := if s.linkOk then .next (s.powerReq .idle) else .next s

/-- PWR_REQ_STANDBY (R535). -/
def execPwrReqStandby (s : State) : Out := if s.linkOk then .next (s.powerReq .standby) else .next s

/-- PWR_REQ_OFF (R535). -/
def execPwrReqOff (s : State) : Out := if s.linkOk then .next (s.powerReq .off) else .next s

/-- PWR_STATE_REACHED (R535 to R538): the transition's work, where a cycle held it up, then its end, then
the request that waits. -/
def execPwrStateReached (s : State) : Out :=
  match s.clk.busy with
  | none => .next s
  | some p =>
    let s := if s.clk.acted ∨ s.cyc.cur.isSome then s else s.powerAct p
    if s.powerReady p then .next (s.powerDone p).powerNext else .next s

end Sys2Proof.Machine
end

