-- ==== Sys2Proof/Machine/RegOps.lean ====
section
/-!
DEFINITION. The BAR0 registers: what each reads as, the accesses with side effects, the rules of a write
(R16 to R18, R545 to R570).
-/
namespace Sys2Proof.Machine

open Sys2Proof

/-! ### Reading -/

/-- The low and high word of a 64-bit value. -/
def lo32 (v : Nat) : Nat := v % 2 ^ 32
/-- The high word. -/
def hi32 (v : Nat) : Nat := v / 2 ^ 32 % 2 ^ 32

/-- GSTAT (R555). -/
def State.gstat (s : State) : Nat :=
  boolNat (s.boot.st == .ready) + 2 * boolNat (s.boot.st == .fatal) + 4 * boolNat s.host.ringErr
  + 8 * boolNat s.img.active.isSome + 16 * (if s.img.active.isSome then s.img.arm.getD 0 % 4 else 0)
  + 64 * boolNat s.saf.safeState + 128 * boolNat s.saf.faultPin
  + 256 * maskOf (s.pkg.dies.map (·.healthy)) + 65536 * (s.pkg.ringMask % 256) + 2 ^ 28 * (s.host.attnFail % 16)

/-- The loaded ring of lowest number in ERROR. -/
def State.errRing (s : State) : Option Ring :=
  (s.host.rings.filter (fun r => r.error.isSome)).foldl (fun (b : Option Ring) r =>
    match b with | none => some r | some x => if r.num < x.num then some r else b) none

/-- STATE's code (R557). -/
def TblSt.code : TblSt → Nat
  | .none_ => 0 | .loading => 1 | .loaded => 2 | .error => 3

/-- RING_TBL_LOAD as read (R557). -/
def State.tblLoad (s : State) : Nat :=
  let e := s.errRing
  let ring := match e with
    | some r => r.num
    | none => if s.host.tblSt = .error then s.host.lring else 0
  2 * s.host.tblSt.code + 8 * (s.host.lcause % 16) + 128 * boolNat e.isSome + 256 * (ring % 0x4000)
  + 2 ^ 22 * ((e.bind (fun r => r.error)).map RingError.code).getD 0

/-- CLK_STAT (R564). -/
def State.clkStat (s : State) : Nat :=
  boolNat s.clk.pll + 2 * (s.clk.step % 4) + 8 * (s.floor % 4) + 32 * boolNat s.boot.derated + 64 * boolNat s.aon.xtal
  + 128 * boolNat s.saf.hold + 256 * (s.clk.target % 4)

/-- PWR_STATE_REQ as read (R565). -/
def ClockPower.reqReg (c : ClockPower) : Nat :=
  c.req.code + 4 * c.reached.code + 16 * boolNat c.busy.isSome + 32 * boolNat c.latched.isSome + 65536 * (c.discarded % 65536)

/-- SAF_CFG (R561). -/
def Regs.safCfg (r : Regs) : Nat := r.stalePeriod % 2 ^ 20 + 2 ^ 20 * (r.finAction % 4) + 2 ^ 31 * boolNat r.lock

/-- A HI latch (R547). -/
def Regs.latch (r : Regs) (pair : Nat) : Nat := nth 0 r.hiLatch pair

/-- The per-target PMBus registers (R567): word w of target t. -/
def Regs.pmbWord (r : Regs) (t w : Nat) : Nat :=
  let p := nth ⟨0, 0, 0, 0⟩ r.pmb t
  if w = 0 then p.tgt else if w = 1 then p.vi else if w = 2 then p.ts else p.err

/-- LED_WIN_DATA's word (R517, R570). -/
def Aon.winData (a : Aon) : Nat :=
  let v := a.winAddr / 4096 % 4
  let i := a.winAddr % 4096
  if i < viewLen v then a.viewWord v i else 0

/-- What a read of the register at an offset returns; 0 where none stands (R545 to R570). HI and CAL_SUB read
their latches (R547). -/
def State.regRead (s : State) (off : Nat) : Nat :=
  match off with
  | 0x0000 => s.boot.stepping % 256 + 256 * (s.boot.fuseMask % 256) + 0x88000000
  | 0x0008 => lo32 s.aon.serial
  | 0x000C => s.regs.latch 0
  | 0x0104 => s.gstat
  | 0x0400 => lo32 s.host.tblBase
  | 0x0404 => s.regs.latch 1
  | 0x0408 => s.host.tblCount
  | 0x040C => s.tblLoad
  | 0x0410 => lo32 s.host.attnBase
  | 0x0414 => s.regs.latch 2
  | 0x0418 => s.host.attnPoll
  | 0x0C00 => s.regs.safCfg
  | 0x0C04 => s.regs.limit
  | 0x0C08 => s.saf.summary
  | 0x1000 => s.clkStat
  | 0x1004 => s.clk.reqReg
  | 0x1010 => s.regs.thrHi
  | 0x1014 => s.regs.thrLo
  | 0x1018 => 0x0870
  | 0x101C => code 16 s.clk.tNow + 65536 * (s.clk.tSite % 16) + 2 ^ 20 * (s.clk.tDie % 16)
  | 0x1020 => s.regs.pmbCfg
  | 0x1400 => lo32 s.time.now
  | 0x1404 => s.regs.latch 3
  | 0x1408 => s.regs.syncCfg
  | 0x140C => code 32 s.time.syncE
  | 0x1410 => lo32 s.time.syncD
  | 0x1414 => s.regs.latch 4
  | 0x1418 => s.time.syncFar
  | 0x141C => s.time.syncIgn
  | 0x1420 => lo32 s.aon.calSec
  | 0x1424 => s.regs.latch 5
  | 0x1428 => s.regs.subLatch
  | 0x1C00 => s.aon.winAddr
  | 0x1C04 => s.aon.winData
  | o =>
    if 0x0800 ≤ o ∧ o ≤ 0x0814 ∧ o % 4 = 0 then nth 0 s.regs.rank ((o - 0x0800) / 4)
    else if 0x0840 ≤ o ∧ o ≤ 0x0850 ∧ o % 4 = 0 then nth 0 s.regs.hold ((o - 0x0840) / 4)
    else if 0x1100 ≤ o ∧ o < 0x1200 ∧ o % 4 = 0 then s.regs.pmbWord ((o - 0x1100) / 16) (o / 4 % 4)
    else if 0x1800 ≤ o ∧ o ≤ 0x1810 ∧ o % 4 = 0 then nth 0 s.regs.pinf ((o - 0x1800) / 4)
    else 0

/-- The offset of a pair's LO (R547), in the order HUB_SERIAL, RING_TBL_BASE, ATTN_BASE, TIME_NOW, SYNC_D,
CAL_SEC. -/
def pairLo (pair : Nat) : Nat := nth 0 [0x0008, 0x0400, 0x0410, 0x1400, 0x1410, 0x1420] pair

/-- A pair's 64-bit value. -/
def State.pairValue (s : State) (pair : Nat) : Nat :=
  nth 0 [s.aon.serial, s.host.tblBase, s.host.attnBase, s.time.now, s.time.syncD, s.aon.calSec] pair

/-- A register read with its side effects (R547, R570): a LO latches HI, CAL_SEC_LO also CAL_SUB;
LED_WIN_DATA advances INDEX, which stays at the view's end. -/
def State.readReg (s : State) (off : Nat) : State :=
  let s := { s with regs := { s.regs with lastRead := s.regRead off } }
  match (List.range 6).find? (fun p => pairLo p == off) with
  | some p =>
    let s := { s with regs := { s.regs with hiLatch := setAt s.regs.hiLatch p (hi32 (s.pairValue p)) } }
    if p = 5 then { s with regs := { s.regs with subLatch := s.aon.calSub % 0x8000 + 2 ^ 31 * boolNat s.aon.calOk } } else s
  | none =>
    if off = 0x1C04 ∧ s.aon.winAddr % 4096 < viewLen (s.aon.winAddr / 4096 % 4) then
      { s with aon := { s.aon with winAddr := s.aon.winAddr + 1 } }
    else s

/-! ### Writing -/

/-- A BAR0 offset that a register occupies (R545). -/
def occupied (o : Nat) : Bool :=
  o % 4 == 0 &&
  ([0x0000, 0x0008, 0x000C, 0x0100, 0x0104, 0x1000, 0x1004, 0x1C00, 0x1C04].contains o
   || (0x0400 ≤ o && o ≤ 0x0418) || (0x0800 ≤ o && o ≤ 0x0814) || (0x0840 ≤ o && o ≤ 0x0850)
   || (0x0C00 ≤ o && o ≤ 0x0C08) || (0x1010 ≤ o && o ≤ 0x1020) || (0x1100 ≤ o && o < 0x1200)
   || (0x1400 ≤ o && o ≤ 0x1428) || (0x1800 ≤ o && o ≤ 0x1810))

/-- The registers that are RO as a whole (R546, R553 to R570). -/
def regRo (o : Nat) : Bool :=
  [0x0000, 0x0008, 0x000C, 0x0104, 0x0C08, 0x1000, 0x1018, 0x101C, 0x1400, 0x1404, 0x140C, 0x1410, 0x1414, 0x1418,
   0x141C, 0x1420, 0x1424, 0x1428, 0x1C04].contains o
  || (0x1100 ≤ o && o < 0x1200 && o % 16 != 0)

/-- The byte-writable registers (R548). -/
def byteWritable (o : Nat) : Bool := 0x0800 ≤ o && o ≤ 0x0814

/-- The writable bits of the rank registers (R559). -/
def rankMask (k : Nat) : Nat := nth 0 [0xFFFF, 0xFFFFFFFF, 0x0FFFFFFF, 0x00FFFFFF, 0x00FFFFFF, 0xFFFF] k

/-- A word with some of its bytes replaced (R548). -/
def mergeBytes (old v be : Nat) : Nat :=
  leNat ((List.range 4).map (fun i => BitVec.ofNat 8 (if bitAt be i then field v (8 * i) 8 else field old (8 * i) 8)))

/-- A pin filter register's value is in range (R569). -/
def pinfOk (k v : Nat) : Bool :=
  let lo := field v 0 16
  let hi := field v 16 16
  let b := field v 0 8
  match k with
  | 0 => decide (2 ≤ b)
  | 1 => decide (2 ≤ lo ∧ lo ≤ 1000)
  | 2 => decide (5 ≤ b ∧ b ≤ hi ∧ hi ≤ 10000)
  | 3 => decide (1 ≤ lo ∧ lo ≤ 1000)
  | 4 => decide (10 ≤ lo ∧ lo ≤ 10000 ∧ 100 ≤ hi)
  | _ => false

/-- The bits of a pin filter register that are not RSV (R569). -/
def pinfMask (k : Nat) : Nat := nth 0 [0xFFFF00FF, 0x0000FFFF, 0xFFFF00FF, 0x0000FFFF, 0xFFFFFFFF] k

/-- The value of a full write lies within the register's fields' ranges (R18, R546). -/
def State.regOk (s : State) (off v : Nat) : Bool :=
  match off with
  | 0x0408 => decide (v % 0x8000 ≤ 16384)
  | 0x0418 => decide (1 ≤ field v 0 8 ∧ field v 0 8 ≤ field v 8 8 ∧ 1 ≤ field v 16 16)
  | 0x0C00 => decide (1000 ≤ v % 2 ^ 20 ∧ v % 2 ^ 20 ≤ 1000000 ∧ field v 20 2 ≠ 3)
  | 0x0C04 => decide (1 ≤ v % 256)
  | 0x1010 => decide (0x0550 ≤ v % 65536 ∧ v % 65536 ≤ 0x07D0 ∧ s.regs.thrLo + 0x0050 ≤ v % 65536)
  | 0x1014 => decide (0x03C0 ≤ v % 65536 ∧ v % 65536 + 0x0050 ≤ s.regs.thrHi)
  | 0x1408 => decide (1000 ≤ field v 12 20 ∧ field v 12 20 ≤ 1000000)
  | 0x1C00 => decide (field v 0 12 < viewLen (field v 12 2))
  | o =>
    if 0x1100 ≤ o ∧ o < 0x1200 ∧ o % 16 = 0 then decide (0x08 ≤ v % 128 ∧ v % 128 ≤ 0x77)
    else if 0x1800 ≤ o ∧ o ≤ 0x1810 then pinfOk ((o - 0x1800) / 4) v
    else true

/-- LED_WIN_ADDR written (R517, R570). -/
def Aon.winWrite (a : Aon) (v : Nat) : Aon :=
  let w := v % 0x4000
  { a with winAddr := w, latch := if w = 0 then a.summary else a.latch }

/-- A write whose value is in range applied: the register set, its side effect done (R545 to R570). -/
def State.regPut (s : State) (off v : Nat) : State :=
  let stage (k : Nat) : State := { s with regs := { s.regs with staging := setAt s.regs.staging k v } }
  match off with
  | 0x0100 => if bitAt v 0 then { s with host := { s.host with attnFail := 0 } } else s
  | 0x0400 => stage 0
  | 0x0404 => { s with host := { s.host with tblBase := nth 0 s.regs.staging 0 + 2 ^ 32 * v } }
  | 0x0408 => { s with host := { s.host with tblCount := v % 0x8000 } }
  | 0x040C => if bitAt v 0 then s.loadTable else s
  | 0x0410 => stage 1
  | 0x0414 => { s with host := { s.host with attnBase := nth 0 s.regs.staging 1 + 2 ^ 32 * v } }
  | 0x0418 => { s with host := { s.host with attnPoll := v } }
  | 0x0C00 => { s with regs := { s.regs with stalePeriod := v % 2 ^ 20, finAction := field v 20 2 } }
  | 0x0C04 => { s with regs := { s.regs with limit := v % 256 } }
  | 0x1004 => s.powerReq (PState.ofCode (v % 4))
  | 0x1010 => { s with regs := { s.regs with thrHi := v % 65536 } }
  | 0x1014 => { s with regs := { s.regs with thrLo := v % 65536 } }
  | 0x1020 => { s with regs := { s.regs with pmbCfg := v % 4 } }
  | 0x1408 => { s with regs := { s.regs with syncCfg := v % 8 + 4096 * field v 12 20 } }
  | 0x1C00 => { s with aon := s.aon.winWrite v }
  | o =>
    if 0x0800 ≤ o ∧ o ≤ 0x0814 then
      let k := (o - 0x0800) / 4
      { s with regs := { s.regs with rank := setAt s.regs.rank k (v &&& rankMask k) } }
    else if 0x0840 ≤ o ∧ o ≤ 0x0850 then { s with regs := { s.regs with hold := setAt s.regs.hold ((o - 0x0840) / 4) v } }
    else if 0x1100 ≤ o ∧ o < 0x1200 ∧ o % 16 = 0 then
      { s with regs := { s.regs with pmb := modAt (fun (p : PmbTgt) => { p with tgt := v % 256 + p.tgt / 256 * 256 }) s.regs.pmb
                                              ((o - 0x1100) / 16) } }
    else if 0x1800 ≤ o ∧ o ≤ 0x1810 then
      let k := (o - 0x1800) / 4
      { s with regs := { s.regs with pinf := setAt s.regs.pinf k (v &&& pinfMask k) } }
    else s

/-- The blocks whose writes apply at once during a hub core restart (R552). -/
def atOnce (o : Nat) : Bool := (0x0C00 ≤ o && o < 0x1800)

/-- A valid write applied: a byte-writable register takes the enabled bytes alone (R548). -/
def State.regApply (s : State) (off be v : Nat) : State :=
  s.regPut off (if byteWritable off then mergeBytes (s.regRead off) v be else v)

/-- One dword of a BAR0 write judged by the rows of R546 in their order, then applied, or held during a hub
core restart (R552). -/
def State.dwordWrite (s : State) (off be v : Nat) : State :=
  if be = 0 then s
  else if !occupied off then s.regFault off be 4
  else if be ≠ 15 ∧ !byteWritable off then s.regFault off be 1
  else if regRo off then s
  else if !s.regOk off v then s.regFault off be 2
  else if 0x0C00 ≤ off ∧ off ≤ 0x0CFC ∧ s.regs.lock then s.regFault off be 3
  else if s.hubDown ∧ !atOnce off then s.holdWrite off be v
  else s.regApply off be v

/-- The byte enables of a dword lie side by side (R546). -/
def contiguous (be : Nat) : Bool := [0, 1, 2, 3, 4, 6, 7, 8, 12, 14, 15].contains be

/-- A BAR0 write request of one or two dwords; a longer one, or one with gaps in its byte enables, is
discarded (R546). -/
def State.busWrite (s : State) (off dwords be v : Nat) : State :=
  let lo := be % 16
  let hi := if dwords = 1 then 0 else be / 16 % 16
  if !s.linkOk then s
  else if 2 < dwords then s.regFault off lo 6
  else if !contiguous lo then s.regFault off lo 7
  else if !contiguous hi then s.regFault (off + 4) hi 7
  else
    let s := s.dwordWrite off lo (v % 2 ^ 32)
    if dwords = 1 then s else s.dwordWrite (off + 4) hi (v / 2 ^ 32 % 2 ^ 32)

/-- A BAR0 read of one register (R546). -/
def State.busRead (s : State) (off : Nat) : State := if s.linkOk then s.readReg off else s

end Sys2Proof.Machine
end

