-- ==== Sys2Proof/Machine/RegExec.lean ====
section
/-!
DEFINITION. The commands of the BAR0 registers (R372, R546, R547, R554, R559, R560, R570).
-/
namespace Sys2Proof.Machine

open Sys2Proof

/-- CLR_ATTN (R554). -/
def execClrAttn (s : State) : Out := .next (s.busWrite 0x0100 1 15 1)

/-- ARB_RANK_WRITE (R372, R548, R559). -/
def execArbRankWrite (reg : Fin 6) (be : BitVec 4) (v : Word32) (s : State) : Out :=
  .next (s.busWrite (0x0800 + 4 * reg.val) 1 be.toNat v.toNat)

/-- ARB_HOLD_WRITE (R560). -/
def execArbHoldWrite (reg : Fin 5) (be : BitVec 4) (v : Word32) (s : State) : Out :=
  .next (s.busWrite (0x0840 + 4 * reg.val) 1 be.toNat v.toNat)

/-- PAIR_LO_READ (R547). -/
def execPairLoRead (pair : Fin 6) (s : State) : Out := .next (s.busRead (pairLo pair))

/-- PAIR_HI_WRITE (R547). -/
def execPairHiWrite (pair : Fin 6) (be : BitVec 4) (v : Word32) (s : State) : Out :=
  .next (s.busWrite (pairLo pair + 4) 1 be.toNat v.toNat)

/-- LED_WIN_ADDR_WRITE (R517, R570). -/
def execLedWinAddrWrite (be : BitVec 4) (v : Word32) (s : State) : Out :=
  .next (s.busWrite 0x1C00 1 be.toNat v.toNat)

/-- LED_WIN_DATA_READ (R517, R570). -/
def execLedWinDataRead (s : State) : Out := .next (s.busRead 0x1C04)

/-- REGISTER_WRITE (R546): a request of at least one dword, dword-aligned, within BAR0. -/
def execRegisterWrite (off : BitVec 16) (dwords : Nat) (be : BitVec 8) (v : Word64) (s : State) : Out :=
  if off.toNat % 4 ≠ 0 ∨ dwords = 0 ∨ 65536 < off.toNat + 4 * dwords then .fault .malformed
  else .next (s.busWrite off.toNat dwords be.toNat v.toNat)

end Sys2Proof.Machine
end

