-- ==== Sys2Proof/Machine/RestartOps.lean ====
section
/-!
DEFINITION. Restarts of a cluster, a planning die and the hub core (R444, R455, R480, R481, R487 to R491).
-/
namespace Sys2Proof.Machine

open Sys2Proof

/-- A due restart begins: counted, and the operations whose work it holds return to their last counted
checkpoint (R455, R487, R506). -/
def State.restartBegin (s : State) (u : RUnit) : State :=
  let s := { s with saf := { s.saf with due := s.saf.due.filter (· != u), active := s.saf.active ++ [u] } }
  let s := s.count (fun c =>
    match u with
    | .cluster _ => { c with rstCluster := satInc 32 c.rstCluster }
    | .die _ => { c with rstDie := satInc 32 c.rstDie }
    | .hub => { c with rstHub := satInc 32 c.rstHub })
  (s.withOps (rollbackOps (fun d => s.serving.contains d) u s.ops)).recovering u

/-- A restart that is due can begin: at the boundary, with no cycle in progress (R480, R487). -/
def State.canRestart (s : State) (u : RUnit) : Bool := s.saf.due.contains u && s.cyc.cur.isNone && !s.saf.fatal

/-! ### Clusters -/

/-- What a cluster's reset loses besides memory: commands, flags, candidates, verdicts (R203, R488). -/
def State.clearCluster (s : State) (cl : Nat) : State :=
  let mine (core : Nat) : Bool := core / 4 == cl
  { s with eng := { s.eng with
      queues := s.eng.queues.filter (fun q => if q.engine.index < 5 then !mine q.unit else q.unit != cl)
      flags := s.eng.flags.filter (fun f => !mine f.core)
      runs := s.eng.runs.filter (fun x => !mine x.core)
      lanes := s.eng.lanes.filter (fun x => !mine x.core)
      stream := s.eng.stream.filter (fun x => !mine x.core)
      trajs := s.eng.trajs.filter (fun x => !mine (x.1 / 2 ^ 32))
      pathSat := s.eng.pathSat.filter (fun x => !mine x.1) } }

/-- Steps of a cluster restart (R488): the line cache flushed, dual-port region and scratchpads cleared,
shared memory kept. -/
def State.resetCluster (s : State) (cl : Nat) : State :=
  let s := s.withCoh (s.coh.flush cl)
  let s := s.withCoh (s.coh.serveAll s.homeRead)
  let s := (s.clearCluster cl).clearCaches (fun c => c / 4 == cl)
  let m := (List.range 4).foldl (fun (m : Memory) k => m.clear (scratchBase (4 * cl + k)) 0x80000)
    (s.mem.clear (dualBase cl) 0x10000)
  { s with mem := m }

/-! ### Planning dies -/

/-- Every other cache writes back its M lines homed on a die and drops its S lines homed there; the die's
directory is emptied (R489). -/
def State.dropHomed (s : State) (d : Nat) : State :=
  let here (l : Nat) : Bool := homeOf l == some d
  let ms := s.coh.caches.filter (fun x => here x.line && x.st == .m)
  { s with
    mem := ms.foldl (fun (m : Memory) x => m.write (x.line * 64) x.data) s.mem
    coh := { s.coh with
      caches := s.coh.caches.filter (fun x => !here x.line)
      dir := s.coh.dir.filter (fun e => !here e.line)
      acc := s.coh.acc.filter (fun a => !here a.line && a.cluster / 4 != d)
      msgs := s.coh.msgs.filter (fun m => match m with
        | .data cl l _ _ | .inv cl l | .invAck cl l | .recall cl l _ | .wbAck cl l => !here l && cl / 4 != d
        | .respErr r l => !here l && (32 ≤ r || r / 4 != d)) } }

/-- The links of a die retrained: the hub link, and the ring links that are in use (R489). -/
def State.retrainLinks (s : State) (d : Nat) : State :=
  let fresh : Link := { Link.reset with st := .up }
  let ring (l : List Link) (n : Nat) : List Link := if bitAt s.pkg.ringMask n then setAt l (8 + n) fresh else l
  { s with pkg := { s.pkg with links := ring (ring (setAt s.pkg.links d fresh) d) ((d + 7) % 8) } }

/-- Steps of a planning-die warm restart (R489): LPDDR kept, everything else of the die reset; the die
announces itself anew. -/
def State.resetDie (s : State) (d : Nat) : State :=
  let s := (((s.flushDie d).dropHomed d).clearCaches (fun c => c / 16 == d)).wipeDie d
  let s := s.retrainLinks d
  let held := s.growthHeld
  let s := s.mapDu d (fun u => match s.duCfg d with
    | some g => { (if held then u.discardBut g (s.cores d) false else DuState.empty) with serve := .recovering }
    | none => { DuState.empty with serve := .recovering })
  s.mapDie d (fun x => { x with presence := false, fullTrain := false, allTiles := true })

/-! ### The hub core -/

/-- The descriptors that a hub core restart abandons (R444): fetched and not accepted. -/
def State.dropDescs (s : State) : State :=
  let xs := s.host.held ++ s.host.started
  let s := { s with host := { s.host with held := [], started := [] } }
  s.completeAll (xs.map (fun d => (d, Status.faultRestart)))

/-- Steps of a hub core restart (R490, R491): phase epoch, DU cycle state, messages; the held copy dropped
where its REC_CRC fails; streams that no world mirror yields. -/
def State.resetHub (s : State) (held : Bool) (lost : List Nat) : State :=
  let s := s.stopEngines
  let s := { s with
    cyc := { s.cyc with epoch := (s.cyc.epoch + 1) % 2 ^ 32, held := if held then s.cyc.held else none
                        lost := s.cyc.lost ++ lost.filter (fun k => !s.cyc.lost.contains k) }
    msgs := [] }
  ((List.range 8).foldl State.freshDu s).dropDescs

/-- The context of a loaded ring read again from the table that the load took (R444). -/
def State.rereadOk (s : State) (r : Ring) : Bool :=
  match s.hostRead (s.host.tblLatched + 32 * r.num) 32 with
  | some b => crcOk 32 b && getLe b 28 4 == r.ctx.crc
  | none => false

/-- Rings whose context fails the second reading enter ERROR (R441, R444). -/
def State.rereadContexts (s : State) : State :=
  (s.host.rings.filter (fun r => !s.rereadOk r)).foldl (fun (s : State) r => s.ringError r.num .readFail) s

/-- The writes held during the restart applied in their order (R552). -/
def State.applyHeld (s : State) : State :=
  let ws := s.regs.heldWrites
  ws.foldl (fun (s : State) w => s.regApply w.1 w.2.1 w.2.2) { s with regs := { s.regs with heldWrites := [] } }

/-! ### Completion -/

/-- A die has no restart due or in progress. -/
def State.dieSound (s : State) (d : Nat) : Bool := !(s.saf.active ++ s.saf.due).any (fun u => u.dieOf == some d)

/-- A die's tables reloaded from its armature copy, its DU serving once nothing of the die restarts (R345, R351, R487). -/
def State.dieBack (s : State) (d : Nat) : State :=
  let s := s.loadDie d
  if s.dieSound d then s.dieServe d .serving else s

/-- The static lists of a cluster copied from the lowest-numbered other cluster of its die (R118, R488); without an
image, an armature slot or a snapshot there are none. -/
def State.copyStatics (s : State) (cl : Nat) : State :=
  match s.engEnv (cl / 4) with
  | some e =>
    let src := cl / 4 * 4 + (if cl % 4 = 0 then 1 else 0)
    let off := e.enl.ns * e.enl.nb * e.img.world.tt * 32
    { s with mem := s.mem.write (e.occBase cl + off) (s.peek (e.occBase src + off) (e.img.world.tt * 64)) }
  | none => s

/-- A restart ends (R481, R487 to R490): the unit is watched for a repeat. A cluster's static lists, a die's base layers
and object region are copied from a sound neighbour (log entry 126). -/
def State.restartEnd (s : State) (u : RUnit) : State :=
  let s := { s with saf := { s.saf with active := s.saf.active.filter (· != u), watch := s.saf.watch ++ [u] } }
  match u with
  | .cluster c => (s.dieBack (c / 4)).copyStatics c
  | .die d => ((s.restoreStore d).dieBack d).endVerify
  | .hub => s.rereadContexts.applyHeld

end Sys2Proof.Machine
end

