-- ==== Sys2Proof/Machine/RestartExec.lean ====
section
/-!
DEFINITION. The commands of restarts (R487 to R491).
-/
namespace Sys2Proof.Machine

open Sys2Proof

/-- CLUSTER_RESTART (R488). -/
def execClusterRestart (cl : Cluster) (s : State) : Out :=
  if s.canRestart (.cluster cl) then .next ((s.restartBegin (.cluster cl)).resetCluster cl) else .next s

/-- DIE_WARM_RESTART (R489). -/
def execDieWarmRestart (d : Die) (s : State) : Out :=
  if s.canRestart (.die d) then .next ((s.restartBegin (.die d)).resetDie d) else .next s

/-- HUB_CORE_RESTART (R490, R491): `digest` says whether a copy of the firmware verifies; with neither the
start cannot go on (log entry 42). `held` says whether the held copy passes its REC_CRC, `lost` names the
streams that no die's mirror yields. -/
def execHubCoreRestart (held digest : Bool) (lost : List (Fin 16)) (s : State) : Out :=
  if !s.canRestart .hub then .next s
  else
    let s := s.restartBegin .hub
    if !digest then .next (s.fault (bootFault 1))
    else .next (s.resetHub held (lost.map (·.val)))

/-- RESTART_COMPLETE (R487 to R490): a planning die's restart ends only with its presence record (R489). -/
def execRestartComplete (u : RUnit) (s : State) : Out :=
  let ready := match u with
    | .die d => (s.die d).presence
    | .cluster _ | .hub => true
  if s.saf.active.contains u && ready then .next (s.restartEnd u) else .next s

end Sys2Proof.Machine
end

