-- ==== Sys2Proof/Machine/RingExec.lean ====
section
/-!
DEFINITION. The commands of the ring engine: polls, fetch, completions, messages and the table load
(R416 to R442).
-/
namespace Sys2Proof.Machine

open Sys2Proof

/-- ATTENTION_POLL (R420, R421). -/
def execAttentionPoll (host : HostView) (s : State) : Out :=
  let s := s.look host
  if !s.ringEngine then .next s
  else
    match s.pollGroups with
    | [] => .next s
    | g :: gs => .next (s.poll (gs.foldl min g) (gs.foldl max g))

/-- DESCRIPTOR_FETCH (R423, R424, R429): a held descriptor whose condition is over starts; else the ring
whose turn it is gives one descriptor. In D3hot nothing is fetched (R413). -/
def execDescriptorFetch (s : State) : Out :=
  if !s.ringEngine ∨ s.host.d3hot then .next s
  else
    match s.host.held.find? (fun d => !s.holds d) with
    | some d => .next (State.startDesc { s with host := { s.host with held := s.host.held.erase d } } d)
    | none =>
      if 1024 ≤ s.outstanding.length then .next s
      else
        match s.nextRing with
        | some r => .next (s.fetchFrom r)
        | none => .next s

/-- COMPLETION_WRITE (R435, R440): the oldest due completion that can leave. -/
def execCompletionWrite (s : State) : Out :=
  if !s.ringEngine then .next s
  else
    match s.host.due.find? s.canLeave with
    | some c => .next (s.writeCompl c)
    | none => .next s

/-- COALESCING_TIMER (R436). -/
def execCoalescingTimer (ring : Fin 16384) (s : State) : Out :=
  match s.ring ring.val with
  | some r =>
    if s.ringEngine ∧ r.ctx.type ≠ .submission ∧ r.ctx.coalUs ≠ 0 ∧ r.unsignalled ≠ 0 then .next (s.signalRing ring.val)
    else .next s
  | none => .next s

/-- MSIX_VECTOR_UNMASK (R436): the pending message of the vector is sent. -/
def execMsixVectorUnmask (v : Fin 2048) (s : State) : Out :=
  if !s.linkOk then .next s
  else
    let m := s.host.msix
    let s1 := { s with host := { s.host with
      msix := ⟨v.val :: m.unmasked.filter (· != v.val), m.pend.filter (· != v.val)⟩ } }
    if m.pend.contains v.val then .next (s1.message v.val) else .next s1

/-- RING_TBL_LOAD (R416, R557); held during a hub core restart (R552). -/
def execRingTblLoad (host : HostView) (s : State) : Out :=
  let s := s.look host
  if !s.linkOk then .next s
  else if s.hubDown then .next (s.holdWrite 0x040C 15 1)
  else .next s.loadTable

end Sys2Proof.Machine
end

