-- ==== Sys2Proof/Machine/SafetyExec.lean ====
section
/-!
DEFINITION. The commands of the safety manager and of the rank arbiters' hold limits (R373, R374, R397,
R470, R477, R482 to R486, R584).
-/
namespace Sys2Proof.Machine

open Sys2Proof

/-! ### Pins and timers -/

/-- FAULT_IN_ASSERT (R486): one record an assertion, cause EXT, the action of FIN_ACTION. -/
def execFaultInAssert (s : State) : Out :=
  if s.boot.st = .held ∨ s.saf.ext.isSome then .next s
  else
    let a := s.regs.finAction
    let s := { s with saf := { s.saf.set 4 with ext := some a } }
    .next (s.fault ⟨.extFault, if a = 2 then .fatal else .hold, Loc.hub 4, a, 0⟩)

/-- FAULT_IN_DEASSERT (R584). -/
def execFaultInDeassert (s : State) : Out := .next { s with saf := { s.saf with ext := none } }

/-- STALE_TIMER_EXPIRY (R482, R483). -/
def execStaleTimerExpiry (s : State) : Out :=
  if s.saf.stale.isNone then .next s else .next { s with saf := { s.saf.set 1 with stale := none } }

/-- MERGE_WINDOW_END (R477): the oldest window ends; what it counted is one record, with the data words of
the last counted (log entry 49). -/
def execMergeWindowEnd (s : State) : Out :=
  match s.saf.windows with
  | [] => .next s
  | w :: rest =>
    let s := { s with saf := { s.saf with windows := rest } }
    .next (if w.count = 0 then s else s.send w.last w.count)

/-! ### Phase watchdogs -/

/-- A die of the cycle has cores that have not ended the phase (R470). -/
def State.dieLate (s : State) (c : Cycle) (d : Nat) : Bool :=
  c.dies.contains d && (List.range 16).any (fun k => !s.coreDone c (d * 16 + k))

/-- The hub's own part of the phase is unfinished (R470): the Snapshot broadcast, a hub merge, the proof, the
Fix. -/
def State.hubLate (s : State) (c : Cycle) : Bool :=
  c.phase == 1 || c.phase == 7 || c.phase == 8 || (match s.armature with | some a => !c.hubDone a | none => false)

/-- PHASE_WATCHDOG_EXPIRY (R470): of the dies told late, those that have not passed, and the hub where its
part is unfinished. -/
def execPhaseWatchdogExpiry (late : List Die) (hubLate : Bool) (s : State) : Out :=
  match s.cyc.cur with
  | none => .next s
  | some c =>
    let ds := (List.range 8).filter (fun d => late.any (fun x => x.val == d) && s.dieLate c d)
    let ticks := (s.time.sclk - c.phaseSclk) / 6
    let fs := ds.map (fun d => Fault0.mk .phaseOverrun .restartDie (Loc.ofDie d) c.phase ticks)
    let hub := if hubLate && s.hubLate c then [Fault0.mk .phaseOverrun .restartHub (Loc.hub 0) c.phase ticks] else []
    .next (s.faults (fs ++ hub))

/-! ### Hold limits -/

/-- Resource code, instances and requesters of an arbitered class (R370). -/
def arbShape : ArbClass → Nat × Nat × Nat
  | .qe => (1, 32, 4) | .lpddr => (2, 8, 15) | .utx => (3, 32, 6) | .pcie => (4, 1, 6) | .led => (5, 1, 4)

/-- FLT_HOLD_CUT (R373). -/
def holdCut (cls : ArbClass) (inst owner len : Nat) (c : FClass) (loc : Loc) : Fault0 :=
  ⟨.holdCut, c, loc, (arbShape cls).1 + 256 * inst, owner + 256 * (len % 2 ^ 24)⟩

/-- The first active operation of some classes ends FAILED (R374, R455). -/
def State.cutOp (s : State) (p : LongOp → Bool) : State :=
  match s.ops.find? (fun o => o.st.active && p o) with
  | some o => s.withOps (endOp .failed .faultRestart o.desc s.ops)
  | none => s

/-- A QE command cut off: ABORTED, its candidate dropped, NOSOL (R252, R264, R374). How far a SOLVE had come is a free
value (log entry 1). -/
def State.cutQe (s : State) (core : Nat) : State :=
  match s.queueOf core .qe with
  | [] => s
  | c :: rest =>
    let s := (s.dequeue core .qe rest).commandDone c
    let d := QeCmd.ofWord c.word
    let o := SolveOrder.ofBytes (s.peek (dualBase (core / 4) + d.orderOff * 16) 32)
    let kind := if d.op = 1 then (((s.engEnv (core / 16)).bind (fun e => e.tmpl d.tmpl)).map (fun t => t.kind.code)).getD 0 else 0xF
    let v := s.freeVal.toNat
    let piv := if bitAt v 0 then some (v / 2 ^ 8 % 128, v / 2 ^ 16 % 256) else none
    let fl : FFlags := ⟨bitAt v 1, bitAt v 2, bitAt v 3, bitAt v 4, bitAt v 5⟩
    let key := leBytes 8 v
    let r := if d.op = 1 then openResult key o.cand .aborted kind piv fl (v / 2 ^ 24 % 256) (openNst key)
      else openResult key o.cand .aborted kind none {} 0 (openNst key)
    let s := s.spend 1
    if d.op = 1 then s.solveEnd core d c o r
    else ((s.dropCand o.kind).result (core / 4) d.resultOff r.bytes).flag c 0x10

/-- A mover's command cut off: its result says FAULT (R368, R374). -/
def State.cutMover (s : State) (cl mv : Nat) : State :=
  match s.queueOf cl (moverEngine mv) with
  | [] => s
  | c :: rest =>
    let s := (s.setQueue cl (moverEngine mv) rest).commandDone c
    s.result cl (MvCmd.ofWord c.word).resultOff (mvResult 0 0 true)

/-- A hold cut of a QE: nothing where the core does not own it. The QE then decides among those that wait (R373). -/
def State.holdQe (s : State) (cl k len : Nat) : State :=
  if s.qeWinner cl ≠ some k then s
  else (s.fault (holdCut .qe cl k len .info (engineLoc (4 * cl + k) .qe))).cutQe (4 * cl + k)

/-- A cut line transfer of a cluster's cache fails: the engine that asked for it raises FAULT with the cut as its
cause (R374). Which of the cluster's commands it was is a free value (log entry 1); with none in a queue the cut is
raised as it is. -/
def State.fillFails (s : State) (cl : Nat) (f : Fault0) : State :=
  let at_ := (s.eng.queues.filter (fun q => q.unit / 4 == cl && q.engine.index < 4)).flatMap (fun q => q.cmds.take 1)
  let s' := { s.spend 1 with coh := { s.coh with acc := s.coh.acc.filter (fun a => a.cluster != cl) } }
  match at_[s.freeVal.toNat % max 1 at_.length]? with
  | some c => s'.flagFault c (some f)
  | none => s'.fault f

/-- The requests of a die's directory that are under way: line and requester (R378). -/
def State.homeWork (s : State) (d : Nat) : List (Nat × Nat) :=
  (s.coh.dir.filter (fun e => homeOf e.line == some d)).filterMap (fun e => e.txn.map (fun t => (e.line, t.req.req)))

/-- A hold cut of an LPDDR port (R374). The request that a directory service works for is told by a free
value (log entry 1). -/
def State.holdLpddr (s : State) (d k len : Nat) : State :=
  if !(s.die d).running then s
  else if k < 4 then s.fillFails (4 * d + k) (holdCut .lpddr d k len .restartCluster ⟨d, k, 15, 0xD⟩)
  else if k = 4 then
    let v := s.freeVal.toNat
    let s := s.spend 1
    match (s.homeWork d)[v % max 1 (s.homeWork d).length]? with
    | some (line, req) =>
      let s := s.record (holdCut .lpddr d k len .restartCluster ⟨d, 15, 15, 0xD⟩)
      let s := { s with coh := s.coh.failTxn line }
      let s := s.withCoh (CohState.advance s.homeRead ⟨s.coh, []⟩ line)
      if req < 32 then { s with coh := { s.coh with acc := s.coh.acc.filter (fun a => !(a.cluster == req && a.line == line)) } } else s
    | none => s.fault (holdCut .lpddr d k len .restartCluster ⟨v % 32 / 4, v % 4, 15, 0xD⟩)
  else if k ≤ 12 then
    let cl := 4 * d + (k - 5) / 2
    let mv := (k - 5) % 2
    if (s.queueOf cl (moverEngine mv)).isEmpty then s
    else (s.cutMover cl mv).fault (holdCut .lpddr d k len .restartCluster ⟨d, cl % 4, 15, 8 + mv⟩)
  else if k = 13 then (s.fault (holdCut .lpddr d k len .info (Loc.hub 0))).cutOp (fun o => o.cls == .load)
  else (s.fault (holdCut .lpddr d k len .info ⟨d, 15, 15, 0xB⟩)).cutOp (fun o => o.cls == .scrubLp && bitAt o.dies d)

/-- The sender of an UNNUKAR_TX instance: instances 3 d to 3 d + 2 are die d's ends, 24 + d the hub's end of
its hub link (log entry 46). -/
def utxSender (inst : Nat) : Nat := if inst < 24 then inst / 3 else 8

/-- The oldest MSG packet of a sender is lost: the step's outcome is stale (R397). -/
def State.loseMsg (s : State) (sender : Nat) : State :=
  match s.msgs.find? (fun m => (m.src.map (· / 16)).getD 8 == sender && !m.told) with
  | some m => ({ s with msgs := s.msgs.erase m }).outcome m (some 0x12)
  | none => s

/-- The coherence messages under way that a sender's end of a virtual channel carries (R377, R393): VC0 responses, VC1
requests. A die sends those of its homes and of its clusters; the hub forwards any. -/
def State.cohSent (s : State) (x vc : Nat) : List CohMsg :=
  let from_ (n : Option Nat) : Bool := x == 8 || n == some x
  s.coh.msgs.filter (fun m => match m with
    | .data _ l _ _ | .wbAck _ l | .respErr _ l => vc == 0 && from_ (homeOf l)
    | .invAck cl _ => vc == 0 && from_ (some (cl / 4))
    | .inv _ l | .recall _ l _ => vc == 1 && from_ (homeOf l))

/-- A coherence packet is lost: its transaction fails and its requester sees RESP_ERR (R397). Which packet it was is a
free value (log entry 1); where none of the sender's is under way it was a request of one of its clusters. -/
def State.loseCoh (s : State) (x d vc : Nat) (f : FClass → Loc → Fault0) (loc : Loc) : State :=
  let v := s.freeVal.toNat
  let ms := s.cohSent x vc
  let s := s.spend 1
  match ms[v % max 1 ms.length]? with
  | some m =>
    let s := s.record (f .info loc)
    let s := { s with coh := s.coh.loseMsg m }
    s.withCoh (s.coh.serveAll s.homeRead)
  | none => s.fault (f .restartCluster ⟨if x = 8 then d else x, v % 4, 15, 0xC⟩)

/-- A hold cut of an UNNUKAR_TX arbiter, by the virtual channel of the lost packet (R374, R397). -/
def State.holdUtx (s : State) (inst vc len : Nat) : State :=
  let x := utxSender inst
  let d := if inst < 24 then inst / 3 else inst - 24
  let loc : Loc := if x = 8 then ⟨8, 0, 15, 0xC⟩ else ⟨x, 15, 15, 0xC⟩
  let f (c : FClass) (l : Loc) : Fault0 := holdCut .utx inst vc len c l
  if !(s.die d).running then s
  else if vc ≤ 1 then s.loseCoh x d vc f loc
  else if vc = 2 then s.fault (f (if x = 8 then .restartHub else .restartDie) loc)
  else if vc = 3 then (s.fault (f .info loc)).loseMsg x
  else if vc = 4 then
    let s := s.fault (f .info loc)
    if s.phase = 1 then s.abandon .faultRestart else s.cutOp (fun o => o.cls == .load)
  else s.fault (f .info loc)

/-- A hold cut of the PCIe master (R374): fetches are repeated; a cut completion or Fixer write restarts the
hub core. -/
def State.holdPcie (s : State) (k len : Nat) : State :=
  let f (c : FClass) (u : Nat) : Fault0 := holdCut .pcie 0 k len c (Loc.hub u)
  if k = 1 then s.fault (f .restartHub 1)
  else if k = 2 then s.fault (f .restartHub 8)
  else if k = 4 then (s.fault (f .info 1)).cutOp (fun o => o.cls == .load)
  else if k = 5 then (s.fault (f .info 6)).cutOp (fun o => o.cls == .ledger)
  else s.fault (f .info 1)

/-- A hold cut of the ledger's NVM (R374): records and counters are written again at the next grant. -/
def State.holdLed (s : State) (k len : Nat) : State :=
  let s := s.fault (holdCut .led 0 k len .info (Loc.hub 6))
  if k = 3 then s.cutOp (fun o => o.cls == .ledger) else s

/-- HOLD_LIMIT_EXPIRY (R373, R374): only a grant longer than a limit that is not 0. -/
def execHoldLimitExpiry (cls : ArbClass) (inst : Fin 32) (owner : Fin 16) (len : Nat) (s : State) : Out :=
  let n := (arbShape cls)
  let lim := nth 0 s.regs.hold (n.1 - 1)
  if n.2.1 ≤ inst.val ∨ n.2.2 ≤ owner.val then .fault .malformed
  else if s.boot.st = .held ∨ lim = 0 ∨ len ≤ lim then .next s
  else
    match cls with
    | .qe => .next (s.holdQe inst owner len)
    | .lpddr => .next (s.holdLpddr inst owner len)
    | .utx => .next (s.holdUtx inst owner len)
    | .pcie => .next (s.holdPcie owner len)
    | .led => .next (s.holdLed owner len)

end Sys2Proof.Machine
end

