-- ==== Sys2Proof/Machine/SmiExec.lean ====
section
/-!
DEFINITION. The safety management interface: frames, the address space, the safety MCU's commands (R493 to
R497, R563, R571).
-/
namespace Sys2Proof.Machine

open Sys2Proof

/-! ### Frames -/

/-- The response frame that the device holds ready, on MISO (R494). -/
def Smi.frame (m : Smi) : List Byte :=
  let b := leBytes 1 m.rstat ++ leBytes 2 m.addr ++ leBytes 4 m.data
  b ++ leBytes 1 (crc8 b)

/-- The SMI answers: the device is out of power-on reset (R494). -/
def State.smiUp (s : State) : Bool := s.boot.st != .held

/-- A whole frame of 64 clocks: the response of the frame before goes out, this one's is held ready. -/
def Smi.exchange (m : Smi) (rstat addr data : Nat) : Smi :=
  { m with miso := m.frame, rstat := rstat, addr := addr, data := data }

/-- A frame that was executed ends a run of frames in error (R497). -/
def State.smiAnswer (s : State) (rstat addr data : Nat) : State :=
  { s with smi := { s.smi.exchange rstat addr data with run := 0 } }

/-! ### The address space -/

/-- SMI_STATUS (R495). -/
def State.smiStatus (s : State) : Nat :=
  boolNat (s.boot.st == .ready) + 2 * boolNat s.saf.fatal + 4 * boolNat s.saf.faultPin + 8 * boolNat s.saf.safeState
  + 256 * (s.saf.causes % 256) + 65536 * maskOf (s.pkg.dies.map (·.healthy)) + 2 ^ 24 * (s.aon.ctr.commits % 256)

/-- The fault-record ring's word at an address from 0x2000 (R495). -/
def Aon.ringWord (a : Aon) (addr : Nat) : Nat :=
  let w := (addr - 0x2000) / 4
  getLe (a.ringAt (w / 8)) (4 * (w % 8)) 4

/-- The value that a READ of an address returns; none for one the table does not name (R495, R571). -/
def State.smiValue (s : State) (addr : Nat) : Option Nat :=
  match addr with
  | 0x0000 => some (0x8800 + 65536 * (s.boot.stepping % 256))
  | 0x0004 => some s.smiStatus
  | 0x0008 => some (s.smi.crcErrs + 65536 * s.smi.framingErrs)
  | 0x0010 => some 0
  | 0x0014 => some 0
  | 0x0018 => some 0
  | 0x001C => some (lo32 s.aon.ctr.commits)
  | 0x0020 => some s.smi.hiLatch
  | 0x0024 => some (s.aon.ctr.frTotal % 2 ^ 32)
  | 0x0028 => some s.saf.frAcked
  | 0x0C00 => some s.regs.safCfg
  | 0x0C04 => some s.regs.limit
  | 0x0C08 => some s.saf.summary
  | a => if 0x2000 ≤ a ∧ a ≤ 0x3FFC ∧ a % 4 = 0 then some (s.aon.ringWord a) else none

/-- A READ's side effect: COMMIT_SEQ_LO latches the high word (R495, R547). -/
def State.smiLatch (s : State) (addr : Nat) : State :=
  if addr = 0x001C then { s with smi := { s.smi with hiLatch := hi32 s.aon.ctr.commits } } else s

/-- CMD_FORCE_SAFE (R482, R496). -/
def State.forceSafe (s : State) (v : Nat) : Option State :=
  if v = 0x5AFE0001 then some { s with saf := { s.saf.set 5 with force := true } }
  else if v = 0x5AFE0000 then some { s with saf := { s.saf with force := false } }
  else none

/-- CMD_ACK (R484, R496). -/
def State.ackTo (s : State) (v : Nat) : Option State :=
  (s.saf.ack (s.aon.ctr.frTotal % 2 ^ 32) v).map (fun x => { s with saf := x })

/-- CMD_LOCK (R496). -/
def State.lockSafety (s : State) (v : Nat) : Option State :=
  if v = 0x10C00001 then some { s with regs := { s.regs with lock := true } } else none

/-- A WRITE executed, none where it is refused: the commands, and the safety block whatever LOCK says; every
other named register is RO (R496, R563, R571). -/
def State.smiPut (s : State) (addr v : Nat) : Option State :=
  match addr with
  | 0x0010 => s.forceSafe v
  | 0x0014 => s.ackTo v
  | 0x0018 => s.lockSafety v
  | 0x0C00 => if s.regOk 0x0C00 v then some (s.regPut 0x0C00 v) else none
  | 0x0C04 => if s.regOk 0x0C04 v then some (s.regPut 0x0C04 v) else none
  | _ => none

/-- RSTAT BAD_ADDR (R494). -/
def rstatBadAddr : Nat := 0x02
/-- RSTAT REFUSED (R494). -/
def rstatRefused : Nat := 0x04

/-- A WRITE frame (R494 to R496, R571). -/
def State.smiWriteTo (s : State) (addr v : Nat) : State :=
  if !s.smiUp then s
  else if (s.smiValue addr).isNone then s.smiAnswer rstatBadAddr addr 0
  else
    match s.smiPut addr v with
    | some t => t.smiAnswer 0 addr v
    | none => s.smiAnswer rstatRefused addr v

/-! ### The commands -/

/-- SMI_NOP (R494). -/
def execSmiNop (s : State) : Out := if s.smiUp then .next (s.smiAnswer 0 0 0) else .next s

/-- SMI_READ (R495). -/
def execSmiRead (addr : BitVec 16) (s : State) : Out :=
  if !s.smiUp then .next s
  else
    match s.smiValue addr.toNat with
    | none => .next (s.smiAnswer rstatBadAddr addr.toNat 0)
    | some v => .next ((s.smiLatch addr.toNat).smiAnswer 0 addr.toNat v)

/-- SMI_WRITE (R563, R571). -/
def execSmiWrite (addr : BitVec 16) (v : Word32) (s : State) : Out := .next (s.smiWriteTo addr.toNat v.toNat)

/-- CMD_FORCE_SAFE_SET (R496). -/
def execCmdForceSafeSet (s : State) : Out := .next (s.smiWriteTo 0x0010 0x5AFE0001)

/-- CMD_FORCE_SAFE_RELEASE (R496). -/
def execCmdForceSafeRelease (s : State) : Out := .next (s.smiWriteTo 0x0010 0x5AFE0000)

/-- CMD_ACK (R496). -/
def execCmdAck (rseq : Word32) (s : State) : Out := .next (s.smiWriteTo 0x0014 rseq.toNat)

/-- CMD_LOCK (R496). -/
def execCmdLock (s : State) : Out := .next (s.smiWriteTo 0x0018 0x10C00001)

/-- What a discarded frame leaves in the interface (R494, R495): MISO carried the held response only in a
frame of 64 clocks. -/
def Smi.discard (m : Smi) (why : BadFrame) (addr : Nat) : Smi :=
  match why with
  | .crc => { m.exchange 0x01 addr 0 with crcErrs := min 0xFFFF (m.crcErrs + 1) }
  | .cmd => m.exchange 0x03 addr 0
  | .framing => { m with rstat := 0x05, addr := addr, data := 0, framingErrs := min 0xFFFF (m.framingErrs + 1) }

/-- SMI_BAD_FRAME (R494, R497): the sixteenth in a row raises FLT_SMI. `addr` is the address that the
response carries (log entry 50). -/
def execSmiBadFrame (why : BadFrame) (addr : BitVec 16) (s : State) : Out :=
  if !s.smiUp then .next s
  else
    let m := s.smi.discard why addr.toNat
    if m.run + 1 < 16 then .next { s with smi := { m with run := m.run + 1 } }
    else .next (State.fault { s with smi := { m with run := 0 } } ⟨.smi, .info, Loc.hub 4, 16, m.rstat⟩)

end Sys2Proof.Machine
end

