-- ==== Sys2Proof/Machine/StartExec.lean ====
section
/-!
DEFINITION. The commands of power, start-up and fences (R398 to R409, R512, R530, R531, R534).
-/
namespace Sys2Proof.Machine

open Sys2Proof

/-- POWER_ON_RESET (R530). -/
def execPowerOnReset (pwrgdLow : Bool) (s : State) : Out := .next (s.powerOn pwrgdLow)

/-- PWRGD_IN_FALL (R534): power-on reset; no checkpoint is written. -/
def execPwrgdInFall (s : State) : Out := .next (s.powerOn true)

/-- STARTUP (R398, R405, R588, R589): T0. The PCIe link comes up also when the firmware fails. -/
def execStartup (blockA blockB : List Byte) (fwA fwB sris hubBist : Bool) (hubInj : Nat) (s : State) : Out :=
  if s.boot.st ≠ .held then .next s
  else
    let s := { s with
      boot := { s.boot with st := .starting, pwrgd := true, resetHeld := false, sris := sris }
      host := { s.host with linkUp := true }, clk := { s.clk with pll := true } }
    match bootBlock blockA blockB with
    | none => .next (s.fatalStart (bootFault 1))
    | some b =>
      let fw := if fwA then some 0 else if fwB then some 1 else none
      let s := { s with boot := { s.boot with derated := bitAt (getLe b 8 1) 0, ssvid := getLe b 4 2, ssid := getLe b 6 2
                                              fwUsed := fw } }
      if fw.isNone then .next (s.fatalStart (bootFault 1))
      else if !hubBist then .next (s.fatalStart (bootFault 2))
      else if hubInj ≠ 0 then .next (s.fatalStart ⟨.checkerLatent, .fatal, Loc.hub 0, hubInj, 0xFFFFFFFF⟩)
      else .next s

/-- AON_POWER_UP (R503, R512). -/
def execAonPowerUp (s : State) : Out := if s.aon.powered then .next s else .next { s with aon := s.aon.powerUp }

/-- AON_POWER_LOSS (R504, R531): both supplies of the AON domain are gone; the hub is in reset too. -/
def execAonPowerLoss (s : State) : Out :=
  let s := s.powerOn true
  .next { s with aon := { s.aon with powered := false, lost := true, calOk := false } }

/-- PD_PWR_EN (R399): strictly in order; a die whose fuse bit is 0 is fenced instead. A fenced die's slot
stays empty. -/
def execPdPwrEn (d : Die) (s : State) : Out :=
  let x := s.die d.val
  let turn := (List.range d.val).all (fun k => (s.die k).enable || (s.die k).fenced.isSome)
  if !s.diesUp ∨ !turn ∨ x.enable ∨ x.fenced.isSome then .next s
  else if !bitAt s.boot.fuseMask d.val then .next (s.fenceStart d.val .fused)
  else
    let s := if s.boot.tr.isNone then { s with boot := { s.boot with tr := some s.time.now } } else s
    .next (s.mapDie d.val (fun x => { x with enable := true }))

/-- PD_RAIL_CHECK (R399, R345): reset released and BIST begun, or fenced with cause RAIL. -/
def execPdRailCheck (d : Die) (good : Bool) (s : State) : Out :=
  let x := s.die d.val
  if !s.diesUp ∨ !x.enable ∨ x.running then .next s
  else if good then .next ((s.mapDie d.val (fun x => { x with running := true })).dieServe d.val .testing)
  else .next (s.fenceStart d.val .rail)

/-- PRESENCE (R402, R408, R457, R489, R536): the check of a die that starts, restarts or ends a self-test. -/
def execPresence (link : Die) (rec : List Byte) (s : State) : Out :=
  let d := link.val
  let x := s.die d
  let p := Presence.ofBytes rec
  if rec.length ≠ 64 then .fault .malformed
  else if x.fenced.isSome ∨ !x.running ∨ x.presence then .next s
  else
    match s.presenceCause d p with
    | some c => .next (s.presenceFail d p c).settle
    | none =>
      let s := s.mapDie d (fun x => { x with presence := true, serial := some p.serial })
      if x.out = .test then .next (s.dieReady d)
      else if s.diesUp then .next (s.dieServe d .starting)
      else .next s

/-- ANNOUNCE_DEADLINE (R398, R406). -/
def execAnnounceDeadline (d : Die) (s : State) : Out :=
  let x := s.die d.val
  if s.diesUp ∧ x.enable ∧ !x.presence ∧ x.fenced.isNone then .next (s.fenceStart d.val .noAnnounce) else .next s

/-- A training report taken: the last one before R404 counts (R400, R403). -/
def State.trained (s : State) (d : Nat) (rec : List Byte) : State :=
  let x := s.die d
  if s.diesUp ∧ x.presence ∧ x.fenced.isNone then
    (s.mapDie d (fun x => { x with report := some (TrainReport.ofBytes rec) })).settle
  else s

/-- TRAINING_REPORT (R403, R404). -/
def execTrainingReport (d : Die) (rec : List Byte) (s : State) : Out :=
  if rec.length ≠ 64 then .fault .malformed else .next (s.trained d.val rec)

/-- RING_PROBE_RETRY (R400): a success sends a fresh training report. -/
def execRingProbeRetry (d : Die) (report : Option (List Byte)) (s : State) : Out :=
  match report with
  | none => .next s
  | some rec =>
    if rec.length ≠ 64 then .fault .malformed
    else if (s.die d.val).report.isNone then .next s
    else .next (s.trained d.val rec)

/-- TRAINING_DEADLINE (R398, R406). -/
def execTrainingDeadline (d : Die) (s : State) : Out :=
  if s.diesUp ∧ (s.die d.val).owes then .next (s.fenceStart d.val .notReady) else .next s

/-- DIE_FENCE (R407). -/
def execDieFence (d : Die) (cause : FenceCause) (s : State) : Out := .next (s.fenceStart d.val cause)

/-- FENCE_RAIL_CHECK (R407, R472): the rail of a fenced die has not fallen. The record is one of class
INFO, as no reaction is stated (log entry 43). -/
def execFenceRailCheck (d : Die) (fell : Bool) (s : State) : Out :=
  if (s.die d.val).fenced.isNone ∨ fell then .next s
  else .next (s.fault ⟨.supply, .info, Loc.ofDie d.val, 0x10 + d.val, 3⟩)

/-- FENCE (R409): at the first moment no cycle is in progress. -/
def execFence (s : State) : Out :=
  s.serve 0x0070 (fun d s =>
    let k := getLe d.bytes 16 1 % 8
    if s.cyc.cur.isSome then { s with host := { s.host with started := d :: s.host.started } }
    else if (s.die k).fenced.isSome ∨ (s.healthy.filter (· != k)).length < 2 then s.complete d .badDesc 0 0
    else (s.fenceDie k .host).complete d .ok 0 0)

end Sys2Proof.Machine
end

