-- ==== Sys2Proof/Machine/Tick.lean ====
section
/-!
DEFINITION. One TCLK period without a command (R499, R501, R504).
-/
namespace Sys2Proof.Machine

open Sys2Proof

/-- The special TCLK period of a slew: two ticks or none, and one tick absorbed (R501). -/
def TimeBase.slewStep (t : TimeBase) : TimeBase :=
  match t.slew with
  | none => t
  | some w =>
    let left := if 0 < w.left then w.left - 1 else w.left + 1
    { t with now := if 0 < w.left then t.now + 2 else t.now
             slew := if left = 0 then none else some { w with left := left, count := 0 } }

/-- Device time over one TCLK period: one tick, but for every 10,000th period of a slew (R499, R501). -/
def TimeBase.tick (t : TimeBase) : TimeBase :=
  let t := { t with sclk := t.sclk + 6 }
  match t.slew with
  | none => { t with now := t.now + 1 }
  | some w =>
    if 9999 ≤ w.count then t.slewStep
    else { t with now := t.now + 1, slew := some { w with count := w.count + 1 } }

/-- A device-time value moved by a step. -/
def movedBy (delta : Int) (t : Nat) : Nat := ((t : Int) + delta).toNat

/-- A thread's timed-wait deadline moved with a correction (R338, R501). -/
def Thread.moved (delta : Int) (t : Thread) : Thread :=
  match t.wait with
  | .timed dl e => { t with wait := .timed (movedBy delta dl) e }
  | .none | .event _ _ | .grant _ _ | .msg => t

/-- Every armed deadline moved, those of suspended long operations among them (R338). -/
def State.moveDeadlines (s : State) (delta : Int) : State :=
  { s with du := s.du.map (fun (u : DuState) =>
      { u.mapAll (Thread.moved delta) with saved := u.saved.map (fun x => (x.1, x.2.1, x.2.2.moved delta)) }) }

/-- The special period of a SET_TIME's slew moves the armed deadlines with device time (R338). -/
def State.slewMoves (s : State) : State :=
  match s.time.slew with
  | some w => if w.set then s.moveDeadlines (if 0 < w.left then 1 else -1) else s
  | none => s

/-- One TCLK period (log entry 6): device time and SCLK while the clocks run, the calendar while its
domain has power. Device time stands still in a power-on reset and once OFF is reached (R499, R530). -/
def State.tick (s : State) : State :=
  let s := { s with aon := s.aon.calTick }
  if s.boot.st = .held ∨ s.clk.reached = .off then s
  else
    let s := if (s.time.slew.map (fun w => decide (9999 ≤ w.count))) = some true then s.slewMoves else s
    { s with time := s.time.tick }

end Sys2Proof.Machine
end

