-- ==== Sys2Proof/Machine/TimeExec.lean ====
section
/-!
DEFINITION. The commands of device time, calendar and SYNC_IN (R499 to R505, R568, R585).
-/
namespace Sys2Proof.Machine

open Sys2Proof

/-- A step of device time (R501): a forward one moves the armed deadlines, a backward one sets the previous
snapshot world time to 0. What the model dates by device time only to measure a length moves with it (log
entry 48). -/
def State.stepTime (s : State) (delta : Int) : State :=
  let now := (((s.time.now : Int) + delta) % (2 ^ 64 : Nat)).toNat
  let s := { s with
    time := { s.time with now := now }
    host := { s.host with lastFind := movedBy delta s.host.lastFind }
    cyc := { s.cyc with lastRelease := s.cyc.lastRelease.map (movedBy delta) }
    pkg := { s.pkg with links := s.pkg.links.map (fun (l : Link) =>
      { l with recoveries := l.recoveries.map (movedBy delta) }) } }
  if 0 < delta then s.moveDeadlines delta
  else { s with world := { s.world with worldTime := 0 } }

/-- The correction that a SET_TIME asks for (R500): VTIME - AT_DEVTIME. -/
def Desc.timeDelta (d : Desc) : Int := (getLe d.bytes 16 8 : Int) - getLe d.bytes 24 8

/-- AT_DEVTIME is within 1 s of device time and the correction in range (R500). -/
def State.timeOk (s : State) (d : Desc) : Bool :=
  decide (iabs ((getLe d.bytes 24 8 : Int) - s.time.now) ≤ 100000000) && decide (iabs d.timeDelta < (2 ^ 62 : Nat))

/-- The calendar set by a SET_TIME with CAL_VALID (R505). -/
def State.setCalendar (s : State) (d : Desc) : State :=
  if bitAt (getLe d.bytes 40 2) 15 then
    { s with aon := s.aon.calSet (getLe d.bytes 32 8) (getLe d.bytes 40 2 % 0x8000) ((s.time.now : Int) - getLe d.bytes 24 8) }
  else s

/-- SET_TIME (R500, R501, R505): slewed, stepped now or at the end of the cycle, or refused. -/
def execSetTime (s : State) : Out :=
  s.serve 0x0061 (fun d s =>
    let delta := d.timeDelta
    if !s.timeOk d then s.complete d .badDesc 0 0
    else if delta < -5000 ∧ s.img.active.isSome then s.complete d .refused 0 0
    else
      let s := s.setCalendar d
      if delta = 0 then s.complete d .ok 0 0
      else if iabs delta ≤ 5000 then
        State.complete { s with time := { s.time with slew := some ⟨delta, 0, true⟩ } } d .ok 0 0
      else if s.cyc.cur.isSome then { s with time := { s.time with steps := s.time.steps ++ [(delta, d)] } }
      else (s.stepTime delta).complete d .ok 0 0)

/-- TIME_STEP (R501): the oldest step that waits, once no cycle is in progress. -/
def execTimeStep (s : State) : Out :=
  match s.time.steps with
  | [] => .next s
  | (delta, d) :: rest =>
    if s.cyc.cur.isSome then .next s
    else .next ((State.stepTime { s with time := { s.time with steps := rest } } delta).complete d .ok 0 0)

/-- TIME_SLEW_STEP (R501): the special TCLK period of a slew in progress. -/
def execTimeSlewStep (s : State) : Out :=
  if s.time.slew.isNone ∨ s.boot.st = .held ∨ s.clk.reached = .off then .next s
  else
    let s := s.slewMoves
    .next { s with aon := s.aon.calTick, time := TimeBase.slewStep { s.time with sclk := s.time.sclk + 6 } }

/-! ### SYNC_IN -/

/-- SYNC_CFG's fields (R568). -/
def syncEn (cfg : Nat) : Bool := bitAt cfg 0
/-- DISCIPLINE mode. -/
def syncDiscipline (cfg : Nat) : Bool := bitAt cfg 2
/-- PER in µs. -/
def syncPer (cfg : Nat) : Nat := field cfg 12 20

/-- The error e of an edge at device time `d` (R502). -/
def syncError (per d : Nat) : Int :=
  let p : Int := (per * 100 : Nat)
  (d : Int) - p * (((d : Int) + p / 2) / p)

/-- The edge falls within IGNORE of the last accepted one, in SCLK (R569, R583). -/
def State.syncIgnored (s : State) : Bool :=
  let ign := field (nth 0 s.regs.pinf 0) 16 16
  !s.time.freeEdge && match s.time.lastEdge with
    | some t => decide (s.time.sclk < t + 600 * ign)
    | none => false

/-- An edge accepted: D and e latched, and in DISCIPLINE mode a slew of -e, or the edge counted as far
(R502). -/
def TimeBase.edge (t : TimeBase) (cfg d : Nat) : TimeBase :=
  let e := syncError (syncPer cfg) d
  let t := { t with syncD := d, syncE := e, lastEdge := some t.sclk, freeEdge := false }
  if !syncDiscipline cfg then t
  else if iabs e ≤ 5000 then { t with slew := if e = 0 then none else some ⟨-e, 0, false⟩ }
  else { t with syncFar := min 0xFFFFFFFF (t.syncFar + 1) }

/-- SYNC_EDGE (R502, R568, R583): `lag` is the time in ticks from the first sample of the new level to the
sample that completes its filter (R582). -/
def execSyncEdge (lag : Fin 4096) (s : State) : Out :=
  if s.boot.st = .held ∨ !syncEn s.regs.syncCfg ∨ s.time.stuck then .next s
  else if s.syncIgnored then .next { s with time := { s.time with syncIgn := min 0xFFFFFFFF (s.time.syncIgn + 1) } }
  else .next { s with time := s.time.edge s.regs.syncCfg (s.time.now - lag.val) }

/-- SYNC_STUCK (R585): once in each episode. -/
def execSyncStuck (s : State) : Out :=
  if s.boot.st = .held ∨ !syncEn s.regs.syncCfg ∨ s.time.stuck then .next s
  else
    let ms := field (nth 0 s.regs.pinf 1) 0 16
    .next (State.fault { s with time := { s.time with stuck := true } } ⟨.syncStuck, .info, Loc.hub 4, ms * 1000, 0⟩)

/-- SYNC_STUCK_END (R585): the next edge is accepted whatever IGNORE says. -/
def execSyncStuckEnd (s : State) : Out :=
  if s.time.stuck then .next { s with time := { s.time with stuck := false, freeEdge := true } } else .next s

end Sys2Proof.Machine
end

