-- ==== Sys2Proof/Machine/Dispatch.lean ====
section
/-!
DEFINITION. One arm for each command: a direct call of its meaning.
-/
namespace Sys2Proof.Machine

open Sys2Proof

def exec (i : Instr) (s : State) : Host.Outcome State Fault Refusal :=
  match i with
  | .powerOnReset pwrgdLow => Sys2Proof.Machine.execPowerOnReset pwrgdLow s
  | .pwrgdInFall => Sys2Proof.Machine.execPwrgdInFall s
  | .startup blockA blockB fwA fwB sris hubBist hubInj => Sys2Proof.Machine.execStartup blockA blockB fwA fwB sris hubBist hubInj s
  | .aonPowerUp => Sys2Proof.Machine.execAonPowerUp s
  | .pdPwrEn d => Sys2Proof.Machine.execPdPwrEn d s
  | .pdRailCheck d good => Sys2Proof.Machine.execPdRailCheck d good s
  | .ringProbeRetry d report => Sys2Proof.Machine.execRingProbeRetry d report s
  | .presence link rec => Sys2Proof.Machine.execPresence link rec s
  | .announceDeadline d => Sys2Proof.Machine.execAnnounceDeadline d s
  | .trainingReport d rec => Sys2Proof.Machine.execTrainingReport d rec s
  | .trainingDeadline d => Sys2Proof.Machine.execTrainingDeadline d s
  | .dieFence d cause => Sys2Proof.Machine.execDieFence d cause s
  | .fenceRailCheck d fell => Sys2Proof.Machine.execFenceRailCheck d fell s
  | .functionLevelReset => Sys2Proof.Machine.execFunctionLevelReset s
  | .hotReset => Sys2Proof.Machine.execHotReset s
  | .linkDownReset => Sys2Proof.Machine.execLinkDownReset s
  | .pciePerst => Sys2Proof.Machine.execPciePerst s
  | .d3hotEntry => Sys2Proof.Machine.execD3hotEntry s
  | .msixVectorUnmask v => Sys2Proof.Machine.execMsixVectorUnmask v s
  | .attentionPoll host => Sys2Proof.Machine.execAttentionPoll host s
  | .descriptorFetch => Sys2Proof.Machine.execDescriptorFetch s
  | .completionWrite => Sys2Proof.Machine.execCompletionWrite s
  | .coalescingTimer ring => Sys2Proof.Machine.execCoalescingTimer ring s
  | .nop => Sys2Proof.Machine.execNop s
  | .loadImage => Sys2Proof.Machine.execLoadImage s
  | .imageActivation => Sys2Proof.Machine.execImageActivation s
  | .unloadImage => Sys2Proof.Machine.execUnloadImage s
  | .patchParams => Sys2Proof.Machine.execPatchParams s
  | .worldLayerPatch => Sys2Proof.Machine.execWorldLayerPatch s
  | .worldObjects => Sys2Proof.Machine.execWorldObjects s
  | .worldStatic => Sys2Proof.Machine.execWorldStatic s
  | .egoState => Sys2Proof.Machine.execEgoState s
  | .planCycle => Sys2Proof.Machine.execPlanCycle s
  | .retouchPlan => Sys2Proof.Machine.execRetouchPlan s
  | .suspend => Sys2Proof.Machine.execSuspend s
  | .resume => Sys2Proof.Machine.execResume s
  | .cancel => Sys2Proof.Machine.execCancel s
  | .queryOp => Sys2Proof.Machine.execQueryOp s
  | .maintStart => Sys2Proof.Machine.execMaintStart s
  | .roadmapGrow => Sys2Proof.Machine.execRoadmapGrow s
  | .ledgerRead => Sys2Proof.Machine.execLedgerRead s
  | .setTime => Sys2Proof.Machine.execSetTime s
  | .timeStep => Sys2Proof.Machine.execTimeStep s
  | .timeSlewStep => Sys2Proof.Machine.execTimeSlewStep s
  | .fence => Sys2Proof.Machine.execFence s
  | .longopCheckpoint tag ev => Sys2Proof.Machine.execLongopCheckpoint tag ev s
  | .longopDequeue => Sys2Proof.Machine.execLongopDequeue s
  | .selftestDie d => Sys2Proof.Machine.execSelftestDie d s
  | .retrainDie d => Sys2Proof.Machine.execRetrainDie d s
  | .cycleRelease => Sys2Proof.Machine.execCycleRelease s
  | .phaseBoundary lockstep => Sys2Proof.Machine.execPhaseBoundary lockstep s
  | .muMerge entry pass hw => Sys2Proof.Machine.execMuMerge entry pass hw s
  | .issue c t => Sys2Proof.Machine.execIssue c t s
  | .get c t => Sys2Proof.Machine.execGet c t s
  | .waitEvent c t => Sys2Proof.Machine.execWaitEvent c t s
  | .signal c t => Sys2Proof.Machine.execSignal c t s
  | .timedWait c t => Sys2Proof.Machine.execTimedWait c t s
  | .msg c t => Sys2Proof.Machine.execMsg c t s
  | .halt c t => Sys2Proof.Machine.execHalt c t s
  | .timedWaitExpiry c t => Sys2Proof.Machine.execTimedWaitExpiry c t s
  | .duGrant d => Sys2Proof.Machine.execDuGrant d s
  | .messageDelivery dst => Sys2Proof.Machine.execMessageDelivery dst s
  | .phaseEpochAdvance d => Sys2Proof.Machine.execPhaseEpochAdvance d s
  | .boundSourceFire d => Sys2Proof.Machine.execBoundSourceFire d s
  | .quiescenceExpiry d => Sys2Proof.Machine.execQuiescenceExpiry d s
  | .engineFlag c => Sys2Proof.Machine.execEngineFlag c s
  | .buildCspace cl w hw => Sys2Proof.Machine.execBuildCspace cl w hw s
  | .buildOcc cl w hw => Sys2Proof.Machine.execBuildOcc cl w hw s
  | .buildStatic cl w hw => Sys2Proof.Machine.execBuildStatic cl w hw s
  | .expandLib c w hw => Sys2Proof.Machine.execExpandLib c w hw s
  | .expandSeq c w hw => Sys2Proof.Machine.execExpandSeq c w hw s
  | .buildPath c w hw => Sys2Proof.Machine.execBuildPath c w hw s
  | .rmSearch c w hw => Sys2Proof.Machine.execRmSearch c w hw s
  | .checkStream c w hw => Sys2Proof.Machine.execCheckStream c w hw s
  | .checkTraj c w hw => Sys2Proof.Machine.execCheckTraj c w hw s
  | .checkPoses c w hw => Sys2Proof.Machine.execCheckPoses c w hw s
  | .costStream c w hw => Sys2Proof.Machine.execCostStream c w hw s
  | .costTraj c w hw => Sys2Proof.Machine.execCostTraj c w hw s
  | .costFinal c w hw => Sys2Proof.Machine.execCostFinal c w hw s
  | .select c w hw => Sys2Proof.Machine.execSelect c w hw s
  | .merge c w hw => Sys2Proof.Machine.execMerge c w hw s
  | .solve c w hw late => Sys2Proof.Machine.execSolve c w hw late s
  | .emit c w hw => Sys2Proof.Machine.execEmit c w hw s
  | .key c w hw => Sys2Proof.Machine.execKey c w hw s
  | .copy cl mv w hw => Sys2Proof.Machine.execCopy cl mv w hw s
  | .fill cl mv w hw => Sys2Proof.Machine.execFill cl mv w hw s
  | .add32 cl mv w hw => Sys2Proof.Machine.execAdd32 cl mv w hw s
  | .add64 cl mv w hw => Sys2Proof.Machine.execAdd64 cl mv w hw s
  | .swap32 cl mv w hw => Sys2Proof.Machine.execSwap32 cl mv w hw s
  | .swap64 cl mv w hw => Sys2Proof.Machine.execSwap64 cl mv w hw s
  | .gets cl line => Sys2Proof.Machine.execGets cl line s
  | .getm cl line off bytes => Sys2Proof.Machine.execGetm cl line off bytes s
  | .putm cl line => Sys2Proof.Machine.execPutm cl line s
  | .data cl line => Sys2Proof.Machine.execData cl line s
  | .inv cl line => Sys2Proof.Machine.execInv cl line s
  | .invAck cl line => Sys2Proof.Machine.execInvAck cl line s
  | .recall cl line => Sys2Proof.Machine.execRecall cl line s
  | .wbAck cl line => Sys2Proof.Machine.execWbAck cl line s
  | .ucRead req line => Sys2Proof.Machine.execUcRead req line s
  | .ucWrite req line off bytes => Sys2Proof.Machine.execUcWrite req line off bytes s
  | .respErr req line => Sys2Proof.Machine.execRespErr req line s
  | .list src epoch pkt => Sys2Proof.Machine.execList src epoch pkt s
  | .bulk src da bytes => Sys2Proof.Machine.execBulk src da bytes s
  | .faultRec src rec => Sys2Proof.Machine.execFaultRec src rec s
  | .flitReceived link end_ sent err => Sys2Proof.Machine.execFlitReceived link end_ sent err s
  | .replayTimeout link end_ => Sys2Proof.Machine.execReplayTimeout link end_ s
  | .holdLimitExpiry cls inst owner len => Sys2Proof.Machine.execHoldLimitExpiry cls inst owner len s
  | .phaseWatchdogExpiry late hubLate => Sys2Proof.Machine.execPhaseWatchdogExpiry late hubLate s
  | .clusterRestart cl => Sys2Proof.Machine.execClusterRestart cl s
  | .dieWarmRestart d => Sys2Proof.Machine.execDieWarmRestart d s
  | .hubCoreRestart held digest lost => Sys2Proof.Machine.execHubCoreRestart held digest lost s
  | .staleTimerExpiry => Sys2Proof.Machine.execStaleTimerExpiry s
  | .mergeWindowEnd => Sys2Proof.Machine.execMergeWindowEnd s
  | .clockFault clk loc => Sys2Proof.Machine.execClockFault clk loc s
  | .supplyExcursion rail belowFloor full => Sys2Proof.Machine.execSupplyExcursion rail belowFloor full s
  | .thermalEvaluation sites => Sys2Proof.Machine.execThermalEvaluation sites s
  | .eclkStepChange => Sys2Proof.Machine.execEclkStepChange s
  | .faultInAssert => Sys2Proof.Machine.execFaultInAssert s
  | .faultInDeassert => Sys2Proof.Machine.execFaultInDeassert s
  | .syncEdge lag => Sys2Proof.Machine.execSyncEdge lag s
  | .syncStuck => Sys2Proof.Machine.execSyncStuck s
  | .pmbusPollRound reads => Sys2Proof.Machine.execPmbusPollRound reads s
  | .patinaSample readings => Sys2Proof.Machine.execPatinaSample readings s
  | .checkpointTimer badSlots => Sys2Proof.Machine.execCheckpointTimer badSlots s
  | .identityRefresh => Sys2Proof.Machine.execIdentityRefresh s
  | .pwrReqActive => Sys2Proof.Machine.execPwrReqActive s
  | .pwrReqIdle => Sys2Proof.Machine.execPwrReqIdle s
  | .pwrReqStandby => Sys2Proof.Machine.execPwrReqStandby s
  | .pwrReqOff => Sys2Proof.Machine.execPwrReqOff s
  | .pwrStateReached => Sys2Proof.Machine.execPwrStateReached s
  | .ringTblLoad host => Sys2Proof.Machine.execRingTblLoad host s
  | .clrAttn => Sys2Proof.Machine.execClrAttn s
  | .arbRankWrite reg be v => Sys2Proof.Machine.execArbRankWrite reg be v s
  | .arbHoldWrite reg be v => Sys2Proof.Machine.execArbHoldWrite reg be v s
  | .pairLoRead pair => Sys2Proof.Machine.execPairLoRead pair s
  | .pairHiWrite pair be v => Sys2Proof.Machine.execPairHiWrite pair be v s
  | .ledWinAddrWrite be v => Sys2Proof.Machine.execLedWinAddrWrite be v s
  | .ledWinDataRead => Sys2Proof.Machine.execLedWinDataRead s
  | .registerWrite off dwords be v => Sys2Proof.Machine.execRegisterWrite off dwords be v s
  | .smiNop => Sys2Proof.Machine.execSmiNop s
  | .smiRead addr => Sys2Proof.Machine.execSmiRead addr s
  | .smiWrite addr v => Sys2Proof.Machine.execSmiWrite addr v s
  | .cmdForceSafeSet => Sys2Proof.Machine.execCmdForceSafeSet s
  | .cmdForceSafeRelease => Sys2Proof.Machine.execCmdForceSafeRelease s
  | .cmdAck rseq => Sys2Proof.Machine.execCmdAck rseq s
  | .cmdLock => Sys2Proof.Machine.execCmdLock s
  | .restartComplete u => Sys2Proof.Machine.execRestartComplete u s
  | .retrainComplete d ok => Sys2Proof.Machine.execRetrainComplete d ok s
  | .linkRecoveryDone link ok => Sys2Proof.Machine.execLinkRecoveryDone link ok s
  | .aonPowerLoss => Sys2Proof.Machine.execAonPowerLoss s
  | .thermAlertChange level => Sys2Proof.Machine.execThermAlertChange level s
  | .syncStuckEnd => Sys2Proof.Machine.execSyncStuckEnd s
  | .pciePerstRelease => Sys2Proof.Machine.execPciePerstRelease s
  | .d0Return => Sys2Proof.Machine.execD0Return s
  | .smiBadFrame why addr => Sys2Proof.Machine.execSmiBadFrame why addr s

end Sys2Proof.Machine
end

