-- ==== Sys2Proof/Safety.lean ====
section
/-!
DEFINITION. What a sound state of the block is, in the terms claims use: memories in canonical form,
registers within their ranges; what no command but a power-on reset may change.
-/
namespace Sys2Proof

open Sys2Proof.Machine

/-- Device and host memory hold their canonical form. -/
def Memories (s : State) : Prop := s.mem.wf = true ∧ s.host.mem.wf = true

/-- Every register with a stated range holds a value within it, and every write that is held for the end of a
hub core restart is one that its register takes (R18, R546, R552, R556 to R569). -/
structure Registers (s : State) : Prop where
  /-- SAF_CFG and ARMATURE_LIMIT (R561) -/
  safety : 1000 ≤ s.regs.stalePeriod ∧ s.regs.stalePeriod ≤ 1000000 ∧ s.regs.finAction ≤ 2
    ∧ 1 ≤ s.regs.limit ∧ s.regs.limit ≤ 255
  /-- THROT_HI and THROT_LO (R566) -/
  thermal : 0x0550 ≤ s.regs.thrHi ∧ s.regs.thrHi ≤ 0x07D0 ∧ 0x03C0 ≤ s.regs.thrLo
    ∧ s.regs.thrLo + 0x0050 ≤ s.regs.thrHi
  /-- SYNC_CFG's PER (R568) -/
  sync : 1000 ≤ field s.regs.syncCfg 12 20 ∧ field s.regs.syncCfg 12 20 ≤ 1000000
  /-- ATTN_POLL (R558) -/
  poll : 1 ≤ field s.host.attnPoll 0 8 ∧ field s.host.attnPoll 0 8 ≤ field s.host.attnPoll 8 8
    ∧ 1 ≤ field s.host.attnPoll 16 16
  /-- RING_TBL_CNT (R556) -/
  table : s.host.tblCount ≤ 16384
  /-- the pin filters (R569) -/
  pins : s.regs.pinf.length = 5 ∧ ∀ k, k < 5 → pinfOk k (nth 0 s.regs.pinf k) = true
  /-- the held writes (R552) -/
  held : ∀ w ∈ s.regs.heldWrites, s.regOk w.1 w.2.2 = true ∧ atOnce w.1 = false

/-- The tables of the block have the number of entries that the block has units, streams, groups and registers
(R78, R389, R419, R423, R547, R559, R560, R567). -/
structure Sized (s : State) : Prop where
  dies : s.pkg.dies.length = 8
  links : s.pkg.links.length = 16
  units : s.du.length = 8
  streams : s.world.streams.length = 16
  seen : s.host.attnSeen.length = 512
  turn : s.host.turn.length = 4
  rank : s.regs.rank.length = 6
  hold : s.regs.hold.length = 5
  pmb : s.regs.pmb.length = 16
  latches : s.regs.hiLatch.length = 6
  staging : s.regs.staging.length = 2

/-- A fenced die is out: neither healthy nor in service, its rail off, its reset held (R407, R408). -/
def FencedOut (s : State) : Prop :=
  ∀ x ∈ s.pkg.dies, x.fenced.isSome = true →
    x.healthy = false ∧ x.inService = false ∧ x.enable = false ∧ x.running = false

/-- What no command but a power-on reset or the loss of the AON domain's supplies may undo: the fuses and the
key slots stay, LOCK stays set (R298, R496, R553, R563). -/
structure Sealed (s t : State) : Prop where
  stepping : t.boot.stepping = s.boot.stepping
  fuses : t.boot.fuseMask = s.boot.fuseMask
  signing : t.boot.sigSlots = s.boot.sigSlots
  decryption : t.boot.encSlots = s.boot.encSlots
  lock : s.regs.lock = true → t.regs.lock = true

/-- The commands that put the block into a power-on reset (R530, R531, R534). -/
def Instr.powersOn (i : Instr) : Bool :=
  match i with
  | .powerOnReset _ | .pwrgdInFall | .aonPowerLoss => true
  | _ => false

/-! ### What the statements say of a command's effect -/

/-- Device memory holds the bytes `bs` from address `a` on. -/
def Holds (s : State) (a : Nat) (bs : List Byte) : Prop := s.peek a bs.length = bs

/-- Outside the ranges (address, length) device memory reads as before. -/
def Untouched (s t : State) (rs : List (Nat × Nat)) : Prop :=
  ∀ a, (∀ r ∈ rs, a < r.1 ∨ r.1 + r.2 ≤ a) → t.mem.get a = s.mem.get a

/-- Dispatch units differ in one thread at most, which is then `x`. -/
structure OnlyThread (s t : State) (c n : Nat) (x : Thread) : Prop where
  here : t.thr c n = some x
  others : ∀ k m, (k, m) ≠ (c, n) → t.thr k m = s.thr k m
  rest : { t.duOf (c / 16) with threads := (s.duOf (c / 16)).threads } = s.duOf (c / 16)
  dies : ∀ d, d ≠ c / 16 → t.duOf d = s.duOf d

/-- The command at the head of an engine's queue has been taken: the others wait as before, and its slot of the
issuing step runs no longer (R314). -/
structure Taken (s t : State) (unit : Nat) (e : Engine) (q : QCmd) (rest : List QCmd) : Prop where
  own : t.queueOf unit e = rest
  others : ∀ n f, (n, f) ≠ (unit, e) → t.queueOf n f = s.queueOf n f
  slot : t.du = (s.commandDone q).du

/-- The flag of an engine command, on its way to the sequencer that issued it (R316). -/
def Machine.QCmd.flagOf (q : QCmd) (code lane cand : Nat) : EngFlag :=
  ⟨q.core, q.thread, q.step, q.slot, code, lane, cand, none, []⟩

/-- What an image places in a die lies within the memory it goes to: regions in LPDDR, step tables and pools in their
core's scratchpad (R308, R309). -/
def Machine.Image.tablesFit (i : Image) : Bool :=
  i.arms.all (fun a => a.slots.all (fun d =>
    d.regions.all (fun r => decide (r.off + r.size ≤ 0x200000000)) && decide (d.cores.length ≤ 16)
    && d.cores.all (fun c => decide (c.stepsOff + 16 * c.steps.length ≤ 0x80000 ∧ c.poolOff + 16 * c.pool.length ≤ 0x80000))))

/-- The operation is the only one of its descriptor. -/
def OnlyOp (s : State) (o : LongOp) : Prop := s.ops.filter (fun y => y.desc == o.desc) = [o]

/-- The operation's descriptor has one operation, `y`, of its class. -/
def BecomesOp (t : State) (o y : LongOp) : Prop := OnlyOp t y ∧ y.desc = o.desc ∧ y.cls = o.cls

/-- Only operations, completions, dispatch units, the image's state and the ledger's reading differ. -/
def OpsFrame (s t : State) : Prop := { t with ops := s.ops, host := s.host, du := s.du, img := s.img, aon := s.aon } = s

/-- The other operations keep their states. -/
def OthersStay (s t : State) (o : LongOp) : Prop :=
  ∀ y ∈ t.ops, y.desc ≠ o.desc → ∃ z ∈ s.ops, z.desc = y.desc ∧ z.cls = y.cls ∧ z.st = y.st

end Sys2Proof
end

