-- ==== Sys2Proof/WellFormed.lean ====
section
/-!
DEFINITION. Which commands are well formed: operands that the block's surroundings can bring. The types of
`Instr` hold most of it; what is left are the lengths of records, the operation codes of engine words, the
units that exist, the shape of a register access.
-/
namespace Sys2Proof

open Sys2Proof.Machine

/-- A mover's word of an operation that an image can hold (R315, R365). -/
def moverWord (w : BitVec 128) (op : Nat) : Bool :=
  (MvCmd.ofWord w.toNat).op == op && (MvCmd.ofWord w.toNat).ok

/-- A command whose operands its row can carry. -/
def Instr.wf (i : Instr) : Bool :=
  match i with
  | .ringProbeRetry _ (some rec) => rec.length == 64
  | .presence _ rec => rec.length == 64
  | .trainingReport _ rec => rec.length == 64
  | .buildCspace _ w _ => (DeCmd.ofWord w.toNat).op == 1
  | .buildOcc _ w _ => (DeCmd.ofWord w.toNat).op == 2
  | .buildStatic _ w _ => (DeCmd.ofWord w.toNat).op == 3
  | .expandLib _ w _ => (PeCmd.ofWord w.toNat).op == 1
  | .expandSeq _ w _ => (PeCmd.ofWord w.toNat).op == 2
  | .buildPath _ w _ => (PeCmd.ofWord w.toNat).op == 3
  | .rmSearch _ w _ => (PeCmd.ofWord w.toNat).op == 4
  | .checkStream _ w _ => (ceOfWord w.toNat).op == 1
  | .checkTraj _ w _ => (ceOfWord w.toNat).op == 2
  | .checkPoses _ w _ => (ceOfWord w.toNat).op == 3
  | .costStream _ w _ => (KeCmd.ofWord w.toNat).op == 1
  | .costTraj _ w _ => (KeCmd.ofWord w.toNat).op == 2
  | .costFinal _ w _ => (KeCmd.ofWord w.toNat).op == 3
  | .select _ w _ => (SeCmd.ofWord w.toNat).op == 1
  | .merge _ w _ => (SeCmd.ofWord w.toNat).op == 2
  | .solve _ w _ _ => (QeCmd.ofWord w.toNat).op == 1
  | .emit _ w _ => (QeCmd.ofWord w.toNat).op == 2
  | .key _ w _ => (QeCmd.ofWord w.toNat).op == 3
  | .copy _ _ w _ => moverWord w 1
  | .fill _ _ w _ => moverWord w 2
  | .add32 _ _ w _ => moverWord w 3
  | .add64 _ _ w _ => moverWord w 4
  | .swap32 _ _ w _ => moverWord w 5
  | .swap64 _ _ w _ => moverWord w 6
  | .getm _ _ off bytes => decide (off + bytes.length ≤ 64)
  | .ucWrite _ _ off bytes => decide (off + bytes.length ≤ 64)
  | .list _ _ (.merge _ _ bytes) => bytes.length == 1280
  | .bulk _ _ bytes => decide (1 ≤ bytes.length ∧ bytes.length ≤ 256)
  | .faultRec _ rec => rec.length == 32
  | .holdLimitExpiry cls inst owner _ => decide (inst.val < (arbShape cls).2.1 ∧ owner.val < (arbShape cls).2.2)
  | .clockFault clk loc => (clockClass clk.val loc.val).isSome
  | .supplyExcursion rail _ _ => railOk rail.val
  | .thermalEvaluation sites => sites.all siteOk
  | .pmbusPollRound reads => reads.length == 16
  | .patinaSample readings => noDup (readings.map (fun x => x.1.val))
  | .registerWrite off dwords _ _ =>
    off.toNat % 4 == 0 && dwords != 0 && decide (off.toNat + 4 * dwords ≤ 65536)
  | .ringProbeRetry _ none | .list _ _ (.dual _ _ _) => true
  | .powerOnReset _ | .pwrgdInFall | .startup _ _ _ _ _ _ _ | .aonPowerUp | .pdPwrEn _ | .pdRailCheck _ _
  | .announceDeadline _ | .trainingDeadline _ | .dieFence _ _ | .fenceRailCheck _ _ | .functionLevelReset | .hotReset
  | .linkDownReset | .pciePerst | .d3hotEntry | .msixVectorUnmask _ | .attentionPoll _ | .descriptorFetch
  | .completionWrite | .coalescingTimer _ | .nop | .loadImage | .imageActivation | .unloadImage | .patchParams
  | .worldLayerPatch | .worldObjects | .worldStatic | .egoState | .planCycle | .retouchPlan | .suspend | .resume
  | .cancel | .queryOp | .maintStart | .roadmapGrow | .ledgerRead | .setTime | .timeStep | .timeSlewStep | .fence
  | .longopCheckpoint _ _ | .longopDequeue | .selftestDie _ | .retrainDie _ | .cycleRelease | .phaseBoundary _
  | .muMerge _ _ _ | .issue _ _ | .get _ _ | .waitEvent _ _ | .signal _ _ | .timedWait _ _ | .msg _ _ | .halt _ _
  | .timedWaitExpiry _ _ | .duGrant _ | .messageDelivery _ | .phaseEpochAdvance _ | .boundSourceFire _
  | .quiescenceExpiry _ | .engineFlag _ | .gets _ _ | .putm _ _ | .data _ _ | .inv _ _ | .invAck _ _ | .recall _ _
  | .wbAck _ _ | .ucRead _ _ | .respErr _ _ | .flitReceived _ _ _ _ | .replayTimeout _ _ | .phaseWatchdogExpiry _ _
  | .clusterRestart _ | .dieWarmRestart _ | .hubCoreRestart _ _ _ | .staleTimerExpiry | .mergeWindowEnd
  | .eclkStepChange | .faultInAssert | .faultInDeassert | .syncEdge _ | .syncStuck | .checkpointTimer _
  | .identityRefresh | .pwrReqActive | .pwrReqIdle | .pwrReqStandby | .pwrReqOff | .pwrStateReached | .ringTblLoad _
  | .clrAttn | .arbRankWrite _ _ _ | .arbHoldWrite _ _ _ | .pairLoRead _ | .pairHiWrite _ _ _ | .ledWinAddrWrite _ _
  | .ledWinDataRead | .smiNop | .smiRead _ | .smiWrite _ _ | .cmdForceSafeSet | .cmdForceSafeRelease | .cmdAck _
  | .cmdLock | .restartComplete _ | .retrainComplete _ _ | .linkRecoveryDone _ _ | .aonPowerLoss
  | .thermAlertChange _ | .syncStuckEnd | .pciePerstRelease | .d0Return | .smiBadFrame _ _ => true

end Sys2Proof
end

