-- ==== Sys2Proof/Certificates/Slice0/Obligations.lean ====
section
/-!
DEFINITION. The statements for the provers, from the numbered rules of the specification.
-/
open Sys2Proof Sys2Proof.Machine

/-! ### The block as a whole -/

/-- A step takes the command at the front of the queue and runs it with the queue's rest. -/
def Obligations.StepRunsFrontCommand : Prop :=
  ∀ (c : Instr) (rest : List Instr) (s : State),
    step { s with pending := c :: rest } = exec c { s with pending := rest }

/-- On an empty queue one TCLK period passes (the model's choice, log entry 6): outside a power-on reset and OFF,
SCLK advances by 6 and device time, without a slew, by 1 (R499); the calendar advances by 32,768 hundred-millionths
of its unit while its domain has power (R504). Nothing else changes, but for the deadlines that the special period of
a SET_TIME's slew moves (R338). -/
def Obligations.IdleStepIsOneTick : Prop :=
  ∀ s : State, s.pending = [] → ∃ t, step s = .next t
    ∧ { t with time := s.time, aon := s.aon, du := s.du } = s
    ∧ ((∀ w, s.time.slew = some w → w.set = false ∨ w.count < 9999) → t.du = s.du)
    ∧ (if s.boot.st = .held ∨ s.clk.reached = .off then t.time = s.time
       else t.time.sclk = s.time.sclk + 6 ∧ (s.time.slew = none → t.time = { s.time with sclk := s.time.sclk + 6, now := s.time.now + 1 }))
    ∧ { t.aon with calSec := s.aon.calSec, calSub := s.aon.calSub, calAcc := s.aon.calAcc } = s.aon
    ∧ (s.aon.powered = false → t.aon = s.aon)
    ∧ (s.aon.powered = true → s.aon.calSub < 32768 → s.aon.calSec < 2 ^ 64 - 1 → s.aon.calAcc < 100000000 →
        (t.aon.calSec * 32768 + t.aon.calSub) * 100000000 + t.aon.calAcc
          = (s.aon.calSec * 32768 + s.aon.calSub) * 100000000 + s.aon.calAcc + 32768)

/-- What reset leaves, where the specification says it: the device in a power-on reset, causes POWER_ON and NO_IMAGE,
the first SMI response NO_PREV, no ring table, no cycle, no operation, and the Reset column of the BAR0 registers. -/
def Obligations.ResetLeaves : Prop :=
  State.reset.boot.st = .held ∧ State.reset.saf.causes = 0x41 ∧ State.reset.saf.faultPin = false
  ∧ State.reset.smi.rstat = 0x06 ∧ State.reset.host.tblSt = .none_ ∧ State.reset.cyc.cur = none ∧ State.reset.ops = []
  ∧ State.reset.img.active = none ∧ State.reset.regs.lock = false ∧ State.reset.clk.reached = .active
  ∧ (∀ x ∈ [(0x0400, 0), (0x0404, 0), (0x0408, 0), (0x040C, 0), (0x0410, 0), (0x0414, 0), (0x0418, 0x00641401),
      (0x0800, 0x0000CDEF), (0x0804, 0x89ABCDEF), (0x0808, 0x01234567), (0x080C, 0x00ABCDEF), (0x0810, 0x00ABCDEF),
      (0x0814, 0x0000CDEF), (0x0840, 20000), (0x0844, 2000), (0x0848, 500), (0x084C, 10000), (0x0850, 2000),
      (0x0C00, 20000), (0x0C04, 3), (0x0C08, 0), (0x1010, 0x0780), (0x1014, 0x06E0), (0x1018, 0x0870), (0x1020, 0),
      (0x1400, 0), (0x1408, 0xF4240000), (0x140C, 0), (0x1410, 0), (0x1418, 0), (0x141C, 0), (0x1800, 0x0064000A),
      (0x1804, 0x0000000A), (0x1808, 0x00640014), (0x180C, 0x0000000A), (0x1810, 0x03E80064), (0x1C00, 0)],
      State.reset.regRead x.1 = x.2)

/-- Every well-formed command leads to a next state; one whose operands its row cannot carry is refused by the fault
that the model names (the fault is the model's own, not the specification's). -/
def Obligations.WellFormedCommandsRun : Prop :=
  ∀ (i : Instr) (s : State),
    (i.wf = true → ∃ t, exec i s = .next t) ∧ (i.wf = false → exec i s = .fault .malformed)

/-- Device and host memory keep their canonical form at every step. -/
def Obligations.MemoriesStayCanonical : Prop :=
  ∀ s t : State, Memories s → step s = .next t → Memories t

/-- Every register stays within its range at every step, and every held write stays one that its register takes. -/
def Obligations.RegistersStayInRange : Prop :=
  ∀ s t : State, Registers s → step s = .next t → Registers t

/-- The block's tables keep their sizes at every step. -/
def Obligations.TablesKeepSizes : Prop :=
  ∀ s t : State, Sized s → step s = .next t → Sized t

/-- Fenced dies are out at every step, and stay fenced, with their cause, until a power-on reset. -/
def Obligations.FencedDiesStayOut : Prop :=
  ∀ (c : Instr) (s t : State), Sized s → FencedOut s → exec c s = .next t →
    FencedOut t ∧ (c.powersOn = false → ∀ d x, (s.die d).fenced = some x → (t.die d).fenced = some x)

/-- No command changes the queue of commands, the fuses or the key slots; LOCK, once set, is cleared by a power-on
reset alone. -/
def Obligations.QueueFusesAndLockStay : Prop :=
  ∀ (c : Instr) (s t : State), exec c s = .next t →
    t.pending = s.pending ∧ t.boot.stepping = s.boot.stepping ∧ t.boot.fuseMask = s.boot.fuseMask ∧ t.boot.sigSlots = s.boot.sigSlots
    ∧ t.boot.encSlots = s.boot.encSlots ∧ (c.powersOn = false → s.regs.lock = true → t.regs.lock = true)

/-- COMMIT_COUNT never falls, but where the AON domain comes up without its retention RAM. -/
def Obligations.CommitsNeverFall : Prop :=
  ∀ (c : Instr) (s t : State), exec c s = .next t → (c = .aonPowerUp → s.aon.lost = false) →
    s.aon.ctr.commits ≤ t.aon.ctr.commits

/-- The state after reset meets every invariant that is stated. -/
def Obligations.ResetIsSound : Prop :=
  Memories State.reset ∧ Registers State.reset ∧ Sized State.reset ∧ FencedOut State.reset

/-! ### Power, start-up and fences -/

/-- POWER_ON_RESET, PWRGD_IN_FALL and AON_POWER_LOSS: everything is reset but the AON domain, the fuses and key
slots and what lies outside the block; PWRGD_IN's fall writes no checkpoint; with both supplies of the AON domain
gone, its retention RAM and its calendar's validity are lost too. -/
def Obligations.PowerOnResets : Prop :=
  ∀ (low : Bool) (s : State), ∃ t u, exec (.powerOnReset low) s = .next t
    ∧ exec .pwrgdInFall s = exec (.powerOnReset true) s
    ∧ t.boot = { Boot.reset with pwrgd := !low, stepping := s.boot.stepping, fuseMask := s.boot.fuseMask, sigSlots := s.boot.sigSlots, encSlots := s.boot.encSlots }
    ∧ t.saf = Safety.reset (s.aon.ctr.frTotal % 2 ^ 32) ∧ t.pkg = Package.reset ∧ t.world = World.reset
    ∧ t.img = ImgState.reset ∧ t.cyc = CycSt.reset ∧ t.ops = [] ∧ t.coh = CohState.empty ∧ t.time = TimeBase.reset ∧ t.clk = ClockPower.reset
    ∧ t.smi = Smi.reset ∧ t.eng = EngSt.reset ∧ t.msgs = [] ∧ t.du = List.replicate 8 DuState.empty
    ∧ { t.regs with hiLatch := Regs.reset.hiLatch, subLatch := Regs.reset.subLatch } = Regs.reset
    ∧ { t.host with mem := [], fails := [], sent := [] } = HostIf.reset
    ∧ t.aon = { s.aon with read := none, winAddr := 0, latch := [], xtal := true }
    ∧ t.host.mem = s.host.mem ∧ t.pending = s.pending
    ∧ exec .aonPowerLoss s = .next u
    ∧ u.aon = { s.aon with read := none, winAddr := 0, latch := [], xtal := true, powered := false, lost := true, calOk := false }
    ∧ u.boot.pwrgd = false ∧ { u with aon := t.aon, boot := t.boot } = t

/-- AON_POWER_UP: the counters go on from an intact retention RAM; else they come from the newest valid checkpoint,
COMMIT_COUNT raised by 2^24 and RESTORES by one, both saturating, or start at 0; a RESTORE checkpoint follows. -/
def Obligations.AonDomainComesUp : Prop :=
  ∀ s : State, s.aon.powered = false → ∃ t, exec .aonPowerUp s = .next t ∧ { t with aon := s.aon } = s
    ∧ t.aon.powered = true
    ∧ (s.aon.lost = false → t.aon = { s.aon with powered := true })
    ∧ (s.aon.lost = true → t.aon.lost = false ∧ t.aon.ring = [] ∧ t.aon.lastCk = some t.aon.ctr.powerOn
        ∧ (∀ b, s.aon.newest = some b →
            t.aon.ctr.commits = min (getLe b 40 8 + 2 ^ 24) (2 ^ 64 - 1)
            ∧ t.aon.ctr.restores = min (getLe b 26 2 + 1) (2 ^ 16 - 1) ∧ t.aon.ctr.powerOn = getLe b 32 8
            ∧ t.aon.ctr.frTotal = getLe b 80 8 ∧ t.aon.ckseq = getLe b 8 8 + 2)
        ∧ (s.aon.newest = none → t.aon.ctr = { Counters.zero with restores := 1 } ∧ t.aon.ckseq = 1))

/-- STARTUP at T0. With a valid configuration block and firmware: the first block whose CRC matches is used, copy A of the
firmware before copy B; the PCIe link comes up, the PLL runs; nothing else changes. Without them, with a failed BIST or a
latent checker at the hub, the start is fatal, with a record of class FATAL, and the PCIe link is up. -/
def Obligations.StartupActs : Prop :=
  (∀ (a b blk : List Byte) (fwA fwB sris : Bool) (s : State),
    s.boot.st = .held → bootBlock a b = some blk → (fwA || fwB) = true →
    exec (.startup a b fwA fwB sris true 0) s = .next { s with
      boot := { s.boot with st := .starting, pwrgd := true, resetHeld := false, sris := sris
                            derated := bitAt (getLe blk 8 1) 0, ssvid := getLe blk 4 2, ssid := getLe blk 6 2
                            fwUsed := if fwA then some 0 else some 1 }
      host := { s.host with linkUp := true }, clk := { s.clk with pll := true } })
  ∧ (∀ (a b : List Byte) (fwA fwB sris bist : Bool) (inj : Nat) (s : State) (f : Fault0),
    s.boot.st = .held → s.cyc.cur = none →
    (((bootBlock a b).isNone ∨ (fwA || fwB) = false) ∧ f = bootFault 1
      ∨ (bootBlock a b).isSome ∧ (fwA || fwB) = true ∧ bist = false ∧ f = bootFault 2
      ∨ (bootBlock a b).isSome ∧ (fwA || fwB) = true ∧ bist = true ∧ inj ≠ 0
        ∧ f = ⟨.checkerLatent, .fatal, Loc.hub 0, inj, 0xFFFFFFFF⟩) →
    ∃ t, exec (.startup a b fwA fwB sris bist inj) s = .next t
      ∧ t.boot.st = .fatal ∧ t.saf.fatal = true ∧ bitAt t.saf.causes 7 = true ∧ t.host.linkUp = true
      ∧ (t.aon.ring.getLast?).map (fun r => (r.code, r.cls, r.loc, r.d0, r.d1))
          = some (f.code, FClass.fatal, f.loc, f.d0 % 2 ^ 32, f.d1 % 2 ^ 32)
      ∧ t.world = s.world ∧ t.regs = s.regs ∧ t.time.now = s.time.now ∧ t.mem = s.mem)

/-- PD_PWR_EN and PD_RAIL_CHECK, while the dies come up: dies are enabled strictly in order, a fused one is fenced
instead; a good rail releases the die's reset and its DU is testing, a bad one fences it. -/
def Obligations.DiesPowerUpInOrder : Prop :=
  ∀ (d : Die) (s : State), Sized s → s.diesUp = true → (s.die d).fenced = none →
    ((∀ k, k < d.val → (s.die k).enable = true ∨ (s.die k).fenced.isSome) → (s.die d).enable = false →
      ∃ t, exec (.pdPwrEn d) s = .next t
        ∧ (bitAt s.boot.fuseMask d = true →
            t.die d = { s.die d with enable := true } ∧ (∀ k, k ≠ d.val → t.die k = s.die k)
            ∧ t.boot.tr = some (s.boot.tr.getD s.time.now)
            ∧ { t with boot := { t.boot with tr := s.boot.tr }, pkg := { t.pkg with dies := s.pkg.dies } } = s)
        ∧ (bitAt s.boot.fuseMask d = false → (t.die d).fenced = some .fused ∧ (t.die d).enable = false))
    ∧ ((s.die d).enable = true → (s.die d).running = false →
      (∃ t, exec (.pdRailCheck d true) s = .next t
        ∧ t.die d = { s.die d with running := true } ∧ (∀ k, k ≠ d.val → t.die k = s.die k)
        ∧ t.duOf d = { s.duOf d with serve := .testing } ∧ (∀ k, k ≠ d.val → t.duOf k = s.duOf k)
        ∧ { t with du := s.du, pkg := { t.pkg with dies := s.pkg.dies } } = s)
      ∧ (∃ t, exec (.pdRailCheck d false) s = .next t ∧ (t.die d).fenced = some .rail ∧ (t.die d).enable = false))

/-- PRESENCE, TRAINING_REPORT and RING_PROBE_RETRY, on the way up and while another die still owes its report: a
record that passes R402 is kept with its serial, and the DU is starting; one that fails fences the die; a report is
kept, a later one in its place. -/
def Obligations.DiesReport : Prop :=
  ∀ (d : Die) (rec : List Byte) (s : State), Sized s → s.diesUp = true → rec.length = 64 → (s.die d).fenced = none →
    (∃ k, k < 8 ∧ k ≠ d.val ∧ (s.die k).owes = true) →
    ((s.die d).running = true → (s.die d).presence = false → (s.die d).out ≠ .test →
      ∃ t, exec (.presence d rec) s = .next t
        ∧ (s.presenceCause d (Presence.ofBytes rec) = none →
            t.die d = { s.die d with presence := true, serial := some (Presence.ofBytes rec).serial }
            ∧ t.duOf d = { s.duOf d with serve := .starting }
            ∧ { t with du := s.du, pkg := { t.pkg with dies := s.pkg.dies } } = s)
        ∧ (∀ c, s.presenceCause d (Presence.ofBytes rec) = some c → (t.die d).fenced = some c))
    ∧ ((s.die d).presence = true → ∀ c, c = Instr.trainingReport d rec ∨ (s.die d).report.isSome ∧ c = .ringProbeRetry d (some rec) →
      ∃ t, exec c s = .next t ∧ t.die d = { s.die d with report := some (TrainReport.ofBytes rec) }
        ∧ (∀ k, k ≠ d.val → t.die k = s.die k) ∧ { t with pkg := { t.pkg with dies := s.pkg.dies } } = s)

/-- The last training report: R404 decides. Dies that fail are fenced; with at least two left the device is READY, the
stale timer runs, and every remaining die serves. -/
def Obligations.LastReportDecides : Prop :=
  ∀ (d : Die) (rec : List Byte) (s : State), Sized s → FencedOut s → s.boot.st = .starting → rec.length = 64 → s.cyc.cur = none →
    (s.die d).fenced = none → (s.die d).presence = true →
    (∀ k, k < 8 → k ≠ d.val → (s.die k).owes = false) →
    ∃ t, exec (.trainingReport d rec) s = .next t
      ∧ (∀ k, k < 8 → ((t.die k).fenced.isSome = true ∨ (t.die k).healthy = true ∨ t.boot.st = .fatal))
      ∧ t.boot.lpcap.isSome = true
      ∧ (t.boot.st = .ready ∧ 2 ≤ t.healthy.length ∧ t.saf.stale = some (s.regs.limit * s.regs.stalePeriod)
          ∧ (∀ k ∈ t.healthy, (t.duOf k).serve = .serving ∧ (t.die k).inService = true)
        ∨ t.boot.st = .fatal ∧ t.saf.fatal = true)

/-- ANNOUNCE_DEADLINE, TRAINING_DEADLINE, DIE_FENCE and FENCE fence a die with their cause: out of health, service and power,
the cycle in progress ended; outside start-up cause RESTART of SAFE_STATE# is set and the die's LPDDR is lost. FENCE, with no
cycle in progress, completes where at least two healthy dies remain. A fenced die's rail that has not fallen is recorded
(with class INFO: the model's reading, log entry 43). -/
def Obligations.DiesAreFenced : Prop :=
  (∀ (d : Die) (cause : FenceCause) (c : Instr) (s : State), Sized s → (s.die d).fenced = none →
    (c = .dieFence d cause
      ∨ c = .announceDeadline d ∧ s.diesUp = true ∧ (s.die d).enable = true ∧ (s.die d).presence = false ∧ cause = .noAnnounce
      ∨ c = .trainingDeadline d ∧ s.diesUp = true ∧ (s.die d).report = none ∧ cause = .notReady) →
    ∃ t, exec c s = .next t ∧ (t.die d).fenced = some cause ∧ (t.die d).healthy = false ∧ (t.die d).enable = false
      ∧ (t.die d).inService = false ∧ (t.die d).running = false ∧ t.cyc.cur = none
      ∧ t.regs = s.regs ∧ t.smi = s.smi ∧ t.time = { s.time with steps := t.time.steps }
      ∧ (s.boot.st ≠ .starting → bitAt t.saf.causes 2 = true
          ∧ ∀ a, lpddrBase d ≤ a → a < lpddrBase d + 0x200000000 → t.mem.get a = 0))
  ∧ ((∀ (x : Desc) (s s1 : State), Sized s → s.take 0x0070 = some (x, s1) → s.cyc.cur = none →
    (s.die (getLe x.bytes 16 1 % 8)).fenced = none → 2 ≤ (s.healthy.filter (· != getLe x.bytes 16 1 % 8)).length →
    ∃ t, exec .fence s = .next t ∧ (t.die (getLe x.bytes 16 1 % 8)).fenced = some .host
      ∧ t.host.due.getLast? = some ⟨x.ring, x.head.tag, .ok, x.head.opcode, x.head.seq, 0, 0, x.head.irq, false⟩
      ∧ t.host.started = s.host.started.erase x ∧ t.regs = s.regs)
  ∧ (∀ (d : Die) (s : State), (s.die d).fenced.isSome = true →
    exec (.fenceRailCheck d false) s = .next (s.record ⟨.supply, .info, Loc.ofDie d, 0x10 + d, 3⟩)))

/-! ### Host interface -/

/-- A reset of the function (FLR, hot reset, link down, PERST#): the host-interface fields, the ring state and the
MSI-X table go to reset; cycle, queue, operations, staged loads and steps of time are gone without a write or a
completion; host memory, device memory, world and image stay. PERST# holds the reset; its release ends it. -/
def Obligations.FunctionIsReset : Prop :=
  (∀ (c : Instr) (s : State), c ∈ [Instr.functionLevelReset, .hotReset, .linkDownReset, .pciePerst] →
    (if c = .pciePerst then s.boot.st ≠ .held ∧ s.host.perst = false else s.linkOk = true) →
    ∃ t, exec c s = .next t
      ∧ t.host = { HostIf.reset with mem := s.host.mem, fails := s.host.fails, linkUp := s.host.linkUp
                                     perst := decide (c = .pciePerst), sent := s.host.sent }
      ∧ t.cyc.cur = none ∧ t.cyc.queue = [] ∧ t.ops = [] ∧ t.time = { s.time with steps := [] } ∧ t.aon.read = none
      ∧ { t.regs with hiLatch := s.regs.hiLatch } = { s.regs with staging := [0, 0] }
      ∧ t.img = { s.img with staged := [] } ∧ t.world = s.world ∧ t.mem = s.mem ∧ t.boot = s.boot ∧ t.pkg = s.pkg
      ∧ t.clk = s.clk ∧ t.smi = s.smi ∧ t.coh = s.coh)
  ∧ (∀ s : State, exec .pciePerstRelease s = .next { s with host := { s.host with perst := false } })

/-- MSIX_VECTOR_UNMASK and COALESCING_TIMER: a pending message is sent when its vector is unmasked; a ring's timer
signals what it has written. -/
def Obligations.MessagesAreSent : Prop :=
  (∀ (v : Fin 2048) (s : State), s.linkOk = true → ∃ t, exec (.msixVectorUnmask v) s = .next t
    ∧ t.host.msix.unmasked.contains v.val = true ∧ t.host.msix.pend.contains v.val = false
    ∧ t.host.sent = s.host.sent ++ (if s.host.msix.pend.contains v.val then [.msix v] else [])
    ∧ (∀ u, u ≠ v.val → t.host.msix.unmasked.contains u = s.host.msix.unmasked.contains u
        ∧ t.host.msix.pend.contains u = s.host.msix.pend.contains u)
    ∧ { t with host := { t.host with msix := s.host.msix, sent := s.host.sent } } = s)
  ∧ (∀ (n : Fin 16384) (r : Ring) (s : State), s.ring n = some r → s.ringEngine = true → r.ctx.type ≠ .submission →
      r.ctx.coalUs ≠ 0 → r.unsignalled ≠ 0 →
      ∃ t, exec (.coalescingTimer n) s = .next t ∧ t.ring n = some { r with unsignalled := 0 }
        ∧ (r.ctx.irqEn = true → s.host.msix.unmasked.contains r.ctx.vector = true →
            t.host.sent = s.host.sent ++ [.msix r.ctx.vector] ∧ t.host.msix = s.host.msix)
        ∧ (r.ctx.irqEn = true → s.host.msix.unmasked.contains r.ctx.vector = false →
            t.host.sent = s.host.sent ∧ t.host.msix.pend.contains r.ctx.vector = true)
        ∧ (r.ctx.irqEn = false → t.host.sent = s.host.sent ∧ t.host.msix = s.host.msix)
        ∧ { t with host := { t.host with msix := s.host.msix, sent := s.host.sent, rings := s.host.rings } } = s)

/-- ATTENTION_POLL: the counters of the span are read; those that moved are remembered, a failed read counts in
ATTN_FAIL, a find brings the fast period; the one enabled ring of a table has its doorbell record read. -/
def Obligations.PollsReadAttention : Prop :=
  ∀ (v : HostView) (s : State) (g : Nat) (gs : List Nat), Sized s → (s.look v).ringEngine = true →
    (s.look v).pollGroups = g :: gs →
    ∃ t, exec (.attentionPoll v) s = .next t ∧ { t with host := s.host } = s
      ∧ ((s.look v).movedGroups (gs.foldl min g) (gs.foldl max g) = none →
          t.host.attnFail = min 15 (s.host.attnFail + 1) ∧ t.host.attnSeen = s.host.attnSeen)
      ∧ (∀ ms, (s.look v).movedGroups (gs.foldl min g) (gs.foldl max g) = some ms →
          t.host.attnFail = s.host.attnFail ∧ (∀ x ∈ ms, x.1 < 512 → nth 0 t.host.attnSeen x.1 = x.2)
          ∧ (ms ≠ [] → t.host.period = field s.host.attnPoll 0 8 ∧ t.host.lastFind = s.time.now))
      ∧ (∀ r, s.host.rings = [r] → r.polled = true → t.host.rings = [r.doorbell ((s.look v).hostRead r.ctx.db 8)])

/-- DESCRIPTOR_FETCH from the ring whose turn it is, nothing being held: a descriptor that passes every check starts
and is outstanding; one that fails a check completes with the check's status; one that the power state refuses
completes with STATUS_REFUSED. One descriptor is consumed. -/
def Obligations.DescriptorsAreFetched : Prop :=
  ∀ (s : State) (r : Ring) (b : List Byte), s.ringEngine = true → s.host.d3hot = false → s.host.held = [] →
    s.outstanding.length < 1024 → s.nextRing = some r → s.ring r.num = some r →
    s.hostRead (r.ctx.base + r.count % r.ctx.size * 64) 64 = some b →
    s.holds ⟨r.num, DescHead.ofBytes b, b⟩ = false →
    ∃ t, exec .descriptorFetch s = .next t ∧ { t with host := s.host } = s
      ∧ t.ring r.num = some { r with count := r.count + 1, slotFails := 0 }
      ∧ t.host.turn = setAt s.host.turn r.ctx.prio (r.num + 1)
      ∧ (s.fetchCheck r b = none → s.powerRefuses (getLe b 0 2) = false →
          t.host.started = s.host.started ++ [⟨r.num, DescHead.ofBytes b, b⟩]
          ∧ t.host.waiting = s.host.waiting ++ [⟨r.num, DescHead.ofBytes b, b⟩] ∧ t.host.due = s.host.due)
      ∧ (∀ st, s.fetchCheck r b = some st ∨ s.fetchCheck r b = none ∧ s.powerRefuses (getLe b 0 2) = true ∧ st = .refused →
          t.host.started = s.host.started ∧ t.host.waiting = s.host.waiting
          ∧ ∃ c, t.host.due = s.host.due ++ [c] ∧ c.ring = r.num ∧ c.status = st ∧ c.tag = getLe b 8 8 ∧ c.r0 = 0 ∧ c.r1 = 0)

/-- COMPLETION_WRITE: the oldest due completion that can leave is written at its place in its completion ring, with
the device time and the phase bit, and its descriptor is outstanding no more; HEARTBEAT_OUT toggles after a
commit's. No other byte of host memory changes. -/
def Obligations.CompletionsAreWritten : Prop :=
  ∀ (s : State) (c : Compl) (p : Ring), Memories s → s.ringEngine = true → s.host.due.find? s.canLeave = some c →
    s.pairOf c = some p → p.error = none →
    ∃ t, exec .completionWrite s = .next t
      ∧ t.host.mem.read (p.ctx.base + p.count % p.ctx.size * 32) 32 = c.bytes s.time.now p.count p.ctx.log2
      ∧ (∀ a, a < p.ctx.base + p.count % p.ctx.size * 32 ∨ p.ctx.base + p.count % p.ctx.size * 32 + 32 ≤ a →
          t.host.mem.get a = s.host.mem.get a)
      ∧ t.host.due = s.host.due.erase c ∧ t.host.waiting = s.host.waiting.filter (fun d => !c.of d)
      ∧ (t.ring p.num).map (fun r => r.count) = some (p.count + 1)
      ∧ t.saf = { s.saf with heartbeat := if c.heartbeat then !s.saf.heartbeat else s.saf.heartbeat }
      ∧ { t with host := s.host, ops := s.ops, saf := s.saf } = s

/-- RING_TBL_LOAD: with descriptors outstanding it is refused with cause BUSY; else the table is read and checked, and
its rings begin anew, or the first failing ring is reported and no ring is left. -/
def Obligations.TablesAreLoaded : Prop :=
  ∀ (v : HostView) (s : State), s.linkOk = true → s.hubDown = false →
    (s.outstanding ≠ [] →
      exec (.ringTblLoad v) s = .next { s.look v with host := { (s.look v).host with lcause := 7 } })
    ∧ (s.outstanding = [] → s.host.tblBase < 2 ^ 52 → s.host.tblBase % 4096 = 0 → s.host.attnBase < 2 ^ 52 →
        s.host.attnBase % 4096 = 0 →
        ∀ b a, (s.look v).hostReadN s.host.tblBase (32 * s.host.tblCount) = some b →
          (s.look v).hostRead s.host.attnBase 1024 = some a →
          ∃ t, exec (.ringTblLoad v) s = .next t ∧ { t with host := s.host } = s
            ∧ (∀ rs, checkTable (fun r => sliceAt b (32 * r) 32) s.host.tblCount = .ok rs →
                t.host.tblSt = .loaded ∧ t.host.rings = rs.map Ring.fresh ∧ t.host.lcause = 0 ∧ t.host.ringErr = false
                ∧ ∀ g, g < 512 → nth 0 t.host.attnSeen g = getLe a (2 * g) 2)
            ∧ (∀ e, checkTable (fun r => sliceAt b (32 * r) 32) s.host.tblCount = .error e →
                t.host.tblSt = .error ∧ t.host.rings = [] ∧ t.host.lring = e.1 ∧ t.host.lcause = e.2.code))

/-! ### Power states -/

/-- PWR_REQ_ACTIVE, IDLE, STANDBY and OFF, the device not in OFF: latched during a transition; without effect for the
present state; else the transition begins. Before IDLE running operations are asked to suspend; before STANDBY and
OFF operations are cancelled, a SHUTDOWN checkpoint is written, the world is cleared and the planning dies go off,
all of it once no cycle is in progress. PWR_STATE_REACHED, its work done and no request waiting: the state is reached. OFF
takes the PCIe link down and loses LPDDR; from STANDBY to ACTIVE the dies that came back are healthy and in service. -/
def Obligations.PowerStatesChange : Prop :=
  (∀ (c : Instr) (p : PState) (s : State),
    (c, p) ∈ [(Instr.pwrReqActive, PState.active), (.pwrReqIdle, .idle), (.pwrReqStandby, .standby), (.pwrReqOff, .off)] →
    s.linkOk = true → s.clk.reached ≠ .off →
    (s.clk.busy.isSome = true → exec c s = .next { s with clk := { s.clk with req := p, latched := some p } })
    ∧ (s.clk.busy = none → s.clk.reached = p → exec c s = .next { s with clk := { s.clk with req := p } })
    ∧ (s.clk.busy = none → s.clk.reached ≠ p → ∃ t, exec c s = .next t
        ∧ t.clk.req = p ∧ t.clk.reached = s.clk.reached
        ∧ t.clk.busy = some (if s.clk.reached = .standby ∧ p = .idle then .active else p)
        ∧ (s.cyc.cur.isSome = true → { t with clk := s.clk } = s)
        ∧ (s.cyc.cur = none → t.clk.busy = some .active → { t with clk := s.clk } = s)
        ∧ (s.cyc.cur = none → t.clk.busy = some .idle → { t with clk := s.clk, ops := s.ops } = s
            ∧ t.ops = s.ops.map (fun o => if o.st = .running ∨ o.st = .suspending then { o with st := .suspending, auto := false } else o))
        ∧ (s.cyc.cur = none → t.clk.busy = some .standby ∨ t.clk.busy = some .off →
            t.world = s.world.clear.1 ∧ t.clk.discarded = min 0xFFFF s.world.clear.2 ∧ t.clk.clocksOn = false
            ∧ t.aon.ckseq = s.aon.ckseq + 1 ∧ (∀ x ∈ t.pkg.dies, x.enable = false ∧ x.inService = false)
            ∧ (∀ a, sramBase 0 ≤ a → a < sramBase 8 → t.mem.get a = 0)
            ∧ (∀ o, s.ops = [o] → o.st.terminal = false → o.cls ≠ .ledger → t.ops.map (fun x => x.st) = [.cancelled])
            ∧ t.regs = s.regs ∧ t.time = s.time ∧ t.boot = s.boot ∧ t.smi = s.smi)))
  ∧ (∀ (p : PState) (s : State), s.clk.busy = some p → s.clk.acted = true → s.powerReady p = true → s.clk.after = none →
    s.clk.latched = none → FencedOut s → Sized s →
    ∃ t, exec .pwrStateReached s = .next t ∧ t.clk.reached = p ∧ t.clk.busy = none
      ∧ t.clk.clocksOn = (p == .active)
      ∧ (p = .standby ∨ p = .active ∧ s.clk.reached ≠ .standby → { t with clk := s.clk } = s)
      ∧ (p = .off → t.host = { s.host with linkUp := false } ∧ t.ops = [] ∧ (∀ a, a < 0x10000000000 → t.mem.get a = 0)
          ∧ (∀ a, 0x10000000000 ≤ a → t.mem.get a = s.mem.get a))
      ∧ (p = .idle → ∀ o, s.ops = [o] → o.st = .suspending → o.waiting = [] → t.ops.map (fun x => x.st) = [.suspended])
      ∧ (p = .active → s.clk.reached = .standby → s.saf.fatal = false →
          ∀ k, k < 8 → (t.die k).fenced.isSome = true ∨ (t.die k).healthy = true ∧ (t.die k).inService = true))

/-- D3HOT_ENTRY, D0_RETURN and the fetch in D3hot (R413): outside STANDBY the device stops fetching descriptors, lets a
cycle in progress finish, cancels every long operation, and then enters STANDBY; the return to D0 leaves it there. -/
def Obligations.D3hotIsStandby : Prop :=
  (∀ s : State, s.linkOk = true →
    (s.clk.reached = .standby → s.clk.busy = none →
      exec .d3hotEntry s = .next { s with host := { s.host with d3hot := true } })
    ∧ (s.clk.reached = .active ∨ s.clk.reached = .idle → ∃ t, exec .d3hotEntry s = .next t ∧ t.host.d3hot = true
        ∧ t.cyc.cur = s.cyc.cur ∧ (∀ o ∈ t.ops, o.st.terminal = true) ∧ t.ops.length = s.ops.length
        ∧ t.clk.reached = s.clk.reached ∧ (s.clk.busy = none → t.clk.busy = some .standby)
        ∧ (s.clk.busy.isSome = true → t.clk.busy = s.clk.busy ∧ t.clk.latched = some .standby)))
  ∧ (∀ s : State, s.host.d3hot = true → exec .descriptorFetch s = .next s)
  ∧ (∀ s : State, s.clk.busy = some .standby → s.clk.acted = true → s.cyc.cur = none → s.host.due = [] →
      s.clk.after = none → s.clk.latched = none →
      exec .pwrStateReached s = .next { s with clk := { s.clk with
        reached := .standby, busy := none, acted := false, clocksOn := false } })
  ∧ (∀ s : State, exec .d0Return s = .next { s with host := { s.host with d3hot := false } })

/-! ### Descriptors -/

/-- NOP and QUERY_OP: NOP completes with STATUS_OK; QUERY_OP reports state, YIELDED, AUTO and class of its target, and
its checkpoints; a waiting cycle descriptor reports 0x1; a tag that names nothing is unknown. PLAN_CYCLE and
RETOUCH_PLAN wait in the cycle queue; one whose operands break the rules of R433 and R434 completes with
STATUS_BAD_DESC. -/
def Obligations.DescriptorsComplete : Prop :=
  (∀ (x : Desc) (s s1 : State),
    (s.take 0x0001 = some (x, s1) → exec .nop s = .next (s1.complete x .ok 0 0))
    ∧ (s.take 0x0043 = some (x, s1) →
        (s1.target x.target = .none_ → exec .queryOp s = .next (s1.complete x .unknownTag 0 0))
        ∧ (∀ d, s1.target x.target = .queued d → exec .queryOp s = .next (s1.complete x .ok 1 0))
        ∧ (∀ o, s1.target x.target = .op o → exec .queryOp s = .next (s1.complete x .ok
            (o.st.code + 256 * boolNat (s1.yieldedNow o) + 512 * boolNat o.auto + 65536 * o.cls.code) (o.units + o.lost)))))
  ∧ (∀ (x : Desc) (s s1 : State),
    (s.take 0x0030 = some (x, s1) → exec .planCycle s = .next (if getSle x.bytes 52 4 < getSle x.bytes 48 4 then
        s1.complete x .badDesc 0 0 else { s1 with cyc := { s.cyc with queue := s.cyc.queue ++ [x] } }))
    ∧ (s.take 0x0031 = some (x, s1) → exec .retouchPlan s = .next (if
        (!x.head.trace && getLe x.bytes 37 5 != 0) || (x.head.trace && getLe x.bytes 42 2 == 0) then
        s1.complete x .badDesc 0 0 else { s1 with cyc := { s.cyc with queue := s.cyc.queue ++ [x] } })))

/-- SUSPEND, RESUME and CANCEL, by the state of the long operation they name: the table of R453, cell by cell, with what
becomes of the operation and which completions result; the other operations keep their states, but for the scrubs that
a resumed SELFTEST_FIELD suspends. CANCEL of a cycle
descriptor that waits takes it out of the cycle queue: it completes with STATUS_CANCELLED, the control with STATUS_OK. A
tag that names nothing is unknown; a target of another kind refuses. -/
def Obligations.ControlsAct : Prop :=
  (∀ (x : Desc) (o : LongOp) (s s1 : State), OnlyOp s o → s1.target x.target = .op o →
    (s.take 0x0040 = some (x, s1) → ∃ t y, exec .suspend s = .next t ∧ OpsFrame s t ∧ OthersStay s t o ∧ BecomesOp t o y
      ∧ ((o.cls = .load ∧ o.stage = .activate) ∨ o.st = .cancelling ∨ o.st.terminal = true →
          y.st = o.st ∧ t.host = (s1.complete x .refused 0 0).host)
      ∧ (¬(o.cls = .load ∧ o.stage = .activate) →
        (o.st = .running → y.st = .suspending ∧ y.waiting = o.waiting ++ [(.suspend, x)] ∧ t.host = s1.host)
        ∧ (o.st = .queued → y.st = .suspended ∧ t.host = (s1.complete x .ok 0 0).host)
        ∧ (o.st = .suspending ∨ o.st = .suspended →
            y.st = o.st ∧ y.auto = false ∧ t.host = (s1.complete x .suspended 0 0).host)))
    ∧ (s.take 0x0041 = some (x, s1) → ∃ t y, exec .resume s = .next t ∧ OpsFrame s t ∧ BecomesOp t o y
      ∧ (o.st ≠ .suspended ∨ scrubsBlocking s.ops o = false → OthersStay s t o)
      ∧ ((o.cls = .load ∧ o.stage = .activate) ∨ o.st = .running ∨ o.st = .cancelling ∨ o.st.terminal = true →
          y.st = o.st ∧ t.host = (s1.complete x .refused 0 0).host)
      ∧ (¬(o.cls = .load ∧ o.stage = .activate) →
        (o.st = .queued ∨ (o.st = .suspending ∨ o.st = .suspended) ∧ o.auto = true →
            y.st = o.st ∧ y.auto = o.auto ∧ t.host = (s1.complete x .queued 0 0).host)
        ∧ (o.st = .suspending → o.auto = false → y.st = .suspending ∧ y.waiting = o.waiting ++ [(.resume, x)] ∧ t.host = s1.host)
        ∧ (o.st = .suspended → o.auto = false → blocked s.ops o = false → y.st = .running ∧ t.host = (s1.complete x .ok 0 0).host)
        ∧ (o.st = .suspended → o.auto = false → scrubsBlocking s.ops o = true →
            y.st = .running ∧ t.host = (s1.complete x .ok 0 0).host)
        ∧ (o.st = .suspended → o.auto = false → blocked s.ops o = true → scrubsBlocking s.ops o = false →
            y.st = .queued ∧ t.host = (s1.complete x .queued 0 0).host)))
    ∧ (s.take 0x0042 = some (x, s1) → ∃ t y, exec .cancel s = .next t ∧ OpsFrame s t ∧ OthersStay s t o ∧ BecomesOp t o y
      ∧ ((o.cls = .load ∧ o.stage = .activate) ∨ o.st.terminal = true →
          y.st = o.st ∧ t.host = (s1.complete x .refused 0 0).host)
      ∧ (¬(o.cls = .load ∧ o.stage = .activate) →
        (o.st = .cancelling → y.st = .cancelling ∧ y.waiting = o.waiting ++ [(.cancel, x)] ∧ t.host = s1.host)
        ∧ (o.st = .queued ∨ o.st = .running ∨ o.st = .suspending ∨ o.st = .suspended → y.st = .cancelling ∧ y.auto = false
            ∧ y.waiting = o.waiting.filter (fun w => w.1 != .suspend) ++ [(.cancel, x)]
            ∧ t.host = (s1.completeAll ((o.waiting.filter (fun w => w.1 == .suspend)).map (fun w => (w.2, Status.cancelled)))).host))))
  ∧ (∀ (c : Instr) (op : Nat) (x : Desc) (s s1 : State), (c, op) ∈ [(Instr.suspend, 0x0040), (.resume, 0x0041), (.cancel, 0x0042)] →
    s.take op = some (x, s1) →
    (s1.target x.target = .none_ → exec c s = .next (s1.complete x .unknownTag 0 0))
    ∧ (s1.target x.target = .rejected → exec c s = .next (s1.complete x .refused 0 0))
    ∧ (∀ d, s1.target x.target = .other d → exec c s = .next (s1.complete x .refused 0 0))
    ∧ (∀ d, c ≠ .cancel → s1.target x.target = .queued d → exec c s = .next (s1.complete x .refused 0 0)))
  ∧ (∀ (x d : Desc) (s s1 : State), s.take 0x0042 = some (x, s1) → s1.target x.target = .queued d →
    ∃ t, exec .cancel s = .next t ∧ t.cyc = { s.cyc with queue := s.cyc.queue.erase d }
      ∧ { t with cyc := s.cyc, host := s.host } = s
      ∧ ∃ c1 c2, t.host.due = s.host.due ++ [c1, c2] ∧ c1.of d = true ∧ c1.status = .cancelled ∧ c2.of x = true ∧ c2.status = .ok)

/-- The three world updates, and the world descriptors that are turned away. With an image active, an accepted update
waits last on its stream, whose timestamp it sets, and completes with the number that the next snapshot takes; no other
part of the world changes. Without an image, with a payload that cannot be read or whose CRC fails, on a ring of no
fitting stream, with a timestamp below the stream's last, with a reserved operand bit set, only a completion results. -/
def Obligations.WorldDescriptorsAct : Prop :=
  ((∀ (c : Instr) (op k : Nat) (x : Desc) (i : Image) (p : List Byte) (u : UpdBody × Nat) (s s1 : State), Sized s →
    (c, op) ∈ [(Instr.worldLayerPatch, 0x0020), (.worldObjects, 0x0021), (.worldStatic, 0x0022)] →
    s.take op = some (x, s1) → s.img.active = some i → s1.payload x = .ok p → s1.streamFor i x = some k → k < 16 →
    s.world.tsLow k (getLe x.bytes 16 8) = false → opRsvOk (leNat (x.bytes.take 64)) x.head.opcode = true →
    parseUpdate i.world x.head.opcode k x.bytes p = .ok u →
    s.world.full k = false →
    ∃ t, exec c s = .next t
      ∧ t.world.stream k = ⟨(s.world.stream k).queue ++ [⟨x.head.seq, getLe x.bytes 16 8, u.1⟩], some (getLe x.bytes 16 8)⟩
      ∧ (∀ j, j ≠ k → t.world.stream j = s.world.stream j) ∧ { t.world with streams := s.world.streams } = s.world
      ∧ t.host = (s1.complete x .ok s.world.nextEpoch u.2).host
      ∧ { t with world := s.world, host := s.host, cyc := { t.cyc with lost := s.cyc.lost } } = s))
  ∧ (∀ (c : Instr) (op : Nat) (x : Desc) (s s1 : State),
    (c, op) ∈ [(Instr.worldLayerPatch, 0x0020), (.worldObjects, 0x0021), (.worldStatic, 0x0022), (.egoState, 0x0023)] →
    s.take op = some (x, s1) →
    (s.img.active = none → exec c s = .next (s1.complete x .noImage 0 0))
    ∧ (op ≠ 0x0023 → ∀ i, s.img.active = some i →
        (∀ st, s1.payload x = .error st → exec c s = .next (s1.complete x st 0 0))
        ∧ (∀ p, s1.payload x = .ok p →
            (s1.streamFor i x = none → exec c s = .next (s1.complete x .badDesc 0 0))
            ∧ (∀ k, s1.streamFor i x = some k →
                s.world.tsLow k (getLe x.bytes 16 8) = true ∨ opRsvOk (leNat (x.bytes.take 64)) x.head.opcode = false →
                exec c s = .next (s1.complete x .badDesc 0 0))))
    ∧ (op = 0x0023 → ∀ i, s.img.active = some i →
        parseEgo i.ego.length x.bytes = none ∨ opRsvOk (leNat (x.bytes.take 64)) x.head.opcode = false →
        exec c s = .next (s1.complete x .badDesc 0 0)))

/-! ### Long operations -/

/-- LOAD_IMAGE, MAINT_START, ROADMAP_GROW and LEDGER_READ start an operation of their class behind the others: running,
or queued where a conflicting one is active, as a second load always is. -/
def Obligations.LongOperationsStart : Prop :=
  ∀ (c : Instr) (op : Nat) (cls : OpClass) (x : Desc) (s s1 : State), s.take op = some (x, s1) →
    (c = .loadImage ∧ op = 0x0010 ∧ cls = .load ∧ addrOk x.imageAddr 64 = true ∧ addrOk x.refusalAddr 64 = true
      ∨ c = .maintStart ∧ op = 0x0050 ∧ OpClass.ofMaint (getLe x.bytes 16 1) = some cls
        ∧ s1.maintOk cls (getLe x.bytes 17 1) (bitAt (getLe x.bytes 18 1) 0) (bitAt (getLe x.bytes 19 1) 0) (getLe x.bytes 20 4) = true
        ∧ (s1.maintUnits cls ((List.range 8).filter (bitAt (getLe x.bytes 17 1))) (bitAt (getLe x.bytes 18 1) 0) (getLe x.bytes 20 4)) ≠ []
      ∨ c = .roadmapGrow ∧ op = 0x0051 ∧ cls = .grow ∧ s.armature.isSome ∧ s1.growOk x = true ∧ s.usesRoadmap = true
        ∧ (∀ d ∈ s.img.used, (s.duOf d).serve = .serving) ∧ (bitAt (getLe x.bytes 16 1) 0 = true ∨ s.img.nodes < getLe x.bytes 20 4)
      ∨ c = .ledgerRead ∧ op = 0x0060 ∧ cls = .ledger ∧ getLe x.bytes 16 1 ≤ 2 ∧ addrOk (getLe x.bytes 24 8) 64 = true
        ∧ ledLength (getLe x.bytes 16 1) ≤ getLe x.bytes 32 4) →
    ∃ t o, exec c s = .next t ∧ t.ops.getLast? = some o ∧ o.desc = x ∧ o.cls = cls
      ∧ t.ops.map (fun y => y.desc) = s.ops.map (fun y => y.desc) ++ [x]
      ∧ (o.st = .running ∨ o.st = .queued) ∧ (s.ops = [] → o.st = .running)
      ∧ (cls = .load → (∃ y ∈ s.ops, y.cls = .load ∧ y.st.active = true ∧ y.desc ≠ x) → o.st = .queued)
      ∧ t.host = s1.host ∧ { t with ops := s.ops, host := s.host, du := s.du, img := s.img, aon := s.aon } = s

/-- LONGOP_CHECKPOINT and LONGOP_DEQUEUE: at a checkpoint a suspending operation is suspended and its controls complete,
unless a RESUME waits; a cancelling one is cancelled and completes; a running one goes on. A counted unit counts, a failed
one apart; the last one ends the operation DONE; a load's failed read ends it with STATUS_DMA; an uncorrectable word fails
it. A queued operation that nothing blocks starts. -/
def Obligations.CheckpointsAct : Prop :=
  (∀ (tag : Word64) (o : LongOp) (s : State), s.activeOp tag.toNat = some o → s.opWorks o = true → OnlyOp s o →
    (o.st = .running → exec (.longopCheckpoint tag .plain) s = .next s)
    ∧ (o.st = .suspending → (o.cls = .grow → s.growStops = true) → ∃ t y, exec (.longopCheckpoint tag .plain) s = .next t
        ∧ BecomesOp t o y ∧ y.waiting = []
        ∧ ((∀ w ∈ o.waiting, w.1 ≠ .resume) → y.st = .suspended)
        ∧ ((∃ w ∈ o.waiting, w.1 = .resume) → y.st = .running ∨ y.st = .queued)
        ∧ ((∀ k, k < 8 → (s.duOf k).stale = 0) → s.cyc.stale.1 = 0 → t.host = (s.completeAll
            ((o.waiting.filter (fun w => w.1 == .suspend) ++ o.waiting.filter (fun w => w.1 == .resume)).map (fun w => (w.2, Status.ok)))).host))
    ∧ (o.st = .cancelling → (o.cls = .grow → s.growStops = true) → ∃ t y, exec (.longopCheckpoint tag .plain) s = .next t
        ∧ BecomesOp t o y ∧ y.st = .cancelled
        ∧ (o.late = false → (∀ k, k < 8 → (s.duOf k).stale = 0) → s.cyc.stale.1 = 0 → t.host =
            ((s.complete o.desc .cancelled (s.opWords o).1 (s.opWords o).2).completeAll
              (o.waiting.map (fun w => (w.2, if w.1 = .cancel then Status.ok else .cancelled)))).host))
    ∧ (o.cls = .scrubLp ∨ o.cls = .scrubSram ∨ o.cls = .recal → o.st = .running → (o.todo.map (fun y => y.1)).Nodup →
        0 < sumNat (o.todo.map (fun y => y.2)) →
        (∃ t y, exec (.longopCheckpoint tag .counted) s = .next t ∧ BecomesOp t o y
          ∧ y.units = o.units + 1 ∧ y.bad = o.bad ∧ sumNat (y.todo.map (fun z => z.2)) + 1 = sumNat (o.todo.map (fun z => z.2))
          ∧ (2 ≤ sumNat (o.todo.map (fun z => z.2)) → y.st = .running ∧ { t with ops := s.ops } = s)
          ∧ (sumNat (o.todo.map (fun z => z.2)) = 1 → y.st = .done))
        ∧ (∃ t y, exec (.longopCheckpoint tag .countedBad) s = .next t ∧ BecomesOp t o y
          ∧ y.units = o.units ∧ y.bad = o.bad + 1 ∧ sumNat (y.todo.map (fun z => z.2)) + 1 = sumNat (o.todo.map (fun z => z.2))
          ∧ y.st = (if sumNat (o.todo.map (fun z => z.2)) = 1 then OpState.done else .running)))
    ∧ (o.cls = .grow ∨ o.cls = .ledger → o.st = .running → s.finished o = false →
        ∃ t y, exec (.longopCheckpoint tag .counted) s = .next t ∧ BecomesOp t o y ∧ y.units = o.units + 1 ∧ y.bad = o.bad
          ∧ (o.cls = .grow → t.img.nodes = s.img.nodes + 1024
              ∧ y.st = (if getLe o.desc.bytes 20 4 ≤ s.img.nodes + 1024 then OpState.done else .running))
          ∧ (o.cls = .ledger → y.st = (if ledLength (getLe o.desc.bytes 16 1) ≤ 4096 * (o.units + 1) then OpState.done else .running)))
    ∧ (o.cls = .load → o.st = .running →
        (o.stage = .unpack → 1 < o.left → ∃ t y, exec (.longopCheckpoint tag .counted) s = .next t ∧ BecomesOp t o y
          ∧ y.st = .running ∧ y.stage = .unpack ∧ y.left + 1 = o.left ∧ y.units = o.units + 1 ∧ { t with ops := s.ops } = s)
        ∧ (o.stage = .fetch →
            s.hostReadN (o.desc.imageAddr + (loadUnits o.desc.imageLen - o.left) * chunkLen)
              (min chunkLen (o.desc.imageLen - (loadUnits o.desc.imageLen - o.left) * chunkLen)) = none →
            ∃ t y, exec (.longopCheckpoint tag .counted) s = .next t ∧ BecomesOp t o y ∧ y.st = .failed ∧ y.status = .dma))
    ∧ (∃ t y, exec (.longopCheckpoint tag .consumed) s = .next t ∧ BecomesOp t o y ∧ y.st = .failed ∧ y.status = .faultRestart))
  ∧ (∀ (o : LongOp) (s : State), OnlyOp s o → o.st = .queued → (∀ y ∈ s.ops, y.desc ≠ o.desc → y.st ≠ .queued) →
      blocked s.ops o = false →
      ∃ t y, exec .longopDequeue s = .next t ∧ BecomesOp t o y ∧ y.st = .running ∧ OpsFrame s t ∧ t.host = s.host)

/-- SELFTEST_DIE, RETRAIN_DIE and RETRAIN_COMPLETE: the operation's next die leaves service, its DU in TESTING and its
SRAM under test for a self-test, its memories kept for a training; a training that succeeds leaves the die ready to
rejoin, one that fails fences it. -/
def Obligations.DiesLeaveService : Prop :=
  ∀ (d : Die) (o : LongOp) (s : State), Sized s →
    (s.cyc.cur = none → s.boundary.dieOp .selftest d = some o → s.boundary.canSpare = true →
      ∃ t, exec (.selftestDie d) s = .next t ∧ (t.die d).inService = false ∧ (t.die d).out = .test
        ∧ (t.duOf d).serve = .testing ∧ (∀ a, sramBase d ≤ a → a < sramBase d + 0x100000000 → t.mem.get a = 0)
        ∧ t.regs = s.regs ∧ { t.world with laid := s.world.laid } = s.world)
    ∧ (s.cyc.cur = none → s.boundary.dieOp .retrain d = some o → s.boundary.canSpare = true →
      ∃ t, exec (.retrainDie d) s = .next t ∧ (t.die d).inService = false ∧ (t.die d).out = .retrain ∧ t.mem = s.boundary.mem
        ∧ t.regs = s.regs ∧ { t.world with laid := s.world.laid } = s.world)
    ∧ ((s.die d).out = .retrain → (s.die d).rejoin = false →
      (∃ t, exec (.retrainComplete d true) s = .next t ∧ (t.die d).rejoin = true ∧ (∀ k, k ≠ d.val → t.die k = s.die k)
        ∧ t.mem = s.mem)
      ∧ ((s.die d).fenced = none →
        ∃ t, exec (.retrainComplete d false) s = .next t ∧ (t.die d).fenced = some .lpddrTrain))

/-! ### Images and parameters -/

/-- IMAGE_ACTIVATION at a moment without a cycle: the staged image is active with its own parameter values, patches
are gone, the world is cleared and no plan is held; IMAGES_ACTIVATED counts. Where the image's regions and tables lie
within their memories, only LPDDR and the scratchpads are written. -/
def Obligations.ImagesActivate : Prop :=
  ∀ (o : LongOp) (i : Image) (s : State),
    s.ops.find? (fun o => o.cls == .load && o.stage == .activate && o.st == .running) = some o → s.cyc.cur = none →
    s.hubDown = false → (o.desc.idleAct = true → s.cyc.queue = []) → (s.stagedOf o.desc).img = some i →
    diesCheck i s.healthy.length s.clk.step = none →
    ∃ t, exec .imageActivation s = .next t ∧ t.img.active = some i ∧ t.img.params = i.params ∧ t.img.patches = []
      ∧ t.img.gen = 0 ∧ t.img.arm = chooseArm i.arms s.serving.length ∧ t.img.nodes = 0 ∧ t.world = s.world.clear.1
      ∧ t.cyc.held = none ∧ t.cyc.history = [] ∧ t.cyc.epoch = (s.cyc.epoch + 1) % 2 ^ 32
      ∧ t.aon.ctr.images = min (s.aon.ctr.images + 1) (2 ^ 32 - 1) ∧ t.regs = s.regs ∧ t.boot = s.boot
      ∧ (i.tablesFit = true → (∀ x ∈ s.coh.caches, x.data.length ≤ 64) → ∀ b, 0x10000000000 ≤ b →
          (∀ k, k < 128 → b < scratchBase k ∨ scratchBase k + 0x80000 ≤ b) → t.mem.get b = s.mem.get b)

/-- UNLOAD_IMAGE and PATCH_PARAMS: with no cycle in progress the image goes, its identifier matching, and cause
NO_IMAGE of SAFE_STATE# is set; during a cycle the descriptor waits. A patch whose entries keep the image valid waits
for the next snapshot under the next generation number. -/
def Obligations.ImagesUnloadAndPatch : Prop :=
  ∀ (x : Desc) (s s1 : State),
    (s.take 0x0011 = some (x, s1) →
      (s.cyc.cur = none → (getLe x.bytes 16 8 = 0 ∨ s.img.active.map (fun i => i.hdr.id) = some (getLe x.bytes 16 8)) →
        ∃ t, exec .unloadImage s = .next t ∧ t.img.active = none ∧ t.img.arm = none ∧ t.img.patches = []
          ∧ t.world = s.world.clear.1 ∧ t.cyc.held = none ∧ bitAt t.saf.causes 6 = true
          ∧ t.host.due.getLast? = (s1.complete x .ok 0 0).host.due.getLast? ∧ t.mem = s.mem ∧ t.regs = s.regs)
      ∧ (s.cyc.cur = none → getLe x.bytes 16 8 ≠ 0 → s.img.active.map (fun i => i.hdr.id) ≠ some (getLe x.bytes 16 8) →
          exec .unloadImage s = .next (s1.complete x .stale 0 0))
      ∧ (s.cyc.cur.isSome = true → exec .unloadImage s = .next { s1 with host := { s1.host with started := x :: s1.host.started } }))
    ∧ (s.take 0x0012 = some (x, s1) → ∀ i p es, s.img.active = some i → getLe x.bytes 16 8 = i.hdr.id →
        getLe x.bytes 24 8 % 64 = 0 → s1.payload x = .ok p → patchEntries i.params p.length p = some es →
        patchOk i (applyPatch (s.img.patches.foldl (fun ps y => applyPatch ps y.entries) s.img.params) es) = true →
        exec .patchParams s = .next (State.complete { s1 with img := { s.img with
          patches := s.img.patches ++ [⟨es, s.img.gen + 1⟩], gen := s.img.gen + 1 } } x .ok (s.img.gen + 1) s.world.nextEpoch))

/-! ### Time -/

/-- SET_TIME, TIME_STEP and TIME_SLEW_STEP. SET_TIME is checked when it starts (R500): with AT_DEVTIME more than 1 s from
device time, or a correction of 2^62 or more, it completes with STATUS_BAD_DESC and changes nothing; else a correction of
at most 5,000 ticks is slewed, a larger one steps device time at once or waits for the first moment without a cycle, a
backward one beyond 5,000 ticks is refused while an image is active, a zero one changes only the calendar, and with
CAL_VALID the calendar takes the given value. The special period of a slew counts two ticks or none, and that of a
SET_TIME's slew moves the armed deadlines with it. -/
def Obligations.TimeIsCorrected : Prop :=
  (∀ (x : Desc) (s s1 : State), s.take 0x0061 = some (x, s1) →
    (s.timeOk x = false → exec .setTime s = .next (s1.complete x .badDesc 0 0))
    ∧ (s.timeOk x = true → x.timeDelta < -5000 → s.img.active.isSome = true →
        exec .setTime s = .next (s1.complete x .refused 0 0))
    ∧ (s.timeOk x = true → x.timeDelta ≠ 0 → iabs x.timeDelta ≤ 5000 → ∃ t, exec .setTime s = .next t
        ∧ t.time = { s.time with slew := some ⟨x.timeDelta, 0, true⟩ } ∧ t.host = (s1.complete x .ok 0 0).host
        ∧ { t with time := s.time, host := s.host, aon := s.aon } = s)
    ∧ (s.timeOk x = true → 5000 < iabs x.timeDelta → (x.timeDelta < 0 → s.img.active = none) → s.cyc.cur.isSome = true →
        ∃ t, exec .setTime s = .next t ∧ t.time = { s.time with steps := s.time.steps ++ [(x.timeDelta, x)] } ∧ t.host = s1.host
          ∧ { t with time := s.time, host := s.host, aon := s.aon } = s)
    ∧ (s.timeOk x = true → 5000 < iabs x.timeDelta → (x.timeDelta < 0 → s.img.active = none) → s.cyc.cur = none →
        0 ≤ (s.time.now : Int) + x.timeDelta → (s.time.now : Int) + x.timeDelta < 2 ^ 64 →
        ∃ t, exec .setTime s = .next t ∧ (t.time.now : Int) = s.time.now + x.timeDelta ∧ { t.time with now := s.time.now } = s.time
          ∧ t.world = (if 0 < x.timeDelta then s.world else { s.world with worldTime := 0 })
          ∧ t.host.due = (s1.complete x .ok 0 0).host.due ∧ t.mem = s.mem ∧ t.regs = s.regs)
    ∧ (s.timeOk x = true → x.timeDelta = 0 → ∃ t, exec .setTime s = .next t ∧ t.host = (s1.complete x .ok 0 0).host
        ∧ { t with host := s.host, aon := s.aon } = s)
    ∧ (s.timeOk x = true → (x.timeDelta < -5000 → s.img.active = none) → bitAt (getLe x.bytes 40 2) 15 = true →
        ∃ t, exec .setTime s = .next t ∧ t.aon = s.aon.calSet (getLe x.bytes 32 8) (getLe x.bytes 40 2 % 0x8000)
          ((s.time.now : Int) - getLe x.bytes 24 8))
    ∧ (bitAt (getLe x.bytes 40 2) 15 = false → ∃ t, exec .setTime s = .next t ∧ t.aon = s.aon))
  ∧ (∀ (delta : Int) (x : Desc) (rest : List (Int × Desc)) (s : State), s.time.steps = (delta, x) :: rest →
      s.cyc.cur = none → 0 ≤ (s.time.now : Int) + delta → (s.time.now : Int) + delta < 2 ^ 64 →
      ∃ t, exec .timeStep s = .next t ∧ (t.time.now : Int) = s.time.now + delta ∧ t.time.steps = rest
        ∧ t.world = (if 0 < delta then s.world else { s.world with worldTime := 0 })
        ∧ t.host.due = (s.complete x .ok 0 0).host.due ∧ t.mem = s.mem ∧ t.regs = s.regs ∧ t.aon = s.aon)
  ∧ (∀ (w : Slew) (s : State), s.time.slew = some w → s.boot.st ≠ .held → s.clk.reached ≠ .off →
      ∃ t, exec .timeSlewStep s = .next t ∧ { t with aon := s.aon, time := s.time, du := s.du } = s
        ∧ t.du = (if w.set then (s.moveDeadlines (if 0 < w.left then 1 else -1)).du else s.du)
        ∧ t.time.now = (if 0 < w.left then s.time.now + 2 else s.time.now) ∧ t.time.sclk = s.time.sclk + 6
        ∧ t.time.slew = (if w.left = 1 ∨ w.left = -1 then none
            else some ⟨if 0 < w.left then w.left - 1 else w.left + 1, 0, w.set⟩))

/-! ### Planning cycles -/

/-- CYCLE_RELEASE outside a cycle, a restart and a transition, in ACTIVE, a roadmap growth standing at its checkpoint:
at the cycle boundary the head of the queue is completed where R37 starts no cycle; else phase 1 is released with a new
snapshot, a new phase epoch, the patched parameters and the dies of the armature. -/
def Obligations.CyclesAreReleased : Prop :=
  ∀ (d : Desc) (rest : List Desc) (s b : State), s.cyc.cur = none → s.cyc.queue = d :: rest → s.saf.due = [] →
    s.saf.active = [] → s.clk.busy = none → s.clk.reached = .active → s.growStops = true →
    b = State.boundary { s with cyc := { s.cyc with queue := rest } } →
    (∀ st, b.releaseStop d = some st →
      exec .cycleRelease s = .next { b.complete d st 0 0 with saf := if st = .noImage then b.saf.set 6 else b.saf })
    ∧ (b.releaseStop d = none → ∃ t c a e, exec .cycleRelease s = .next t ∧ t.cyc.cur = some c
      ∧ b.armature = some a ∧ pickEgo d.worldTime s.world.egos = some e
      ∧ c.desc = d ∧ c.phase = 1 ∧ c.retouch = (d.head.opcode == 0x0031) ∧ c.dies = b.serving.take a.ndie
      ∧ c.release = s.time.now ∧ c.step = b.clk.step ∧ c.passed = [] ∧ c.lists = []
      ∧ c.params = s.img.patches.foldl (fun ps y => applyPatch ps y.entries) s.img.params
      ∧ t.cyc.queue = rest ∧ t.cyc.epoch = (b.cyc.epoch + 1) % 2 ^ 32 ∧ t.cyc.lastRelease = some s.time.now
      ∧ t.img.patches = [] ∧ t.img.params = c.params
      ∧ t.world.epoch = s.world.nextEpoch ∧ t.world.worldTime = d.worldTime ∧ t.world.ego = some e
      ∧ t.eng.queues = [] ∧ t.regs = s.regs ∧ t.smi = s.smi ∧ t.time = s.time ∧ t.boot = s.boot)

/-- Ego states, kept (R91) and chosen (R94). EGO_STATE on whatever ring, of whatever TIMESTAMP and articulation, is the
newest of the 16 states kept; a snapshot takes the one of the highest TIMESTAMP not above the world time, the later
accepted between equals; where none qualifies the cycle descriptor completes with STATUS_STALE, no cycle starts and no
epoch number is consumed. -/
def Obligations.EgoStatesAreKeptAndChosen : Prop :=
  (∀ (x : Desc) (i : Image) (e : Ego) (s s1 : State), s.take 0x0023 = some (x, s1) → s.img.active = some i →
    opRsvOk (leNat (x.bytes.take 64)) x.head.opcode = true → parseEgo i.ego.length x.bytes = some e →
    exec .egoState s = .next (State.complete { s1 with world := { s.world with egos := (e :: s.world.egos).take 16 } } x .ok s.world.nextEpoch 0))
  ∧ (∀ (d : Desc) (rest : List Desc) (s b : State), s.cyc.cur = none → s.cyc.queue = d :: rest → s.saf.due = [] →
    s.saf.active = [] → s.clk.busy = none → s.clk.reached = .active → s.growStops = true →
    b = State.boundary { s with cyc := { s.cyc with queue := rest } } →
    (∀ i a, b.img.active = some i → b.armature = some a → 2 ≤ b.serving.length ∨ i.hdr.compat = true → b.saf.hold = false →
      b.saf.ext ≠ some 1 → (∀ e ∈ s.world.egos, d.worldTime < e.ts) →
      exec .cycleRelease s = .next (b.complete d .stale 0 0) ∧ (b.complete d .stale 0 0).cyc.cur = none
        ∧ { (b.complete d .stale 0 0).world with laid := s.world.laid } = s.world)
    ∧ (b.releaseStop d = none → ∃ t e newer older, exec .cycleRelease s = .next t ∧ t.world.ego = some e
        ∧ s.world.egos = newer ++ e :: older ∧ e.ts ≤ d.worldTime ∧ (∀ f ∈ newer, f.ts ≤ d.worldTime → f.ts < e.ts)
        ∧ (∀ f ∈ older, f.ts ≤ d.worldTime → f.ts ≤ e.ts)))

/-- PHASE_BOUNDARY once every core and the hub have ended the phase: the next phase is released under the next phase
epoch; the tables' check, Enlarge, the splice search, the solve orders, empty lists, proof and the deadline as the rules
of each phase say; at the end of Fix the cycle has committed. -/
def Obligations.PhasesAdvance : Prop :=
  ∀ (c : Cycle) (i : Image) (a : Armature) (e : Ego) (s : State), Sized s → s.cyc.cur = some c → s.img.active = some i →
    s.armature = some a → s.world.ego = some e → s.phaseDone c a = true →
    ((c.phase = 1 ∧ (∀ d ∈ c.dies, ∀ k ∈ s.cores d, k.crcNow = k.tblCrc) ∨ c.phase = 5 ∨ c.phase = 6 ∧ (c.ranked a.sel 4 ≠ [] ∧ c.ranked a.sel 5 ≠ []) ∨ c.phase = 3 ∧ c.retouch = false) →
      ∃ t, exec (.phaseBoundary .clean) s = .next t ∧ { t with cyc := s.cyc, du := s.du } = s
        ∧ t.cyc = { s.cyc with epoch := (s.cyc.epoch + 1) % 2 ^ 32
                               cur := some { c with phase := c.phase + 1, passed := [], phaseSclk := s.time.sclk } })
    ∧ (∀ d k, c.phase = 1 → d ∈ c.dies → k ∈ s.cores d → k.crcNow ≠ k.tblCrc →
        ∃ t, exec (.phaseBoundary .clean) s = .next t ∧ t.cyc.cur = none ∧ t.aon.ctr.commits = s.aon.ctr.commits)
    ∧ (c.phase = 2 → ∃ t, exec (.phaseBoundary .clean) s = .next t
        ∧ t.cyc = { s.cyc with epoch := (s.cyc.epoch + 1) % 2 ^ 32
                               unbuilt := s.cyc.unbuilt.filter (fun d => !c.dies.contains d)
                               cur := some { c with
                                 phase := 3, passed := [], phaseSclk := s.time.sclk
                                 optDl := s.phaseDeadline { c with phase := 3, passed := [], phaseSclk := s.time.sclk } } }
        ∧ (∀ k ∈ c.dies, (t.die k).allTiles = false) ∧ (∀ k, k ∉ c.dies → t.die k = s.die k)
        ∧ (c.retouch = true → t.img = s.img) ∧ { t.img with estat := s.img.estat } = s.img
        ∧ { t with cyc := s.cyc, du := s.du, img := s.img, pkg := { t.pkg with dies := s.pkg.dies } } = s)
    ∧ (c.phase = 4 → c.retouch = false → c.splice = none →
        ∃ t, exec (.phaseBoundary .clean) s = .next t
          ∧ t.cyc.cur = some { c with
              phase := 5, passed := [], phaseSclk := s.time.sclk
              orders := State.solveOrders (State.nextPhase s c) { c with phase := 5, passed := [], phaseSclk := s.time.sclk } a
                (s.phaseDeadline { c with phase := 5, passed := [], phaseSclk := s.time.sclk }) }
          ∧ t.cyc.epoch = (s.cyc.epoch + 1) % 2 ^ 32 ∧ { t with cyc := s.cyc, du := s.du, host := s.host } = s)
    ∧ (c.phase = 6 → c.ranked a.sel 4 = [] ∨ c.ranked a.sel 5 = [] →
        ∃ t more, exec (.phaseBoundary .clean) s = .next t ∧ t.cyc.cur = none ∧ t.cyc.held = s.cyc.held
          ∧ t.aon.ctr.commits = s.aon.ctr.commits
          ∧ t.host.due = s.host.due ++ ⟨c.desc.ring, c.desc.head.tag, if c.nonfinite then .solverNonfinite else .noCandidate,
              c.desc.head.opcode, c.desc.head.seq, (s.cycleWords c).1 % 2 ^ 32, (s.cycleWords c).2 % 2 ^ 32,
              c.desc.head.opcode == 0x0030 || c.desc.head.opcode == 0x0031 || c.desc.head.irq, false⟩ :: more)
    ∧ (c.phase = 7 → ∀ p q, p = proveEmitted (s.proofEnv c i a e) false (c.finalOf a false) →
        q = proveEmitted (s.proofEnv c i a e) true (c.finalOf a true) →
        (p.1 = .pass → q.1 = .pass → s.time.now ≤ getLe c.desc.bytes 24 8 → ∃ t, exec (.phaseBoundary .clean) s = .next t
          ∧ t.cyc = { s.cyc with epoch := (s.cyc.epoch + 1) % 2 ^ 32, history := (false :: s.cyc.history).take 100
                                 cur := some { c with phase := 8, passed := [], phaseSclk := s.time.sclk
                                                      proofPlan := .pass, proofSafe := .pass
                                                      proofFlags := (p.2, q.2) } }
          ∧ { t with cyc := s.cyc, du := s.du } = s)
        ∧ (p.1 = .pass → q.1 = .pass → getLe c.desc.bytes 24 8 < s.time.now → ∃ t, exec (.phaseBoundary .clean) s = .next t
          ∧ t.cyc.cur = none ∧ t.cyc.held = s.cyc.held ∧ t.aon.ctr.commits = s.aon.ctr.commits
          ∧ (t.host.due[s.host.due.length]?).map (fun x => x.status) = some .deadline)
        ∧ (p.1 ≠ .pass ∨ q.1 ≠ .pass → ∃ t, exec (.phaseBoundary .clean) s = .next t
          ∧ t.cyc.cur = none ∧ t.cyc.held = s.cyc.held ∧ t.aon.ctr.commits = s.aon.ctr.commits
          ∧ t.aon.ctr.proofMm = satInc 32 s.aon.ctr.proofMm
          ∧ ((t.host.due[s.host.due.length]?).map (fun x => x.status) = some .verifyMismatch ∨ t.host.due = [])))
    ∧ (c.phase = 8 → ∀ p q, c.finalOf a false = some p → c.finalOf a true = some q →
        ∃ t, exec (.phaseBoundary .clean) s = .next t
          ∧ t.aon.ctr.commits = s.aon.ctr.commits + 1 ∧ t.cyc.cur = none ∧ t.cyc.lastCommit = some s.time.now
          ∧ t.cyc.held = some
              ((s.planRec c a p false (s.aon.ctr.commits + 1) (c.guessList i a e)).bytes,
               (s.planRec c a q true (s.aon.ctr.commits + 1) []).bytes)
          ∧ t.saf.causes = s.saf.commitClears.foldl clrBit s.saf.causes
          ∧ t.saf.stale = some (s.regs.limit * s.regs.stalePeriod) ∧ t.saf.verifyRuns = 0
          ∧ (t.host.due[s.host.due.length]?).map (fun x => (x.status, x.tag, x.heartbeat))
              = some (if c.degraded then .okDegraded else .ok, c.desc.head.tag, true)
          ∧ t.world = s.world ∧ t.regs = s.regs ∧ t.mem = s.mem)

/-- MU_MERGE, LIST, BULK and FAULT_REC: the lists of every die of the cycle, arrived for an entry and a pass, are merged
once; a stale packet is counted; a bulk packet writes where its source reaches; a die's fault record is raised. -/
def Obligations.PacketsArrive : Prop :=
  (∀ (entry : Fin 8) (pass : Fin 16) (c : Cycle) (a : Armature) (e : SelEntry) (s : State), s.cyc.cur = some c →
    s.armature = some a → a.sel[entry.val]? = some e → e.phase = c.phase →
    (∀ l ∈ c.lists, l.entry = entry.val → l.pass = pass.val → l.die ≠ 8) →
    (∀ k ∈ c.dies, ∃ l ∈ c.lists, l.entry = entry.val ∧ l.pass = pass.val ∧ l.die = k ∧ l.die ≠ 8) →
    ∀ ls sp, ls = (c.lists.filter (fun l => l.entry == entry.val && l.pass == pass.val)).map (fun l => l.list) →
      sp = c.passSpec e entry.val pass.val → mergeCheck sp ls (mergeLists sp ls) = 0 →
      exec (.muMerge entry pass .clean) s = .next { s with cyc := { s.cyc with
        cur := some { c with lists := c.lists ++ [⟨entry.val, pass.val, 8, mergeLists sp ls⟩] } } })
  ∧ (∀ (src : Fin 9) (epoch entry pass : Nat) (bytes : List Byte) (c : Cycle) (a : Armature) (e : SelEntry) (s : State),
    src.val ≠ 8 → bytes.length = 1280 → s.cyc.cur = some c → s.armature = some a → a.sel[entry]? = some e →
    (epoch = s.cyc.epoch → src.val ∈ c.dies → e.phase = c.phase → pass < e.passes →
      (∀ l ∈ c.lists, l.entry = entry → l.pass = pass → l.die ≠ src.val ∧ l.die ≠ 8) →
      exec (.list src epoch (.merge entry pass bytes)) s = .next { s with cyc := { s.cyc with
        cur := some { c with lists := c.lists ++ [⟨entry, pass, src.val, SList.ofBytes bytes⟩] } } })
    ∧ (epoch ≠ s.cyc.epoch → exec (.list src epoch (.merge entry pass bytes)) s = .next { s with cyc := { s.cyc with
        stale := (s.cyc.stale.1 + 1, if s.cyc.stale.1 = 0 then epoch else s.cyc.stale.2) } }))
  ∧ (∀ (src : Fin 9) (da : Nat) (bytes : List Byte) (s : State), Memories s → 1 ≤ bytes.length → bytes.length ≤ 256 →
    s.sends src = true →
    (s.bulkReach src da bytes.length = true → s.bulkUp da = true → s.cohBusy da bytes.length = false →
      ∃ t, exec (.bulk src da bytes) s = .next t ∧ Holds t da bytes
      ∧ { t with mem := s.mem, coh := s.coh, world := s.world } = s ∧ { t.world with laid := s.world.laid } = s.world
      ∧ (0x10000000000 ≤ da → t.coh = s.coh ∧ Untouched s t [(da, bytes.length)]))
    ∧ (s.bulkReach src da bytes.length = false → src.val = 8 →
        exec (.bulk src da bytes) s = .next (s.fault ⟨.addr, .restartHub, Loc.hub 0, 0, da / 64 % 2 ^ 32⟩)))
  ∧ (∀ (src : Die) (rec : List Byte) (f : Fault0) (s : State), rec.length = 32 → crcOk 32 rec = true →
    Fault0.ofBytes rec = some f → f.loc.die = src.val → s.sends src = true → f.cls = .info → 
    (∀ w ∈ s.saf.windows, ¬(w.first.code = f.code ∧ w.first.loc = f.loc)) →
    ∃ t, exec (.faultRec src rec) s = .next t ∧ t.aon.ctr.frTotal = satInc 64 s.aon.ctr.frTotal
      ∧ t.aon.ring.getLast? = some ⟨f.code, .info, f.loc, f.d0 % 2 ^ 32, f.d1 % 2 ^ 32, 0, s.time.now, (s.aon.ctr.frTotal + 1) % 2 ^ 32⟩
      ∧ { t with aon := s.aon, host := s.host, saf := s.saf } = s ∧ t.saf.unacked = s.saf.unacked)

/-! ### Sequencers and dispatch units -/

/-- ISSUE, WAIT_EVENT, SIGNAL, TIMED_WAIT and MSG whose action has been taken: the step ends once its IDLE is met and
its flags are handled: PEND is reported for the phase in progress, and the thread goes to NEXT. -/
def Obligations.StepsEnd : Prop :=
  ∀ (c : Core) (n : ThreadNo) (cmd : Instr) (k : StepKind) (x : Thread) (st : SeqStep) (s : State),
    (cmd, k) ∈ [(Instr.issue c n, StepKind.issue), (.waitEvent c n, .waitEvent), (.signal c n, .signal),
      (.timedWait c n, .timedWait), (.msg c n, .msg)] →
    s.atStep c n k = some (x, st) → x.started = true → (k = .msg ∨ k = .signal → x.wait ≠ .msg) →
    (s.idleMet c n st x.step = false → exec cmd s = .next s)
    ∧ (s.idleMet c n st x.step = true → ∃ t, exec cmd s = .next t
        ∧ OnlyThread s t c n { x with step := st.next, started := false, wait := .none, issued := 0, placed := 0 }
        ∧ { t with du := s.du, cyc := s.cyc } = s
        ∧ t.cyc = (if st.pend = true ∧ st.phase = s.phase then { s.cyc with cur := s.cyc.cur.map (fun y =>
            { y with passed := if y.passed.contains c.val then y.passed else y.passed ++ [c.val] }) } else s.cyc))

/-- ISSUE: the step's commands are queued at their engines in slot order, where there is room for them; an indirect slot
takes its command through the solve order, and none of the indirect slots is queued while the order is stale. A mover's
addresses name die slots, which the dies in service replace. While the queue of the next command is full the step waits. -/
def Obligations.CommandsAreIssued : Prop :=
  ∀ (c : Core) (n : ThreadNo) (x : Thread) (st : SeqStep) (k : CoreEntry) (o : SolveOrder) (slots : List Nat) (s : State),
    s.atStep c n .issue = some (x, st) → x.started = false → (s.cores (c.val / 16))[c.val % 16]? = some k →
    (s.queueFull c x.step st x = true → st.ind = 0 → exec (.issue c n) s = .next s)
    ∧ (o = SolveOrder.ofBytes (s.peek (dualBase (c.val / 4) + (s.armature.map (fun a => a.orderOff)).getD 0) 32) →
    (slots = (List.range 4).filter (fun i => nth 0xFFF st.cmds i != 0xFFF && !bitAt x.placed i)
        ∧ (∀ i ∈ slots, bitAt st.ind i = true → o.phaseEpoch = (s.duOf (c.val / 16)).epoch)
      ∨ slots = (List.range 4).filter (fun i => nth 0xFFF st.cmds i != 0xFFF && !bitAt x.placed i && !bitAt st.ind i)
        ∧ o.phaseEpoch ≠ (s.duOf (c.val / 16)).epoch ∧ reactionOf st 0x12 = .continue_) →
    (∀ e, (s.queueOf (unitOf c e) e).length + slots.length ≤ Config.queueDepth + 1) →
    ∃ t y, exec (.issue c n) s = .next t ∧ OnlyThread s t c n y
      ∧ { y with placed := x.placed } = { x with started := true, issued := slots.foldl setBit x.issued }
      ∧ (∀ u e, t.queueOf u e = s.queueOf u e
          ++ (slots.filter (fun i => Config.slotEngine (nth 0 k.steps x.step) i == e && unitOf c e == u)).map (fun i =>
            ⟨slotWord s.slotDies e (if bitAt st.ind i then withOrder e (nth 0 k.pool (nth 0xFFF st.cmds i + o.family)) o
              else nth 0 k.pool (nth 0xFFF st.cmds i)), c, n, x.step, i⟩))
      ∧ { t.eng with queues := s.eng.queues, qeOwners := s.eng.qeOwners } = s.eng ∧ { t with eng := s.eng, du := s.du } = s)

/-- WAIT_EVENT and SIGNAL on an event of the own die: the service ends, and a count is taken, the thread being ready at
once (the model's reading, log entry 101), or the thread joins the FIFO; a signal wakes the first waiting thread, or
counts up to 255, and stalls there while the die serves. -/
def Obligations.EventsAct : Prop :=
  ∀ (c : Core) (n : ThreadNo) (x : Thread) (st : SeqStep) (v : EventSt) (s : State), x.started = false →
    (s.duOf (c.val / 16)).events[field st.operand 0 8]? = some v →
    (s.atStep c n .waitEvent = some (x, st) →
      (0 < v.count → ∃ t y, exec (.waitEvent c n) s = .next t ∧ { t with du := s.du } = s
        ∧ t.thr c n = some y ∧ y = { x with
            status := .ready, ready := s.time.sclk, service := false, started := true, mslot := v.slots.head?.join }
        ∧ (∀ k m, (k, m) ≠ (c.val, n.val) → t.thr k m = s.thr k m)
        ∧ (t.duOf (c.val / 16)).events = setAt (s.duOf (c.val / 16)).events (field st.operand 0 8)
            { v with count := v.count - 1, slots := v.slots.drop 1 })
      ∧ (v.count = 0 → ∃ t, exec (.waitEvent c n) s = .next t ∧ { t with du := s.du } = s
        ∧ t.thr c n = some { x with status := .waiting, wait := .event (field st.operand 0 8) (bitAt st.operand 8)
                                    service := false, mslot := none }
        ∧ (∀ k m, (k, m) ≠ (c.val, n.val) → t.thr k m = s.thr k m)
        ∧ (t.duOf (c.val / 16)).events = setAt (s.duOf (c.val / 16)).events (field st.operand 0 8)
            { v with fifo := v.fifo ++ [(c.val % 16, n.val)] }))
    ∧ (s.atStep c n .signal = some (x, st) → s.dieOfSlot (field st.operand 9 3) = some (c.val / 16) →
        bitAt st.operand 8 = false →
      (v.fifo = [] → v.count < 255 → ∃ t, exec (.signal c n) s = .next t ∧ { t with du := s.du } = s
        ∧ t.thr c n = some { x with started := true } ∧ (∀ k m, (k, m) ≠ (c.val, n.val) → t.thr k m = s.thr k m)
        ∧ (t.duOf (c.val / 16)).events = setAt (s.duOf (c.val / 16)).events (field st.operand 0 8)
            { v with count := v.count + 1, slots := v.slots ++ [none] })
      ∧ (v.fifo = [] → 255 ≤ v.count → (s.duOf (c.val / 16)).serve = .serving → exec (.signal c n) s = .next s)
      ∧ (∀ k m y rest, v.fifo = (k, m) :: rest → (s.duOf (c.val / 16)).saved = [] → k < 16 → (k, m) ≠ (c.val % 16, n.val) →
          s.thr (c.val / 16 * 16 + k) m = some y → ∃ t z, exec (.signal c n) s = .next t ∧ { t with du := s.du } = s
        ∧ t.thr (c.val / 16 * 16 + k) m = some z
        ∧ { z with ssp := y.ssp } = { y with status := .ready, ready := s.time.sclk, wait := .none, started := true, mslot := none }
        ∧ t.thr c n = some { x with started := true }
        ∧ (t.duOf (c.val / 16)).events = setAt (s.duOf (c.val / 16)).events (field st.operand 0 8) { v with fifo := rest }))

/-- SIGNAL to another die, MSG (stale at once where its die slot is not used), TIMED_WAIT without an event, GET and
HALT; the deadline of a timed wait; what ends a thread or makes it wait changes no other thread. -/
def Obligations.ThreadsAct : Prop :=
  ∀ (c : Core) (n : ThreadNo) (x : Thread) (st : SeqStep) (s : State),
    (s.atStep c n .signal = some (x, st) → x.started = false → ∀ d, s.dieOfSlot (field st.operand 9 3) = some d →
      d ≠ c.val / 16 → ∃ t, exec (.signal c n) s = .next t ∧ OnlyThread s t c n { x with started := true, wait := .msg }
        ∧ { t with du := s.du, msgs := s.msgs } = s
        ∧ t.msgs = s.msgs ++ [⟨some c.val, n.val, some d, 0, 0xFF, field st.operand 0 8, (s.duOf (c.val / 16)).epoch, [],
            some (bitAt st.operand 8), false⟩])
    ∧ (s.atStep c n .msg = some (x, st) → x.started = false → bitAt st.operand 3 = false →
        s.dieOfSlot (field st.operand 0 3) = none → reactionOf st 0x12 = .continue_ → ∃ t, exec (.msg c n) s = .next t
        ∧ OnlyThread s t c n { x with started := true } ∧ { t with du := s.du, cyc := s.cyc } = s
        ∧ t.cyc = { s.cyc with stale := (s.cyc.stale.1 + 1,
            if s.cyc.stale.1 = 0 then (s.duOf (c.val / 16)).epoch else s.cyc.stale.2) })
    ∧ (s.atStep c n .msg = some (x, st) → x.started = false →
        bitAt st.operand 3 = true ∨ s.dieOfSlot (field st.operand 0 3) ≠ none → ∃ t m, exec (.msg c n) s = .next t
        ∧ OnlyThread s t c n { x with started := true, wait := .msg } ∧ { t with du := s.du, msgs := s.msgs } = s
        ∧ t.msgs = s.msgs ++ [m] ∧ m.src = some c.val ∧ m.thread = n.val ∧ m.core = field st.operand 4 4
        ∧ m.die = (if bitAt st.operand 3 then none else s.dieOfSlot (field st.operand 0 3))
        ∧ m.role = field st.operand 8 8 ∧ m.target = field st.operand 16 12 ∧ m.epoch = (s.duOf (c.val / 16)).epoch
        ∧ m.payload = s.peek (dualBase (c.val / 4) + field st.operand 28 12 * 16) 16)
    ∧ (s.atStep c n .timedWait = some (x, st) → x.started = false → bitAt st.operand 8 = false →
        ∀ dl, dl = (if bitAt st.operand 9 then (s.cyc.cur.map (fun y => y.release)).getD 0 else s.time.now) + field st.operand 16 32 →
        (s.time.now < dl → ∃ t, exec (.timedWait c n) s = .next t ∧ { t with du := s.du } = s
          ∧ t.thr c n = some { x with status := .waiting, wait := .timed dl none, service := false, mslot := none }
          ∧ (∀ k m, (k, m) ≠ (c.val, n.val) → t.thr k m = s.thr k m))
        ∧ (dl ≤ s.time.now → reactionOf st 0x14 = .continue_ → ∃ t, exec (.timedWait c n) s = .next t
          ∧ { t with du := s.du } = s ∧ t.thr c n = some { x with
              status := .ready, ready := s.time.sclk, service := false, started := true, mslot := none }
          ∧ (∀ k m, (k, m) ≠ (c.val, n.val) → t.thr k m = s.thr k m)))
    ∧ (s.atStep c n .get = some (x, st) → x.started = false → (s.duOf (c.val / 16)).serve = .serving → ∃ t y, exec (.get c n) s = .next t
        ∧ { t with du := s.du } = s ∧ t.thr c n = some y ∧ (∀ k m, (k, m) ≠ (c.val, n.val) → t.thr k m = s.thr k m)
        ∧ { y with mslot := x.mslot } = { x with
            status := .waiting, wait := .grant (field st.operand 0 16) s.time.sclk, started := true, item := none }
        ∧ (∀ h, x.item = some h → h.dyn = false → h.item < (s.duOf (c.val / 16)).items.length →
            (t.duOf (c.val / 16)).items[h.item]? = some .done))
    ∧ (s.atStep c n .halt = some (x, st) →
        (s.idleMet c n st x.step = false → exec (.halt c n) s = .next s)
        ∧ (s.idleMet c n st x.step = true → ∃ t, exec (.halt c n) s = .next t
          ∧ { t with du := s.du, cyc := s.cyc } = s ∧ { t.cyc with cur := s.cyc.cur } = s.cyc
          ∧ t.thr c n = some { x with
              status := .halted, started := false, wait := .none, item := none, service := false, mslot := none }
          ∧ (∀ k m, (k, m) ≠ (c.val, n.val) → t.thr k m = s.thr k m)))
    ∧ (∀ dl ev, s.thr c n = some x → x.wait = .timed dl ev → x.status = .waiting →
        (s.time.now < dl → exec (.timedWaitExpiry c n) s = .next s)
        ∧ (dl ≤ s.time.now → s.stepAt c x.step = some st → reactionOf st 0x14 = .continue_ →
          ∃ t, exec (.timedWaitExpiry c n) s = .next t ∧ { t with du := s.du } = s
          ∧ t.thr c n = some { x with status := .ready, ready := s.time.sclk, wait := .none, started := true }
          ∧ (∀ k m, (k, m) ≠ (c.val, n.val) → t.thr k m = s.thr k m)
          ∧ (∀ v ∈ (t.duOf (c.val / 16)).events, (c.val % 16, n.val) ∉ v.fifo)))

/-- An engine flag: the oldest flag of the core takes the reaction that its step gives it: none, the candidate
retired, its lane refilled where a lane holds it, the thread moved, the thread ended, or, with no cause of its own,
FLT_STEP_FAULT, on which the cluster's restart falls due. -/
def Obligations.FlagsAct : Prop :=
  ∀ (c : Core) (f : EngFlag) (st : SeqStep) (s : State), s.eng.flags.find? (fun y => y.core == c.val) = some f →
    s.stepAt c f.step = some st →
    (reactionOf st f.code = .continue_ → f.code ≠ 2 →
      exec (.engineFlag c) s = .next { s with eng := { s.eng with flags := s.eng.flags.erase f } })
    ∧ (reactionOf st f.code = .retireRefill → ∀ l v q rest d, s.eng.lanes.find? (fun y => y.core == c.val && y.cand == f.cand) = some l →
      l.verdict = some v → s.queueOf c .ce = q :: rest → d = ceOfWord q.word → ∃ t, exec (.engineFlag c) s = .next t
      ∧ { t with eng := s.eng, mem := s.mem, coh := s.coh } = s
      ∧ { t.eng with flags := s.eng.flags, stream := s.eng.stream, lanes := s.eng.lanes, runs := s.eng.runs } = s.eng
      ∧ t.eng.flags = s.eng.flags.erase f
      ∧ (∀ m, m = s.mem.write (scratchBase c + d.outOff * 64 + (f.cand - d.first) * 64) (v.bytes f.cand) →
          t.mem = (match s.cacheBase c, l.entry with
            | some b, some bs => (State.cohWrite { s with mem := m } (cacheAddr b f.cand) bs).mem
            | _, _ => m))
      ∧ (∀ r ∈ t.eng.stream, r.core = c.val → r.cand = f.cand → r.retired = true)
      ∧ t.laneOf c l.lane = (if (s.runOf c .ce).next < d.count then some ⟨c, l.lane, d.first + (s.runOf c .ce).next, none, none⟩ else none)
      ∧ t.runOf c .ce = { s.runOf c .ce with
          next := (s.runOf c .ce).next + boolNat (decide ((s.runOf c .ce).next < d.count)), done := (s.runOf c .ce).done + 1
          verdicts := (s.runOf c .ce).verdicts ++ [v] })
    ∧ (reactionOf st f.code = .retireVoid → ∃ t, exec (.engineFlag c) s = .next t
      ∧ { t with eng := s.eng } = s ∧ { t.eng with flags := s.eng.flags, stream := s.eng.stream } = s.eng
      ∧ t.eng.flags = s.eng.flags.erase f
      ∧ ∀ r ∈ t.eng.stream, r.core = c.val → r.cand = f.cand → r.retired = true ∧ r.void = true)
    ∧ (reactionOf st f.code = .skip ∨ reactionOf st f.code = .goto → ∀ x, s.thr c f.thread = some x →
      (x.step ≠ f.step → exec (.engineFlag c) s = .next { s with eng := { s.eng with flags := s.eng.flags.erase f } })
      ∧ (x.step = f.step → x.status = .running → ∃ t, exec (.engineFlag c) s = .next t
        ∧ { t with eng := s.eng, du := s.du } = s ∧ t.eng = { s.eng with flags := s.eng.flags.erase f }
        ∧ t.thr c f.thread = some { x with
            step := if reactionOf st f.code = .skip then st.next else st.goto, started := false, wait := .none, issued := 0, placed := 0 }
        ∧ (∀ k m, (k, m) ≠ (c.val, f.thread) → t.thr k m = s.thr k m)))
    ∧ (f.code = 0xC ∨ f.code = 0xD → ∀ x, s.thr c f.thread = some x → (s.pushFrame c f.thread 2 x).isSome = true →
      ∃ t, exec (.engineFlag c) s = .next t ∧ { t with eng := s.eng, du := s.du, mem := s.mem } = s
        ∧ t.eng = { s.eng with flags := s.eng.flags.erase f } ∧ (t.thr c f.thread).map (fun y => y.status) = some .killed)
    ∧ (reactionOf st f.code = .fault → f.code ≠ 0xC → f.code ≠ 0xD → f.cause = none → ∀ u x, s.saf.escalate (.cluster (c.val / 4)) = .restart u →
      s.thr c f.thread = some x → x.status ≠ .killed → (s.pushFrame c f.thread 2 x).isSome = true →
      ∃ t, exec (.engineFlag c) s = .next t
        ∧ t.saf.due = addDue u s.saf.due ∧ bitAt t.saf.causes 2 = true ∧ t.cyc.cur = none ∧ t.world = s.world ∧ t.regs = s.regs)

/-- DU_GRANT: of the eligible items or activations the best is granted; its record is stored in the thread's slot
of the dual-port region. -/
def Obligations.WorkIsGranted : Prop :=
  ∀ (d : Die) (g : DuCfg) (k : GrantCand) (x : Thread) (s : State), s.duCfg d = some g → Memories s →
    (s.grantCands d = [] → exec (.duGrant d) s = .next s)
    ∧ (bestGrant (s.grantCands d) = some k → k ∈ s.grantCands d ∧ ∀ y ∈ s.grantCands d, y.ahead k = false)
    ∧ (bestGrant (s.grantCands d) = some k → k.core < 16 → s.thr (d * 16 + k.core) k.thread = some x →
      (∀ h st e, k.held = some h → s.stepAt (d * 16 + k.core) x.step = some st → 
        h.dyn = false → g.items[h.item]? = some e →
        ∃ t, exec (.duGrant d) s = .next t ∧ { t with du := s.du, mem := s.mem, cyc := s.cyc } = s
          ∧ t.thr (d * 16 + k.core) k.thread = some { x with
              step := if e.entry = 0xFFF then st.next else e.entry, started := false, wait := .none, issued := 0, placed := 0
              status := .running, item := some h, mslot := none }
          ∧ (∀ y m, (y, m) ≠ (d * 16 + k.core, k.thread) → t.thr y m = s.thr y m)
          ∧ (t.duOf d).items = setAt (s.duOf d).items h.item .service
          ∧ Holds t (dualBase (d * 4 + k.core / 4) + grantOffset g k.core k.thread) (grantBytes h.item false e.arg none s.time.now)
          ∧ Untouched s t [(dualBase (d * 4 + k.core / 4) + grantOffset g k.core k.thread, 16)])
      ∧ (k.held = none → (∀ m y, s.thr (d * 16 + k.core) m = some y → y.status ≠ .running) →
        ∃ t, exec (.duGrant d) s = .next t ∧ { t with du := s.du, mem := s.mem } = s
          ∧ OnlyThread s t (d * 16 + k.core) k.thread { x with
              status := .running, service := true, pushed := false, ssp := if x.pushed then x.ssp - 64 else x.ssp }
          ∧ Holds t (dualBase (d * 4 + k.core / 4) + grantOffset g k.core k.thread) (grantBytes k.thread false 0 (x.mslot.map (fun y => y.2)) s.time.now)
          ∧ Untouched s t [(dualBase (d * 4 + k.core / 4) + grantOffset g k.core k.thread, 16)]))

/-- MESSAGE_DELIVERY, PHASE_EPOCH_ADVANCE, BOUND_SOURCE_FIRE and QUIESCENCE_EXPIRY: the oldest message to the
destination is stored and posts its work or counts at its event, is dropped as stale, or stalls where there is no room;
a SIGNAL from another die counts at its event; TRACE messages are recorded at the hub, where they wait for a cycle; a
die takes the hub's phase epoch; a source fires at its binding, stalls, or is refused by a die that does not serve (where
the hub notes it is the model's choice, log entry 121); a quiescent die restarts. -/
def Obligations.DispatchUnitsAct : Prop :=
  (∀ (d : Die) (dst : Fin 9) (m : Msg) (g : DuCfg) (s : State), Sized s → Memories s → dst.val = d.val →
    s.msgs.find? (fun y => y.die == some d.val) = some m → s.duCfg d = some g →
    (msgStale (some g) s.phase (s.duOf d) m = true → (∀ c x, m.src = some c → s.thr c m.thread = some x → x.wait ≠ .msg) →
      ∃ t, exec (.messageDelivery dst) s = .next t
      ∧ { t with msgs := s.msgs, du := s.du } = s ∧ t.msgs = s.msgs.erase m ∧ (∀ k, k ≠ d.val → t.duOf k = s.duOf k)
      ∧ t.duOf d = { s.duOf d with stale := (s.duOf d).stale + 1
                                   staleEpoch := if (s.duOf d).stale = 0 then m.epoch else (s.duOf d).staleEpoch })
    ∧ (∀ c x, msgStale (some g) s.phase (s.duOf d) m = true → m.signal.isSome = true → m.src = some c → c / 16 ≠ d.val →
        s.thr c m.thread = some x → x.wait = .msg → ∃ t, exec (.messageDelivery dst) s = .next t
      ∧ { t with msgs := s.msgs, du := s.du } = s ∧ t.msgs = s.msgs.erase m ∧ (t.duOf d).stale = (s.duOf d).stale + 1
      ∧ t.thr c m.thread = some { x with wait := .none }
      ∧ (∀ y i, (y, i) ≠ (c, m.thread) → t.thr y i = s.thr y i))
    ∧ (msgStale (some g) s.phase (s.duOf d) m = false → m.signal = none → (s.duOf d).serve = .serving →
        ((s.duOf d).slotFor g m.core = none ∨ g.mode = .dataflow ∧ g.ndyn ≤ (s.duOf d).dyn.length) →
        (∀ y ∈ s.msgs, y.die = some d.val → y = m) →
        exec (.messageDelivery dst) s = .next s)
    ∧ (∀ k c x, msgStale (some g) s.phase (s.duOf d) m = false → m.signal = none → g.mode = .dataflow →
        (s.duOf d).slotFor g m.core = some k → (s.duOf d).dyn.length < g.ndyn → m.src = some c → 
        s.thr c m.thread = some x → x.wait = .msg →
        ∃ t id, exec (.messageDelivery dst) s = .next t ∧ { t with msgs := s.msgs, du := s.du, mem := s.mem } = s
          ∧ t.msgs = s.msgs.erase m ∧ t.thr c m.thread = some { x with wait := .none }
          ∧ (∀ y i, (y, i) ≠ (c, m.thread) → t.thr y i = s.thr y i)
          ∧ (t.duOf d).dyn = (s.duOf d).dyn ++ [⟨id, m.target, ((g.tmpls[m.target]?).map (fun e => e.arg)).getD 0, s.time.sclk,
              false, some (m.core, k)⟩]
          ∧ (∀ y ∈ (s.duOf d).dyn, y.id ≠ id)
          ∧ Holds t (dualBase (d * 4 + m.core / 4) + mboxOffset g m.core k) (mboxBytes m s.time.now)
          ∧ Untouched s t [(dualBase (d * 4 + m.core / 4) + mboxOffset g m.core k, 32)])
    ∧ (∀ c x v, msgStale (some g) s.phase (s.duOf d) m = false → (s.duOf d).events[m.target]? = some v → v.fifo = [] →
        v.count < 255 → m.src = some c → s.thr c m.thread = some x → x.wait = .msg →
        (∀ k, m.signal = none → g.mode = .rtk → (s.duOf d).slotFor g m.core = some k →
          ∃ t, exec (.messageDelivery dst) s = .next t ∧ { t with msgs := s.msgs, du := s.du, mem := s.mem } = s
            ∧ t.msgs = s.msgs.erase m ∧ t.thr c m.thread = some { x with wait := .none }
            ∧ (∀ y i, (y, i) ≠ (c, m.thread) → t.thr y i = s.thr y i)
            ∧ (t.duOf d).events = setAt (s.duOf d).events m.target { v with count := v.count + 1, slots := v.slots ++ [some (m.core, k)] }
            ∧ Holds t (dualBase (d * 4 + m.core / 4) + mboxOffset g m.core k) (mboxBytes m s.time.now)
            ∧ Untouched s t [(dualBase (d * 4 + m.core / 4) + mboxOffset g m.core k, 32)])
        ∧ (m.signal = some false →
          ∃ t, exec (.messageDelivery dst) s = .next t ∧ { t with msgs := s.msgs, du := s.du } = s
            ∧ t.msgs = s.msgs.erase m ∧ t.thr c m.thread = some { x with wait := .none }
            ∧ (∀ y i, (y, i) ≠ (c, m.thread) → t.thr y i = s.thr y i)
            ∧ (t.duOf d).events = setAt (s.duOf d).events m.target { v with count := v.count + 1, slots := v.slots ++ [none] })))
  ∧ (∀ (dst : Fin 9) (m : Msg) (s : State), dst.val = 8 → s.msgs.find? (fun y => y.die == none) = some m → m.src = none →
    m.told = false →
    (m.role = 0xFE → s.cyc.cur = none →
      exec (.messageDelivery dst) s = .next { s with msgs := s.msgs.erase m ++ [{ m with told := true }] })
    ∧ (m.role ≠ 0xFE → exec (.messageDelivery dst) s = .next { s with msgs := s.msgs.erase m, cyc := { s.cyc with
        stale := (s.cyc.stale.1 + 1, if s.cyc.stale.1 = 0 then m.epoch else s.cyc.stale.2) } })
    ∧ (m.role = 0xFE → ∀ c a n, s.cyc.cur = some c → traceArea c.desc s.sheetBankLen = some (a, n) →
      ∃ t, exec (.messageDelivery dst) s = .next t ∧ { t with msgs := s.msgs, cyc := s.cyc, host := s.host } = s
        ∧ t.msgs = s.msgs.erase m
        ∧ t.cyc = { s.cyc with cur := some (if 64 + 32 * (c.traced + 1) ≤ n then { c with traced := c.traced + 1 }
            else { c with traceLost := c.traceLost + 1 }) }
        ∧ t.host = (if 64 + 32 * (c.traced + 1) ≤ n then
            (s.hostWrite (a + 64 + 32 * c.traced) (mboxBytes m s.time.now)).host else s.host)))
  ∧ (∀ (d : Die) (s : State), Sized s → ∃ t, exec (.phaseEpochAdvance d) s = .next t ∧ { t with du := s.du } = s
    ∧ t.duOf d = { s.duOf d with epoch := s.cyc.epoch } ∧ ∀ k, k ≠ d.val → t.duOf k = s.duOf k)
  ∧ (∀ (d : Die) (src : BindSource) (arg : Nat) (rest : List (BindSource × Nat)) (g : DuCfg) (s : State), Sized s →
    (s.duOf d).fires = (src, arg) :: rest → s.duCfg d = some g →
    ((s.duOf d).serve ≠ .serving → ∃ t, exec (.boundSourceFire d) s = .next t ∧ { t with du := s.du } = s
      ∧ t.duOf d = { s.duOf d with fires := rest, refused := (s.duOf d).refused ++ [(src, arg)] }
      ∧ ∀ k, k ≠ d.val → t.duOf k = s.duOf k)
    ∧ ((s.duOf d).serve = .serving → g.mode = .dataflow → ∀ b,
      g.binds.filter (fun b => b.source == src && (b.arg == arg || src == .cycleEnd || src == .hubBound)) = [b] →
      (g.ndyn ≤ (s.duOf d).dyn.length → exec (.boundSourceFire d) s = .next s)
      ∧ ((s.duOf d).dyn.length < g.ndyn → ∃ t id, exec (.boundSourceFire d) s = .next t ∧ { t with du := s.du } = s
        ∧ t.duOf d = { s.duOf d with fires := rest, dyn := (s.duOf d).dyn
            ++ [⟨id, b.target, ((g.tmpls[b.target]?).map (fun e => e.arg)).getD b.arg, s.time.sclk, false, none⟩] }
        ∧ (∀ y ∈ (s.duOf d).dyn, y.id ≠ id) ∧ ∀ k, k ≠ d.val → t.duOf k = s.duOf k))
    ∧ ((s.duOf d).serve = .serving → g.mode = .rtk → ∀ b v,
      g.binds.filter (fun b => b.source == src && (b.arg == arg || src == .cycleEnd || src == .hubBound)) = [b] →
      (s.duOf d).events[b.target]? = some v → v.fifo = [] →
      (255 ≤ v.count → exec (.boundSourceFire d) s = .next s)
      ∧ (v.count < 255 → ∃ t, exec (.boundSourceFire d) s = .next t ∧ { t with du := s.du } = s
        ∧ t.duOf d = { s.duOf d with fires := rest,
                                     events := setAt (s.duOf d).events b.target { v with count := v.count + 1, slots := v.slots ++ [none] } }
        ∧ ∀ k, k ≠ d.val → t.duOf k = s.duOf k)))
  ∧ (∀ (d : Die) (g : DuCfg) (u : RUnit) (s : State), s.duCfg d = some g →
    ((s.duOf d).quiescent g (s.inFlight d || !(s.duOf d).fires.isEmpty) = false → exec (.quiescenceExpiry d) s = .next s)
    ∧ ((s.duOf d).quiescent g (s.inFlight d || !(s.duOf d).fires.isEmpty) = true → s.saf.escalate (.die d) = .restart u →
      ∃ t, exec (.quiescenceExpiry d) s = .next t ∧ t.saf.due = addDue u s.saf.due ∧ bitAt t.saf.causes 2 = true
        ∧ t.cyc.cur = none ∧ t.world = s.world ∧ t.regs = s.regs ∧ t.mem = s.mem))

/-! ### Engines -/

/-- BUILD_CSPACE, BUILD_OCC and BUILD_STATIC, without a finding, as the head of their queue: the tiles, records and lists
of the snapshot stand in the die's memories, the counts in the status record and the result record, the flags go out. -/
def Obligations.EnlargerBuilds : Prop :=
  ∀ (cl : Cluster) (w : BitVec 128) (d : DeCmd) (q : QCmd) (rest : List QCmd) (e : EngEnv) (s : State), Memories s →
    s.queueOf cl .de = q :: rest → q.word = w.toNat → s.engEnv (cl.val / 4) = some e → d = DeCmd.ofWord w.toNat →
    (∀ r, d.op = 1 → r = buildCspace (s.world.forDie e.img.world (cl.val / 4)) e.img.world e.enl (e.img.kernelsOf e.ps).flatten d
        (s.rebuild e (cl.val / 4)) →
      ∃ t, exec (.buildCspace cl w .clean) s = .next t ∧ Taken s t cl .de q rest
        ∧ { t with mem := s.mem, eng := s.eng, du := s.du } = s
        ∧ { t.eng with queues := s.eng.queues, flags := s.eng.flags } = s.eng
        ∧ t.mem = (r.1.foldl (fun m x => m.write (csAddr (cl.val / 4) x.1) x.2) s.mem).write (dualBase cl + d.resultAddr)
            (deResult (d.tiles e.img.world (s.rebuild e (cl.val / 4))).length 0 0 0 r.2 false)
        ∧ t.eng.flags = s.eng.flags ++ (if r.2 then [q.flagOf 5 0xFFFFFFFF 0xFFFFFFFF] else []))
    ∧ (∀ r, d.op = 2 → r = buildOcc s.world e.img.world e.enl d →
      ∃ t, exec (.buildOcc cl w .clean) s = .next t ∧ Taken s t cl .de q rest
        ∧ { t with mem := s.mem, eng := s.eng, du := s.du, cyc := s.cyc } = s
        ∧ { t.eng with queues := s.eng.queues, flags := s.eng.flags } = s.eng
        ∧ Holds t (dualBase cl + d.resultAddr)
            (deResult 0 (r.1.filter (fun x => x.2 == .saturated)).length 0 r.2 false false)
        ∧ t.eng.flags = s.eng.flags
            ++ (if r.1.any (fun x => x.2 == .saturated) then [q.flagOf 7 0xFFFFFFFF 0xFFFFFFFF] else [])
        ∧ ((r.1.map (fun x => x.1)).Nodup → (∀ x ∈ r.1, d.bufAddr + x.1 * 32 + 32 ≤ 0x400000) → ∀ x ∈ r.1, ∀ k, k < 4 →
            Holds t (sharedBase (cl.val / 4 * 4 + k) + (d.bufAddr + x.1 * 32)) ((x.2.toEntries 16).map (leBytes 2)).flatten)
        ∧ t.cyc = (if (s.cyc.cur.bind (fun c => c.dies.head?)) = some (cl.val / 4) then { s.cyc with cur := s.cyc.cur.map (fun c =>
            { c with counts := { c.counts with
              satrec := c.counts.satrec + capU16 (r.1.filter (fun x => x.2 == .saturated)).length
              bigcover := c.counts.bigcover + capU16 r.2 } }) } else s.cyc))
    ∧ (∀ r, d.op = 3 → r = buildStatic s.world e.img.world d (s.rebuild e (cl.val / 4)) →
      ∃ t, exec (.buildStatic cl w .clean) s = .next t ∧ Taken s t cl .de q rest
        ∧ { t with mem := s.mem, eng := s.eng, du := s.du, cyc := s.cyc } = s
        ∧ { t.eng with queues := s.eng.queues, flags := s.eng.flags } = s.eng
        ∧ Holds t (dualBase cl + d.resultAddr)
            (deResult r.length 0 (r.filter (fun x => x.2 == .saturated)).length 0 false false)
        ∧ t.eng.flags = s.eng.flags
            ++ (if r.any (fun x => x.2 == .saturated) then [q.flagOf 7 0xFFFFFFFF 0xFFFFFFFF] else [])
        ∧ t.cyc = (if (s.cyc.cur.bind (fun c => c.dies.head?)) = some (cl.val / 4) then { s.cyc with cur := s.cyc.cur.map (fun c =>
            { c with counts := { c.counts with
              satstat := c.counts.satstat + capU16 (r.filter (fun x => x.2 == .saturated)).length } }) } else s.cyc))

/-- EXPAND_LIB, EXPAND_SEQ, BUILD_PATH and RM_SEARCH, without a finding, as the head of their queue: the candidates of
the command stand in the core's ring, in the slots that are free for them, those of the optimisation generator as the guess
they refine (R150; that it is EXPAND_LIB that expands a guess is the model's reading, log entry 56), the sequence, paths
and results in its memories; the frame of each. An expansion under way whose next slot is taken waits. -/
def Obligations.PosesAreExpanded : Prop :=
  ∀ (c : Core) (w : BitVec 128) (d : PeCmd) (q : QCmd) (rest : List QCmd) (e : EngEnv) (s : State), Memories s →
    s.queueOf c .pe = q :: rest → q.word = w.toNat → s.engEnv (c.val / 16) = some e → d = PeCmd.ofWord w.toNat →
    (∀ (cmd : Instr) (one : Nat → List Sample) (cs : List (List Sample)),
      (d.op = 1 ∧ cmd = .expandLib c w .clean ∧ (∀ i, one i =
            if (e.arm.famOf (d.first + i)).map (fun f => f.1) = some 2 then s.guess e (d.ord + i)
            else expandLib e.img.lib e.lib e.img.ego e.ego d.section_ (d.ord + i))
        ∨ d.op = 2 ∧ cmd = .expandSeq c w .clean
          ∧ (d.inOff * 64 + d.count * seqStride e.lib.nstn e.img.misc.nsamp ≤ d.outOff * 64
              ∨ d.outOff * 64 + d.count * (e.img.misc.nsamp * 64) ≤ d.inOff * 64)
          ∧ (∀ i, one i =
            if (e.arm.famOf (d.first + i)).map (fun f => f.1) = some 2 ∧ (s.cyc.held = none
                ∨ ∃ k, s.cyc.cur = some k ∧ d.first + i ∈ k.optVoid) then [voidSample]
            else expandSeq e.img.ego e.img.misc.nsamp ⟨⟨0, 0, 0, true, 0, e.ego.reverse⟩, e.lib.step,
              s.stationsAt (scratchBase c + d.inOff * 64 + i * seqStride e.lib.nstn e.img.misc.nsamp) e.lib.nstn,
              s.profileAt (scratchBase c + d.inOff * 64 + i * seqStride e.lib.nstn e.img.misc.nsamp) e.lib.nstn e.img.misc.nsamp,
              e.img.misc.dts⟩)) →
      cs = (List.range d.count).map (fun i => stickySat (s.eng.pathSat.contains (c.val, d.first + i)) (one i)) →
      (s.runs c .pe = true → (s.runOf c .pe).next < d.count → s.slotFree c d ((s.runOf c .pe).next % d.slots) = false →
        exec cmd s = .next s)
      ∧ (s.runs c .pe = false → d.count ≤ d.slots → (∀ i, i < d.count → s.slotFree c d i = true) →
      ∃ t, exec cmd s = .next t ∧ Taken s t c .pe q rest
        ∧ { t with mem := s.mem, eng := s.eng, du := s.du, cyc := s.cyc } = s
        ∧ { t.eng with queues := s.eng.queues, flags := s.eng.flags, stream := s.eng.stream } = s.eng
        ∧ (∀ i, i < d.count → t.ringCand c (d.first + i) = some ⟨c, d.first + i, d.outOff, i, false, false⟩)
        ∧ t.mem = (cs.zipIdx.foldl (fun m x => m.write
              (scratchBase c + d.outOff * 64 + x.2 * (e.img.misc.nsamp * 64)) (x.1.map Sample.bytes).flatten) s.mem).write
            (dualBase (c.val / 4) + d.resultOff * 16) (expandResult cs false)
        ∧ t.eng.flags = s.eng.flags ++ (cs.zipIdx.map (fun x =>
            (if x.1.any (fun y => y.sat) then [q.flagOf 5 0xFFFFFFFF (d.first + x.2)] else [])
            ++ (if isVoid x.1 then [q.flagOf 6 0xFFFFFFFF (d.first + x.2)] else []))).flatten
        ∧ (s.phase ≠ 3 → t.cyc = s.cyc)
        ∧ (s.phase = 3 → ∀ x ∈ cs.zipIdx, isVoid x.1 = true →
            t.cyc.cur.map (fun k => k.voided.contains (d.first + x.2)) = some true)))
    ∧ (d.op = 3 → ∀ raw prof path ss sat,
      (d.mode = true ∧ raw = (s.stationsAt (scratchBase c + d.inOff * 64) d.count).map (fun x => (x.x, x.y, x.psi, x.kappa))
          ∧ prof = (if (e.arm.famOf d.first).map (fun f => f.1) = some 2 then
              (if isVoid (s.guess e d.ord) then badProfile e.img.misc.nsamp else progress (s.guess e d.ord))
            else s.profileAt (scratchBase c + d.inOff * 64) d.count e.img.misc.nsamp)
          ∧ sat = rawSat e.img.ego e.lib.step e.ego raw
        ∨ d.mode = false ∧ (∃ r, s.img.region = some r ∧ path = s.pathAt e.img r (scratchBase c + d.inOff * 64)) ∧ path ≠ []
          ∧ raw = cubicRaw e.lib.step d.count e.ego path
          ∧ prof = roadmapProfile e.img.misc.nsamp e.img.misc.dts e.ego path
          ∧ sat = (rawSat e.img.ego e.lib.step e.ego raw || speedSat e.ego)) →
      ss = finishStations e.img.ego e.lib.step e.ego (satRaw raw) → stationsInBand e.lib.step ss = true →
      ∃ t, exec (.buildPath c w .clean) s = .next t ∧ Taken s t c .pe q rest
        ∧ { t with mem := s.mem, eng := s.eng, du := s.du } = s
        ∧ { t.eng with queues := s.eng.queues, flags := s.eng.flags, pathSat := s.eng.pathSat } = s.eng
        ∧ t.mem = (s.mem.write (scratchBase c + d.outOff * 64)
            (seqBytes ss prof)).write
            (dualBase (c.val / 4) + d.resultOff * 16) (peResult d.count 0 0 0 sat false false)
        ∧ (sat = true → t.eng.pathSat.contains (c.val, d.first) = true) ∧ (sat = false → t.eng.pathSat = s.eng.pathSat)
        ∧ t.eng.flags = s.eng.flags ++ (if sat then [q.flagOf 5 0xFFFFFFFF d.first] else []))
    ∧ (d.op = 3 → d.mode = false → (∀ r, s.img.region = some r → s.pathAt e.img r (scratchBase c + d.inOff * 64) = []) →
      ∃ t, exec (.buildPath c w .clean) s = .next t ∧ Taken s t c .pe q rest
        ∧ { t with mem := s.mem, eng := s.eng, du := s.du } = s
        ∧ { t.eng with queues := s.eng.queues, flags := s.eng.flags, pathSat := s.eng.pathSat } = s.eng
        ∧ Holds t (dualBase (c.val / 4) + d.resultOff * 16) (peResult d.count 1 0 0 (speedSat e.ego) true false)
        ∧ t.eng.flags = s.eng.flags ++ (if speedSat e.ego then [q.flagOf 5 0xFFFFFFFF d.first] else [])
            ++ [q.flagOf 6 0xFFFFFFFF d.first])
    ∧ (∀ r y cs ps sat, d.op = 4 → s.img.region = some r → s.cyc.cur = some y →
      cs = rmSearch e.img.roadmap r ((e.img.ego.head?.map (fun b => b.kappaMax)).getD 0) s.img.nodes (paramVal e.ps 0x32 0)
        s.estatOf e.ego →
      ps = (List.range d.count).map (fun i => rmPath e.img.roadmap r y.desc.goal cs (d.ord + i)) →
      sat = (cs.any (fun x => x.sat) || speedSat e.ego) →
      ∃ t, exec (.rmSearch c w .clean) s = .next t ∧ Taken s t c .pe q rest
        ∧ { t with mem := s.mem, eng := s.eng, du := s.du } = s
        ∧ { t.eng with queues := s.eng.queues, flags := s.eng.flags } = s.eng
        ∧ t.eng.flags = s.eng.flags ++ (if sat then [q.flagOf 5 0xFFFFFFFF 0xFFFFFFFF] else [])
        ∧ Holds t (dualBase (c.val / 4) + d.resultOff * 16) (peResult (ps.filter (fun p => p.isSome)).length 0 0
            (((rmWindow e.img.roadmap r s.img.nodes e.ego.x).length + 15) / 16) sat false false)
        ∧ (d.outOff * 64 + d.count * 4160 ≤ 0x80000 → ∀ i, i < d.count → ∀ p, ps[i]? = some p →
            Holds t (scratchBase c + d.outOff * 64 + i * 4160)
              (leBytes 4 ((p.getD []).take 1039).length ++ (((p.getD []).take 1039).map (leBytes 4)).flatten))
        ∧ Untouched s t [(dualBase (c.val / 4) + d.resultOff * 16, 16), (scratchBase c + d.outOff * 64, d.count * 4160)])

/-- The collision and cost engines' commands, without a finding, as the head of their queue. A CHECK_STREAM's lanes reach
the verdicts of the candidates that stand written in their ring, with the flags of each; it ends with its result once every
candidate has retired (FlagsAct says what a retirement writes). CHECK_TRAJ, CHECK_POSES, COST_STREAM, COST_TRAJ and
COST_FINAL write their records, result and flags; a stream command waits for its candidates. -/
def Obligations.CandidatesAreCheckedAndCosted : Prop :=
  (∀ (c : Core) (w : BitVec 128) (d : KeCmd) (q : QCmd) (rest : List QCmd) (e : EngEnv) (s : State),
    Memories s → s.queueOf c .ce = q :: rest → q.word = w.toNat → s.engEnv (c.val / 16) = some e → d = ceOfWord w.toNat →
    (∀ (rc : Nat → RingCand) (vs : Nat → VRec × Option (List Byte)), d.op = 1 → s.runs c .ce = false → 0 < d.count →
      (∀ j, j < min d.lanes d.count → s.toCost c d.inOff (d.first + j) = false ∧ s.written c d.inOff (d.first + j) = some (rc j)
        ∧ vs j = s.laneVerdict e c d (d.first + j) false (s.ringSamples e.img.misc.nsamp (rc j))) →
      ∃ t, exec (.checkStream c w .clean) s = .next t ∧ { t with eng := s.eng } = s
        ∧ { t.eng with flags := s.eng.flags, lanes := s.eng.lanes, runs := s.eng.runs } = s.eng
        ∧ (∀ j, j < min d.lanes d.count → t.laneOf c j = some ⟨c, j, d.first + j, some (vs j).1, (vs j).2⟩)
        ∧ (∀ k j, k ≠ c.val → t.laneOf k j = s.laneOf k j)
        ∧ t.runOf c .ce = ⟨c, .ce, min d.lanes d.count, 0, [], 0, 0, false, false, false⟩
        ∧ t.eng.flags = s.eng.flags ++ ((List.range (min d.lanes d.count)).map (fun j =>
            (if (s.chiselEnv e (c.val / 4)).satBefore d.flag d.bmask (s.ringSamples e.img.misc.nsamp (rc j)) (vs j).1
              then [q.flagOf 5 j (d.first + j)] else [])
            ++ [{ q.flagOf (if (vs j).1.verdict.isLethal then 2 else if (vs j).1.trunc then 3 else 4) j (d.first + j) with
                  also := if (vs j).1.sat = true ∧ (s.chiselEnv e (c.val / 4)).satBefore d.flag d.bmask
                    (s.ringSamples e.img.misc.nsamp (rc j)) (vs j).1 = false then [5] else [] }])).flatten)
    ∧ (d.op = 1 → s.runs c .ce = true → (s.runOf c .ce).done < d.count →
        (∀ l ∈ s.eng.lanes, l.core = c.val → l.verdict.isSome = true ∨ s.toCost c d.inOff l.cand = true
          ∨ s.written c d.inOff l.cand = none) →
        exec (.checkStream c w .clean) s = .next s)
    ∧ (d.op = 1 → s.runs c .ce = true → d.count ≤ (s.runOf c .ce).done → (∀ l ∈ s.eng.lanes, l.core ≠ c.val) →
      ∃ t, exec (.checkStream c w .clean) s = .next t ∧ Taken s t c .ce q rest
        ∧ { t with mem := s.mem, eng := s.eng, du := s.du, cyc := s.cyc } = s
        ∧ { t.eng with queues := s.eng.queues, runs := s.eng.runs } = s.eng ∧ t.runs c .ce = false
        ∧ t.mem = s.mem.write (dualBase (c.val / 4) + d.resultOff * 16)
            (chiselResult (s.runOf c .ce).verdicts (s.goesOn q) false)
        ∧ t.cyc = { s.cyc with cur := s.cyc.cur.map (fun k => { k with counts := { k.counts with
            capped := k.counts.capped
              + ((s.runOf c .ce).verdicts.filter (fun r => r.verdict == .cap || r.verdict == .sattile)).length
            truncs := k.counts.truncs + ((s.runOf c .ce).verdicts.filter (fun r => r.trunc)).length } }) })
    ∧ (∀ (cmd : Instr) (rs : List VRec) (m : Memory),
      (d.op = 2 ∧ cmd = .checkTraj c w .clean
          ∧ rs = [(s.chiselEnv e (c.val / 4)).verdictOf d.flag d.bmask (s.samplesAt (scratchBase c + d.inOff * 64) d.count)]
        ∨ d.op = 3 ∧ cmd = .checkPoses c w .clean ∧ rs = (s.posesOf e c d).map
            ((s.chiselEnv e (c.val / 4)).verdictPose d.flag d.bmask e.img.misc.dts e.img.misc.nsamp)) →
      m = rs.zipIdx.foldl (fun m x => m.write (scratchBase c + d.outOff * 64 + x.2 * 64) (x.1.bytes (d.first + x.2))) s.mem →
      ∃ t, exec cmd s = .next t ∧ Taken s t c .ce q rest
        ∧ { t with mem := s.mem, eng := s.eng, du := s.du, cyc := s.cyc } = s
        ∧ { t.eng with queues := s.eng.queues, flags := s.eng.flags, trajs := s.eng.trajs } = s.eng
        ∧ t.mem = m.write (dualBase (c.val / 4) + d.resultOff * 16) (chiselResult rs (State.goesOn { s with mem := m } q) false)
        ∧ (d.op = 3 → t.eng.trajs = s.eng.trajs)
        ∧ (∀ r, d.op = 2 → rs = [r] → t.eng.trajs = insertKey (trajKey c d.first) r s.eng.trajs)
        ∧ (d.op = 3 → t.eng.flags = s.eng.flags ++ rs.zipIdx.map (fun x =>
            { q.flagOf (if x.1.verdict.isLethal then 2 else if x.1.trunc then 3 else 4) (x.2 % d.lanes) (d.first + x.2) with
              also := if x.1.sat then [5] else [] }))
        ∧ (∀ r k early, d.op = 2 → rs = [r] →
            k = (if r.verdict.isLethal then r.sample else if r.trunc then r.tsample else d.count - 1) % d.lanes →
            early = (s.chiselEnv e (c.val / 4)).satBefore d.flag d.bmask (s.samplesAt (scratchBase c + d.inOff * 64) d.count) r →
            t.eng.flags = s.eng.flags ++ (if early then [q.flagOf 5 k d.first] else [])
              ++ [{ q.flagOf (if r.verdict.isLethal then 2 else if r.trunc then 3 else 4) k d.first with
                    also := if r.sat = true ∧ early = false then [5] else [] }])
        ∧ t.cyc = { s.cyc with cur := s.cyc.cur.map (fun k => { k with counts := { k.counts with
            capped := k.counts.capped + (rs.filter (fun r => r.verdict == .cap || r.verdict == .sattile)).length
            truncs := k.counts.truncs + (rs.filter (fun r => r.trunc)).length } }) }))
  ∧ (∀ (c : Core) (w : BitVec 128) (d : KeCmd) (q : QCmd) (rest : List QCmd) (e : EngEnv) (s : State), Memories s →
    s.queueOf c .ke = q :: rest → q.word = w.toNat → s.engEnv (c.val / 16) = some e → d = KeCmd.ofWord w.toNat →
    (d.op = 1 → (s.runOf c .ke).next < d.count → s.written c d.inOff (d.first + (s.runOf c .ke).next) = none →
      exec (.costStream c w .clean) s = .next s)
    ∧ (∀ (rc : Nat → RingCand) (qs : List (Nat × Partial)), d.op = 1 → s.runs c .ke = false →
      d.outOff * 64 + d.count * 16 ≤ 0x80000 →
      (∀ i, i < d.count → s.written c d.inOff (d.first + i) = some (rc i)
        ∧ (d.outOff * 64 + d.count * 16 ≤ d.inOff * 64 + (rc i).slot * (e.img.misc.nsamp * 64)
            ∨ d.inOff * 64 + ((rc i).slot + 1) * (e.img.misc.nsamp * 64) ≤ d.outOff * 64)) →
      qs = (List.range d.count).map (fun i =>
        (d.first + i, (s.costEnv e (c.val / 16)).costRing (s.ringSamples e.img.misc.nsamp (rc i)))) →
      ∃ t, exec (.costStream c w .clean) s = .next t ∧ Taken s t c .ke q rest ∧ { t with mem := s.mem, eng := s.eng, du := s.du } = s
        ∧ { t.eng with queues := s.eng.queues, flags := s.eng.flags } = s.eng
        ∧ t.mem = (qs.zipIdx.foldl (fun m x => m.write (scratchBase c + d.outOff * 64 + x.2 * 16) (x.1.2.bytes x.1.1)) s.mem).write
            (dualBase (c.val / 4) + d.resultOff * 16) (keResult qs.length 0 0 (qs.any (fun x => x.2.sat))
              (qs.any (fun x => x.2.clay)) (qs.any (fun x => x.2.clim)) false)
        ∧ t.eng.flags = s.eng.flags ++ (qs.map (fun x => (if x.2.sat then [q.flagOf 5 0xFFFFFFFF x.1] else [])
            ++ (if x.2.clay then [q.flagOf 8 0xFFFFFFFF x.1] else [])
            ++ (if x.2.clim then [q.flagOf 9 0xFFFFFFFF x.1] else []))).flatten)
    ∧ (∀ (p : Partial), d.op = 2 → p = (s.costEnv e (c.val / 16)).costSamples true (s.samplesAt (scratchBase c + d.inOff * 64) d.count) →
      ∃ t, exec (.costTraj c w .clean) s = .next t ∧ Taken s t c .ke q rest ∧ { t with mem := s.mem, eng := s.eng, du := s.du } = s
        ∧ { t.eng with queues := s.eng.queues, flags := s.eng.flags } = s.eng
        ∧ t.mem = (s.mem.write (scratchBase c + d.outOff * 64) (p.bytes d.first)).write
            (dualBase (c.val / 4) + d.resultOff * 16) (keResult 1 0 0 p.sat p.clay p.clim false)
        ∧ t.eng.flags = s.eng.flags ++ (if p.sat then [q.flagOf 5 0xFFFFFFFF d.first] else [])
            ++ (if p.clay then [q.flagOf 8 0xFFFFFFFF d.first] else [])
            ++ (if p.clim then [q.flagOf 9 0xFFFFFFFF d.first] else []))
    ∧ (∀ rs, d.op = 3 → rs = (((s.recordsAt (scratchBase c + d.inOff * 64) 64 d.count).map VRec.ofBytes).zip
          ((s.recordsAt (scratchBase c + d.outOff * 64) 16 d.count).map Partial.ofBytes)).zipIdx.map (fun x =>
            (s.costEnv e (c.val / 16)).costFinal s.probAt d.flag (d.first + x.2) x.1.1 x.1.2) →
      ∃ t, exec (.costFinal c w .clean) s = .next t ∧ Taken s t c .ke q rest
        ∧ { t with mem := s.mem, eng := s.eng, du := s.du, cyc := s.cyc } = s
        ∧ { t.eng with queues := s.eng.queues, flags := s.eng.flags } = s.eng
        ∧ t.mem = (s.mem.write (scratchBase c + d.outOff * 64) (rs.map CostRec.bytes).flatten).write
            (dualBase (c.val / 4) + d.resultOff * 16)
            (keResult rs.length (rs.filter (fun r => r.verdict == .free && (r.clay || r.clim))).length (ksumOf rs)
              (rs.any (fun r => r.sat)) false false false)
        ∧ t.cyc = (if s.phase ≤ 4 ∧ d.flag = false then { s.cyc with cur := s.cyc.cur.map (fun k =>
            { k with costs := k.costs ++ rs }) } else s.cyc)
        ∧ t.eng.flags = s.eng.flags ++ (rs.map (fun r =>
            if r.sat then [q.flagOf 5 0xFFFFFFFF r.cand] else [])).flatten))

/-- SELECT, MERGE, SOLVE, EMIT and KEY, without a finding, as the head of their queue, a solver command where its core
wins the cluster's solver: the list of the row or of the input lists with its checks; the solver's result record names
the candidate of the solve order, KEY stores the row entry; results whose value is left open are any value. -/
def Obligations.SelectionsAndSolves : Prop :=
  (∀ (c : Core) (w : BitVec 128) (d : SeCmd) (q : QCmd) (rest : List QCmd) (l : SList) (n : Nat) (cmd : Instr) (s : State), Memories s →
    s.queueOf c .se = q :: rest → q.word = w.toNat → d = SeCmd.ofWord w.toNat →
    (d.op = 1 ∧ cmd = .select c w .clean ∧ (∃ e, s.engEnv (c.val / 16) = some e
        ∧ l = selectRow ⟨d.keyT, d.k, d.inclZero, d.bounded, (s.seBound c d).2, s.sePass e d⟩ (s.seElig c d) (s.seBound c d).1 c
            (s.seTotal c d (s.selRow c d)) (s.selRow c d)) ∧ n = selectCheck (s.selRow c d) l
      ∨ d.op = 2 ∧ cmd = .merge c w .clean ∧ ∃ ls sp, ls = (s.recordsAt (d.inBase c) 1280 d.count).map SList.ofBytes
        ∧ sp = (⟨d.keyT, d.k, d.inclZero, d.bounded, (s.seBound c d).2, (ls.head?.map (fun x => x.pass)).getD 0⟩ : SelSpec)
        ∧ l = mergeLists sp ls ∧ n = mergeCheck sp ls l) →
    n = 0 → ∃ t, exec cmd s = .next t ∧ Taken s t c .se q rest ∧ { t with mem := s.mem, eng := s.eng, du := s.du } = s
      ∧ { t.eng with queues := s.eng.queues, flags := s.eng.flags } = s.eng
      ∧ t.mem = (s.mem.write (sharedBase (c.val / 4) + d.outOff * 64) l.bytes).write (dualBase (c.val / 4) + d.resultOff * 16)
          (seResult l (decide (l.entries.length < d.k)) false false false false)
      ∧ t.eng.flags = s.eng.flags ++ (if l.entries.length < d.k then [q.flagOf 0xA 0xFFFFFFFF 0xFFFFFFFF] else []))
  ∧ (∀ (c : Core) (w : BitVec 128) (late : Option Nat) (d : QeCmd) (q : QCmd) (rest : List QCmd) (e : EngEnv) (o : SolveOrder) (s : State),
    Memories s → s.queueOf c .qe = q :: rest → q.word = w.toNat → d = QeCmd.ofWord w.toNat →
    s.engEnv (c.val / 16) = some e → o = SolveOrder.ofBytes (s.peek (dualBase (c.val / 4) + d.orderOff * 16) 32) →
    (s.qeWinner (c.val / 4) = some (c.val % 4) →
      (∀ tm, d.op = 1 → e.tmpl d.tmpl = some tm → (tm.kind = .ts → (s.geoAt (c.val / 4) (d.base c + d.inOff * 64)).isSome = true) →
        ∃ t r, exec (.solve c w .clean late) s = .next t ∧ Taken s t c .qe q rest
          ∧ { t with mem := s.mem, eng := s.eng, du := s.du, cyc := s.cyc, free := s.free, aon := s.aon, host := s.host, saf := s.saf } = s
          ∧ { t.eng with queues := s.eng.queues, qeOwners := s.eng.qeOwners, flags := s.eng.flags, solved := s.eng.solved
                         pathSat := s.eng.pathSat } = s.eng
          ∧ Holds t (dualBase (c.val / 4) + d.resultOff * 16) (QResult.bytes r) ∧ r.cand = o.cand ∧ r.kind = tm.kind.code
          ∧ { t.cyc with cur := s.cyc.cur } = s.cyc
          ∧ t.cyc.cur.map (fun k => k.counts.solveSt) = s.cyc.cur.map (fun k => modAt (fun v => v + 1) k.counts.solveSt r.status.code)
          ∧ t.cyc.cur.map (fun k => k.optVoid) = s.cyc.cur.map (fun k =>
              if r.kind = 2 ∧ r.status.keeps = false then k.optVoid ++ [o.cand] else k.optVoid)
          ∧ t.cyc.cur.map (fun k => k.drops) = s.cyc.cur.map (fun k => if r.kind ≠ 2 ∧ r.status.keeps = false then
              (if o.kind = 1 then (k.drops.1, k.drops.2 + 1) else (k.drops.1 + 1, k.drops.2)) else k.drops))
      ∧ (∀ g ts, d.op = 2 → s.geoAt (c.val / 4) (d.base c + d.inOff * 64) = some g →
          s.tsAt (c.val / 4) (d.base c + d.auxOff * 64) = some ts →
        ∃ t r x, exec (.emit c w .clean) s = .next t ∧ Taken s t c .qe q rest
          ∧ { t with mem := s.mem, eng := s.eng, du := s.du } = s
          ∧ { t.eng with queues := s.eng.queues, qeOwners := s.eng.qeOwners } = s.eng
          ∧ ((ExceptT.run (emitTraj e.img.ego e.anchor e.img.misc.vstop (hmaxOf e.img.misc.nsamp e.img.misc.dts) g
              (ts.z.map (mapped ts.map 0)))).run { whole := true }).1 = .ok x
          ∧ t.mem = ((s.mem.write (sharedBase (c.val / 4) + d.outOff * 64)
                (Traj.bytes ⟨o.cand, o.kind, e.anchor, s.world.worldTime, x.tend, g.res.obj, ts.res.obj, g.res.status.code,
                  ts.res.status.code, g.res.iter, ts.res.iter, g.res.pivot.isSome || ts.res.pivot.isSome, x.stopj, x.samples⟩)).write
              (sharedBase (c.val / 4) + d.workOff * 64) (x.recheck.map Sample.bytes).flatten).write
              (dualBase (c.val / 4) + d.resultOff * 16) (QResult.bytes r)
          ∧ r.cand = o.cand ∧ r.status = .converged ∧ r.nt = x.samples.length ∧ r.stopj = x.stopj.getD 0xFFFF)
      ∧ (d.op = 3 → d.notraj = true → ∃ t r, exec (.key c w .clean) s = .next t ∧ Taken s t c .qe q rest
          ∧ { t with mem := s.mem, eng := s.eng, du := s.du } = s
          ∧ { t.eng with queues := s.eng.queues, qeOwners := s.eng.qeOwners } = s.eng
          ∧ t.mem = (s.mem.write (sharedBase (c.val / 4) + d.outOff * 64) (leBytes 4 o.cand ++ leBytes 4 fNaN.toNat)).write
              (dualBase (c.val / 4) + d.resultOff * 16) (QResult.bytes r) ∧ r.cand = o.cand)
      ∧ (∀ a tr cost v pass raw, d.op = 3 → d.notraj = false → a = d.base c + d.inOff * 64 →
          tr = Traj.ofBytes (s.peek a (64 + 40 * getLe (s.peek a 64) 6 2)) →
          cost = CostRec.ofBytes (s.peek (scratchBase c + d.auxOff * 64) 16) →
          v = (lookupKey (trajKey c o.cand) s.eng.trajs).getD VRec.init → pass = recheckPasses e.img.misc.truncMinMs v cost →
          raw = (keyValue pass tr.objGeo tr.objTs (BitVec.ofNat 32 (paramVal e.ps 0x50 0)) cost.cost).val.toNat →
        ∃ t r, exec (.key c w .clean) s = .next t ∧ Taken s t c .qe q rest
          ∧ { t with mem := s.mem, eng := s.eng, du := s.du, cyc := s.cyc } = s
          ∧ { t.eng with queues := s.eng.queues, qeOwners := s.eng.qeOwners } = s.eng ∧ { t.cyc with cur := s.cyc.cur } = s.cyc
          ∧ t.mem = (s.mem.write (sharedBase (c.val / 4) + d.outOff * 64) (leBytes 4 o.cand ++ leBytes 4 raw)).write
              (dualBase (c.val / 4) + d.resultOff * 16) (QResult.bytes r) ∧ r.cand = o.cand
          ∧ t.cyc.cur.map (fun k => k.emits) = s.cyc.cur.map (fun k => k.emits ++ [⟨c, o.cand, o.kind, o.ord, tr, v.tsample, cost, raw⟩])
          ∧ t.cyc.cur.map (fun k => k.counts.recheckFail) = s.cyc.cur.map (fun k => k.counts.recheckFail + (if pass then 0 else 1))
          ∧ t.cyc.cur.map (fun k => k.drops) = s.cyc.cur.map (fun k => if pass then k.drops
              else if o.kind = 1 then (k.drops.1, k.drops.2 + 1) else (k.drops.1 + 1, k.drops.2))))
    ∧ (s.qeWinner (c.val / 4) ≠ some (c.val % 4) → ∀ hw cmd, d.op = 1 ∧ cmd = .solve c w hw late
        ∨ d.op = 2 ∧ cmd = .emit c w hw ∨ d.op = 3 ∧ cmd = .key c w hw → exec cmd s = .next s))

/-- The movers' commands, without a finding, as the head of their queue, within what the mover reaches, no mover of a higher
rank asking for its die's LPDDR port: COPY copies, FILL repeats the pattern, the atomics store the sum modulo the width or
the operand and answer the old value; an access outside ends in error, and its FAULT flag carries FLT_ADDR. -/
def Obligations.MoversMove : Prop :=
  ∀ (cl : Cluster) (mv : Fin 2) (w : BitVec 128) (m : MvCmd) (q : QCmd) (rest : List QCmd) (s : State), Memories s →
    s.queueOf cl (moverEngine mv) = q :: rest → q.word = w.toNat → m = MvCmd.ofWord w.toNat → m.ok = true →
    (m.op = 1 → s.moverRange cl false m.src m.len = true → s.moverRange cl true m.dst m.len = true →
        s.reachUp cl (moverEngine mv) m.src = true → s.reachUp cl (moverEngine mv) m.dst = true → s.moverWaits m = false → s.portTaken cl mv = false →
        s.poisoned m.src m.len = false →
      ∃ t, exec (.copy cl mv w .clean) s = .next t ∧ Taken s t cl (moverEngine mv) q rest
        ∧ { t with mem := s.mem, coh := s.coh, eng := s.eng, du := s.du, world := s.world } = s ∧ { t.eng with queues := s.eng.queues } = s.eng
        ∧ t.world = (s.moverWrite m.dst (s.moverRead m.src m.len)).world ∧ { t.world with laid := s.world.laid } = s.world
        ∧ t.mem = ((s.moverWrite m.dst (s.moverRead m.src m.len)).mem).write (dualBase cl + m.resultOff * 16)
            (mvResult (m.len / 16) 0 false)
        ∧ (0x10000000000 ≤ m.src → 0x10000000000 ≤ m.dst → t.coh = s.coh
            ∧ Untouched s t [(m.dst, m.len), (dualBase cl + m.resultOff * 16, 16)]
            ∧ ((m.dst + m.len ≤ dualBase cl + m.resultOff * 16 ∨ dualBase cl + m.resultOff * 16 + 16 ≤ m.dst) →
                ∀ i, i < m.len → t.mem.get (m.dst + i) = s.mem.get (m.src + i))))
    ∧ (m.op = 2 → s.moverRange cl false m.src 16 = true → s.moverRange cl true m.dst m.len = true →
        s.reachUp cl (moverEngine mv) m.dst = true → s.moverWaits m = false → s.portTaken cl mv = false →
      ∃ t, exec (.fill cl mv w .clean) s = .next t ∧ Taken s t cl (moverEngine mv) q rest
        ∧ { t with mem := s.mem, coh := s.coh, eng := s.eng, du := s.du, world := s.world } = s ∧ { t.eng with queues := s.eng.queues } = s.eng
        ∧ { t.world with laid := s.world.laid } = s.world
        ∧ (0x10000000000 ≤ m.dst → t.coh = s.coh
            ∧ Untouched s t [(m.dst, m.len), (dualBase cl + m.resultOff * 16, 16)]
            ∧ ((m.dst + m.len ≤ dualBase cl + m.resultOff * 16 ∨ dualBase cl + m.resultOff * 16 + 16 ≤ m.dst) →
                ∀ i, i < m.len → t.mem.get (m.dst + i) = s.mem.get (m.src + i % 8))))
    ∧ (∀ cmd bytes add, (cmd, m.op, bytes, add) ∈ [(Instr.add32 cl mv w .clean, 3, 4, true), (.add64 cl mv w .clean, 4, 8, true),
          (.swap32 cl mv w .clean, 5, 4, false), (.swap64 cl mv w .clean, 6, 8, false)] →
        s.moverRange cl false m.src 16 = true → (s.space (m.dst + m.wsel * bytes)).map (fun x => x.1) = some (.shared cl) →
      ∀ old v, old = getLe (s.peek (m.dst + m.wsel * bytes) bytes) 0 bytes → v = getLe (s.peek m.src 8) 0 bytes →
      ∃ t, exec cmd s = .next t ∧ Taken s t cl (moverEngine mv) q rest
        ∧ { t with mem := s.mem, eng := s.eng, du := s.du } = s ∧ { t.eng with queues := s.eng.queues } = s.eng
        ∧ t.mem = (s.mem.write (m.dst + m.wsel * bytes) (leBytes bytes (if add then (old + v) % 256 ^ bytes else v))).write
            (dualBase cl + m.resultOff * 16) (mvResult 1 old false)
        ∧ Untouched s t [(m.dst + m.wsel * bytes, bytes), (dualBase cl + m.resultOff * 16, 16)])
    ∧ (m.op = 1 → s.moverRange cl false m.src m.len = false → s.moverWaits m = false → s.portTaken cl mv = false →
      ∃ t, exec (.copy cl mv w .clean) s = .next t ∧ Taken s t cl (moverEngine mv) q rest
        ∧ { t with mem := s.mem, eng := s.eng, du := s.du } = s
        ∧ { t.eng with queues := s.eng.queues, flags := s.eng.flags } = s.eng
        ∧ t.mem = s.mem.write (dualBase cl + m.resultOff * 16) (mvResult 0 0 true)
        ∧ t.eng.flags = s.eng.flags ++ [{ q.flagOf 1 0xFFFFFFFF 0xFFFFFFFF with
            cause := some ⟨.addr, .restartCluster, engineLoc q.core (moverEngine mv), (moverEngine mv).index + 2, m.src / 64 % 2 ^ 32⟩ }])

/-! ### Coherence and links -/

/-- Requests at a home that can answer: a busy line makes them wait; an idle one is granted or served at once, or its
copies are invalidated or recalled first; the frame of each. A home that cannot answer gives RESP_ERR. -/
def Obligations.HomesServe : Prop :=
  ∀ (cmd : Instr) (r : HomeReq) (line : Nat) (acc : List CAccess) (s : State),
    ((∃ cl, cmd = .gets cl line ∧ r = ⟨cl.val, .gets⟩ ∧ acc = s.coh.acc ++ [⟨cl.val, line, none⟩])
      ∨ (∃ cl off bs, cmd = .getm cl line off bs ∧ off + bs.length ≤ 64 ∧ r = ⟨cl.val, .getm⟩
          ∧ acc = s.coh.acc ++ [⟨cl.val, line, some (off, bs)⟩])
      ∨ (∃ q, cmd = .ucRead q line ∧ r = ⟨q.val, .ucRead⟩ ∧ acc = s.coh.acc)
      ∨ (∃ q off bs, cmd = .ucWrite q line off bs ∧ off + bs.length ≤ 64 ∧ r = ⟨q.val, .ucWrite off bs⟩ ∧ acc = s.coh.acc)) →
    (s.homeFor r.req line = true → ∃ t, exec cmd s = .next t ∧ { t with coh := s.coh, mem := s.mem } = s ∧ t.coh.acc = acc
      ∧ t.coh.caches = s.coh.caches ∧ (∀ l, l ≠ line → t.coh.entry l = s.coh.entry l)
      ∧ ((∀ off bs, r.kind ≠ .ucWrite off bs) → t.mem = s.mem)
      ∧ ((s.coh.entry line).txn.isSome = true → t.mem = s.mem ∧ t.coh.msgs = s.coh.msgs ∧ t.coh.uc = s.coh.uc
          ∧ t.coh.entry line = { s.coh.entry line with waiting := (s.coh.entry line).waiting ++ [r] })
      ∧ ((s.coh.entry line).txn = none → (s.coh.entry line).waiting = [] →
          (r.kind = .gets → (s.coh.entry line).st = .uncached →
            t.coh.entry line = ⟨line, .shared (2 ^ r.req), none, []⟩
            ∧ t.coh.msgs = s.coh.msgs ++ [.data r.req line .s (s.homeRead line)])
          ∧ (∀ v, r.kind = .gets → (s.coh.entry line).st = .shared v →
            t.coh.entry line = ⟨line, .shared (setBit v r.req), none, []⟩
            ∧ t.coh.msgs = s.coh.msgs ++ [.data r.req line .s (s.homeRead line)])
          ∧ (r.kind = .getm → ((s.coh.entry line).st = .uncached ∨ (∃ v, (s.coh.entry line).st = .shared v
                ∧ (sharersOf v).filter (fun x => x != r.req) = [])) →
            t.coh.entry line = ⟨line, .modified r.req, none, []⟩
            ∧ t.coh.msgs = s.coh.msgs ++ [.data r.req line .m (s.homeRead line)])
          ∧ (∀ v, r.kind = .getm → (s.coh.entry line).st = .shared v → (sharersOf v).filter (fun x => x != r.req) ≠ [] →
            t.coh.entry line = ⟨line, .shared v, some ⟨r, (sharersOf v).filter (fun x => x != r.req), none⟩, []⟩
            ∧ t.coh.msgs = s.coh.msgs ++ ((sharersOf v).filter (fun x => x != r.req)).map (fun x => .inv x line))
          ∧ (∀ o, r.kind ≠ .ucRead → (s.coh.entry line).st = .modified o →
            t.mem = s.mem ∧ t.coh.entry line = ⟨line, .modified o, some ⟨r, [], some o⟩, []⟩
            ∧ t.coh.msgs = s.coh.msgs ++ [.recall o line (r.kind == .gets)])
          ∧ (∀ o, r.kind = .ucRead → (s.coh.entry line).st = .modified o → s.coh.held o line = none →
              s.coh.holds o line = true →
            t.coh.msgs = s.coh.msgs ∧ t.coh.entry line = ⟨line, .modified o, some ⟨r, [], some o⟩, []⟩)
          ∧ (r.kind = .ucRead → line ∉ s.coh.poison →
              (∀ o, (s.coh.entry line).st = .modified o → s.coh.held o line = none → s.coh.holds o line = false) →
            t.coh.msgs = s.coh.msgs ∧ t.coh.entry line = s.coh.entry line
            ∧ t.coh.uc = insertKey r.req (match (s.coh.entry line).st with
                | .modified o => ((s.coh.held o line).map (fun x => x.data)).getD (s.homeRead line)
                | .uncached | .shared _ => s.homeRead line) s.coh.uc)
          ∧ (∀ off bs, r.kind = .ucWrite off bs → (s.coh.entry line).st = .uncached →
            t.coh.msgs = s.coh.msgs ∧ t.mem = s.mem.write (line * 64) (overlay (s.homeRead line) off bs))))
    ∧ (∀ d x, s.space (line * 64) = some (.lpddr d, x) → s.homeFor r.req line = false →
        exec cmd s = .next { s with coh := { s.coh with acc := acc, msgs := s.coh.msgs ++ [.respErr r.req line] } })

/-- The messages of the coherence protocol: DATA fills the cache and performs its access (and serves an uncached
read that waited for the owner's one access), INV drops a sharer's copy, the last INV_ACK lets the transaction complete,
RECALL returns the owner's line to its home, PUTM writes a line back, WB_ACK is used up, RESP_ERR makes the requester's
restart fall due. -/
def Obligations.CachesAnswer : Prop :=
  ∀ (cl : Cluster) (line : Nat) (s : State),
    (∀ st bs, s.coh.msgs.find? (fun m => match m with | .data c l _ _ => c == cl.val && l == line | _ => false)
        = some (.data cl.val line st bs) → line ∉ s.coh.poison →
      (s.coh.caches.filter (fun x => x.cluster == cl.val && x.line % 1024 == line % 1024 && x.line != line)).length < 8 →
      (∀ y, (s.coh.entry line).txn = some y → y.req.kind ≠ .ucRead) →
      ∃ t, exec (.data cl line) s = .next t ∧ { t with coh := s.coh } = s
        ∧ t.coh.held cl line = some ⟨cl, line, st, match (s.coh.acc.find? (fun a => a.cluster == cl.val && a.line == line)).bind (fun a => a.write) with
            | some (off, x) => overlay bs off x
            | none => bs⟩
        ∧ (∀ c l, (c, l) ≠ (cl.val, line) → t.coh.held c l = s.coh.held c l)
        ∧ t.coh.msgs = s.coh.msgs.erase (.data cl line st bs) ∧ t.coh.dir = s.coh.dir
        ∧ (∀ a ∈ t.coh.acc, ¬(a.cluster = cl.val ∧ a.line = line)))
    ∧ (∀ st bs req, s.coh.msgs.find? (fun m => match m with | .data c l _ _ => c == cl.val && l == line | _ => false)
        = some (.data cl.val line st bs) → line ∉ s.coh.poison → s.coh.acc = [] →
      (s.coh.caches.filter (fun x => x.cluster == cl.val && x.line % 1024 == line % 1024 && x.line != line)).length < 8 →
      s.coh.entry line = ⟨line, .modified cl, some ⟨⟨req, .ucRead⟩, [], some cl⟩, []⟩ →
      ∃ t, exec (.data cl line) s = .next t ∧ { t with coh := s.coh } = s
        ∧ t.coh.entry line = ⟨line, .modified cl, none, []⟩ ∧ t.coh.uc = insertKey req bs s.coh.uc)
    ∧ ((CohMsg.inv cl line ∈ s.coh.msgs → s.coh.holds cl line = false →
        ∃ t, exec (.inv cl line) s = .next t ∧ { t with coh := s.coh } = s ∧ t.coh.held cl line = none
          ∧ (∀ c l, (c, l) ≠ (cl.val, line) → t.coh.held c l = s.coh.held c l)
          ∧ t.coh.msgs = s.coh.msgs.erase (.inv cl line) ++ [.invAck cl line] ∧ t.coh.dir = s.coh.dir)
      ∧ (CohMsg.inv cl line ∉ s.coh.msgs → exec (.inv cl line) s = .next s))
    ∧ (∀ x, CohMsg.invAck cl line ∈ s.coh.msgs → (s.coh.entry line).txn = some x → x.recalled = none →
        (x.acks.filter (fun k => k != cl.val) ≠ [] → ∃ t, exec (.invAck cl line) s = .next t ∧ { t with coh := s.coh } = s
          ∧ t.coh.entry line = { s.coh.entry line with txn := some { x with acks := x.acks.filter (fun k => k != cl.val) } }
          ∧ t.coh.msgs = s.coh.msgs.erase (.invAck cl line))
        ∧ (x.acks.filter (fun k => k != cl.val) = [] → x.req.kind = .getm → (s.coh.entry line).waiting = [] →
          ∃ t, exec (.invAck cl line) s = .next t ∧ { t with coh := s.coh } = s
          ∧ t.coh.entry line = ⟨line, .modified x.req.req, none, []⟩
          ∧ t.coh.msgs = s.coh.msgs.erase (.invAck cl line) ++ [.data x.req.req line .m (s.homeRead line)]))
    ∧ (∀ toS x y, s.coh.msgs.find? (fun m => match m with | .recall c l _ => c == cl.val && l == line | _ => false)
          = some (.recall cl line toS) → s.coh.holds cl line = false → s.coh.held cl line = some x →
        (s.coh.entry line).txn = some y → y.recalled = some cl.val → (s.coh.entry line).waiting = [] →
        (toS = true → y.req.kind = .gets → ∃ t, exec (.recall cl line) s = .next t ∧ { t with coh := s.coh, mem := s.mem } = s
          ∧ t.mem = s.mem.write (line * 64) x.data
          ∧ t.coh.entry line = ⟨line, .shared (setBit (2 ^ cl.val) y.req.req), none, []⟩
          ∧ t.coh.msgs = s.coh.msgs.erase (.recall cl line toS) ++ [.data y.req.req line .s x.data])
        ∧ (toS = false → y.req.kind = .getm → ∃ t, exec (.recall cl line) s = .next t ∧ { t with coh := s.coh, mem := s.mem } = s
          ∧ t.mem = s.mem.write (line * 64) x.data ∧ t.coh.held cl line = none
          ∧ t.coh.entry line = ⟨line, .modified y.req.req, none, []⟩
          ∧ t.coh.msgs = s.coh.msgs.erase (.recall cl line toS) ++ [.data y.req.req line .m x.data]))
    ∧ (∀ x, s.homeFor cl line = true → s.coh.held cl line = some x → x.st = .m → (s.coh.entry line).txn = none →
        (s.coh.entry line).waiting = [] → ∃ t, exec (.putm cl line) s = .next t ∧ { t with coh := s.coh, mem := s.mem } = s
          ∧ t.mem = s.mem.write (line * 64) x.data ∧ t.coh.held cl line = none
          ∧ t.coh.entry line = ⟨line, .uncached, none, []⟩ ∧ (∀ l, l ≠ line → t.coh.entry l = s.coh.entry l)
          ∧ t.coh.msgs = s.coh.msgs ++ [.wbAck cl line])
    ∧ exec (.wbAck cl line) s = .next { s with coh := { s.coh with msgs := s.coh.msgs.erase (.wbAck cl line) } }
    ∧ (∀ (q : Fin 98) u, CohMsg.respErr q line ∈ s.coh.msgs → line ∉ s.coh.poison →
        s.saf.escalate (if q.val < 32 then .cluster q.val else if q.val < 96 then .cluster ((q.val - 32) / 2) else .hub) = .restart u →
        ∃ t, exec (.respErr q line) s = .next t ∧ t.saf.due = addDue u s.saf.due ∧ bitAt t.saf.causes 2 = true
          ∧ t.coh.msgs = s.coh.msgs.erase (.respErr q line) ∧ t.mem = s.mem ∧ t.world = s.world
          ∧ (∀ a ∈ t.coh.acc, ¬(a.cluster = q.val ∧ a.line = line)))

/-- FLIT_RECEIVED, REPLAY_TIMEOUT and LINK_RECOVERY_DONE: a flit that its end may not send now does not arrive, and no new
one while 256 are unacknowledged; a sent one is kept until it is acknowledged and uses a credit of its channel; one that
arrives with a failing FCRC or out of sequence is discarded and asks for a NAK; one in sequence is accepted, acknowledges and
returns credits; NAK and a timeout replay everything unacknowledged, the eighth replay without progress begins a recovery; a
recovery ends up and resends, or the link is lost. Only the link and what its faults record change. -/
def Obligations.LinksReplay : Prop :=
  ∀ (l : Fin 16) (e : Fin 2) (s : State), Sized s → (s.link l).ends.length = 2 → (s.link l).stall.length = 2 →
    ((s.link l).st ≠ .up → ∀ w x, exec (.flitReceived l e w x) s = .next s ∧ exec (.replayTimeout l e) s = .next s)
    ∧ ((s.link l).st = .up → ∀ w x,
      (s.sendable l (1 - e) w = false → exec (.flitReceived l e w x) s = .next s)
      ∧ (((s.link l).end_ (1 - e)).resend = none → 256 ≤ ((s.link l).end_ (1 - e)).replay.length →
          (Flit.ofBits w).ftype ≠ 0 → exec (.flitReceived l e w x) s = .next s)
      ∧ (s.sendable l (1 - e) w = true → (flitGood (w ^^^ x) = false ∨ ((Flit.ofBits (w ^^^ x)).ftype ≠ 0
            ∧ (Flit.ofBits (w ^^^ x)).fseq ≠ (((s.link l).end_ e).rxLast + 1) % 1024) →
          ∃ t, exec (.flitReceived l e w x) s = .next t
          ∧ { t with pkg := { t.pkg with links := s.pkg.links } } = s ∧ (∀ k, k ≠ l.val → t.link k = s.link k)
          ∧ (∃ y, y = { (s.link l).end_ e with
                nakDue := ((s.link l).end_ e).nakDue || !((s.link l).end_ e).discarding, discarding := true }
              ∧ t.link l = { s.link l with
                ends := setAt (setAt (s.link l).ends (1 - e) (((s.link l).end_ (1 - e)).send w)) e y }))
        ∧ (flitGood (w ^^^ x) = true → ((Flit.ofBits (w ^^^ x)).ftype ≠ 0 →
            (Flit.ofBits (w ^^^ x)).fseq = (((s.link l).end_ e).rxLast + 1) % 1024) → (Flit.ofBits (w ^^^ x)).nak = false →
          ∃ t, exec (.flitReceived l e w x) s = .next t
            ∧ { t with pkg := { t.pkg with links := s.pkg.links }, aon := s.aon, host := s.host, saf := s.saf } = s
            ∧ (∀ k, k ≠ l.val → t.link k = s.link k) ∧ (t.link l).st = .up
            ∧ ((t.link l).end_ e).replay = dropAcked (Flit.ofBits (w ^^^ x)).akseq ((s.link l).end_ e).replay
            ∧ ((t.link l).end_ e).credits = modAt (fun c => min (c + (Flit.ofBits (w ^^^ x)).ccnt)
                (nth 0 vcCredits (Flit.ofBits (w ^^^ x)).cvc)) ((s.link l).end_ e).credits (Flit.ofBits (w ^^^ x)).cvc
            ∧ ((t.link l).end_ e).rxLast = (if (Flit.ofBits (w ^^^ x)).ftype = 0 then ((s.link l).end_ e).rxLast
                else (Flit.ofBits (w ^^^ x)).fseq)
            ∧ ((t.link l).end_ e).discarding = ((Flit.ofBits (w ^^^ x)).ftype == 0 && ((s.link l).end_ e).discarding)
            ∧ (t.link l).end_ (1 - e) = ((s.link l).end_ (1 - e)).send w)
        ∧ (flitGood (w ^^^ x) = true → (Flit.ofBits (w ^^^ x)).ftype = 0 → (Flit.ofBits (w ^^^ x)).nak = true →
            dropAcked (Flit.ofBits (w ^^^ x)).akseq ((s.link l).end_ e).replay ≠ [] → nth 0 (s.link l).stall e < 7 →
          ∃ t, exec (.flitReceived l e w x) s = .next t
            ∧ { t with pkg := { t.pkg with links := s.pkg.links } } = s ∧ (t.link l).replays = (s.link l).replays + 1
            ∧ ((t.link l).end_ e).resend = some 0
            ∧ ((t.link l).end_ e).replay = dropAcked (Flit.ofBits (w ^^^ x)).akseq ((s.link l).end_ e).replay)
        ∧ ((Flit.ofBits w).ftype ≠ 0 → ((s.link l).end_ (1 - e)).resend = none →
          (((s.link l).end_ (1 - e)).send w).replay = ((s.link l).end_ (1 - e)).replay ++ [⟨((s.link l).end_ (1 - e)).txNext, w⟩]
          ∧ (((s.link l).end_ (1 - e)).send w).txNext = (((s.link l).end_ (1 - e)).txNext + 1) % 1024
          ∧ ((Flit.ofBits w).ftype = 1 → (((s.link l).end_ (1 - e)).send w).credits =
              modAt (fun n => n - 1) ((s.link l).end_ (1 - e)).credits (PktHead.ofBits (Flit.ofBits w).payload).vc))))
    ∧ ((s.link l).st = .up → ((s.link l).end_ e).replay ≠ [] →
      (nth 0 (s.link l).stall e < 7 → ∃ t, exec (.replayTimeout l e) s = .next t
        ∧ { t with pkg := { t.pkg with links := s.pkg.links } } = s ∧ (∀ k, k ≠ l.val → t.link k = s.link k)
        ∧ t.link l = { s.link l with replays := (s.link l).replays + 1, stall := modAt (fun v => v + 1) (s.link l).stall e
                                     ends := modAt (fun y => { y with resend := some 0 }) (s.link l).ends e })
      ∧ (7 ≤ nth 0 (s.link l).stall e → (∀ x ∈ (s.link l).recoveries, x + 100000000 ≤ s.time.now) →
        ∃ t, exec (.replayTimeout l e) s = .next t
          ∧ { t with pkg := { t.pkg with links := s.pkg.links }, aon := s.aon, host := s.host, saf := s.saf } = s
          ∧ (∀ k, k ≠ l.val → t.link k = s.link k)
          ∧ t.link l = { s.link l with st := .recovering, replays := (s.link l).replays + 1, stall := [0, 0], recoveries := [s.time.now]
                                       ends := modAt (fun y => { y with resend := some 0 }) (s.link l).ends e }))
    ∧ ((s.link l).st = .recovering →
      (∃ t, exec (.linkRecoveryDone l true) s = .next t ∧ { t with pkg := { t.pkg with links := s.pkg.links } } = s
        ∧ (∀ k, k ≠ l.val → t.link k = s.link k)
        ∧ t.link l = { s.link l with st := .up, ends := (s.link l).ends.map (fun y =>
            { y with resend := if y.replay.isEmpty then none else some 0 }) })
      ∧ (8 ≤ l.val → ∃ t, exec (.linkRecoveryDone l false) s = .next t ∧ t.pkg.dies = s.pkg.dies
        ∧ (∀ k, k ≠ l.val → t.link k = s.link k) ∧ t.link l = { s.link l with st := .lost }
        ∧ t.pkg.ringMask = clrBit s.pkg.ringMask (l.val - 8) ∧ t.cyc = s.cyc)
      ∧ (l.val < 8 → (s.die l).fenced = none → 1 ≤ (s.die l).hubLosses → ∃ t, exec (.linkRecoveryDone l false) s = .next t
        ∧ (t.die l).fenced = some .hubLink)
      ∧ (∀ u, l.val < 8 → (s.die l).fenced = none → (s.die l).hubLosses = 0 → s.saf.escalate (.die l) = .restart u →
        ∃ t, exec (.linkRecoveryDone l false) s = .next t ∧ t.saf.due = addDue u s.saf.due ∧ t.cyc.cur = none
          ∧ (t.die l).hubLosses = 1 ∧ (t.die l).fullTrain = true ∧ (t.link l).st = .lost))

/-! ### Restarts, safety, monitors -/

/-- CLUSTER_RESTART, DIE_WARM_RESTART, HUB_CORE_RESTART and RESTART_COMPLETE: a due restart begins outside a cycle and
is counted; the cluster's dual-port region and scratchpads, the die's SRAM, the hub's cycle state are reset; a restart
that ends leaves its unit watched, its die's tables loaded again, a cluster's static lists and a die's world store copied
from a neighbour. The phase watchdog and the hold limit make restarts fall due, the limit on an LPDDR grant where no engine
command of the cluster waits for the line. -/
def Obligations.UnitsRestart : Prop :=
  (∀ (cl : Cluster) (s : State),
    (s.canRestart (.cluster cl) = false → exec (.clusterRestart cl) s = .next s)
    ∧ (s.canRestart (.cluster cl) = true → ∃ t, exec (.clusterRestart cl) s = .next t
      ∧ t.saf.active = s.saf.active ++ [.cluster cl] ∧ t.saf.due = s.saf.due.filter (fun u => u != .cluster cl)
      ∧ t.aon.ctr.rstCluster = satInc 32 s.aon.ctr.rstCluster
      ∧ (∀ a, dualBase cl ≤ a → a < dualBase cl + 0x10000 → t.mem.get a = 0)
      ∧ (∀ k a, k < 4 → scratchBase (4 * cl.val + k) ≤ a → a < scratchBase (4 * cl.val + k) + 0x80000 → t.mem.get a = 0)
      ∧ (∀ x ∈ t.coh.caches, x.cluster ≠ cl.val) ∧ (∀ f ∈ t.eng.flags, f.core / 4 ≠ cl.val)
      ∧ t.regs = s.regs ∧ t.world = s.world ∧ { t.cyc with stale := s.cyc.stale } = s.cyc
      ∧ t.boot = s.boot ∧ t.time = s.time))
  ∧ (∀ (d : Die) (s : State), Sized s →
    (s.canRestart (.die d) = false → exec (.dieWarmRestart d) s = .next s)
    ∧ (s.canRestart (.die d) = true → ∃ t, exec (.dieWarmRestart d) s = .next t
      ∧ t.saf.active = s.saf.active ++ [.die d] ∧ t.saf.due = s.saf.due.filter (fun u => u != .die d)
      ∧ t.aon.ctr.rstDie = satInc 32 s.aon.ctr.rstDie ∧ (t.duOf d).serve = .recovering ∧ (t.die d).presence = false
      ∧ (t.die d).allTiles = true ∧ (∀ k, k ≠ d.val → t.die k = s.die k) ∧ (t.link d).st = .up
      ∧ (∀ a, sramBase d ≤ a → a < sramBase d + 0x100000000 → t.mem.get a = 0)
      ∧ (∀ x ∈ t.coh.caches, x.cluster / 4 ≠ d.val) ∧ t.regs = s.regs ∧ t.world = s.world
      ∧ { t.cyc with stale := s.cyc.stale } = s.cyc ∧ t.time = s.time))
  ∧ (∀ (held : Bool) (lost : List (Fin 16)) (s : State),
    (s.canRestart .hub = false → ∀ digest, exec (.hubCoreRestart held digest lost) s = .next s)
    ∧ (s.canRestart .hub = true → ∃ t, exec (.hubCoreRestart held true lost) s = .next t
      ∧ t.saf.active = s.saf.active ++ [.hub] ∧ t.aon.ctr.rstHub = satInc 32 s.aon.ctr.rstHub
      ∧ t.cyc.epoch = (s.cyc.epoch + 1) % 2 ^ 32 ∧ t.cyc.held = (if held then s.cyc.held else none)
      ∧ (∀ k ∈ lost, k.val ∈ t.cyc.lost) ∧ t.msgs = [] ∧ t.eng.queues = []
      ∧ t.eng.flags = s.eng.flags.filter (fun f => f.cause.isSome)
      ∧ t.host.held = [] ∧ t.host.started = [] ∧ (∀ x ∈ s.host.held ++ s.host.started, t.isDue x = true)
      ∧ t.world = s.world ∧ t.mem = s.mem ∧ t.regs = s.regs ∧ t.time = s.time)
    ∧ (s.canRestart .hub = true → ∃ t, exec (.hubCoreRestart held false lost) s = .next t ∧ t.saf.fatal = true))
  ∧ (∀ (u : RUnit) (s : State), Sized s →
    (u ∉ s.saf.active → exec (.restartComplete u) s = .next s)
    ∧ (∀ d, u = .die d → (s.die d).presence = false → exec (.restartComplete u) s = .next s)
    ∧ (∀ d, d < 8 → u.dieOf = some d → u ∈ s.saf.active → (u = .die d → (s.die d).presence = true) → ∃ t, exec (.restartComplete u) s = .next t
      ∧ t.saf.active = s.saf.active.filter (fun v => v != u) ∧ t.saf.watch = s.saf.watch ++ [u]
      ∧ ((∀ v ∈ s.saf.active ++ s.saf.due, v.dieOf = some d → v = u) → u ∉ s.saf.due → (t.duOf d).serve = .serving)
      ∧ t.mem = (match u with
          | .cluster c => ((s.loadDie d).copyStatics c).mem
          | .die _ | .hub => (s.loadDie d).mem)
      ∧ t.world = (match u with
          | .die _ => (s.restoreStore d).world
          | .cluster _ | .hub => s.world)
      ∧ t.regs = s.regs ∧ t.host = s.host)
    ∧ (RUnit.hub ∈ s.saf.active → s.regs.heldWrites = [] → s.host.rings = [] →
        exec (.restartComplete .hub) s = .next { s with saf := { s.saf with
          active := s.saf.active.filter (fun v => v != .hub), watch := s.saf.watch ++ [.hub] } }))
  ∧ (∀ (late : List Die) (hubLate : Bool) (s : State),
    (s.cyc.cur = none → exec (.phaseWatchdogExpiry late hubLate) s = .next s)
    ∧ (∀ c, s.cyc.cur = some c → (∀ d ∈ late, s.dieLate c d = false) → (hubLate && s.hubLate c) = false →
        exec (.phaseWatchdogExpiry late hubLate) s = .next s)
    ∧ (∀ c u d, s.cyc.cur = some c → late = [d] → s.dieLate c d = true → (hubLate && s.hubLate c) = false →
        s.saf.escalate (.die d) = .restart u → ∃ t, exec (.phaseWatchdogExpiry late hubLate) s = .next t
          ∧ t.saf.due = addDue u s.saf.due ∧ t.cyc.cur = none ∧ bitAt t.saf.causes 2 = true ∧ t.mem = s.mem ∧ t.world = s.world))
  ∧ (∀ (cls : ArbClass) (inst : Fin 32) (owner : Fin 16) (len : Nat) (s : State), inst.val < (arbShape cls).2.1 →
    owner.val < (arbShape cls).2.2 →
    (nth 0 s.regs.hold ((arbShape cls).1 - 1) = 0 ∨ len ≤ nth 0 s.regs.hold ((arbShape cls).1 - 1) ∨ s.boot.st = .held →
      exec (.holdLimitExpiry cls inst owner len) s = .next s)
    ∧ (∀ u, cls = .lpddr → owner.val < 4 →
      (∀ q ∈ s.eng.queues, q.unit / 4 = 4 * inst.val + owner.val → q.engine.index < 4 → q.cmds = []) → s.boot.st ≠ .held → nth 0 s.regs.hold 1 ≠ 0 → nth 0 s.regs.hold 1 < len →
      (s.die inst).running = true → s.saf.escalate (.cluster (4 * inst.val + owner.val)) = .restart u →
      ∃ t, exec (.holdLimitExpiry cls inst owner len) s = .next t ∧ t.saf.due = addDue u s.saf.due
        ∧ t.cyc.cur = none ∧ bitAt t.saf.causes 2 = true ∧ t.mem = s.mem ∧ t.world = s.world)
    ∧ (∀ q rest, cls = .qe → s.boot.st ≠ .held → nth 0 s.regs.hold 0 ≠ 0 → nth 0 s.regs.hold 0 < len →
      s.qeWinner inst.val = some owner.val → s.queueOf (4 * inst.val + owner.val) .qe = q :: rest →
      ∃ t, exec (.holdLimitExpiry cls inst owner len) s = .next t ∧ t.queueOf (4 * inst.val + owner.val) .qe = rest
        ∧ q.flagOf 0x10 0xFFFFFFFF 0xFFFFFFFF ∈ t.eng.flags ∧ t.world = s.world ∧ t.regs = s.regs ∧ t.img = s.img))

/-- STALE_TIMER_EXPIRY, MERGE_WINDOW_END, FAULT_IN_ASSERT, FAULT_IN_DEASSERT, THERM_ALERT_CHANGE, CLOCK_FAULT and
SUPPLY_EXCURSION. -/
def Obligations.SafetyInputsAct : Prop :=
  ∀ s : State,
    (∀ n, s.saf.stale = some n → exec .staleTimerExpiry s = .next { s with saf := { s.saf with
        causes := setBit s.saf.causes 1, stale := none } })
    ∧ (s.saf.stale = none → exec .staleTimerExpiry s = .next s)
    ∧ (∀ w rest, s.saf.windows = w :: rest → 
        (w.count = 0 → exec .mergeWindowEnd s = .next { s with saf := { s.saf with windows := rest } })
        ∧ (0 < w.count → ∃ t, exec .mergeWindowEnd s = .next t ∧ t.saf.windows = rest
          ∧ (t.aon.ring.getLast?).map (fun r => (r.code, r.loc, r.merged, r.rseq))
              = some (w.last.code, w.last.loc, w.count, (s.aon.ctr.frTotal + 1) % 2 ^ 32)
          ∧ { t with aon := s.aon, host := s.host, saf := s.saf } = s))
    ∧ (s.boot.st ≠ .held → s.saf.ext = none → s.regs.finAction < 2 → ∃ t, exec .faultInAssert s = .next t
        ∧ t.saf.ext = some s.regs.finAction ∧ bitAt t.saf.causes 4 = true
        ∧ (t.aon.ring.getLast?).map (fun r => (r.code, r.cls, r.d0)) = some (.extFault, .hold, s.regs.finAction % 2 ^ 32)
        ∧ { t with aon := s.aon, host := s.host, saf := s.saf } = s)
    ∧ (s.boot.st ≠ .held → s.saf.ext = none → s.regs.finAction = 2 → ∃ t, exec .faultInAssert s = .next t
        ∧ t.saf.ext = some 2 ∧ t.saf.fatal = true ∧ t.cyc.cur = none)
    ∧ (∀ n, s.saf.ext = some n → exec .faultInAssert s = .next s)
    ∧ exec .faultInDeassert s = .next { s with saf := { s.saf with ext := none } }
    ∧ (∀ level, exec (.thermAlertChange level) s = .next { s with clk := { s.clk with alert := level } })
    ∧ (∀ (clk : Fin 8) (loc : Fin 9), clockClass clk loc = some .fatal → s.boot.st ≠ .held → ∃ t, exec (.clockFault clk loc) s = .next t
        ∧ t.saf.fatal = true ∧ t.cyc.cur = none ∧ bitAt t.saf.causes 7 = true ∧ t.regs = s.regs)
    ∧ (∀ (clk : Fin 8) (loc : Fin 9) u, clockClass clk loc = some .restartDie → s.boot.st ≠ .held → (s.die loc).running = true →
        s.saf.escalate (.die loc) = .restart u → ∃ t, exec (.clockFault clk loc) s = .next t
          ∧ t.saf.due = addDue u s.saf.due ∧ t.cyc.cur = none ∧ t.regs = s.regs)
    ∧ (∀ (clk : Fin 8) (loc : Fin 9), clockClass clk loc = some .info → s.boot.st ≠ .held → ∃ t, exec (.clockFault clk loc) s = .next t
        ∧ { t with aon := s.aon, host := s.host, saf := s.saf, free := s.free } = s
        ∧ t.aon.xtal = (if clk.val = 7 then false else s.aon.xtal) ∧ t.saf.causes = s.saf.causes)
    ∧ (∀ (r : Fin 24) (below full : Bool), railOk r = true → s.boot.st ≠ .held → (16 ≤ r.val → (s.die (r.val - 16)).running = true) →
        ((full || (below && railFloor r)) = false → ∃ t, exec (.supplyExcursion r below full) s = .next t
          ∧ t.aon.ctr.supply = modAt (fun v => satInc 32 v) s.aon.ctr.supply (railCounter r false)
          ∧ { t with aon := s.aon, host := s.host, saf := s.saf } = s ∧ t.saf.causes = s.saf.causes)
        ∧ (full || (below && railFloor r) = true → railClass r = .fatal → ∃ t, exec (.supplyExcursion r below full) s = .next t
          ∧ t.aon.ctr.supply = modAt (fun v => satInc 32 v) s.aon.ctr.supply (railCounter r true)
          ∧ t.saf.fatal = true ∧ t.cyc.cur = none)
        ∧ (∀ u, full || (below && railFloor r) = true → 16 ≤ r.val → s.saf.escalate (.die (r.val - 16)) = .restart u →
          ∃ t, exec (.supplyExcursion r below full) s = .next t
          ∧ t.aon.ctr.supply = modAt (fun v => satInc 32 v) s.aon.ctr.supply (railCounter r true)
          ∧ t.saf.due = addDue u s.saf.due ∧ t.cyc.cur = none))

/-- THERMAL_EVALUATION, ECLK_STEP_CHANGE and PMBUS_POLL_ROUND. -/
def Obligations.MonitorsAct : Prop :=
  (∀ (sites : List (Fin 9 × Fin 16 × Int)) (x : Fin 9 × Fin 16 × Int) (s : State), (∀ y ∈ sites, siteOk y = true) →
    hottest (sites.filter (fun y => s.sampled y.1.val)) = some x → s.boot.st ≠ .held → x.2.2 < critTemp →
    ((s.regs.thrHi : Int) ≤ x.2.2 ∨ s.clk.alert = true → s.clk.target < s.floor →
      exec (.thermalEvaluation sites) s = .next { s with clk := { s.clk with
        tNow := x.2.2, tSite := x.2.1.val, tDie := x.1.val, hot := true, cool := 0, calm := 0, target := s.clk.target + 1, floorHot := 0 } })
    ∧ ((s.regs.thrHi : Int) ≤ x.2.2 ∨ s.clk.alert = true → s.floor ≤ s.clk.target → s.clk.floorHot = 9 → s.saf.hold = false →
      ∃ t, exec (.thermalEvaluation sites) s = .next t ∧ t.saf.hold = true ∧ bitAt t.saf.causes 3 = true
        ∧ t.clk = { s.clk with tNow := x.2.2, tSite := x.2.1.val, tDie := x.1.val, hot := true, cool := 0, calm := 0, floorHot := 10 }
        ∧ t.cyc = s.cyc)
    ∧ (x.2.2 < s.regs.thrHi → s.clk.alert = false → (s.regs.thrLo : Int) ≤ x.2.2 →
      exec (.thermalEvaluation sites) s = .next { s with clk := { s.clk with
        tNow := x.2.2, tSite := x.2.1.val, tDie := x.1.val, hot := false, cool := 0, calm := 0, floorHot := 0 } })
    ∧ (x.2.2 < s.regs.thrLo → x.2.2 < s.regs.thrHi → s.clk.alert = false → s.saf.hold = false → s.clk.cool = 99 → 0 < s.clk.target →
      exec (.thermalEvaluation sites) s = .next { s with clk := { s.clk with
        tNow := x.2.2, tSite := x.2.1.val, tDie := x.1.val, hot := false, cool := 0, calm := (s.clk.calm + 1) % 65536
        target := s.clk.target - 1, floorHot := 0 } })
    ∧ (x.2.2 < s.regs.thrLo → x.2.2 < s.regs.thrHi → s.clk.alert = false → s.saf.hold = true → s.clk.calm = 999 →
      exec (.thermalEvaluation sites) s = .next { s with saf := { s.saf with hold := false }, clk := { s.clk with
        tNow := x.2.2, tSite := x.2.1.val, tDie := x.1.val, hot := false, cool := 0, calm := 1000, floorHot := 0 } }))
  ∧ (∀ (sites : List (Fin 9 × Fin 16 × Int)) (x : Fin 9 × Fin 16 × Int) (s : State), (∀ y ∈ sites, siteOk y = true) →
    hottest (sites.filter (fun y => s.sampled y.1.val)) = some x → s.boot.st ≠ .held → critTemp ≤ x.2.2 →
    ∃ t, exec (.thermalEvaluation sites) s = .next t ∧ t.saf.fatal = true ∧ t.cyc.cur = none ∧ bitAt t.saf.causes 7 = true)
  ∧ (∀ s : State, (s.boot.st ≠ .held → s.cyc.cur = none → 
      exec .eclkStepChange s = .next { s with clk := { s.clk with step := s.clk.target } })
    ∧ (∀ c, s.cyc.cur = some c → exec .eclkStepChange s = .next s))
  ∧ (∀ (reads : List (Option PmbRead)) (s : State), Sized s → reads.length = 16 → s.boot.st ≠ .held →
    (bitAt s.regs.pmbCfg 0 = false → exec (.pmbusPollRound reads) s = .next s)
    ∧ (bitAt s.regs.pmbCfg 0 = true → (∀ r ∈ reads, ∀ x, r = some x → pmbFault x.status = false) →
      ∃ t, exec (.pmbusPollRound reads) s = .next t ∧ { t with regs := s.regs } = s
        ∧ { t.regs with pmb := s.regs.pmb } = s.regs
        ∧ ∀ (k : Nat) (p : PmbTgt) (r : Option PmbRead), s.regs.pmb[k]? = some p → reads[k]? = some r → t.regs.pmb[k]? = some (
            if bitAt p.tgt 7 = false then p
            else match r with
            | none => { p with err := min 0xFFFF (p.err + 1) }
            | some v => { p with tgt := p.tgt % 256 + 256 * (v.vmode % 256), vi := v.vout % 65536 + 65536 * (v.iout % 65536)
                                 ts := v.temp % 65536 + 65536 * (v.status % 65536) })))

/-- PATINA_SAMPLE, CHECKPOINT_TIMER, IDENTITY_REFRESH, SYNC_EDGE, SYNC_STUCK and SYNC_STUCK_END. -/
def Obligations.AonAndSyncAct : Prop :=
  (∀ (readings : List (Fin 9 × Int)) (s : State), noDup (readings.map (fun x => x.1.val)) = true → s.boot.st ≠ .held →
    s.aon.powered = true → ∃ t, exec (.patinaSample readings) s = .next t ∧ { t with aon := s.aon } = s
      ∧ t.aon.ctr.powerOn = satInc 64 s.aon.ctr.powerOn ∧ t.aon.ctr.commits = s.aon.ctr.commits ∧ t.aon.ring = s.aon.ring
      ∧ ((∀ x ∈ readings, s.sampled x.1.val = false) → t.aon = { s.aon with ctr := { s.aon.ctr with powerOn := satInc 64 s.aon.ctr.powerOn } })
      ∧ (∀ x, readings = [x] → s.sampled x.1.val = true →
          t.aon.ctr.hist = modAt (fun v => satInc 32 v) s.aon.ctr.hist (x.1.val * 8 + tempBin (wholeDeg x.2))
          ∧ t.aon.ctr.stress = modAt (fun v => satInc 64 v (aft (wholeDeg x.2))) s.aon.ctr.stress x.1.val))
  ∧ (∀ (n : Fin 128) (s : State), s.boot.st ≠ .held → s.aon.powered = true →
    (s.aon.sinceCk < 600 → ¬(s.aon.faultCk = true ∧ 120 ≤ s.aon.sinceCk) → exec (.checkpointTimer n) s = .next s)
    ∧ (600 ≤ s.aon.sinceCk ∨ s.aon.faultCk = true ∧ 120 ≤ s.aon.sinceCk → ∃ t, exec (.checkpointTimer n) s = .next t
      ∧ { t with aon := s.aon } = s ∧ t.aon.ckseq = s.aon.ckseq + 1 ∧ t.aon.lastCk = some s.aon.ctr.powerOn ∧ t.aon.faultCk = false
      ∧ t.aon.logQueue = [] ∧ { t.aon.ctr with frDropped := s.aon.ctr.frDropped } = s.aon.ctr
      ∧ t.aon.ring = s.aon.ring))
  ∧ (∀ s : State,
    (s.aon.powered = true → s.aon.stamp + yearSeconds ≤ s.aon.ctr.powerOn →
      exec .identityRefresh s = .next { s with aon := { s.aon with stamp := s.aon.ctr.powerOn } })
    ∧ (s.aon.ctr.powerOn < s.aon.stamp + yearSeconds → exec .identityRefresh s = .next s))
  ∧ (∀ (lag : Fin 4096) (s : State), s.boot.st ≠ .held → syncEn s.regs.syncCfg = true → s.time.stuck = false →
    (s.syncIgnored = true → exec (.syncEdge lag) s = .next { s with time := { s.time with syncIgn := min 0xFFFFFFFF (s.time.syncIgn + 1) } })
    ∧ (s.syncIgnored = false → ∀ e, e = syncError (syncPer s.regs.syncCfg) (s.time.now - lag.val) →
      ∃ t, exec (.syncEdge lag) s = .next t ∧ { t with time := s.time } = s ∧ t.time.syncD = s.time.now - lag.val ∧ t.time.syncE = e
        ∧ t.time.now = s.time.now ∧ t.time.lastEdge = some s.time.sclk ∧ t.time.syncIgn = s.time.syncIgn
        ∧ t.time.slew = (if syncDiscipline s.regs.syncCfg = true ∧ iabs e ≤ 5000 then (if e = 0 then none else some ⟨-e, 0, false⟩) else s.time.slew)
        ∧ t.time.syncFar = (if syncDiscipline s.regs.syncCfg = true ∧ 5000 < iabs e then min 0xFFFFFFFF (s.time.syncFar + 1) else s.time.syncFar)))
  ∧ (∀ s : State, (s.boot.st ≠ .held → syncEn s.regs.syncCfg = true → s.time.stuck = false → ∃ t, exec .syncStuck s = .next t
      ∧ t.time = { s.time with stuck := true } ∧ { t with time := s.time, aon := s.aon, host := s.host, saf := s.saf } = s)
    ∧ (s.time.stuck = true → exec .syncStuck s = .next s
      ∧ exec .syncStuckEnd s = .next { s with time := { s.time with stuck := false, freeEdge := true } })
    ∧ (s.time.stuck = false → exec .syncStuckEnd s = .next s))

/-! ### Registers and the safety management interface -/

/-- The BAR0 commands with the link up: rank and hold registers, CLR_ATTN, the pairs' low reads and high writes, the
ledger window, the judgement of a write in its order, LOCK, and writes held during a hub core restart. -/
def Obligations.RegistersAct : Prop :=
  ∀ s : State, s.linkOk = true →
    (s.hubDown = false → exec .clrAttn s = .next { s with host := { s.host with attnFail := 0 } })
    ∧ (∀ (k : Fin 6) (be : BitVec 4) v, s.hubDown = false → be ≠ 0 → contiguous be.toNat = true →
        exec (.arbRankWrite k be v) s = .next { s with regs := { s.regs with
          rank := setAt s.regs.rank k (mergeBytes (nth 0 s.regs.rank k) v.toNat be.toNat &&& rankMask k) } })
    ∧ (∀ (k : Fin 5) v, s.hubDown = false →
        exec (.arbHoldWrite k 15 v) s = .next { s with regs := { s.regs with hold := setAt s.regs.hold k v.toNat } })
    ∧ (∀ (k : Fin 5) (be : BitVec 4) v, be ≠ 0 → be ≠ 15 → contiguous be.toNat = true →
        exec (.arbHoldWrite k be v) s = .next (s.fault ⟨.regAccess, .info, Loc.hub 7, 0x0840 + 4 * k.val, be.toNat + 256⟩))
    ∧ (∀ k : Fin 6, ∃ t, exec (.pairLoRead k) s = .next t ∧ { t with regs := s.regs } = s
        ∧ t.regs.lastRead = s.pairValue k % 2 ^ 32 ∧ t.regs.hiLatch = setAt s.regs.hiLatch k (s.pairValue k / 2 ^ 32 % 2 ^ 32)
        ∧ { t.regs with lastRead := s.regs.lastRead, hiLatch := s.regs.hiLatch, subLatch := s.regs.subLatch } = s.regs)
    ∧ (∀ v, s.hubDown = false →
        exec (.pairHiWrite 1 15 v) s = .next { s with host := { s.host with tblBase := nth 0 s.regs.staging 0 + 2 ^ 32 * v.toNat } }
        ∧ exec (.pairHiWrite 2 15 v) s = .next { s with host := { s.host with attnBase := nth 0 s.regs.staging 1 + 2 ^ 32 * v.toNat } }
        ∧ ∀ k ∈ [(0 : Fin 6), 3, 4, 5], exec (.pairHiWrite k 15 v) s = .next s)
    ∧ (∀ v : Word32, s.hubDown = false → field v.toNat 0 12 < viewLen (field v.toNat 12 2) → ∃ t, exec (.ledWinAddrWrite 15 v) s = .next t
        ∧ { t with aon := s.aon } = s ∧ t.aon = { s.aon with winAddr := v.toNat % 0x4000, latch := if v.toNat % 0x4000 = 0 then s.aon.summary else s.aon.latch })
    ∧ (∃ t, exec .ledWinDataRead s = .next t ∧ { t with aon := s.aon, regs := s.regs } = s ∧ t.regs = { s.regs with lastRead := s.aon.winData }
        ∧ t.aon = { s.aon with winAddr := if s.aon.winAddr % 4096 < viewLen (s.aon.winAddr / 4096 % 4) then s.aon.winAddr + 1 else s.aon.winAddr })
    ∧ (∀ (v : Word64), s.regs.lock = false → 1 ≤ v.toNat % 2 ^ 32 % 256 →
        exec (.registerWrite 0x0C04 1 15 v) s = .next { s with regs := { s.regs with limit := v.toNat % 2 ^ 32 % 256 } })
    ∧ (∀ (v : Word64), s.regs.lock = true → s.regOk 0x0C00 (v.toNat % 2 ^ 32) = true → s.regOk 0x0C04 (v.toNat % 2 ^ 32) = true →
        exec (.registerWrite 0x0C00 1 15 v) s = .next (s.fault ⟨.regAccess, .info, Loc.hub 7, 0x0C00, 15 + 256 * 3⟩)
        ∧ exec (.registerWrite 0x0C04 1 15 v) s = .next (s.fault ⟨.regAccess, .info, Loc.hub 7, 0x0C04, 15 + 256 * 3⟩))
    ∧ (∀ (off : BitVec 16) (be : BitVec 8) (v : Word64), off.toNat % 4 = 0 → occupied off.toNat = false → be.toNat % 16 ≠ 0 →
        contiguous (be.toNat % 16) = true →
        exec (.registerWrite off 1 be v) s = .next (s.fault ⟨.regAccess, .info, Loc.hub 7, off.toNat, be.toNat % 16 + 256 * 4⟩))
    ∧ (∀ (off : BitVec 16) (v : Word64), occupied off.toNat = true → regRo off.toNat = true → exec (.registerWrite off 1 15 v) s = .next s)
    ∧ (∀ (k : Fin 5) v, s.hubDown = true → s.regs.heldWrites.length < 64 → exec (.arbHoldWrite k 15 v) s = .next { s with regs := { s.regs with
          heldWrites := s.regs.heldWrites ++ [(0x0840 + 4 * k.val, 15, v.toNat)] } })

/-- The frames of the safety management interface outside a power-on reset: each returns the response of the frame
before and holds its own ready; reads answer the value, commands act, a bad frame is counted; in a power-on reset
nothing happens. -/
def Obligations.SafetyInterfaceAnswers : Prop :=
  ∀ s : State,
    (s.boot.st = .held → ∀ c ∈ [Instr.smiNop, .cmdForceSafeSet, .cmdForceSafeRelease, .cmdLock], exec c s = .next s)
    ∧ (s.boot.st ≠ .held →
      exec .smiNop s = .next { s with smi := { s.smi with miso := s.smi.frame, rstat := 0, addr := 0, data := 0, run := 0 } }
      ∧ (∀ a : BitVec 16, s.smiValue a.toNat = none →
          exec (.smiRead a) s = .next { s with smi := { s.smi with miso := s.smi.frame, rstat := 2, addr := a.toNat, data := 0, run := 0 } }
          ∧ ∀ v, exec (.smiWrite a v) s = .next { s with smi := { s.smi with miso := s.smi.frame, rstat := 2, addr := a.toNat, data := 0, run := 0 } })
      ∧ (∀ (a : BitVec 16) v, s.smiValue a.toNat = some v → ∃ t, exec (.smiRead a) s = .next t ∧ { t with smi := s.smi } = s
          ∧ { t.smi with hiLatch := s.smi.hiLatch } = { s.smi with miso := s.smi.frame, rstat := 0, addr := a.toNat, data := v, run := 0 }
          ∧ t.smi.hiLatch = (if a.toNat = 0x001C then s.aon.ctr.commits / 2 ^ 32 % 2 ^ 32 else s.smi.hiLatch))
      ∧ (∃ t, exec .cmdForceSafeSet s = .next t ∧ { t with smi := s.smi, saf := s.saf } = s ∧ t.saf = { s.saf with causes := setBit s.saf.causes 5, force := true }
          ∧ t.smi.rstat = 0 ∧ t.smi.miso = s.smi.frame)
      ∧ (∃ t, exec .cmdForceSafeRelease s = .next t ∧ { t with smi := s.smi, saf := s.saf } = s ∧ t.saf = { s.saf with force := false } ∧ t.smi.rstat = 0)
      ∧ (∃ t, exec .cmdLock s = .next t ∧ { t with smi := s.smi, regs := s.regs } = s ∧ t.regs = { s.regs with lock := true } ∧ t.smi.rstat = 0)
      ∧ (∀ v : Word32, ∃ t, exec (.cmdAck v) s = .next t ∧ { t with smi := s.smi, saf := s.saf } = s
          ∧ ((v.toNat + 2 ^ 32 - s.saf.frAcked) % 2 ^ 32 ≤ 2 ^ 31 - 1
              → (v.toNat + 2 ^ 32 - s.saf.frAcked) % 2 ^ 32 ≤ (s.aon.ctr.frTotal % 2 ^ 32 + 2 ^ 32 - s.saf.frAcked) % 2 ^ 32 →
              t.smi.rstat = 0 ∧ t.saf.frAcked = v.toNat ∧ ∀ x, x ∈ t.saf.unacked ↔ x ∈ s.saf.unacked
                ∧ (v.toNat + 2 ^ 32 - s.saf.frAcked) % 2 ^ 32 < (x.1 + 2 ^ 32 - s.saf.frAcked) % 2 ^ 32)
          ∧ ((s.aon.ctr.frTotal % 2 ^ 32 + 2 ^ 32 - s.saf.frAcked) % 2 ^ 32 < (v.toNat + 2 ^ 32 - s.saf.frAcked) % 2 ^ 32 →
              t.saf = s.saf ∧ t.smi.rstat = 4))
      ∧ (∀ v : Word32, (s.regOk 0x0C04 v.toNat = true → ∃ t, exec (.smiWrite 0x0C04 v) s = .next t ∧ { t with smi := s.smi, regs := s.regs } = s
            ∧ t.regs = { s.regs with limit := v.toNat % 256 } ∧ t.smi.rstat = 0)
          ∧ (s.regOk 0x0C04 v.toNat = false → ∃ t, exec (.smiWrite 0x0C04 v) s = .next t ∧ { t with smi := s.smi } = s ∧ t.smi.rstat = 4))
      ∧ (∀ a : BitVec 16, s.smi.run < 15 →
          exec (.smiBadFrame .crc a) s = .next { s with smi := { s.smi with
            miso := s.smi.frame, rstat := 1, addr := a.toNat, data := 0, crcErrs := min 0xFFFF (s.smi.crcErrs + 1), run := s.smi.run + 1 } }
          ∧ exec (.smiBadFrame .cmd a) s = .next { s with smi := { s.smi with miso := s.smi.frame, rstat := 3, addr := a.toNat, data := 0, run := s.smi.run + 1 } }
          ∧ exec (.smiBadFrame .framing a) s = .next { s with smi := { s.smi with
            rstat := 5, addr := a.toNat, data := 0, framingErrs := min 0xFFFF (s.smi.framingErrs + 1), run := s.smi.run + 1 } })
      ∧ (∀ a why, 15 ≤ s.smi.run → ∃ t, exec (.smiBadFrame why a) s = .next t ∧ t.smi.run = 0
          ∧ { t with smi := s.smi, aon := s.aon, host := s.host, saf := s.saf } = s))
end

