-- ==== Sys2Proof/Laws/Memory.lean ====
section
/-!
SUPPORT. Laws of sparse memories: a byte read after a write, what a write leaves alone, and that every
operation keeps the canonical form.
-/
namespace Sys2Proof.Machine

open Sys2Proof

/-! ### The canonical form -/

/-- A canonical memory above a bound is canonical above any lower one. -/
theorem wfFrom_weaken {lo lo' : Option Nat} {m : Memory} (h : Memory.wfFrom lo m = true)
    (hl : ∀ a, lo.all (· < a) = true → lo'.all (· < a) = true) : Memory.wfFrom lo' m = true := by
  cases m with
  | nil => rfl
  | cons c r =>
    simp only [Memory.wfFrom, Bool.and_eq_true] at h ⊢
    exact ⟨⟨hl _ h.1.1, h.1.2⟩, h.2⟩

/-- A byte written above the bound keeps the canonical form. -/
theorem wfFrom_set {lo : Option Nat} {m : Memory} (h : Memory.wfFrom lo m = true) (a : Nat) (v : Byte)
    (ha : lo.all (· < a) = true) : Memory.wfFrom lo (Memory.set m a v) = true := by
  induction m generalizing lo with
  | nil =>
    unfold Memory.set
    split <;> simp_all [Memory.wfFrom]
  | cons c r ih =>
    obtain ⟨b, w⟩ := c
    simp only [Memory.wfFrom, Bool.and_eq_true] at h
    unfold Memory.set
    split
    · rename_i hab
      split
      · simp only [Memory.wfFrom, Bool.and_eq_true]; exact h
      · simp_all [Memory.wfFrom]
    · split
      · rename_i hb
        subst hb
        split
        · refine wfFrom_weaken h.2 (fun x hx => ?_)
          cases lo with
          | none => rfl
          | some l => simp_all; omega
        · simp_all [Memory.wfFrom]
      · simp only [Memory.wfFrom, Bool.and_eq_true]
        exact ⟨h.1, ih h.2 (by simp; omega)⟩

/-- Writing a byte keeps the canonical form. -/
theorem wf_set {m : Memory} (h : Memory.wf m = true) (a : Nat) (v : Byte) : Memory.wf (Memory.set m a v) = true :=
  wfFrom_set h a v rfl

/-- Writing bytes keeps the canonical form. -/
theorem wf_write {m : Memory} (h : Memory.wf m = true) (a : Nat) (bs : List Byte) :
    Memory.wf (Memory.write m a bs) = true := by
  induction bs generalizing m a with
  | nil => exact h
  | cons b r ih => exact ih (wf_set h a b) (a + 1)

/-- What a filter leaves of a canonical memory is canonical. -/
theorem wfFrom_filter {lo : Option Nat} {m : Memory} (p : Host.Cell → Bool) (h : Memory.wfFrom lo m = true) :
    Memory.wfFrom lo (m.filter p) = true := by
  induction m generalizing lo with
  | nil => rfl
  | cons c r ih =>
    obtain ⟨a, v⟩ := c
    simp only [Memory.wfFrom, Bool.and_eq_true] at h
    by_cases hp : p (a, v) = true
    · rw [List.filter_cons_of_pos hp]
      simp only [Memory.wfFrom, Bool.and_eq_true]
      exact ⟨h.1, ih h.2⟩
    · rw [List.filter_cons_of_neg hp]
      refine wfFrom_weaken (ih h.2) (fun x hx => ?_)
      cases lo with
      | none => rfl
      | some l => simp_all; omega

/-- Emptying a range keeps the canonical form. -/
theorem wf_clear {m : Memory} (h : Memory.wf m = true) (a n : Nat) : Memory.wf (Memory.clear m a n) = true :=
  wfFrom_filter _ h

/-- Writes in a row keep the canonical form. -/
theorem wf_foldl {α : Type} (f : Memory → α → Memory) (hf : ∀ m x, Memory.wf m = true → Memory.wf (f m x) = true)
    (xs : List α) {m : Memory} (h : Memory.wf m = true) : Memory.wf (xs.foldl f m) = true := by
  induction xs generalizing m with
  | nil => exact h
  | cons x r ih => exact ih (hf m x h)

/-! ### Reading after writing -/

/-- Below everything listed a canonical memory reads 0. -/
theorem get_below {lo : Option Nat} {m : Memory} (h : Memory.wfFrom lo m = true) (a : Nat)
    (ha : lo.all (· < a) = false) : Memory.get m a = 0 := by
  induction m generalizing lo with
  | nil => rfl
  | cons c r ih =>
    obtain ⟨b, v⟩ := c
    simp only [Memory.wfFrom, Bool.and_eq_true] at h
    cases lo with
    | none => simp at ha
    | some l =>
      simp at ha h
      have hb : b ≠ a := by omega
      simp only [Memory.get, if_neg hb]
      exact ih h.2 (by simp; omega)

/-- The byte written is the byte read. -/
theorem get_set_same {m : Memory} (h : Memory.wf m = true) (a : Nat) (v : Byte) :
    Memory.get (Memory.set m a v) a = v := by
  unfold Memory.wf at h
  generalize none = lo at h
  induction m generalizing lo with
  | nil =>
    unfold Memory.set
    split <;> simp_all [Memory.get]
  | cons c r ih =>
    obtain ⟨b, w⟩ := c
    simp only [Memory.wfFrom, Bool.and_eq_true] at h
    unfold Memory.set
    split
    · rename_i hab
      split
      · have hb : b ≠ a := by omega
        simp only [Memory.get, if_neg hb]
        rw [get_below h.2 a (by simp; omega)]
        simp_all
      · simp [Memory.get]
    · split
      · rename_i hb
        subst hb
        split
        · rw [get_below h.2 a (by simp)]
          simp_all
        · simp [Memory.get]
      · rename_i hb
        have hb' : b ≠ a := fun e => hb e.symm
        simp only [Memory.get, if_neg hb']
        exact ih _ h.2

/-- A byte written leaves every other address alone. -/
theorem get_set_other (m : Memory) (a b : Nat) (v : Byte) (h : a ≠ b) :
    Memory.get (Memory.set m a v) b = Memory.get m b := by
  induction m with
  | nil => unfold Memory.set; split <;> simp [Memory.get, h]
  | cons c r ih =>
    obtain ⟨x, w⟩ := c
    unfold Memory.set
    split
    · split <;> simp [Memory.get, h]
    · split
      · rename_i hx
        subst hx
        split <;> simp [Memory.get, h]
      · simp only [Memory.get, ih]

/-- Bytes written leave every address outside their range alone. -/
theorem get_write_other (m : Memory) (a : Nat) (bs : List Byte) (x : Nat) (h : x < a ∨ a + bs.length ≤ x) :
    Memory.get (Memory.write m a bs) x = Memory.get m x := by
  induction bs generalizing m a with
  | nil => rfl
  | cons b r ih =>
    simp only [List.length_cons] at h
    rw [Memory.write, ih _ _ (by omega), get_set_other _ _ _ _ (by omega)]

/-- The bytes written are the bytes read. -/
theorem get_write_same {m : Memory} (h : Memory.wf m = true) (a : Nat) (bs : List Byte) (i : Nat)
    (hi : i < bs.length) : Memory.get (Memory.write m a bs) (a + i) = bs[i] := by
  induction bs generalizing m a i with
  | nil => simp at hi
  | cons b r ih =>
    rw [Memory.write]
    cases i with
    | zero => simp only [Nat.add_zero]; rw [get_write_other _ _ _ _ (by omega), get_set_same h]; rfl
    | succ k =>
      have := ih (wf_set h a b) (a + 1) k (by simpa using hi)
      rw [show a + (k + 1) = a + 1 + k by omega, this]; rfl

/-- A range written is the range read. -/
theorem read_write_same {m : Memory} (h : Memory.wf m = true) (a : Nat) (bs : List Byte) :
    Memory.read (Memory.write m a bs) a bs.length = bs := by
  refine List.ext_getElem (by simp [Memory.read]) (fun i h1 h2 => ?_)
  simp only [Memory.read, List.getElem_map, List.getElem_range]
  exact get_write_same h a bs i h2

/-- A range apart from the one written reads as before. -/
theorem read_write_other (m : Memory) (a : Nat) (bs : List Byte) (x n : Nat) (h : x + n ≤ a ∨ a + bs.length ≤ x) :
    Memory.read (Memory.write m a bs) x n = Memory.read m x n := by
  unfold Memory.read
  refine List.map_congr_left (fun i hi => ?_)
  rw [List.mem_range] at hi
  exact get_write_other _ _ _ _ (by omega)

end Sys2Proof.Machine
end

