-- ==== Sys2Proof/Laws/State.lean ====
section
/-!
SUPPORT. One lemma per field for each operation that is a plain update of the state: what the field holds
afterwards. A proof that cites them unfolds no record update.
-/
namespace Sys2Proof.Machine

open Sys2Proof

/-! ### spend -/

@[simp] theorem State.spend_pending (s : State) (n : Nat) : (s.spend n).pending = s.pending := rfl
@[simp] theorem State.spend_free (s : State) (n : Nat) : (s.spend n).free = s.free + n := rfl
@[simp] theorem State.spend_boot (s : State) (n : Nat) : (s.spend n).boot = s.boot := rfl
@[simp] theorem State.spend_pkg (s : State) (n : Nat) : (s.spend n).pkg = s.pkg := rfl
@[simp] theorem State.spend_host (s : State) (n : Nat) : (s.spend n).host = s.host := rfl
@[simp] theorem State.spend_regs (s : State) (n : Nat) : (s.spend n).regs = s.regs := rfl
@[simp] theorem State.spend_time (s : State) (n : Nat) : (s.spend n).time = s.time := rfl
@[simp] theorem State.spend_clk (s : State) (n : Nat) : (s.spend n).clk = s.clk := rfl
@[simp] theorem State.spend_saf (s : State) (n : Nat) : (s.spend n).saf = s.saf := rfl
@[simp] theorem State.spend_aon (s : State) (n : Nat) : (s.spend n).aon = s.aon := rfl
@[simp] theorem State.spend_smi (s : State) (n : Nat) : (s.spend n).smi = s.smi := rfl
@[simp] theorem State.spend_world (s : State) (n : Nat) : (s.spend n).world = s.world := rfl
@[simp] theorem State.spend_img (s : State) (n : Nat) : (s.spend n).img = s.img := rfl
@[simp] theorem State.spend_cyc (s : State) (n : Nat) : (s.spend n).cyc = s.cyc := rfl
@[simp] theorem State.spend_ops (s : State) (n : Nat) : (s.spend n).ops = s.ops := rfl
@[simp] theorem State.spend_mem (s : State) (n : Nat) : (s.spend n).mem = s.mem := rfl
@[simp] theorem State.spend_coh (s : State) (n : Nat) : (s.spend n).coh = s.coh := rfl
@[simp] theorem State.spend_eng (s : State) (n : Nat) : (s.spend n).eng = s.eng := rfl
@[simp] theorem State.spend_du (s : State) (n : Nat) : (s.spend n).du = s.du := rfl
@[simp] theorem State.spend_msgs (s : State) (n : Nat) : (s.spend n).msgs = s.msgs := rfl

/-! ### mapDie -/

@[simp] theorem State.mapDie_pending (s : State) (d : Nat) (f : DieSt → DieSt) : (s.mapDie d f).pending = s.pending := rfl
@[simp] theorem State.mapDie_free (s : State) (d : Nat) (f : DieSt → DieSt) : (s.mapDie d f).free = s.free := rfl
@[simp] theorem State.mapDie_boot (s : State) (d : Nat) (f : DieSt → DieSt) : (s.mapDie d f).boot = s.boot := rfl
@[simp] theorem State.mapDie_pkg (s : State) (d : Nat) (f : DieSt → DieSt) : (s.mapDie d f).pkg = { s.pkg with dies := modAt f s.pkg.dies d } := rfl
@[simp] theorem State.mapDie_host (s : State) (d : Nat) (f : DieSt → DieSt) : (s.mapDie d f).host = s.host := rfl
@[simp] theorem State.mapDie_regs (s : State) (d : Nat) (f : DieSt → DieSt) : (s.mapDie d f).regs = s.regs := rfl
@[simp] theorem State.mapDie_time (s : State) (d : Nat) (f : DieSt → DieSt) : (s.mapDie d f).time = s.time := rfl
@[simp] theorem State.mapDie_clk (s : State) (d : Nat) (f : DieSt → DieSt) : (s.mapDie d f).clk = s.clk := rfl
@[simp] theorem State.mapDie_saf (s : State) (d : Nat) (f : DieSt → DieSt) : (s.mapDie d f).saf = s.saf := rfl
@[simp] theorem State.mapDie_aon (s : State) (d : Nat) (f : DieSt → DieSt) : (s.mapDie d f).aon = s.aon := rfl
@[simp] theorem State.mapDie_smi (s : State) (d : Nat) (f : DieSt → DieSt) : (s.mapDie d f).smi = s.smi := rfl
@[simp] theorem State.mapDie_world (s : State) (d : Nat) (f : DieSt → DieSt) : (s.mapDie d f).world = s.world := rfl
@[simp] theorem State.mapDie_img (s : State) (d : Nat) (f : DieSt → DieSt) : (s.mapDie d f).img = s.img := rfl
@[simp] theorem State.mapDie_cyc (s : State) (d : Nat) (f : DieSt → DieSt) : (s.mapDie d f).cyc = s.cyc := rfl
@[simp] theorem State.mapDie_ops (s : State) (d : Nat) (f : DieSt → DieSt) : (s.mapDie d f).ops = s.ops := rfl
@[simp] theorem State.mapDie_mem (s : State) (d : Nat) (f : DieSt → DieSt) : (s.mapDie d f).mem = s.mem := rfl
@[simp] theorem State.mapDie_coh (s : State) (d : Nat) (f : DieSt → DieSt) : (s.mapDie d f).coh = s.coh := rfl
@[simp] theorem State.mapDie_eng (s : State) (d : Nat) (f : DieSt → DieSt) : (s.mapDie d f).eng = s.eng := rfl
@[simp] theorem State.mapDie_du (s : State) (d : Nat) (f : DieSt → DieSt) : (s.mapDie d f).du = s.du := rfl
@[simp] theorem State.mapDie_msgs (s : State) (d : Nat) (f : DieSt → DieSt) : (s.mapDie d f).msgs = s.msgs := rfl

/-! ### mapDu -/

@[simp] theorem State.mapDu_pending (s : State) (d : Nat) (f : DuState → DuState) : (s.mapDu d f).pending = s.pending := rfl
@[simp] theorem State.mapDu_free (s : State) (d : Nat) (f : DuState → DuState) : (s.mapDu d f).free = s.free := rfl
@[simp] theorem State.mapDu_boot (s : State) (d : Nat) (f : DuState → DuState) : (s.mapDu d f).boot = s.boot := rfl
@[simp] theorem State.mapDu_pkg (s : State) (d : Nat) (f : DuState → DuState) : (s.mapDu d f).pkg = s.pkg := rfl
@[simp] theorem State.mapDu_host (s : State) (d : Nat) (f : DuState → DuState) : (s.mapDu d f).host = s.host := rfl
@[simp] theorem State.mapDu_regs (s : State) (d : Nat) (f : DuState → DuState) : (s.mapDu d f).regs = s.regs := rfl
@[simp] theorem State.mapDu_time (s : State) (d : Nat) (f : DuState → DuState) : (s.mapDu d f).time = s.time := rfl
@[simp] theorem State.mapDu_clk (s : State) (d : Nat) (f : DuState → DuState) : (s.mapDu d f).clk = s.clk := rfl
@[simp] theorem State.mapDu_saf (s : State) (d : Nat) (f : DuState → DuState) : (s.mapDu d f).saf = s.saf := rfl
@[simp] theorem State.mapDu_aon (s : State) (d : Nat) (f : DuState → DuState) : (s.mapDu d f).aon = s.aon := rfl
@[simp] theorem State.mapDu_smi (s : State) (d : Nat) (f : DuState → DuState) : (s.mapDu d f).smi = s.smi := rfl
@[simp] theorem State.mapDu_world (s : State) (d : Nat) (f : DuState → DuState) : (s.mapDu d f).world = s.world := rfl
@[simp] theorem State.mapDu_img (s : State) (d : Nat) (f : DuState → DuState) : (s.mapDu d f).img = s.img := rfl
@[simp] theorem State.mapDu_cyc (s : State) (d : Nat) (f : DuState → DuState) : (s.mapDu d f).cyc = s.cyc := rfl
@[simp] theorem State.mapDu_ops (s : State) (d : Nat) (f : DuState → DuState) : (s.mapDu d f).ops = s.ops := rfl
@[simp] theorem State.mapDu_mem (s : State) (d : Nat) (f : DuState → DuState) : (s.mapDu d f).mem = s.mem := rfl
@[simp] theorem State.mapDu_coh (s : State) (d : Nat) (f : DuState → DuState) : (s.mapDu d f).coh = s.coh := rfl
@[simp] theorem State.mapDu_eng (s : State) (d : Nat) (f : DuState → DuState) : (s.mapDu d f).eng = s.eng := rfl
@[simp] theorem State.mapDu_du (s : State) (d : Nat) (f : DuState → DuState) : (s.mapDu d f).du = modAt f s.du d := rfl
@[simp] theorem State.mapDu_msgs (s : State) (d : Nat) (f : DuState → DuState) : (s.mapDu d f).msgs = s.msgs := rfl

/-! ### poke -/

@[simp] theorem State.poke_pending (s : State) (a : Nat) (bs : List Byte) : (s.poke a bs).pending = s.pending := rfl
@[simp] theorem State.poke_free (s : State) (a : Nat) (bs : List Byte) : (s.poke a bs).free = s.free := rfl
@[simp] theorem State.poke_boot (s : State) (a : Nat) (bs : List Byte) : (s.poke a bs).boot = s.boot := rfl
@[simp] theorem State.poke_pkg (s : State) (a : Nat) (bs : List Byte) : (s.poke a bs).pkg = s.pkg := rfl
@[simp] theorem State.poke_host (s : State) (a : Nat) (bs : List Byte) : (s.poke a bs).host = s.host := rfl
@[simp] theorem State.poke_regs (s : State) (a : Nat) (bs : List Byte) : (s.poke a bs).regs = s.regs := rfl
@[simp] theorem State.poke_time (s : State) (a : Nat) (bs : List Byte) : (s.poke a bs).time = s.time := rfl
@[simp] theorem State.poke_clk (s : State) (a : Nat) (bs : List Byte) : (s.poke a bs).clk = s.clk := rfl
@[simp] theorem State.poke_saf (s : State) (a : Nat) (bs : List Byte) : (s.poke a bs).saf = s.saf := rfl
@[simp] theorem State.poke_aon (s : State) (a : Nat) (bs : List Byte) : (s.poke a bs).aon = s.aon := rfl
@[simp] theorem State.poke_smi (s : State) (a : Nat) (bs : List Byte) : (s.poke a bs).smi = s.smi := rfl
@[simp] theorem State.poke_world (s : State) (a : Nat) (bs : List Byte) : (s.poke a bs).world = s.world := rfl
@[simp] theorem State.poke_img (s : State) (a : Nat) (bs : List Byte) : (s.poke a bs).img = s.img := rfl
@[simp] theorem State.poke_cyc (s : State) (a : Nat) (bs : List Byte) : (s.poke a bs).cyc = s.cyc := rfl
@[simp] theorem State.poke_ops (s : State) (a : Nat) (bs : List Byte) : (s.poke a bs).ops = s.ops := rfl
@[simp] theorem State.poke_mem (s : State) (a : Nat) (bs : List Byte) : (s.poke a bs).mem = s.mem.write a bs := rfl
@[simp] theorem State.poke_coh (s : State) (a : Nat) (bs : List Byte) : (s.poke a bs).coh = s.coh := rfl
@[simp] theorem State.poke_eng (s : State) (a : Nat) (bs : List Byte) : (s.poke a bs).eng = s.eng := rfl
@[simp] theorem State.poke_du (s : State) (a : Nat) (bs : List Byte) : (s.poke a bs).du = s.du := rfl
@[simp] theorem State.poke_msgs (s : State) (a : Nat) (bs : List Byte) : (s.poke a bs).msgs = s.msgs := rfl

/-! ### look -/

@[simp] theorem State.look_pending (s : State) (v : HostView) : (s.look v).pending = s.pending := rfl
@[simp] theorem State.look_free (s : State) (v : HostView) : (s.look v).free = s.free := rfl
@[simp] theorem State.look_boot (s : State) (v : HostView) : (s.look v).boot = s.boot := rfl
@[simp] theorem State.look_pkg (s : State) (v : HostView) : (s.look v).pkg = s.pkg := rfl
@[simp] theorem State.look_host (s : State) (v : HostView) : (s.look v).host = { s.host with mem := v.stores.foldl (fun m e => m.write e.1 e.2) s.host.mem, fails := v.fails } := rfl
@[simp] theorem State.look_regs (s : State) (v : HostView) : (s.look v).regs = s.regs := rfl
@[simp] theorem State.look_time (s : State) (v : HostView) : (s.look v).time = s.time := rfl
@[simp] theorem State.look_clk (s : State) (v : HostView) : (s.look v).clk = s.clk := rfl
@[simp] theorem State.look_saf (s : State) (v : HostView) : (s.look v).saf = s.saf := rfl
@[simp] theorem State.look_aon (s : State) (v : HostView) : (s.look v).aon = s.aon := rfl
@[simp] theorem State.look_smi (s : State) (v : HostView) : (s.look v).smi = s.smi := rfl
@[simp] theorem State.look_world (s : State) (v : HostView) : (s.look v).world = s.world := rfl
@[simp] theorem State.look_img (s : State) (v : HostView) : (s.look v).img = s.img := rfl
@[simp] theorem State.look_cyc (s : State) (v : HostView) : (s.look v).cyc = s.cyc := rfl
@[simp] theorem State.look_ops (s : State) (v : HostView) : (s.look v).ops = s.ops := rfl
@[simp] theorem State.look_mem (s : State) (v : HostView) : (s.look v).mem = s.mem := rfl
@[simp] theorem State.look_coh (s : State) (v : HostView) : (s.look v).coh = s.coh := rfl
@[simp] theorem State.look_eng (s : State) (v : HostView) : (s.look v).eng = s.eng := rfl
@[simp] theorem State.look_du (s : State) (v : HostView) : (s.look v).du = s.du := rfl
@[simp] theorem State.look_msgs (s : State) (v : HostView) : (s.look v).msgs = s.msgs := rfl

/-! ### mapRing -/

@[simp] theorem State.mapRing_pending (s : State) (n : Nat) (f : Ring → Ring) : (s.mapRing n f).pending = s.pending := rfl
@[simp] theorem State.mapRing_free (s : State) (n : Nat) (f : Ring → Ring) : (s.mapRing n f).free = s.free := rfl
@[simp] theorem State.mapRing_boot (s : State) (n : Nat) (f : Ring → Ring) : (s.mapRing n f).boot = s.boot := rfl
@[simp] theorem State.mapRing_pkg (s : State) (n : Nat) (f : Ring → Ring) : (s.mapRing n f).pkg = s.pkg := rfl
@[simp] theorem State.mapRing_host (s : State) (n : Nat) (f : Ring → Ring) : (s.mapRing n f).host = { s.host with rings := s.host.rings.map (fun r => if r.num = n then f r else r) } := rfl
@[simp] theorem State.mapRing_regs (s : State) (n : Nat) (f : Ring → Ring) : (s.mapRing n f).regs = s.regs := rfl
@[simp] theorem State.mapRing_time (s : State) (n : Nat) (f : Ring → Ring) : (s.mapRing n f).time = s.time := rfl
@[simp] theorem State.mapRing_clk (s : State) (n : Nat) (f : Ring → Ring) : (s.mapRing n f).clk = s.clk := rfl
@[simp] theorem State.mapRing_saf (s : State) (n : Nat) (f : Ring → Ring) : (s.mapRing n f).saf = s.saf := rfl
@[simp] theorem State.mapRing_aon (s : State) (n : Nat) (f : Ring → Ring) : (s.mapRing n f).aon = s.aon := rfl
@[simp] theorem State.mapRing_smi (s : State) (n : Nat) (f : Ring → Ring) : (s.mapRing n f).smi = s.smi := rfl
@[simp] theorem State.mapRing_world (s : State) (n : Nat) (f : Ring → Ring) : (s.mapRing n f).world = s.world := rfl
@[simp] theorem State.mapRing_img (s : State) (n : Nat) (f : Ring → Ring) : (s.mapRing n f).img = s.img := rfl
@[simp] theorem State.mapRing_cyc (s : State) (n : Nat) (f : Ring → Ring) : (s.mapRing n f).cyc = s.cyc := rfl
@[simp] theorem State.mapRing_ops (s : State) (n : Nat) (f : Ring → Ring) : (s.mapRing n f).ops = s.ops := rfl
@[simp] theorem State.mapRing_mem (s : State) (n : Nat) (f : Ring → Ring) : (s.mapRing n f).mem = s.mem := rfl
@[simp] theorem State.mapRing_coh (s : State) (n : Nat) (f : Ring → Ring) : (s.mapRing n f).coh = s.coh := rfl
@[simp] theorem State.mapRing_eng (s : State) (n : Nat) (f : Ring → Ring) : (s.mapRing n f).eng = s.eng := rfl
@[simp] theorem State.mapRing_du (s : State) (n : Nat) (f : Ring → Ring) : (s.mapRing n f).du = s.du := rfl
@[simp] theorem State.mapRing_msgs (s : State) (n : Nat) (f : Ring → Ring) : (s.mapRing n f).msgs = s.msgs := rfl

/-! ### complete -/

@[simp] theorem State.complete_pending (s : State) (d : Desc) (st : Status) (x y : Nat) (b : Bool) : (s.complete d st x y b).pending = s.pending := rfl
@[simp] theorem State.complete_free (s : State) (d : Desc) (st : Status) (x y : Nat) (b : Bool) : (s.complete d st x y b).free = s.free := rfl
@[simp] theorem State.complete_boot (s : State) (d : Desc) (st : Status) (x y : Nat) (b : Bool) : (s.complete d st x y b).boot = s.boot := rfl
@[simp] theorem State.complete_pkg (s : State) (d : Desc) (st : Status) (x y : Nat) (b : Bool) : (s.complete d st x y b).pkg = s.pkg := rfl
@[simp] theorem State.complete_host (s : State) (d : Desc) (st : Status) (x y : Nat) (b : Bool) : (s.complete d st x y b).host = { s.host with due := s.host.due ++
      [⟨d.ring, d.head.tag, st, d.head.opcode, d.head.seq, x % 2 ^ 32, y % 2 ^ 32,
        d.head.opcode == 0x0030 || d.head.opcode == 0x0031 || d.head.irq, b⟩] } := rfl
@[simp] theorem State.complete_regs (s : State) (d : Desc) (st : Status) (x y : Nat) (b : Bool) : (s.complete d st x y b).regs = s.regs := rfl
@[simp] theorem State.complete_time (s : State) (d : Desc) (st : Status) (x y : Nat) (b : Bool) : (s.complete d st x y b).time = s.time := rfl
@[simp] theorem State.complete_clk (s : State) (d : Desc) (st : Status) (x y : Nat) (b : Bool) : (s.complete d st x y b).clk = s.clk := rfl
@[simp] theorem State.complete_saf (s : State) (d : Desc) (st : Status) (x y : Nat) (b : Bool) : (s.complete d st x y b).saf = s.saf := rfl
@[simp] theorem State.complete_aon (s : State) (d : Desc) (st : Status) (x y : Nat) (b : Bool) : (s.complete d st x y b).aon = s.aon := rfl
@[simp] theorem State.complete_smi (s : State) (d : Desc) (st : Status) (x y : Nat) (b : Bool) : (s.complete d st x y b).smi = s.smi := rfl
@[simp] theorem State.complete_world (s : State) (d : Desc) (st : Status) (x y : Nat) (b : Bool) : (s.complete d st x y b).world = s.world := rfl
@[simp] theorem State.complete_img (s : State) (d : Desc) (st : Status) (x y : Nat) (b : Bool) : (s.complete d st x y b).img = s.img := rfl
@[simp] theorem State.complete_cyc (s : State) (d : Desc) (st : Status) (x y : Nat) (b : Bool) : (s.complete d st x y b).cyc = s.cyc := rfl
@[simp] theorem State.complete_ops (s : State) (d : Desc) (st : Status) (x y : Nat) (b : Bool) : (s.complete d st x y b).ops = s.ops := rfl
@[simp] theorem State.complete_mem (s : State) (d : Desc) (st : Status) (x y : Nat) (b : Bool) : (s.complete d st x y b).mem = s.mem := rfl
@[simp] theorem State.complete_coh (s : State) (d : Desc) (st : Status) (x y : Nat) (b : Bool) : (s.complete d st x y b).coh = s.coh := rfl
@[simp] theorem State.complete_eng (s : State) (d : Desc) (st : Status) (x y : Nat) (b : Bool) : (s.complete d st x y b).eng = s.eng := rfl
@[simp] theorem State.complete_du (s : State) (d : Desc) (st : Status) (x y : Nat) (b : Bool) : (s.complete d st x y b).du = s.du := rfl
@[simp] theorem State.complete_msgs (s : State) (d : Desc) (st : Status) (x y : Nat) (b : Bool) : (s.complete d st x y b).msgs = s.msgs := rfl

/-! ### count -/

@[simp] theorem State.count_pending (s : State) (f : Counters → Counters) : (s.count f).pending = s.pending := rfl
@[simp] theorem State.count_free (s : State) (f : Counters → Counters) : (s.count f).free = s.free := rfl
@[simp] theorem State.count_boot (s : State) (f : Counters → Counters) : (s.count f).boot = s.boot := rfl
@[simp] theorem State.count_pkg (s : State) (f : Counters → Counters) : (s.count f).pkg = s.pkg := rfl
@[simp] theorem State.count_host (s : State) (f : Counters → Counters) : (s.count f).host = s.host := rfl
@[simp] theorem State.count_regs (s : State) (f : Counters → Counters) : (s.count f).regs = s.regs := rfl
@[simp] theorem State.count_time (s : State) (f : Counters → Counters) : (s.count f).time = s.time := rfl
@[simp] theorem State.count_clk (s : State) (f : Counters → Counters) : (s.count f).clk = s.clk := rfl
@[simp] theorem State.count_saf (s : State) (f : Counters → Counters) : (s.count f).saf = s.saf := rfl
@[simp] theorem State.count_aon (s : State) (f : Counters → Counters) : (s.count f).aon = { s.aon with ctr := f s.aon.ctr } := rfl
@[simp] theorem State.count_smi (s : State) (f : Counters → Counters) : (s.count f).smi = s.smi := rfl
@[simp] theorem State.count_world (s : State) (f : Counters → Counters) : (s.count f).world = s.world := rfl
@[simp] theorem State.count_img (s : State) (f : Counters → Counters) : (s.count f).img = s.img := rfl
@[simp] theorem State.count_cyc (s : State) (f : Counters → Counters) : (s.count f).cyc = s.cyc := rfl
@[simp] theorem State.count_ops (s : State) (f : Counters → Counters) : (s.count f).ops = s.ops := rfl
@[simp] theorem State.count_mem (s : State) (f : Counters → Counters) : (s.count f).mem = s.mem := rfl
@[simp] theorem State.count_coh (s : State) (f : Counters → Counters) : (s.count f).coh = s.coh := rfl
@[simp] theorem State.count_eng (s : State) (f : Counters → Counters) : (s.count f).eng = s.eng := rfl
@[simp] theorem State.count_du (s : State) (f : Counters → Counters) : (s.count f).du = s.du := rfl
@[simp] theorem State.count_msgs (s : State) (f : Counters → Counters) : (s.count f).msgs = s.msgs := rfl

/-! ### stopEngines -/

@[simp] theorem State.stopEngines_pending (s : State) : (s.stopEngines).pending = s.pending := rfl
@[simp] theorem State.stopEngines_free (s : State) : (s.stopEngines).free = s.free := rfl
@[simp] theorem State.stopEngines_boot (s : State) : (s.stopEngines).boot = s.boot := rfl
@[simp] theorem State.stopEngines_pkg (s : State) : (s.stopEngines).pkg = s.pkg := rfl
@[simp] theorem State.stopEngines_host (s : State) : (s.stopEngines).host = s.host := rfl
@[simp] theorem State.stopEngines_regs (s : State) : (s.stopEngines).regs = s.regs := rfl
@[simp] theorem State.stopEngines_time (s : State) : (s.stopEngines).time = s.time := rfl
@[simp] theorem State.stopEngines_clk (s : State) : (s.stopEngines).clk = s.clk := rfl
@[simp] theorem State.stopEngines_saf (s : State) : (s.stopEngines).saf = s.saf := rfl
@[simp] theorem State.stopEngines_aon (s : State) : (s.stopEngines).aon = s.aon := rfl
@[simp] theorem State.stopEngines_smi (s : State) : (s.stopEngines).smi = s.smi := rfl
@[simp] theorem State.stopEngines_world (s : State) : (s.stopEngines).world = s.world := rfl
@[simp] theorem State.stopEngines_img (s : State) : (s.stopEngines).img = s.img := rfl
@[simp] theorem State.stopEngines_cyc (s : State) : (s.stopEngines).cyc = s.cyc := rfl
@[simp] theorem State.stopEngines_ops (s : State) : (s.stopEngines).ops = s.ops := rfl
@[simp] theorem State.stopEngines_mem (s : State) : (s.stopEngines).mem = s.mem := rfl
@[simp] theorem State.stopEngines_coh (s : State) : (s.stopEngines).coh = s.coh := rfl
@[simp] theorem State.stopEngines_eng (s : State) : (s.stopEngines).eng
    = { s.eng with queues := [], flags := s.eng.flags.filter (fun f => f.cause.isSome), runs := [], lanes := [] } := rfl
@[simp] theorem State.stopEngines_du (s : State) : (s.stopEngines).du = s.du := rfl
@[simp] theorem State.stopEngines_msgs (s : State) : (s.stopEngines).msgs = s.msgs := rfl

/-! ### withCoh -/

@[simp] theorem State.withCoh_pending (s : State) (o : CohOut) : (s.withCoh o).pending = s.pending := rfl
@[simp] theorem State.withCoh_free (s : State) (o : CohOut) : (s.withCoh o).free = s.free := rfl
@[simp] theorem State.withCoh_boot (s : State) (o : CohOut) : (s.withCoh o).boot = s.boot := rfl
@[simp] theorem State.withCoh_pkg (s : State) (o : CohOut) : (s.withCoh o).pkg = s.pkg := rfl
@[simp] theorem State.withCoh_host (s : State) (o : CohOut) : (s.withCoh o).host = s.host := rfl
@[simp] theorem State.withCoh_regs (s : State) (o : CohOut) : (s.withCoh o).regs = s.regs := rfl
@[simp] theorem State.withCoh_time (s : State) (o : CohOut) : (s.withCoh o).time = s.time := rfl
@[simp] theorem State.withCoh_clk (s : State) (o : CohOut) : (s.withCoh o).clk = s.clk := rfl
@[simp] theorem State.withCoh_saf (s : State) (o : CohOut) : (s.withCoh o).saf = s.saf := rfl
@[simp] theorem State.withCoh_aon (s : State) (o : CohOut) : (s.withCoh o).aon = s.aon := rfl
@[simp] theorem State.withCoh_smi (s : State) (o : CohOut) : (s.withCoh o).smi = s.smi := rfl
@[simp] theorem State.withCoh_world (s : State) (o : CohOut) : (s.withCoh o).world = s.world := rfl
@[simp] theorem State.withCoh_img (s : State) (o : CohOut) : (s.withCoh o).img = s.img := rfl
@[simp] theorem State.withCoh_cyc (s : State) (o : CohOut) : (s.withCoh o).cyc = s.cyc := rfl
@[simp] theorem State.withCoh_ops (s : State) (o : CohOut) : (s.withCoh o).ops = s.ops := rfl
@[simp] theorem State.withCoh_mem (s : State) (o : CohOut) : (s.withCoh o).mem = o.writes.foldl (fun m w => m.write (w.1 * 64) w.2) s.mem := rfl
@[simp] theorem State.withCoh_coh (s : State) (o : CohOut) : (s.withCoh o).coh = o.st := rfl
@[simp] theorem State.withCoh_eng (s : State) (o : CohOut) : (s.withCoh o).eng = s.eng := rfl
@[simp] theorem State.withCoh_du (s : State) (o : CohOut) : (s.withCoh o).du = s.du := rfl
@[simp] theorem State.withCoh_msgs (s : State) (o : CohOut) : (s.withCoh o).msgs = s.msgs := rfl

/-! ### dropLinks -/

@[simp] theorem State.dropLinks_pending (s : State) (d : Nat) : (s.dropLinks d).pending = s.pending := rfl
@[simp] theorem State.dropLinks_free (s : State) (d : Nat) : (s.dropLinks d).free = s.free := rfl
@[simp] theorem State.dropLinks_boot (s : State) (d : Nat) : (s.dropLinks d).boot = s.boot := rfl
@[simp] theorem State.dropLinks_pkg (s : State) (d : Nat) : (s.dropLinks d).pkg = { s.pkg with
      links := [d, 8 + d, 8 + (d + 7) % 8].foldl (fun l i => modAt (fun k => { k with st := .lost }) l i) s.pkg.links
      ringMask := clrBit (clrBit s.pkg.ringMask d) ((d + 7) % 8) } := rfl
@[simp] theorem State.dropLinks_host (s : State) (d : Nat) : (s.dropLinks d).host = s.host := rfl
@[simp] theorem State.dropLinks_regs (s : State) (d : Nat) : (s.dropLinks d).regs = s.regs := rfl
@[simp] theorem State.dropLinks_time (s : State) (d : Nat) : (s.dropLinks d).time = s.time := rfl
@[simp] theorem State.dropLinks_clk (s : State) (d : Nat) : (s.dropLinks d).clk = s.clk := rfl
@[simp] theorem State.dropLinks_saf (s : State) (d : Nat) : (s.dropLinks d).saf = s.saf := rfl
@[simp] theorem State.dropLinks_aon (s : State) (d : Nat) : (s.dropLinks d).aon = s.aon := rfl
@[simp] theorem State.dropLinks_smi (s : State) (d : Nat) : (s.dropLinks d).smi = s.smi := rfl
@[simp] theorem State.dropLinks_world (s : State) (d : Nat) : (s.dropLinks d).world = s.world := rfl
@[simp] theorem State.dropLinks_img (s : State) (d : Nat) : (s.dropLinks d).img = s.img := rfl
@[simp] theorem State.dropLinks_cyc (s : State) (d : Nat) : (s.dropLinks d).cyc = s.cyc := rfl
@[simp] theorem State.dropLinks_ops (s : State) (d : Nat) : (s.dropLinks d).ops = s.ops := rfl
@[simp] theorem State.dropLinks_mem (s : State) (d : Nat) : (s.dropLinks d).mem = s.mem := rfl
@[simp] theorem State.dropLinks_coh (s : State) (d : Nat) : (s.dropLinks d).coh = s.coh := rfl
@[simp] theorem State.dropLinks_eng (s : State) (d : Nat) : (s.dropLinks d).eng = s.eng := rfl
@[simp] theorem State.dropLinks_du (s : State) (d : Nat) : (s.dropLinks d).du = s.du := rfl
@[simp] theorem State.dropLinks_msgs (s : State) (d : Nat) : (s.dropLinks d).msgs = s.msgs := rfl

/-! ### mapCycle -/

@[simp] theorem State.mapCycle_pending (s : State) (f : Cycle → Cycle) : (s.mapCycle f).pending = s.pending := rfl
@[simp] theorem State.mapCycle_free (s : State) (f : Cycle → Cycle) : (s.mapCycle f).free = s.free := rfl
@[simp] theorem State.mapCycle_boot (s : State) (f : Cycle → Cycle) : (s.mapCycle f).boot = s.boot := rfl
@[simp] theorem State.mapCycle_pkg (s : State) (f : Cycle → Cycle) : (s.mapCycle f).pkg = s.pkg := rfl
@[simp] theorem State.mapCycle_host (s : State) (f : Cycle → Cycle) : (s.mapCycle f).host = s.host := rfl
@[simp] theorem State.mapCycle_regs (s : State) (f : Cycle → Cycle) : (s.mapCycle f).regs = s.regs := rfl
@[simp] theorem State.mapCycle_time (s : State) (f : Cycle → Cycle) : (s.mapCycle f).time = s.time := rfl
@[simp] theorem State.mapCycle_clk (s : State) (f : Cycle → Cycle) : (s.mapCycle f).clk = s.clk := rfl
@[simp] theorem State.mapCycle_saf (s : State) (f : Cycle → Cycle) : (s.mapCycle f).saf = s.saf := rfl
@[simp] theorem State.mapCycle_aon (s : State) (f : Cycle → Cycle) : (s.mapCycle f).aon = s.aon := rfl
@[simp] theorem State.mapCycle_smi (s : State) (f : Cycle → Cycle) : (s.mapCycle f).smi = s.smi := rfl
@[simp] theorem State.mapCycle_world (s : State) (f : Cycle → Cycle) : (s.mapCycle f).world = s.world := rfl
@[simp] theorem State.mapCycle_img (s : State) (f : Cycle → Cycle) : (s.mapCycle f).img = s.img := rfl
@[simp] theorem State.mapCycle_cyc (s : State) (f : Cycle → Cycle) : (s.mapCycle f).cyc = { s.cyc with cur := s.cyc.cur.map f } := rfl
@[simp] theorem State.mapCycle_ops (s : State) (f : Cycle → Cycle) : (s.mapCycle f).ops = s.ops := rfl
@[simp] theorem State.mapCycle_mem (s : State) (f : Cycle → Cycle) : (s.mapCycle f).mem = s.mem := rfl
@[simp] theorem State.mapCycle_coh (s : State) (f : Cycle → Cycle) : (s.mapCycle f).coh = s.coh := rfl
@[simp] theorem State.mapCycle_eng (s : State) (f : Cycle → Cycle) : (s.mapCycle f).eng = s.eng := rfl
@[simp] theorem State.mapCycle_du (s : State) (f : Cycle → Cycle) : (s.mapCycle f).du = s.du := rfl
@[simp] theorem State.mapCycle_msgs (s : State) (f : Cycle → Cycle) : (s.mapCycle f).msgs = s.msgs := rfl

/-! ### mapLink -/

@[simp] theorem State.mapLink_pending (s : State) (l : Nat) (f : Link → Link) : (s.mapLink l f).pending = s.pending := rfl
@[simp] theorem State.mapLink_free (s : State) (l : Nat) (f : Link → Link) : (s.mapLink l f).free = s.free := rfl
@[simp] theorem State.mapLink_boot (s : State) (l : Nat) (f : Link → Link) : (s.mapLink l f).boot = s.boot := rfl
@[simp] theorem State.mapLink_pkg (s : State) (l : Nat) (f : Link → Link) : (s.mapLink l f).pkg = { s.pkg with links := modAt f s.pkg.links l } := rfl
@[simp] theorem State.mapLink_host (s : State) (l : Nat) (f : Link → Link) : (s.mapLink l f).host = s.host := rfl
@[simp] theorem State.mapLink_regs (s : State) (l : Nat) (f : Link → Link) : (s.mapLink l f).regs = s.regs := rfl
@[simp] theorem State.mapLink_time (s : State) (l : Nat) (f : Link → Link) : (s.mapLink l f).time = s.time := rfl
@[simp] theorem State.mapLink_clk (s : State) (l : Nat) (f : Link → Link) : (s.mapLink l f).clk = s.clk := rfl
@[simp] theorem State.mapLink_saf (s : State) (l : Nat) (f : Link → Link) : (s.mapLink l f).saf = s.saf := rfl
@[simp] theorem State.mapLink_aon (s : State) (l : Nat) (f : Link → Link) : (s.mapLink l f).aon = s.aon := rfl
@[simp] theorem State.mapLink_smi (s : State) (l : Nat) (f : Link → Link) : (s.mapLink l f).smi = s.smi := rfl
@[simp] theorem State.mapLink_world (s : State) (l : Nat) (f : Link → Link) : (s.mapLink l f).world = s.world := rfl
@[simp] theorem State.mapLink_img (s : State) (l : Nat) (f : Link → Link) : (s.mapLink l f).img = s.img := rfl
@[simp] theorem State.mapLink_cyc (s : State) (l : Nat) (f : Link → Link) : (s.mapLink l f).cyc = s.cyc := rfl
@[simp] theorem State.mapLink_ops (s : State) (l : Nat) (f : Link → Link) : (s.mapLink l f).ops = s.ops := rfl
@[simp] theorem State.mapLink_mem (s : State) (l : Nat) (f : Link → Link) : (s.mapLink l f).mem = s.mem := rfl
@[simp] theorem State.mapLink_coh (s : State) (l : Nat) (f : Link → Link) : (s.mapLink l f).coh = s.coh := rfl
@[simp] theorem State.mapLink_eng (s : State) (l : Nat) (f : Link → Link) : (s.mapLink l f).eng = s.eng := rfl
@[simp] theorem State.mapLink_du (s : State) (l : Nat) (f : Link → Link) : (s.mapLink l f).du = s.du := rfl
@[simp] theorem State.mapLink_msgs (s : State) (l : Nat) (f : Link → Link) : (s.mapLink l f).msgs = s.msgs := rfl

/-! ### setRun -/

@[simp] theorem State.setRun_pending (s : State) (r : StreamRun) : (s.setRun r).pending = s.pending := rfl
@[simp] theorem State.setRun_free (s : State) (r : StreamRun) : (s.setRun r).free = s.free := rfl
@[simp] theorem State.setRun_boot (s : State) (r : StreamRun) : (s.setRun r).boot = s.boot := rfl
@[simp] theorem State.setRun_pkg (s : State) (r : StreamRun) : (s.setRun r).pkg = s.pkg := rfl
@[simp] theorem State.setRun_host (s : State) (r : StreamRun) : (s.setRun r).host = s.host := rfl
@[simp] theorem State.setRun_regs (s : State) (r : StreamRun) : (s.setRun r).regs = s.regs := rfl
@[simp] theorem State.setRun_time (s : State) (r : StreamRun) : (s.setRun r).time = s.time := rfl
@[simp] theorem State.setRun_clk (s : State) (r : StreamRun) : (s.setRun r).clk = s.clk := rfl
@[simp] theorem State.setRun_saf (s : State) (r : StreamRun) : (s.setRun r).saf = s.saf := rfl
@[simp] theorem State.setRun_aon (s : State) (r : StreamRun) : (s.setRun r).aon = s.aon := rfl
@[simp] theorem State.setRun_smi (s : State) (r : StreamRun) : (s.setRun r).smi = s.smi := rfl
@[simp] theorem State.setRun_world (s : State) (r : StreamRun) : (s.setRun r).world = s.world := rfl
@[simp] theorem State.setRun_img (s : State) (r : StreamRun) : (s.setRun r).img = s.img := rfl
@[simp] theorem State.setRun_cyc (s : State) (r : StreamRun) : (s.setRun r).cyc = s.cyc := rfl
@[simp] theorem State.setRun_ops (s : State) (r : StreamRun) : (s.setRun r).ops = s.ops := rfl
@[simp] theorem State.setRun_mem (s : State) (r : StreamRun) : (s.setRun r).mem = s.mem := rfl
@[simp] theorem State.setRun_coh (s : State) (r : StreamRun) : (s.setRun r).coh = s.coh := rfl
@[simp] theorem State.setRun_eng (s : State) (r : StreamRun) : (s.setRun r).eng = { s.eng with runs := s.eng.runs.filter (fun x => !(x.core == r.core && x.engine == r.engine)) ++ [r] } := rfl
@[simp] theorem State.setRun_du (s : State) (r : StreamRun) : (s.setRun r).du = s.du := rfl
@[simp] theorem State.setRun_msgs (s : State) (r : StreamRun) : (s.setRun r).msgs = s.msgs := rfl

/-! ### endRun -/

@[simp] theorem State.endRun_pending (s : State) (c : Nat) (e : Engine) : (s.endRun c e).pending = s.pending := rfl
@[simp] theorem State.endRun_free (s : State) (c : Nat) (e : Engine) : (s.endRun c e).free = s.free := rfl
@[simp] theorem State.endRun_boot (s : State) (c : Nat) (e : Engine) : (s.endRun c e).boot = s.boot := rfl
@[simp] theorem State.endRun_pkg (s : State) (c : Nat) (e : Engine) : (s.endRun c e).pkg = s.pkg := rfl
@[simp] theorem State.endRun_host (s : State) (c : Nat) (e : Engine) : (s.endRun c e).host = s.host := rfl
@[simp] theorem State.endRun_regs (s : State) (c : Nat) (e : Engine) : (s.endRun c e).regs = s.regs := rfl
@[simp] theorem State.endRun_time (s : State) (c : Nat) (e : Engine) : (s.endRun c e).time = s.time := rfl
@[simp] theorem State.endRun_clk (s : State) (c : Nat) (e : Engine) : (s.endRun c e).clk = s.clk := rfl
@[simp] theorem State.endRun_saf (s : State) (c : Nat) (e : Engine) : (s.endRun c e).saf = s.saf := rfl
@[simp] theorem State.endRun_aon (s : State) (c : Nat) (e : Engine) : (s.endRun c e).aon = s.aon := rfl
@[simp] theorem State.endRun_smi (s : State) (c : Nat) (e : Engine) : (s.endRun c e).smi = s.smi := rfl
@[simp] theorem State.endRun_world (s : State) (c : Nat) (e : Engine) : (s.endRun c e).world = s.world := rfl
@[simp] theorem State.endRun_img (s : State) (c : Nat) (e : Engine) : (s.endRun c e).img = s.img := rfl
@[simp] theorem State.endRun_cyc (s : State) (c : Nat) (e : Engine) : (s.endRun c e).cyc = s.cyc := rfl
@[simp] theorem State.endRun_ops (s : State) (c : Nat) (e : Engine) : (s.endRun c e).ops = s.ops := rfl
@[simp] theorem State.endRun_mem (s : State) (c : Nat) (e : Engine) : (s.endRun c e).mem = s.mem := rfl
@[simp] theorem State.endRun_coh (s : State) (c : Nat) (e : Engine) : (s.endRun c e).coh = s.coh := rfl
@[simp] theorem State.endRun_eng (s : State) (c : Nat) (e : Engine) : (s.endRun c e).eng = { s.eng with runs := s.eng.runs.filter (fun x => !(x.core == c && x.engine == e)), lanes := if e = .ce then s.eng.lanes.filter (fun x => x.core != c) else s.eng.lanes } := rfl
@[simp] theorem State.endRun_du (s : State) (c : Nat) (e : Engine) : (s.endRun c e).du = s.du := rfl
@[simp] theorem State.endRun_msgs (s : State) (c : Nat) (e : Engine) : (s.endRun c e).msgs = s.msgs := rfl

/-! ### mapStream -/

@[simp] theorem State.mapStream_pending (s : State) (c n : Nat) (f : RingCand → RingCand) : (s.mapStream c n f).pending = s.pending := rfl
@[simp] theorem State.mapStream_free (s : State) (c n : Nat) (f : RingCand → RingCand) : (s.mapStream c n f).free = s.free := rfl
@[simp] theorem State.mapStream_boot (s : State) (c n : Nat) (f : RingCand → RingCand) : (s.mapStream c n f).boot = s.boot := rfl
@[simp] theorem State.mapStream_pkg (s : State) (c n : Nat) (f : RingCand → RingCand) : (s.mapStream c n f).pkg = s.pkg := rfl
@[simp] theorem State.mapStream_host (s : State) (c n : Nat) (f : RingCand → RingCand) : (s.mapStream c n f).host = s.host := rfl
@[simp] theorem State.mapStream_regs (s : State) (c n : Nat) (f : RingCand → RingCand) : (s.mapStream c n f).regs = s.regs := rfl
@[simp] theorem State.mapStream_time (s : State) (c n : Nat) (f : RingCand → RingCand) : (s.mapStream c n f).time = s.time := rfl
@[simp] theorem State.mapStream_clk (s : State) (c n : Nat) (f : RingCand → RingCand) : (s.mapStream c n f).clk = s.clk := rfl
@[simp] theorem State.mapStream_saf (s : State) (c n : Nat) (f : RingCand → RingCand) : (s.mapStream c n f).saf = s.saf := rfl
@[simp] theorem State.mapStream_aon (s : State) (c n : Nat) (f : RingCand → RingCand) : (s.mapStream c n f).aon = s.aon := rfl
@[simp] theorem State.mapStream_smi (s : State) (c n : Nat) (f : RingCand → RingCand) : (s.mapStream c n f).smi = s.smi := rfl
@[simp] theorem State.mapStream_world (s : State) (c n : Nat) (f : RingCand → RingCand) : (s.mapStream c n f).world = s.world := rfl
@[simp] theorem State.mapStream_img (s : State) (c n : Nat) (f : RingCand → RingCand) : (s.mapStream c n f).img = s.img := rfl
@[simp] theorem State.mapStream_cyc (s : State) (c n : Nat) (f : RingCand → RingCand) : (s.mapStream c n f).cyc = s.cyc := rfl
@[simp] theorem State.mapStream_ops (s : State) (c n : Nat) (f : RingCand → RingCand) : (s.mapStream c n f).ops = s.ops := rfl
@[simp] theorem State.mapStream_mem (s : State) (c n : Nat) (f : RingCand → RingCand) : (s.mapStream c n f).mem = s.mem := rfl
@[simp] theorem State.mapStream_coh (s : State) (c n : Nat) (f : RingCand → RingCand) : (s.mapStream c n f).coh = s.coh := rfl
@[simp] theorem State.mapStream_eng (s : State) (c n : Nat) (f : RingCand → RingCand) : (s.mapStream c n f).eng = { s.eng with stream := s.eng.stream.map (fun r => if r.core = c ∧ r.cand = n then f r else r) } := rfl
@[simp] theorem State.mapStream_du (s : State) (c n : Nat) (f : RingCand → RingCand) : (s.mapStream c n f).du = s.du := rfl
@[simp] theorem State.mapStream_msgs (s : State) (c n : Nat) (f : RingCand → RingCand) : (s.mapStream c n f).msgs = s.msgs := rfl

/-! ### setLane -/

@[simp] theorem State.setLane_pending (s : State) (c j : Nat) (l : Option Lane) : (s.setLane c j l).pending = s.pending := rfl
@[simp] theorem State.setLane_free (s : State) (c j : Nat) (l : Option Lane) : (s.setLane c j l).free = s.free := rfl
@[simp] theorem State.setLane_boot (s : State) (c j : Nat) (l : Option Lane) : (s.setLane c j l).boot = s.boot := rfl
@[simp] theorem State.setLane_pkg (s : State) (c j : Nat) (l : Option Lane) : (s.setLane c j l).pkg = s.pkg := rfl
@[simp] theorem State.setLane_host (s : State) (c j : Nat) (l : Option Lane) : (s.setLane c j l).host = s.host := rfl
@[simp] theorem State.setLane_regs (s : State) (c j : Nat) (l : Option Lane) : (s.setLane c j l).regs = s.regs := rfl
@[simp] theorem State.setLane_time (s : State) (c j : Nat) (l : Option Lane) : (s.setLane c j l).time = s.time := rfl
@[simp] theorem State.setLane_clk (s : State) (c j : Nat) (l : Option Lane) : (s.setLane c j l).clk = s.clk := rfl
@[simp] theorem State.setLane_saf (s : State) (c j : Nat) (l : Option Lane) : (s.setLane c j l).saf = s.saf := rfl
@[simp] theorem State.setLane_aon (s : State) (c j : Nat) (l : Option Lane) : (s.setLane c j l).aon = s.aon := rfl
@[simp] theorem State.setLane_smi (s : State) (c j : Nat) (l : Option Lane) : (s.setLane c j l).smi = s.smi := rfl
@[simp] theorem State.setLane_world (s : State) (c j : Nat) (l : Option Lane) : (s.setLane c j l).world = s.world := rfl
@[simp] theorem State.setLane_img (s : State) (c j : Nat) (l : Option Lane) : (s.setLane c j l).img = s.img := rfl
@[simp] theorem State.setLane_cyc (s : State) (c j : Nat) (l : Option Lane) : (s.setLane c j l).cyc = s.cyc := rfl
@[simp] theorem State.setLane_ops (s : State) (c j : Nat) (l : Option Lane) : (s.setLane c j l).ops = s.ops := rfl
@[simp] theorem State.setLane_mem (s : State) (c j : Nat) (l : Option Lane) : (s.setLane c j l).mem = s.mem := rfl
@[simp] theorem State.setLane_coh (s : State) (c j : Nat) (l : Option Lane) : (s.setLane c j l).coh = s.coh := rfl
@[simp] theorem State.setLane_eng (s : State) (c j : Nat) (l : Option Lane) : (s.setLane c j l).eng = { s.eng with lanes := s.eng.lanes.filter (fun x => !(x.core == c && x.lane == j)) ++ l.toList } := rfl
@[simp] theorem State.setLane_du (s : State) (c j : Nat) (l : Option Lane) : (s.setLane c j l).du = s.du := rfl
@[simp] theorem State.setLane_msgs (s : State) (c j : Nat) (l : Option Lane) : (s.setLane c j l).msgs = s.msgs := rfl

end Sys2Proof.Machine
end

