-- ==== Sys2Proof/Laws/Tables.lean ====
section
/-!
SUPPORT. Tables: an entry changed is the only one that changes, and a table keeps its length; with it, what
an update of one die, one dispatch unit or one link leaves of the others.
-/
namespace Sys2Proof.Machine

open Sys2Proof

/-! ### Lists -/

@[simp] theorem length_modAt {α : Type} (f : α → α) (xs : List α) (i : Nat) : (modAt f xs i).length = xs.length := by
  induction xs generalizing i with
  | nil => rfl
  | cons x r ih => cases i <;> simp [modAt, ih]

@[simp] theorem length_setAt {α : Type} (xs : List α) (i : Nat) (v : α) : (setAt xs i v).length = xs.length := by
  induction xs generalizing i with
  | nil => rfl
  | cons x r ih => cases i <;> simp [setAt, ih]

theorem get_modAt {α : Type} (f : α → α) (xs : List α) (i k : Nat) :
    (modAt f xs i)[k]? = if k = i then xs[k]?.map f else xs[k]? := by
  induction xs generalizing i k with
  | nil => simp [modAt]
  | cons x r ih => cases i <;> cases k <;> simp [modAt, ih]

theorem get_setAt {α : Type} (xs : List α) (i k : Nat) (v : α) :
    (setAt xs i v)[k]? = if k = i then xs[k]?.map (fun _ => v) else xs[k]? := by
  induction xs generalizing i k with
  | nil => simp [setAt]
  | cons x r ih => cases i <;> cases k <;> simp [setAt, ih]

theorem nth_modAt_same {α : Type} (d : α) (f : α → α) (xs : List α) (i : Nat) (h : i < xs.length) :
    nth d (modAt f xs i) i = f (nth d xs i) := by
  simp [nth, get_modAt, List.getElem?_eq_getElem h]

theorem nth_modAt_other {α : Type} (d : α) (f : α → α) (xs : List α) (i k : Nat) (h : k ≠ i) :
    nth d (modAt f xs i) k = nth d xs k := by
  simp [nth, get_modAt, h]

theorem nth_setAt_same {α : Type} (d v : α) (xs : List α) (i : Nat) (h : i < xs.length) : nth d (setAt xs i v) i = v := by
  simp [nth, get_setAt, List.getElem?_eq_getElem h]

theorem nth_setAt_other {α : Type} (d v : α) (xs : List α) (i k : Nat) (h : k ≠ i) :
    nth d (setAt xs i v) k = nth d xs k := by
  simp [nth, get_setAt, h]

/-- What holds of every entry of a table holds after a change that keeps it. -/
theorem forall_modAt {α : Type} (p : α → Prop) (f : α → α) (hf : ∀ x, p x → p (f x)) (xs : List α) (i : Nat)
    (h : ∀ x ∈ xs, p x) : ∀ x ∈ modAt f xs i, p x := by
  induction xs generalizing i with
  | nil => exact h
  | cons y r ih =>
    rw [List.forall_mem_cons] at h
    cases i with
    | zero => exact List.forall_mem_cons.2 ⟨hf _ h.1, h.2⟩
    | succ n => exact List.forall_mem_cons.2 ⟨h.1, ih n h.2⟩

/-! ### Dies, dispatch units, links -/

theorem State.die_mapDie_same (s : State) (d : Nat) (f : DieSt → DieSt) (h : d < s.pkg.dies.length) :
    (s.mapDie d f).die d = f (s.die d) := nth_modAt_same _ _ _ _ h

theorem State.die_mapDie_other (s : State) (d k : Nat) (f : DieSt → DieSt) (h : k ≠ d) :
    (s.mapDie d f).die k = s.die k := nth_modAt_other _ _ _ _ _ h

theorem State.duOf_mapDu_same (s : State) (d : Nat) (f : DuState → DuState) (h : d < s.du.length) :
    (s.mapDu d f).duOf d = f (s.duOf d) := nth_modAt_same _ _ _ _ h

theorem State.duOf_mapDu_other (s : State) (d k : Nat) (f : DuState → DuState) (h : k ≠ d) :
    (s.mapDu d f).duOf k = s.duOf k := nth_modAt_other _ _ _ _ _ h

theorem State.link_mapLink_same (s : State) (l : Nat) (f : Link → Link) (h : l < s.pkg.links.length) :
    (s.mapLink l f).link l = f (s.link l) := nth_modAt_same _ _ _ _ h

theorem State.link_mapLink_other (s : State) (l k : Nat) (f : Link → Link) (h : k ≠ l) :
    (s.mapLink l f).link k = s.link k := nth_modAt_other _ _ _ _ _ h

end Sys2Proof.Machine
end

