-- ==== Sys2Proof/Laws/Ops.lean ====
section
/-!
SUPPORT. The shared operations: for each, every field that it leaves as it was, whatever its operands. The
fields it may change are those its statement does not name.
-/
namespace Sys2Proof.Machine

open Sys2Proof

/-- What every turn of a fold keeps, the fold keeps. -/
theorem foldl_same {α β : Type} (p : State → β) {g : State → α → State} (h : ∀ u x, p (g u x) = p u) (xs : List α) (s : State) :
    p (xs.foldl g s) = p s := by
  induction xs generalizing s with
  | nil => rfl
  | cons x r ih => exact (ih _).trans (h s x)

/-- A posted write changes the host interface alone. -/
@[simp] theorem State.hostWrite_frame (s : State) (a : Nat) (bs : List Byte) :
    (s.hostWrite a bs).pending = s.pending ∧ (s.hostWrite a bs).free = s.free ∧ (s.hostWrite a bs).boot = s.boot
    ∧ (s.hostWrite a bs).pkg = s.pkg ∧ (s.hostWrite a bs).regs = s.regs ∧ (s.hostWrite a bs).time = s.time
    ∧ (s.hostWrite a bs).clk = s.clk ∧ (s.hostWrite a bs).saf = s.saf ∧ (s.hostWrite a bs).aon = s.aon
    ∧ (s.hostWrite a bs).smi = s.smi ∧ (s.hostWrite a bs).world = s.world ∧ (s.hostWrite a bs).img = s.img
    ∧ (s.hostWrite a bs).cyc = s.cyc ∧ (s.hostWrite a bs).ops = s.ops ∧ (s.hostWrite a bs).mem = s.mem
    ∧ (s.hostWrite a bs).coh = s.coh ∧ (s.hostWrite a bs).eng = s.eng ∧ (s.hostWrite a bs).du = s.du
    ∧ (s.hostWrite a bs).msgs = s.msgs := by
  unfold State.hostWrite
  split <;> simp

/-- A message changes the host interface alone. -/
@[simp] theorem State.message_frame (s : State) (v : Nat) :
    (s.message v).pending = s.pending ∧ (s.message v).free = s.free ∧ (s.message v).boot = s.boot
    ∧ (s.message v).pkg = s.pkg ∧ (s.message v).regs = s.regs ∧ (s.message v).time = s.time
    ∧ (s.message v).clk = s.clk ∧ (s.message v).saf = s.saf ∧ (s.message v).aon = s.aon
    ∧ (s.message v).smi = s.smi ∧ (s.message v).world = s.world ∧ (s.message v).img = s.img
    ∧ (s.message v).cyc = s.cyc ∧ (s.message v).ops = s.ops ∧ (s.message v).mem = s.mem
    ∧ (s.message v).coh = s.coh ∧ (s.message v).eng = s.eng ∧ (s.message v).du = s.du
    ∧ (s.message v).msgs = s.msgs := by
  unfold State.message
  split <;> simp

/-- A signalled ring. -/
@[simp] theorem State.signalRing_frame (s : State) (n : Nat) :
    (s.signalRing n).pending = s.pending ∧ (s.signalRing n).free = s.free ∧ (s.signalRing n).boot = s.boot
    ∧ (s.signalRing n).pkg = s.pkg ∧ (s.signalRing n).regs = s.regs ∧ (s.signalRing n).time = s.time
    ∧ (s.signalRing n).clk = s.clk ∧ (s.signalRing n).saf = s.saf ∧ (s.signalRing n).aon = s.aon
    ∧ (s.signalRing n).smi = s.smi ∧ (s.signalRing n).world = s.world ∧ (s.signalRing n).img = s.img
    ∧ (s.signalRing n).cyc = s.cyc ∧ (s.signalRing n).ops = s.ops ∧ (s.signalRing n).mem = s.mem
    ∧ (s.signalRing n).coh = s.coh ∧ (s.signalRing n).eng = s.eng ∧ (s.signalRing n).du = s.du
    ∧ (s.signalRing n).msgs = s.msgs := by
  unfold State.signalRing
  split
  · simp
  · dsimp only
    split <;> simp

/-- An entry counted. -/
@[simp] theorem State.wrote_frame (s : State) (n : Nat) (now : Bool) :
    (s.wrote n now).pending = s.pending ∧ (s.wrote n now).free = s.free ∧ (s.wrote n now).boot = s.boot
    ∧ (s.wrote n now).pkg = s.pkg ∧ (s.wrote n now).regs = s.regs ∧ (s.wrote n now).time = s.time
    ∧ (s.wrote n now).clk = s.clk ∧ (s.wrote n now).saf = s.saf ∧ (s.wrote n now).aon = s.aon
    ∧ (s.wrote n now).smi = s.smi ∧ (s.wrote n now).world = s.world ∧ (s.wrote n now).img = s.img
    ∧ (s.wrote n now).cyc = s.cyc ∧ (s.wrote n now).ops = s.ops ∧ (s.wrote n now).mem = s.mem
    ∧ (s.wrote n now).coh = s.coh ∧ (s.wrote n now).eng = s.eng ∧ (s.wrote n now).du = s.du
    ∧ (s.wrote n now).msgs = s.msgs := by
  unfold State.wrote
  dsimp only
  split
  · simp
  · split <;> simp

/-- Completions made due. -/
@[simp] theorem State.completeAll_frame (s : State) (xs : List (Desc × Status)) :
    (s.completeAll xs).pending = s.pending ∧ (s.completeAll xs).free = s.free ∧ (s.completeAll xs).boot = s.boot
    ∧ (s.completeAll xs).pkg = s.pkg ∧ (s.completeAll xs).regs = s.regs ∧ (s.completeAll xs).time = s.time
    ∧ (s.completeAll xs).clk = s.clk ∧ (s.completeAll xs).saf = s.saf ∧ (s.completeAll xs).aon = s.aon
    ∧ (s.completeAll xs).smi = s.smi ∧ (s.completeAll xs).world = s.world ∧ (s.completeAll xs).img = s.img
    ∧ (s.completeAll xs).cyc = s.cyc ∧ (s.completeAll xs).ops = s.ops ∧ (s.completeAll xs).mem = s.mem
    ∧ (s.completeAll xs).coh = s.coh ∧ (s.completeAll xs).eng = s.eng ∧ (s.completeAll xs).du = s.du
    ∧ (s.completeAll xs).msgs = s.msgs := by
  refine ⟨by unfold State.completeAll; apply foldl_same State.pending; intro u x; rfl,
    by unfold State.completeAll; apply foldl_same State.free; intro u x; rfl,
    by unfold State.completeAll; apply foldl_same State.boot; intro u x; rfl,
    by unfold State.completeAll; apply foldl_same State.pkg; intro u x; rfl,
    by unfold State.completeAll; apply foldl_same State.regs; intro u x; rfl,
    by unfold State.completeAll; apply foldl_same State.time; intro u x; rfl,
    by unfold State.completeAll; apply foldl_same State.clk; intro u x; rfl,
    by unfold State.completeAll; apply foldl_same State.saf; intro u x; rfl,
    by unfold State.completeAll; apply foldl_same State.aon; intro u x; rfl,
    by unfold State.completeAll; apply foldl_same State.smi; intro u x; rfl,
    by unfold State.completeAll; apply foldl_same State.world; intro u x; rfl,
    by unfold State.completeAll; apply foldl_same State.img; intro u x; rfl,
    by unfold State.completeAll; apply foldl_same State.cyc; intro u x; rfl,
    by unfold State.completeAll; apply foldl_same State.ops; intro u x; rfl,
    by unfold State.completeAll; apply foldl_same State.mem; intro u x; rfl,
    by unfold State.completeAll; apply foldl_same State.coh; intro u x; rfl,
    by unfold State.completeAll; apply foldl_same State.eng; intro u x; rfl,
    by unfold State.completeAll; apply foldl_same State.du; intro u x; rfl,
    by unfold State.completeAll; apply foldl_same State.msgs; intro u x; rfl⟩

/-- An operation's completion made due. -/
@[simp] theorem State.completeOp_frame (s : State) (x : LongOp) :
    (s.completeOp x).pending = s.pending ∧ (s.completeOp x).free = s.free ∧ (s.completeOp x).boot = s.boot
    ∧ (s.completeOp x).pkg = s.pkg ∧ (s.completeOp x).regs = s.regs ∧ (s.completeOp x).time = s.time
    ∧ (s.completeOp x).clk = s.clk ∧ (s.completeOp x).saf = s.saf ∧ (s.completeOp x).aon = s.aon
    ∧ (s.completeOp x).smi = s.smi ∧ (s.completeOp x).world = s.world ∧ (s.completeOp x).img = s.img
    ∧ (s.completeOp x).cyc = s.cyc ∧ (s.completeOp x).ops = s.ops ∧ (s.completeOp x).mem = s.mem
    ∧ (s.completeOp x).coh = s.coh ∧ (s.completeOp x).eng = s.eng ∧ (s.completeOp x).du = s.du
    ∧ (s.completeOp x).msgs = s.msgs := by
  unfold State.completeOp
  simp

/-- Bound sources fire at the dispatch units. -/
@[simp] theorem State.fireOn_frame (s : State) (ds : List Nat) (b : BindSource) (n : Nat) :
    (s.fireOn ds b n).pending = s.pending ∧ (s.fireOn ds b n).free = s.free ∧ (s.fireOn ds b n).boot = s.boot
    ∧ (s.fireOn ds b n).pkg = s.pkg ∧ (s.fireOn ds b n).host = s.host ∧ (s.fireOn ds b n).regs = s.regs
    ∧ (s.fireOn ds b n).time = s.time ∧ (s.fireOn ds b n).clk = s.clk ∧ (s.fireOn ds b n).saf = s.saf
    ∧ (s.fireOn ds b n).aon = s.aon ∧ (s.fireOn ds b n).smi = s.smi ∧ (s.fireOn ds b n).world = s.world
    ∧ (s.fireOn ds b n).img = s.img ∧ (s.fireOn ds b n).cyc = s.cyc ∧ (s.fireOn ds b n).ops = s.ops
    ∧ (s.fireOn ds b n).mem = s.mem ∧ (s.fireOn ds b n).coh = s.coh ∧ (s.fireOn ds b n).eng = s.eng
    ∧ (s.fireOn ds b n).msgs = s.msgs := by
  refine ⟨by unfold State.fireOn; apply foldl_same State.pending; intro u x; split <;> (try split) <;> rfl,
    by unfold State.fireOn; apply foldl_same State.free; intro u x; split <;> (try split) <;> rfl,
    by unfold State.fireOn; apply foldl_same State.boot; intro u x; split <;> (try split) <;> rfl,
    by unfold State.fireOn; apply foldl_same State.pkg; intro u x; split <;> (try split) <;> rfl,
    by unfold State.fireOn; apply foldl_same State.host; intro u x; split <;> (try split) <;> rfl,
    by unfold State.fireOn; apply foldl_same State.regs; intro u x; split <;> (try split) <;> rfl,
    by unfold State.fireOn; apply foldl_same State.time; intro u x; split <;> (try split) <;> rfl,
    by unfold State.fireOn; apply foldl_same State.clk; intro u x; split <;> (try split) <;> rfl,
    by unfold State.fireOn; apply foldl_same State.saf; intro u x; split <;> (try split) <;> rfl,
    by unfold State.fireOn; apply foldl_same State.aon; intro u x; split <;> (try split) <;> rfl,
    by unfold State.fireOn; apply foldl_same State.smi; intro u x; split <;> (try split) <;> rfl,
    by unfold State.fireOn; apply foldl_same State.world; intro u x; split <;> (try split) <;> rfl,
    by unfold State.fireOn; apply foldl_same State.img; intro u x; split <;> (try split) <;> rfl,
    by unfold State.fireOn; apply foldl_same State.cyc; intro u x; split <;> (try split) <;> rfl,
    by unfold State.fireOn; apply foldl_same State.ops; intro u x; split <;> (try split) <;> rfl,
    by unfold State.fireOn; apply foldl_same State.mem; intro u x; split <;> (try split) <;> rfl,
    by unfold State.fireOn; apply foldl_same State.coh; intro u x; split <;> (try split) <;> rfl,
    by unfold State.fireOn; apply foldl_same State.eng; intro u x; split <;> (try split) <;> rfl,
    by unfold State.fireOn; apply foldl_same State.msgs; intro u x; split <;> (try split) <;> rfl⟩

/-- An operation's first start. -/
@[simp] theorem State.begin_keeps (s : State) (x : LongOp) :
    (s.begin_ x).pending = s.pending ∧ (s.begin_ x).free = s.free ∧ (s.begin_ x).boot = s.boot
    ∧ (s.begin_ x).pkg = s.pkg ∧ (s.begin_ x).host = s.host ∧ (s.begin_ x).regs = s.regs
    ∧ (s.begin_ x).time = s.time ∧ (s.begin_ x).clk = s.clk ∧ (s.begin_ x).saf = s.saf
    ∧ (s.begin_ x).smi = s.smi ∧ (s.begin_ x).world = s.world ∧ (s.begin_ x).cyc = s.cyc
    ∧ (s.begin_ x).mem = s.mem ∧ (s.begin_ x).coh = s.coh ∧ (s.begin_ x).eng = s.eng
    ∧ (s.begin_ x).du = s.du ∧ (s.begin_ x).msgs = s.msgs := by
  unfold State.begin_
  dsimp only
  repeat' split
  all_goals simp

/-- Operations that start or resume. -/
@[simp] theorem State.opsRun_frame (s : State) (old : List LongOp) :
    (s.opsRun old).pending = s.pending ∧ (s.opsRun old).free = s.free ∧ (s.opsRun old).boot = s.boot
    ∧ (s.opsRun old).pkg = s.pkg ∧ (s.opsRun old).host = s.host ∧ (s.opsRun old).regs = s.regs
    ∧ (s.opsRun old).time = s.time ∧ (s.opsRun old).clk = s.clk ∧ (s.opsRun old).saf = s.saf
    ∧ (s.opsRun old).smi = s.smi ∧ (s.opsRun old).world = s.world ∧ (s.opsRun old).cyc = s.cyc
    ∧ (s.opsRun old).mem = s.mem ∧ (s.opsRun old).coh = s.coh ∧ (s.opsRun old).eng = s.eng
    ∧ (s.opsRun old).msgs = s.msgs := by
  refine ⟨by
      have h (u : State) (xs ys : List LongOp) : State.pending (ys.foldl (fun (s : State) o =>
          s.fireOn ((List.range 8).filter (fun d => bitAt o.dies d)) .longopRun o.cls.code) (xs.foldl State.begin_ u)) = State.pending u :=
        (foldl_same State.pending (fun _ _ => by simp) _ _).trans (foldl_same State.pending (fun _ _ => by simp) _ _)
      unfold State.opsRun
      dsimp only
      split <;> split <;> exact h _ _ _,
    by
      have h (u : State) (xs ys : List LongOp) : State.free (ys.foldl (fun (s : State) o =>
          s.fireOn ((List.range 8).filter (fun d => bitAt o.dies d)) .longopRun o.cls.code) (xs.foldl State.begin_ u)) = State.free u :=
        (foldl_same State.free (fun _ _ => by simp) _ _).trans (foldl_same State.free (fun _ _ => by simp) _ _)
      unfold State.opsRun
      dsimp only
      split <;> split <;> exact h _ _ _,
    by
      have h (u : State) (xs ys : List LongOp) : State.boot (ys.foldl (fun (s : State) o =>
          s.fireOn ((List.range 8).filter (fun d => bitAt o.dies d)) .longopRun o.cls.code) (xs.foldl State.begin_ u)) = State.boot u :=
        (foldl_same State.boot (fun _ _ => by simp) _ _).trans (foldl_same State.boot (fun _ _ => by simp) _ _)
      unfold State.opsRun
      dsimp only
      split <;> split <;> exact h _ _ _,
    by
      have h (u : State) (xs ys : List LongOp) : State.pkg (ys.foldl (fun (s : State) o =>
          s.fireOn ((List.range 8).filter (fun d => bitAt o.dies d)) .longopRun o.cls.code) (xs.foldl State.begin_ u)) = State.pkg u :=
        (foldl_same State.pkg (fun _ _ => by simp) _ _).trans (foldl_same State.pkg (fun _ _ => by simp) _ _)
      unfold State.opsRun
      dsimp only
      split <;> split <;> exact h _ _ _,
    by
      have h (u : State) (xs ys : List LongOp) : State.host (ys.foldl (fun (s : State) o =>
          s.fireOn ((List.range 8).filter (fun d => bitAt o.dies d)) .longopRun o.cls.code) (xs.foldl State.begin_ u)) = State.host u :=
        (foldl_same State.host (fun _ _ => by simp) _ _).trans (foldl_same State.host (fun _ _ => by simp) _ _)
      unfold State.opsRun
      dsimp only
      split <;> split <;> exact h _ _ _,
    by
      have h (u : State) (xs ys : List LongOp) : State.regs (ys.foldl (fun (s : State) o =>
          s.fireOn ((List.range 8).filter (fun d => bitAt o.dies d)) .longopRun o.cls.code) (xs.foldl State.begin_ u)) = State.regs u :=
        (foldl_same State.regs (fun _ _ => by simp) _ _).trans (foldl_same State.regs (fun _ _ => by simp) _ _)
      unfold State.opsRun
      dsimp only
      split <;> split <;> exact h _ _ _,
    by
      have h (u : State) (xs ys : List LongOp) : State.time (ys.foldl (fun (s : State) o =>
          s.fireOn ((List.range 8).filter (fun d => bitAt o.dies d)) .longopRun o.cls.code) (xs.foldl State.begin_ u)) = State.time u :=
        (foldl_same State.time (fun _ _ => by simp) _ _).trans (foldl_same State.time (fun _ _ => by simp) _ _)
      unfold State.opsRun
      dsimp only
      split <;> split <;> exact h _ _ _,
    by
      have h (u : State) (xs ys : List LongOp) : State.clk (ys.foldl (fun (s : State) o =>
          s.fireOn ((List.range 8).filter (fun d => bitAt o.dies d)) .longopRun o.cls.code) (xs.foldl State.begin_ u)) = State.clk u :=
        (foldl_same State.clk (fun _ _ => by simp) _ _).trans (foldl_same State.clk (fun _ _ => by simp) _ _)
      unfold State.opsRun
      dsimp only
      split <;> split <;> exact h _ _ _,
    by
      have h (u : State) (xs ys : List LongOp) : State.saf (ys.foldl (fun (s : State) o =>
          s.fireOn ((List.range 8).filter (fun d => bitAt o.dies d)) .longopRun o.cls.code) (xs.foldl State.begin_ u)) = State.saf u :=
        (foldl_same State.saf (fun _ _ => by simp) _ _).trans (foldl_same State.saf (fun _ _ => by simp) _ _)
      unfold State.opsRun
      dsimp only
      split <;> split <;> exact h _ _ _,
    by
      have h (u : State) (xs ys : List LongOp) : State.smi (ys.foldl (fun (s : State) o =>
          s.fireOn ((List.range 8).filter (fun d => bitAt o.dies d)) .longopRun o.cls.code) (xs.foldl State.begin_ u)) = State.smi u :=
        (foldl_same State.smi (fun _ _ => by simp) _ _).trans (foldl_same State.smi (fun _ _ => by simp) _ _)
      unfold State.opsRun
      dsimp only
      split <;> split <;> exact h _ _ _,
    by
      have h (u : State) (xs ys : List LongOp) : State.world (ys.foldl (fun (s : State) o =>
          s.fireOn ((List.range 8).filter (fun d => bitAt o.dies d)) .longopRun o.cls.code) (xs.foldl State.begin_ u)) = State.world u :=
        (foldl_same State.world (fun _ _ => by simp) _ _).trans (foldl_same State.world (fun _ _ => by simp) _ _)
      unfold State.opsRun
      dsimp only
      split <;> split <;> exact h _ _ _,
    by
      have h (u : State) (xs ys : List LongOp) : State.cyc (ys.foldl (fun (s : State) o =>
          s.fireOn ((List.range 8).filter (fun d => bitAt o.dies d)) .longopRun o.cls.code) (xs.foldl State.begin_ u)) = State.cyc u :=
        (foldl_same State.cyc (fun _ _ => by simp) _ _).trans (foldl_same State.cyc (fun _ _ => by simp) _ _)
      unfold State.opsRun
      dsimp only
      split <;> split <;> exact h _ _ _,
    by
      have h (u : State) (xs ys : List LongOp) : State.mem (ys.foldl (fun (s : State) o =>
          s.fireOn ((List.range 8).filter (fun d => bitAt o.dies d)) .longopRun o.cls.code) (xs.foldl State.begin_ u)) = State.mem u :=
        (foldl_same State.mem (fun _ _ => by simp) _ _).trans (foldl_same State.mem (fun _ _ => by simp) _ _)
      unfold State.opsRun
      dsimp only
      split <;> split <;> exact h _ _ _,
    by
      have h (u : State) (xs ys : List LongOp) : State.coh (ys.foldl (fun (s : State) o =>
          s.fireOn ((List.range 8).filter (fun d => bitAt o.dies d)) .longopRun o.cls.code) (xs.foldl State.begin_ u)) = State.coh u :=
        (foldl_same State.coh (fun _ _ => by simp) _ _).trans (foldl_same State.coh (fun _ _ => by simp) _ _)
      unfold State.opsRun
      dsimp only
      split <;> split <;> exact h _ _ _,
    by
      have h (u : State) (xs ys : List LongOp) : State.eng (ys.foldl (fun (s : State) o =>
          s.fireOn ((List.range 8).filter (fun d => bitAt o.dies d)) .longopRun o.cls.code) (xs.foldl State.begin_ u)) = State.eng u :=
        (foldl_same State.eng (fun _ _ => by simp) _ _).trans (foldl_same State.eng (fun _ _ => by simp) _ _)
      unfold State.opsRun
      dsimp only
      split <;> split <;> exact h _ _ _,
    by
      have h (u : State) (xs ys : List LongOp) : State.msgs (ys.foldl (fun (s : State) o =>
          s.fireOn ((List.range 8).filter (fun d => bitAt o.dies d)) .longopRun o.cls.code) (xs.foldl State.begin_ u)) = State.msgs u :=
        (foldl_same State.msgs (fun _ _ => by simp) _ _).trans (foldl_same State.msgs (fun _ _ => by simp) _ _)
      unfold State.opsRun
      dsimp only
      split <;> split <;> exact h _ _ _⟩

/-- An event record. -/
@[simp] theorem State.eventWrite_frame (s : State) (b : List Byte) :
    (s.eventWrite b).pending = s.pending ∧ (s.eventWrite b).free = s.free ∧ (s.eventWrite b).boot = s.boot
    ∧ (s.eventWrite b).pkg = s.pkg ∧ (s.eventWrite b).regs = s.regs ∧ (s.eventWrite b).time = s.time
    ∧ (s.eventWrite b).clk = s.clk ∧ (s.eventWrite b).saf = s.saf ∧ (s.eventWrite b).aon = s.aon
    ∧ (s.eventWrite b).smi = s.smi ∧ (s.eventWrite b).world = s.world ∧ (s.eventWrite b).img = s.img
    ∧ (s.eventWrite b).cyc = s.cyc ∧ (s.eventWrite b).ops = s.ops ∧ (s.eventWrite b).mem = s.mem
    ∧ (s.eventWrite b).coh = s.coh ∧ (s.eventWrite b).eng = s.eng ∧ (s.eventWrite b).du = s.du
    ∧ (s.eventWrite b).msgs = s.msgs := by
  unfold State.eventWrite
  split
  · simp
  · split <;> simp

/-- A record sent. -/
@[simp] theorem State.send_frame (s : State) (f : Fault0) (n : Nat) :
    (s.send f n).pending = s.pending ∧ (s.send f n).free = s.free ∧ (s.send f n).boot = s.boot
    ∧ (s.send f n).pkg = s.pkg ∧ (s.send f n).regs = s.regs ∧ (s.send f n).time = s.time
    ∧ (s.send f n).clk = s.clk ∧ (s.send f n).smi = s.smi ∧ (s.send f n).world = s.world
    ∧ (s.send f n).img = s.img ∧ (s.send f n).cyc = s.cyc ∧ (s.send f n).ops = s.ops
    ∧ (s.send f n).mem = s.mem ∧ (s.send f n).coh = s.coh ∧ (s.send f n).eng = s.eng
    ∧ (s.send f n).du = s.du ∧ (s.send f n).msgs = s.msgs := by
  unfold State.send
  dsimp only
  split <;> simp

/-- A fault recorded. -/
@[simp] theorem State.record_frame (s : State) (f : Fault0) :
    (s.record f).pending = s.pending ∧ (s.record f).free = s.free ∧ (s.record f).boot = s.boot
    ∧ (s.record f).pkg = s.pkg ∧ (s.record f).regs = s.regs ∧ (s.record f).time = s.time
    ∧ (s.record f).clk = s.clk ∧ (s.record f).smi = s.smi ∧ (s.record f).world = s.world
    ∧ (s.record f).img = s.img ∧ (s.record f).cyc = s.cyc ∧ (s.record f).ops = s.ops
    ∧ (s.record f).mem = s.mem ∧ (s.record f).coh = s.coh ∧ (s.record f).eng = s.eng
    ∧ (s.record f).du = s.du ∧ (s.record f).msgs = s.msgs := by
  unfold State.record
  dsimp only
  repeat' split
  all_goals simp

/-- Stale drops reported. -/
@[simp] theorem State.staleReports_frame (s : State) :
    (s.staleReports).pending = s.pending ∧ (s.staleReports).free = s.free ∧ (s.staleReports).boot = s.boot
    ∧ (s.staleReports).pkg = s.pkg ∧ (s.staleReports).regs = s.regs ∧ (s.staleReports).time = s.time
    ∧ (s.staleReports).clk = s.clk ∧ (s.staleReports).smi = s.smi ∧ (s.staleReports).world = s.world
    ∧ (s.staleReports).img = s.img ∧ (s.staleReports).ops = s.ops ∧ (s.staleReports).mem = s.mem
    ∧ (s.staleReports).coh = s.coh ∧ (s.staleReports).eng = s.eng ∧ (s.staleReports).msgs = s.msgs := by
  refine ⟨by
      have h (u : State) : State.pending ((List.range 8).foldl (fun (s : State) d =>
          if (s.duOf d).stale = 0 then s
          else (s.record ⟨.staleDrop, .info, ⟨d, 15, 15, 0xA⟩, (s.duOf d).stale, (s.duOf d).staleEpoch⟩).mapDu d
            (fun u => { u with stale := 0, staleEpoch := 0 })) u) = State.pending u :=
        foldl_same State.pending (fun u x => by split <;> simp) _ _
      unfold State.staleReports
      dsimp only
      split
      · exact h s
      · simpa using h s,
    by
      have h (u : State) : State.free ((List.range 8).foldl (fun (s : State) d =>
          if (s.duOf d).stale = 0 then s
          else (s.record ⟨.staleDrop, .info, ⟨d, 15, 15, 0xA⟩, (s.duOf d).stale, (s.duOf d).staleEpoch⟩).mapDu d
            (fun u => { u with stale := 0, staleEpoch := 0 })) u) = State.free u :=
        foldl_same State.free (fun u x => by split <;> simp) _ _
      unfold State.staleReports
      dsimp only
      split
      · exact h s
      · simpa using h s,
    by
      have h (u : State) : State.boot ((List.range 8).foldl (fun (s : State) d =>
          if (s.duOf d).stale = 0 then s
          else (s.record ⟨.staleDrop, .info, ⟨d, 15, 15, 0xA⟩, (s.duOf d).stale, (s.duOf d).staleEpoch⟩).mapDu d
            (fun u => { u with stale := 0, staleEpoch := 0 })) u) = State.boot u :=
        foldl_same State.boot (fun u x => by split <;> simp) _ _
      unfold State.staleReports
      dsimp only
      split
      · exact h s
      · simpa using h s,
    by
      have h (u : State) : State.pkg ((List.range 8).foldl (fun (s : State) d =>
          if (s.duOf d).stale = 0 then s
          else (s.record ⟨.staleDrop, .info, ⟨d, 15, 15, 0xA⟩, (s.duOf d).stale, (s.duOf d).staleEpoch⟩).mapDu d
            (fun u => { u with stale := 0, staleEpoch := 0 })) u) = State.pkg u :=
        foldl_same State.pkg (fun u x => by split <;> simp) _ _
      unfold State.staleReports
      dsimp only
      split
      · exact h s
      · simpa using h s,
    by
      have h (u : State) : State.regs ((List.range 8).foldl (fun (s : State) d =>
          if (s.duOf d).stale = 0 then s
          else (s.record ⟨.staleDrop, .info, ⟨d, 15, 15, 0xA⟩, (s.duOf d).stale, (s.duOf d).staleEpoch⟩).mapDu d
            (fun u => { u with stale := 0, staleEpoch := 0 })) u) = State.regs u :=
        foldl_same State.regs (fun u x => by split <;> simp) _ _
      unfold State.staleReports
      dsimp only
      split
      · exact h s
      · simpa using h s,
    by
      have h (u : State) : State.time ((List.range 8).foldl (fun (s : State) d =>
          if (s.duOf d).stale = 0 then s
          else (s.record ⟨.staleDrop, .info, ⟨d, 15, 15, 0xA⟩, (s.duOf d).stale, (s.duOf d).staleEpoch⟩).mapDu d
            (fun u => { u with stale := 0, staleEpoch := 0 })) u) = State.time u :=
        foldl_same State.time (fun u x => by split <;> simp) _ _
      unfold State.staleReports
      dsimp only
      split
      · exact h s
      · simpa using h s,
    by
      have h (u : State) : State.clk ((List.range 8).foldl (fun (s : State) d =>
          if (s.duOf d).stale = 0 then s
          else (s.record ⟨.staleDrop, .info, ⟨d, 15, 15, 0xA⟩, (s.duOf d).stale, (s.duOf d).staleEpoch⟩).mapDu d
            (fun u => { u with stale := 0, staleEpoch := 0 })) u) = State.clk u :=
        foldl_same State.clk (fun u x => by split <;> simp) _ _
      unfold State.staleReports
      dsimp only
      split
      · exact h s
      · simpa using h s,
    by
      have h (u : State) : State.smi ((List.range 8).foldl (fun (s : State) d =>
          if (s.duOf d).stale = 0 then s
          else (s.record ⟨.staleDrop, .info, ⟨d, 15, 15, 0xA⟩, (s.duOf d).stale, (s.duOf d).staleEpoch⟩).mapDu d
            (fun u => { u with stale := 0, staleEpoch := 0 })) u) = State.smi u :=
        foldl_same State.smi (fun u x => by split <;> simp) _ _
      unfold State.staleReports
      dsimp only
      split
      · exact h s
      · simpa using h s,
    by
      have h (u : State) : State.world ((List.range 8).foldl (fun (s : State) d =>
          if (s.duOf d).stale = 0 then s
          else (s.record ⟨.staleDrop, .info, ⟨d, 15, 15, 0xA⟩, (s.duOf d).stale, (s.duOf d).staleEpoch⟩).mapDu d
            (fun u => { u with stale := 0, staleEpoch := 0 })) u) = State.world u :=
        foldl_same State.world (fun u x => by split <;> simp) _ _
      unfold State.staleReports
      dsimp only
      split
      · exact h s
      · simpa using h s,
    by
      have h (u : State) : State.img ((List.range 8).foldl (fun (s : State) d =>
          if (s.duOf d).stale = 0 then s
          else (s.record ⟨.staleDrop, .info, ⟨d, 15, 15, 0xA⟩, (s.duOf d).stale, (s.duOf d).staleEpoch⟩).mapDu d
            (fun u => { u with stale := 0, staleEpoch := 0 })) u) = State.img u :=
        foldl_same State.img (fun u x => by split <;> simp) _ _
      unfold State.staleReports
      dsimp only
      split
      · exact h s
      · simpa using h s,
    by
      have h (u : State) : State.ops ((List.range 8).foldl (fun (s : State) d =>
          if (s.duOf d).stale = 0 then s
          else (s.record ⟨.staleDrop, .info, ⟨d, 15, 15, 0xA⟩, (s.duOf d).stale, (s.duOf d).staleEpoch⟩).mapDu d
            (fun u => { u with stale := 0, staleEpoch := 0 })) u) = State.ops u :=
        foldl_same State.ops (fun u x => by split <;> simp) _ _
      unfold State.staleReports
      dsimp only
      split
      · exact h s
      · simpa using h s,
    by
      have h (u : State) : State.mem ((List.range 8).foldl (fun (s : State) d =>
          if (s.duOf d).stale = 0 then s
          else (s.record ⟨.staleDrop, .info, ⟨d, 15, 15, 0xA⟩, (s.duOf d).stale, (s.duOf d).staleEpoch⟩).mapDu d
            (fun u => { u with stale := 0, staleEpoch := 0 })) u) = State.mem u :=
        foldl_same State.mem (fun u x => by split <;> simp) _ _
      unfold State.staleReports
      dsimp only
      split
      · exact h s
      · simpa using h s,
    by
      have h (u : State) : State.coh ((List.range 8).foldl (fun (s : State) d =>
          if (s.duOf d).stale = 0 then s
          else (s.record ⟨.staleDrop, .info, ⟨d, 15, 15, 0xA⟩, (s.duOf d).stale, (s.duOf d).staleEpoch⟩).mapDu d
            (fun u => { u with stale := 0, staleEpoch := 0 })) u) = State.coh u :=
        foldl_same State.coh (fun u x => by split <;> simp) _ _
      unfold State.staleReports
      dsimp only
      split
      · exact h s
      · simpa using h s,
    by
      have h (u : State) : State.eng ((List.range 8).foldl (fun (s : State) d =>
          if (s.duOf d).stale = 0 then s
          else (s.record ⟨.staleDrop, .info, ⟨d, 15, 15, 0xA⟩, (s.duOf d).stale, (s.duOf d).staleEpoch⟩).mapDu d
            (fun u => { u with stale := 0, staleEpoch := 0 })) u) = State.eng u :=
        foldl_same State.eng (fun u x => by split <;> simp) _ _
      unfold State.staleReports
      dsimp only
      split
      · exact h s
      · simpa using h s,
    by
      have h (u : State) : State.msgs ((List.range 8).foldl (fun (s : State) d =>
          if (s.duOf d).stale = 0 then s
          else (s.record ⟨.staleDrop, .info, ⟨d, 15, 15, 0xA⟩, (s.duOf d).stale, (s.duOf d).staleEpoch⟩).mapDu d
            (fun u => { u with stale := 0, staleEpoch := 0 })) u) = State.msgs u :=
        foldl_same State.msgs (fun u x => by split <;> simp) _ _
      unfold State.staleReports
      dsimp only
      split
      · exact h s
      · simpa using h s⟩

/-- The trace header. -/
@[simp] theorem State.traceHeader_frame (s : State) (c : Cycle) :
    (s.traceHeader c).pending = s.pending ∧ (s.traceHeader c).free = s.free ∧ (s.traceHeader c).boot = s.boot
    ∧ (s.traceHeader c).pkg = s.pkg ∧ (s.traceHeader c).regs = s.regs ∧ (s.traceHeader c).time = s.time
    ∧ (s.traceHeader c).clk = s.clk ∧ (s.traceHeader c).saf = s.saf ∧ (s.traceHeader c).aon = s.aon
    ∧ (s.traceHeader c).smi = s.smi ∧ (s.traceHeader c).world = s.world ∧ (s.traceHeader c).img = s.img
    ∧ (s.traceHeader c).cyc = s.cyc ∧ (s.traceHeader c).ops = s.ops ∧ (s.traceHeader c).mem = s.mem
    ∧ (s.traceHeader c).coh = s.coh ∧ (s.traceHeader c).eng = s.eng ∧ (s.traceHeader c).du = s.du
    ∧ (s.traceHeader c).msgs = s.msgs := by
  unfold State.traceHeader
  split <;> simp

/-- The end of a run of long operations. -/
@[simp] theorem State.runEnds_frame (s : State) (old : List LongOp) :
    (s.runEnds old).pending = s.pending
    ∧ (s.runEnds old).free = s.free
    ∧ (s.runEnds old).boot = s.boot
    ∧ (s.runEnds old).pkg = s.pkg
    ∧ (s.runEnds old).regs = s.regs
    ∧ (s.runEnds old).time = s.time
    ∧ (s.runEnds old).clk = s.clk
    ∧ (s.runEnds old).smi = s.smi
    ∧ (s.runEnds old).world = s.world
    ∧ (s.runEnds old).mem = s.mem
    ∧ (s.runEnds old).coh = s.coh
    ∧ (s.runEnds old).eng = s.eng
    ∧ (s.runEnds old).msgs = s.msgs := by
  unfold State.runEnds
  split <;> simp

/-- Operations changed. -/
@[simp] theorem State.withOps_frame (s : State) (r : OpsOut) :
    (s.withOps r).pending = s.pending
    ∧ (s.withOps r).free = s.free
    ∧ (s.withOps r).boot = s.boot
    ∧ (s.withOps r).pkg = s.pkg
    ∧ (s.withOps r).regs = s.regs
    ∧ (s.withOps r).time = s.time
    ∧ (s.withOps r).clk = s.clk
    ∧ (s.withOps r).smi = s.smi
    ∧ (s.withOps r).world = s.world
    ∧ (s.withOps r).mem = s.mem
    ∧ (s.withOps r).coh = s.coh
    ∧ (s.withOps r).eng = s.eng
    ∧ (s.withOps r).msgs = s.msgs := by
  refine ⟨by unfold State.withOps; dsimp only; simp only [State.runEnds_frame, State.opsRun_frame, State.completeAll_frame]; rw [foldl_same State.pending (fun u x => by simp)],
    by unfold State.withOps; dsimp only; simp only [State.runEnds_frame, State.opsRun_frame, State.completeAll_frame]; rw [foldl_same State.free (fun u x => by simp)],
    by unfold State.withOps; dsimp only; simp only [State.runEnds_frame, State.opsRun_frame, State.completeAll_frame]; rw [foldl_same State.boot (fun u x => by simp)],
    by unfold State.withOps; dsimp only; simp only [State.runEnds_frame, State.opsRun_frame, State.completeAll_frame]; rw [foldl_same State.pkg (fun u x => by simp)],
    by unfold State.withOps; dsimp only; simp only [State.runEnds_frame, State.opsRun_frame, State.completeAll_frame]; rw [foldl_same State.regs (fun u x => by simp)],
    by unfold State.withOps; dsimp only; simp only [State.runEnds_frame, State.opsRun_frame, State.completeAll_frame]; rw [foldl_same State.time (fun u x => by simp)],
    by unfold State.withOps; dsimp only; simp only [State.runEnds_frame, State.opsRun_frame, State.completeAll_frame]; rw [foldl_same State.clk (fun u x => by simp)],
    by unfold State.withOps; dsimp only; simp only [State.runEnds_frame, State.opsRun_frame, State.completeAll_frame]; rw [foldl_same State.smi (fun u x => by simp)],
    by unfold State.withOps; dsimp only; simp only [State.runEnds_frame, State.opsRun_frame, State.completeAll_frame]; rw [foldl_same State.world (fun u x => by simp)],
    by unfold State.withOps; dsimp only; simp only [State.runEnds_frame, State.opsRun_frame, State.completeAll_frame]; rw [foldl_same State.mem (fun u x => by simp)],
    by unfold State.withOps; dsimp only; simp only [State.runEnds_frame, State.opsRun_frame, State.completeAll_frame]; rw [foldl_same State.coh (fun u x => by simp)],
    by unfold State.withOps; dsimp only; simp only [State.runEnds_frame, State.opsRun_frame, State.completeAll_frame]; rw [foldl_same State.eng (fun u x => by simp)],
    by unfold State.withOps; dsimp only; simp only [State.runEnds_frame, State.opsRun_frame, State.completeAll_frame]; rw [foldl_same State.msgs (fun u x => by simp)]⟩

/-- The end of a cycle. -/
@[simp] theorem State.endCycle_frame (s : State) (st : Status) (x y : Nat) (b : Bool) :
    (s.endCycle st x y b).pending = s.pending ∧ (s.endCycle st x y b).free = s.free ∧ (s.endCycle st x y b).boot = s.boot
    ∧ (s.endCycle st x y b).pkg = s.pkg ∧ (s.endCycle st x y b).regs = s.regs ∧ (s.endCycle st x y b).time = s.time
    ∧ (s.endCycle st x y b).clk = s.clk ∧ (s.endCycle st x y b).smi = s.smi ∧ (s.endCycle st x y b).world = s.world
    ∧ (s.endCycle st x y b).mem = s.mem ∧ (s.endCycle st x y b).coh = s.coh ∧ (s.endCycle st x y b).eng = s.eng
    ∧ (s.endCycle st x y b).msgs = s.msgs := by
  refine ⟨by unfold State.endCycle; split; (· rfl); dsimp only; simp only [State.opsRun_frame]; rw [foldl_same State.pending (fun u x => by simp)]; simp,
    by unfold State.endCycle; split; (· rfl); dsimp only; simp only [State.opsRun_frame]; rw [foldl_same State.free (fun u x => by simp)]; simp,
    by unfold State.endCycle; split; (· rfl); dsimp only; simp only [State.opsRun_frame]; rw [foldl_same State.boot (fun u x => by simp)]; simp,
    by unfold State.endCycle; split; (· rfl); dsimp only; simp only [State.opsRun_frame]; rw [foldl_same State.pkg (fun u x => by simp)]; simp,
    by unfold State.endCycle; split; (· rfl); dsimp only; simp only [State.opsRun_frame]; rw [foldl_same State.regs (fun u x => by simp)]; simp,
    by unfold State.endCycle; split; (· rfl); dsimp only; simp only [State.opsRun_frame]; rw [foldl_same State.time (fun u x => by simp)]; simp,
    by unfold State.endCycle; split; (· rfl); dsimp only; simp only [State.opsRun_frame]; rw [foldl_same State.clk (fun u x => by simp)]; simp,
    by unfold State.endCycle; split; (· rfl); dsimp only; simp only [State.opsRun_frame]; rw [foldl_same State.smi (fun u x => by simp)]; simp,
    by unfold State.endCycle; split; (· rfl); dsimp only; simp only [State.opsRun_frame]; rw [foldl_same State.world (fun u x => by simp)]; simp,
    by unfold State.endCycle; split; (· rfl); dsimp only; simp only [State.opsRun_frame]; rw [foldl_same State.mem (fun u x => by simp)]; simp,
    by unfold State.endCycle; split; (· rfl); dsimp only; simp only [State.opsRun_frame]; rw [foldl_same State.coh (fun u x => by simp)]; simp,
    by unfold State.endCycle; split; (· rfl); dsimp only; simp only [State.opsRun_frame]; rw [foldl_same State.eng (fun u x => by simp)]; simp,
    by unfold State.endCycle; split; (· rfl); dsimp only; simp only [State.opsRun_frame]; rw [foldl_same State.msgs (fun u x => by simp)]; simp⟩

/-- A cycle abandoned. -/
@[simp] theorem State.abandon_frame (s : State) (st : Status) :
    (s.abandon st).pending = s.pending ∧ (s.abandon st).free = s.free ∧ (s.abandon st).boot = s.boot
    ∧ (s.abandon st).pkg = s.pkg ∧ (s.abandon st).regs = s.regs ∧ (s.abandon st).time = s.time
    ∧ (s.abandon st).clk = s.clk ∧ (s.abandon st).smi = s.smi ∧ (s.abandon st).world = s.world
    ∧ (s.abandon st).mem = s.mem ∧ (s.abandon st).coh = s.coh := by
  unfold State.abandon
  split <;> simp

/-- The end of a verify restart. -/
@[simp] theorem State.endVerify_frame (s : State) :
    s.endVerify.pending = s.pending
    ∧ s.endVerify.free = s.free
    ∧ s.endVerify.boot = s.boot
    ∧ s.endVerify.pkg = s.pkg
    ∧ s.endVerify.host = s.host
    ∧ s.endVerify.regs = s.regs
    ∧ s.endVerify.time = s.time
    ∧ s.endVerify.clk = s.clk
    ∧ s.endVerify.aon = s.aon
    ∧ s.endVerify.smi = s.smi
    ∧ s.endVerify.world = s.world
    ∧ s.endVerify.img = s.img
    ∧ s.endVerify.ops = s.ops
    ∧ s.endVerify.mem = s.mem
    ∧ s.endVerify.coh = s.coh
    ∧ s.endVerify.eng = s.eng
    ∧ s.endVerify.du = s.du
    ∧ s.endVerify.msgs = s.msgs := by
  unfold State.endVerify
  dsimp only
  split <;> simp

/-- A fenced die's links, copies and memories. -/
@[simp] theorem State.fenceData_frame (s : State) (d : Nat) :
    (s.fenceData d).pending = s.pending
    ∧ (s.fenceData d).free = s.free
    ∧ (s.fenceData d).boot = s.boot
    ∧ (s.fenceData d).host = s.host
    ∧ (s.fenceData d).regs = s.regs
    ∧ (s.fenceData d).time = s.time
    ∧ (s.fenceData d).clk = s.clk
    ∧ (s.fenceData d).saf = s.saf
    ∧ (s.fenceData d).aon = s.aon
    ∧ (s.fenceData d).smi = s.smi
    ∧ (s.fenceData d).world = s.world
    ∧ (s.fenceData d).img = s.img
    ∧ (s.fenceData d).cyc = s.cyc
    ∧ (s.fenceData d).ops = s.ops
    ∧ (s.fenceData d).eng = s.eng
    ∧ (s.fenceData d).du = s.du
    ∧ (s.fenceData d).msgs = s.msgs := by
  unfold State.fenceData
  simp

/-- A fenced die switched off. -/
@[simp] theorem State.fenceOff_frame (s : State) (d : Nat) :
    (s.fenceOff d).pending = s.pending
    ∧ (s.fenceOff d).free = s.free
    ∧ (s.fenceOff d).boot = s.boot
    ∧ (s.fenceOff d).host = s.host
    ∧ (s.fenceOff d).regs = s.regs
    ∧ (s.fenceOff d).time = s.time
    ∧ (s.fenceOff d).clk = s.clk
    ∧ (s.fenceOff d).aon = s.aon
    ∧ (s.fenceOff d).smi = s.smi
    ∧ (s.fenceOff d).world = s.world
    ∧ (s.fenceOff d).cyc = s.cyc
    ∧ (s.fenceOff d).ops = s.ops
    ∧ (s.fenceOff d).mem = s.mem
    ∧ (s.fenceOff d).coh = s.coh
    ∧ (s.fenceOff d).eng = s.eng
    ∧ (s.fenceOff d).msgs = s.msgs := by
  unfold State.fenceOff
  simp

/-- A die fenced. -/
@[simp] theorem State.fenceDie_frame (s : State) (d : Nat) (c : FenceCause) (st : Status) :
    (s.fenceDie d c st).pending = s.pending
    ∧ (s.fenceDie d c st).free = s.free
    ∧ (s.fenceDie d c st).boot = s.boot
    ∧ (s.fenceDie d c st).regs = s.regs
    ∧ (s.fenceDie d c st).time = s.time
    ∧ (s.fenceDie d c st).clk = s.clk
    ∧ (s.fenceDie d c st).smi = s.smi
    ∧ (s.fenceDie d c st).world = s.world := by
  unfold State.fenceDie
  split
  · simp
  · simp

/-- The completions of a fatal fault. -/
theorem State.completes_frame (xs : List Desc) (st : Status) (x y : Nat) (s : State) :
    xs.foldl (fun (s : State) d => s.complete d st x y) s
      = { s with host := (xs.foldl (fun (s : State) d => s.complete d st x y) s).host } := by
  induction xs generalizing s with
  | nil => rfl
  | cons d r ih => exact (ih (s.complete d st x y)).trans rfl

/-- Queued cycles and waiting descriptors end. -/
@[simp] theorem State.fatalEnds_frame (s : State) :
    (s.fatalEnds).pending = s.pending
    ∧ (s.fatalEnds).free = s.free
    ∧ (s.fatalEnds).boot = s.boot
    ∧ (s.fatalEnds).pkg = s.pkg
    ∧ (s.fatalEnds).regs = s.regs
    ∧ (s.fatalEnds).time = s.time
    ∧ (s.fatalEnds).clk = s.clk
    ∧ (s.fatalEnds).saf = s.saf
    ∧ (s.fatalEnds).aon = s.aon
    ∧ (s.fatalEnds).smi = s.smi
    ∧ (s.fatalEnds).world = s.world
    ∧ (s.fatalEnds).img = s.img
    ∧ (s.fatalEnds).ops = s.ops
    ∧ (s.fatalEnds).mem = s.mem
    ∧ (s.fatalEnds).coh = s.coh
    ∧ (s.fatalEnds).eng = s.eng
    ∧ (s.fatalEnds).du = s.du
    ∧ (s.fatalEnds).msgs = s.msgs := by
  unfold State.fatalEnds
  dsimp only
  rw [State.completes_frame, State.completes_frame]
  simp

/-- The planning dies switched off. -/
@[simp] theorem State.fatalOff_frame (s : State) :
    (s.fatalOff).pending = s.pending
    ∧ (s.fatalOff).free = s.free
    ∧ (s.fatalOff).boot = s.boot
    ∧ (s.fatalOff).regs = s.regs
    ∧ (s.fatalOff).clk = s.clk
    ∧ (s.fatalOff).saf = s.saf
    ∧ (s.fatalOff).aon = s.aon
    ∧ (s.fatalOff).smi = s.smi
    ∧ (s.fatalOff).world = s.world
    ∧ (s.fatalOff).img = s.img
    ∧ (s.fatalOff).cyc = s.cyc
    ∧ (s.fatalOff).mem = s.mem
    ∧ (s.fatalOff).coh = s.coh
    ∧ (s.fatalOff).du = s.du
    ∧ (s.fatalOff).msgs = s.msgs := by
  unfold State.fatalOff
  dsimp only
  split <;> simp

/-- A fatal fault. -/
@[simp] theorem State.fatal_frame (s : State) (b : Bool) :
    (s.fatal b).pending = s.pending
    ∧ (s.fatal b).free = s.free
    ∧ (s.fatal b).boot = s.boot
    ∧ (s.fatal b).regs = s.regs
    ∧ (s.fatal b).clk = s.clk
    ∧ (s.fatal b).smi = s.smi
    ∧ (s.fatal b).world = s.world
    ∧ (s.fatal b).mem = s.mem
    ∧ (s.fatal b).coh = s.coh := by
  unfold State.fatal
  simp

/-- A die's dispatch unit in RECOVERING. -/
@[simp] theorem State.recovering_frame (s : State) (u : RUnit) :
    (s.recovering u).pending = s.pending ∧ (s.recovering u).free = s.free ∧ (s.recovering u).boot = s.boot
    ∧ (s.recovering u).pkg = s.pkg ∧ (s.recovering u).host = s.host ∧ (s.recovering u).regs = s.regs
    ∧ (s.recovering u).time = s.time ∧ (s.recovering u).clk = s.clk ∧ (s.recovering u).saf = s.saf
    ∧ (s.recovering u).aon = s.aon ∧ (s.recovering u).smi = s.smi ∧ (s.recovering u).world = s.world
    ∧ (s.recovering u).img = s.img ∧ (s.recovering u).cyc = s.cyc ∧ (s.recovering u).ops = s.ops
    ∧ (s.recovering u).mem = s.mem ∧ (s.recovering u).coh = s.coh ∧ (s.recovering u).eng = s.eng
    ∧ (s.recovering u).msgs = s.msgs := by
  unfold State.recovering
  split <;> simp

/-- A restart falls due. -/
@[simp] theorem State.restartDue_frame (s : State) (u : RUnit) :
    (s.restartDue u).pending = s.pending ∧ (s.restartDue u).free = s.free ∧ (s.restartDue u).boot = s.boot
    ∧ (s.restartDue u).pkg = s.pkg ∧ (s.restartDue u).regs = s.regs ∧ (s.restartDue u).time = s.time
    ∧ (s.restartDue u).clk = s.clk ∧ (s.restartDue u).smi = s.smi ∧ (s.restartDue u).world = s.world
    ∧ (s.restartDue u).mem = s.mem ∧ (s.restartDue u).coh = s.coh := by
  unfold State.restartDue
  simp

/-- A restart, a fence or a fatal fault. -/
@[simp] theorem State.restartFault_frame (s : State) (u : RUnit) :
    (s.restartFault u).pending = s.pending ∧ (s.restartFault u).free = s.free ∧ (s.restartFault u).boot = s.boot
    ∧ (s.restartFault u).regs = s.regs ∧ (s.restartFault u).clk = s.clk ∧ (s.restartFault u).smi = s.smi
    ∧ (s.restartFault u).world = s.world := by
  unfold State.restartFault
  split <;> simp

/-- A fault raised: neither a register, nor the world, nor the package safety manager's interface, nor the clocks change. -/
@[simp] theorem State.fault_frame (s : State) (f : Fault0) :
    (s.fault f).pending = s.pending ∧ (s.fault f).free = s.free ∧ (s.fault f).boot = s.boot
    ∧ (s.fault f).regs = s.regs ∧ (s.fault f).clk = s.clk ∧ (s.fault f).smi = s.smi
    ∧ (s.fault f).world = s.world := by
  unfold State.fault
  dsimp only
  split <;> first | simp | (split <;> simp)

/-- Faults of one SCLK. -/
@[simp] theorem State.faults_frame (s : State) (fs : List Fault0) :
    (s.faults fs).pending = s.pending ∧ (s.faults fs).free = s.free ∧ (s.faults fs).boot = s.boot
    ∧ (s.faults fs).regs = s.regs ∧ (s.faults fs).clk = s.clk ∧ (s.faults fs).smi = s.smi
    ∧ (s.faults fs).world = s.world := by
  refine ⟨by unfold State.faults; apply foldl_same State.pending; intro u x; simp,
    by unfold State.faults; apply foldl_same State.free; intro u x; simp,
    by unfold State.faults; apply foldl_same State.boot; intro u x; simp,
    by unfold State.faults; apply foldl_same State.regs; intro u x; simp,
    by unfold State.faults; apply foldl_same State.clk; intro u x; simp,
    by unfold State.faults; apply foldl_same State.smi; intro u x; simp,
    by unfold State.faults; apply foldl_same State.world; intro u x; simp⟩

/-- A write into SRAM changes memory, and in a world store the bytes laid there. -/
@[simp] theorem State.sramWrite_frame (s : State) (a : Nat) (bs : List Byte) :
    (s.sramWrite a bs).pending = s.pending ∧ (s.sramWrite a bs).free = s.free ∧ (s.sramWrite a bs).boot = s.boot
    ∧ (s.sramWrite a bs).pkg = s.pkg ∧ (s.sramWrite a bs).host = s.host ∧ (s.sramWrite a bs).regs = s.regs
    ∧ (s.sramWrite a bs).time = s.time ∧ (s.sramWrite a bs).clk = s.clk ∧ (s.sramWrite a bs).saf = s.saf
    ∧ (s.sramWrite a bs).aon = s.aon ∧ (s.sramWrite a bs).smi = s.smi ∧ (s.sramWrite a bs).img = s.img
    ∧ (s.sramWrite a bs).cyc = s.cyc ∧ (s.sramWrite a bs).ops = s.ops ∧ (s.sramWrite a bs).coh = s.coh
    ∧ (s.sramWrite a bs).eng = s.eng ∧ (s.sramWrite a bs).du = s.du ∧ (s.sramWrite a bs).msgs = s.msgs := by
  unfold State.sramWrite
  split <;> simp

/-- A write into SRAM leaves the bytes at their addresses, wherever they lie. -/
@[simp] theorem State.sramWrite_mem (s : State) (a : Nat) (bs : List Byte) : (s.sramWrite a bs).mem = s.mem.write a bs := by
  unfold State.sramWrite
  split <;> simp

/-- A rejoining die's store changes the world alone. -/
@[simp] theorem State.restoreStore_frame (s : State) (d : Nat) :
    (s.restoreStore d).pending = s.pending ∧ (s.restoreStore d).free = s.free ∧ (s.restoreStore d).boot = s.boot
    ∧ (s.restoreStore d).pkg = s.pkg ∧ (s.restoreStore d).host = s.host ∧ (s.restoreStore d).regs = s.regs
    ∧ (s.restoreStore d).time = s.time ∧ (s.restoreStore d).clk = s.clk ∧ (s.restoreStore d).saf = s.saf
    ∧ (s.restoreStore d).aon = s.aon ∧ (s.restoreStore d).smi = s.smi ∧ (s.restoreStore d).img = s.img
    ∧ (s.restoreStore d).cyc = s.cyc ∧ (s.restoreStore d).ops = s.ops ∧ (s.restoreStore d).mem = s.mem
    ∧ (s.restoreStore d).coh = s.coh ∧ (s.restoreStore d).eng = s.eng ∧ (s.restoreStore d).du = s.du
    ∧ (s.restoreStore d).msgs = s.msgs := by
  unfold State.restoreStore
  split <;> simp

/-- A cluster's static lists copied change memory alone. -/
@[simp] theorem State.copyStatics_frame (s : State) (cl : Nat) :
    (s.copyStatics cl).pending = s.pending ∧ (s.copyStatics cl).free = s.free ∧ (s.copyStatics cl).boot = s.boot
    ∧ (s.copyStatics cl).pkg = s.pkg ∧ (s.copyStatics cl).host = s.host ∧ (s.copyStatics cl).regs = s.regs
    ∧ (s.copyStatics cl).time = s.time ∧ (s.copyStatics cl).clk = s.clk ∧ (s.copyStatics cl).saf = s.saf
    ∧ (s.copyStatics cl).aon = s.aon ∧ (s.copyStatics cl).smi = s.smi ∧ (s.copyStatics cl).world = s.world
    ∧ (s.copyStatics cl).img = s.img ∧ (s.copyStatics cl).cyc = s.cyc ∧ (s.copyStatics cl).ops = s.ops
    ∧ (s.copyStatics cl).coh = s.coh ∧ (s.copyStatics cl).eng = s.eng ∧ (s.copyStatics cl).du = s.du
    ∧ (s.copyStatics cl).msgs = s.msgs := by
  unfold State.copyStatics
  split <;> simp

/-- A die's DU state made fresh changes the dispatch units alone. -/
@[simp] theorem State.freshDu_frame (s : State) (d : Nat) :
    (s.freshDu d).pending = s.pending ∧ (s.freshDu d).free = s.free ∧ (s.freshDu d).boot = s.boot
    ∧ (s.freshDu d).pkg = s.pkg ∧ (s.freshDu d).host = s.host ∧ (s.freshDu d).regs = s.regs
    ∧ (s.freshDu d).time = s.time ∧ (s.freshDu d).clk = s.clk ∧ (s.freshDu d).saf = s.saf
    ∧ (s.freshDu d).aon = s.aon ∧ (s.freshDu d).smi = s.smi ∧ (s.freshDu d).world = s.world
    ∧ (s.freshDu d).img = s.img ∧ (s.freshDu d).cyc = s.cyc ∧ (s.freshDu d).ops = s.ops
    ∧ (s.freshDu d).mem = s.mem ∧ (s.freshDu d).coh = s.coh ∧ (s.freshDu d).eng = s.eng
    ∧ (s.freshDu d).msgs = s.msgs := by
  unfold State.freshDu
  split <;> simp

end Sys2Proof.Machine
end

