-- ==== Sys2Proof/Laws/Canonical.lean ====
section
/-!
SUPPORT. Every shared operation keeps the memories in canonical form, and the memories of the state after
reset have it.
-/
namespace Sys2Proof

open Sys2Proof.Machine

/-- The state after reset lists no byte. -/
theorem reset_memories : Memories State.reset := ⟨rfl, rfl⟩

/-- An operation that touches neither memory keeps their form. -/
theorem Memories.same {s t : State} (h : Memories s) (hm : t.mem = s.mem) (hh : t.host.mem = s.host.mem) : Memories t :=
  ⟨by rw [hm]; exact h.1, by rw [hh]; exact h.2⟩

theorem Memories.foldl {α : Type} {g : State → α → State} (hg : ∀ u x, Memories u → Memories (g u x)) (xs : List α) {s : State}
    (h : Memories s) : Memories (xs.foldl g s) := by
  induction xs generalizing s with
  | nil => exact h
  | cons x r ih => exact ih (hg s x h)

theorem Memories.poke {s : State} (h : Memories s) (a : Nat) (bs : List Byte) : Memories (s.poke a bs) :=
  ⟨Machine.wf_write h.1 a bs, h.2⟩

theorem Memories.look {s : State} (h : Memories s) (v : HostView) : Memories (s.look v) :=
  ⟨h.1, Machine.wf_foldl _ (fun _ _ hm => Machine.wf_write hm _ _) _ h.2⟩

theorem Memories.withCoh {s : State} (h : Memories s) (o : CohOut) : Memories (s.withCoh o) :=
  ⟨Machine.wf_foldl _ (fun _ _ hm => Machine.wf_write hm _ _) _ h.1, h.2⟩

theorem Memories.hostWrite {s : State} (h : Memories s) (a : Nat) (bs : List Byte) : Memories (s.hostWrite a bs) := by
  unfold State.hostWrite
  split
  · exact ⟨h.1, Machine.wf_write h.2 a bs⟩
  · exact h

theorem Memories.message {s : State} (h : Memories s) (v : Nat) : Memories (s.message v) := by
  unfold State.message
  split <;> exact h

theorem Memories.signalRing {s : State} (h : Memories s) (n : Nat) : Memories (s.signalRing n) := by
  unfold State.signalRing
  split
  · exact h
  · dsimp only
    split
    · exact Memories.message (s := State.mapRing _ _ _) h _
    · exact h

theorem Memories.wrote {s : State} (h : Memories s) (n : Nat) (now : Bool) : Memories (s.wrote n now) := by
  unfold State.wrote
  dsimp only
  split
  · exact h
  · split
    · exact Memories.signalRing (s := State.mapRing _ _ _) h _
    · exact h

@[simp] theorem State.completeAll_hostMem (s : State) (xs : List (Desc × Status)) : (s.completeAll xs).host.mem = s.host.mem := by
  unfold State.completeAll
  apply foldl_same (fun u => u.host.mem)
  intro u x
  rfl

@[simp] theorem foldl_completeOp_mem (xs : List LongOp) (s : State) :
    (xs.foldl State.completeOp s).mem = s.mem ∧ (xs.foldl State.completeOp s).host.mem = s.host.mem := by
  refine ⟨?_, ?_⟩
  · apply foldl_same State.mem
    intro u x
    simp
  · apply foldl_same (fun u => u.host.mem)
    intro u x
    rfl

@[simp] theorem foldl_complete_mem (st : Status) (x y : Nat) (xs : List Desc) (s : State) :
    (xs.foldl (fun (s : State) d => s.complete d st x y) s).mem = s.mem
    ∧ (xs.foldl (fun (s : State) d => s.complete d st x y) s).host.mem = s.host.mem := by
  refine ⟨?_, ?_⟩
  · apply foldl_same State.mem
    intro u x
    rfl
  · apply foldl_same (fun u => u.host.mem)
    intro u x
    rfl

theorem Memories.completeAll {s : State} (h : Memories s) (xs : List (Desc × Status)) : Memories (s.completeAll xs) :=
  h.same (by simp) (by simp)

theorem Memories.opsRun {s : State} (h : Memories s) (old : List LongOp) : Memories (s.opsRun old) :=
  h.same (by simp) (by simp)

theorem Memories.eventWrite {s : State} (h : Memories s) (b : List Byte) : Memories (s.eventWrite b) := by
  unfold State.eventWrite
  split
  · exact h
  · split
    · exact h
    · exact ((h.hostWrite _ _).hostWrite _ _).wrote _ _

theorem Memories.send {s : State} (h : Memories s) (f : Fault0) (n : Nat) : Memories (s.send f n) := by
  unfold State.send
  dsimp only
  have g : Memories { s with aon := (s.aon.enter f n s.time.now).1 } := h
  split
  · exact g.eventWrite _
  · exact g.eventWrite _

theorem Memories.record {s : State} (h : Memories s) (f : Fault0) : Memories (s.record f) := by
  unfold State.record
  dsimp only
  split
  · exact h.send _ _
  · split
    · exact h
    · split
      · exact h.send _ _
      · exact h.send _ _

theorem Memories.staleReports {s : State} (h : Memories s) : Memories s.staleReports := by
  unfold State.staleReports
  have turn (u : State) (d : Nat) (hu : Memories u) : Memories (
      if (u.duOf d).stale = 0 then u
      else (u.record ⟨.staleDrop, .info, ⟨d, 15, 15, 0xA⟩, (u.duOf d).stale, (u.duOf d).staleEpoch⟩).mapDu d
        (fun u => { u with stale := 0, staleEpoch := 0 })) := by
    split
    · exact hu
    · exact (hu.record _).same rfl rfl
  have last (u : State) (hu : Memories u) : Memories (
      if u.cyc.stale.1 = 0 then u
      else
        let v := u.record ⟨.staleDrop, .info, Loc.hub 0, u.cyc.stale.1, u.cyc.stale.2⟩
        { v with cyc := { v.cyc with stale := (0, 0) } }) := by
    split
    · exact hu
    · exact (hu.record _).same rfl rfl
  exact last _ (Memories.foldl turn _ h)

theorem Memories.runEnds {s : State} (h : Memories s) (old : List LongOp) : Memories (s.runEnds old) := by
  unfold State.runEnds
  split
  · exact h.staleReports
  · exact h

theorem Memories.withOps {s : State} (h : Memories s) (r : OpsOut) : Memories (s.withOps r) := by
  unfold State.withOps
  dsimp only
  refine Memories.runEnds ?_ _
  refine Memories.opsRun ?_ _
  refine Memories.completeAll ?_ _
  exact Memories.foldl (g := State.completeOp) (fun _ _ hu => hu) _ h

theorem Memories.endVerify {s : State} (h : Memories s) : Memories s.endVerify := h.same (by simp) (by simp)

theorem Memories.traceHeader {s : State} (h : Memories s) (c : Cycle) : Memories (s.traceHeader c) := by
  unfold State.traceHeader
  split
  · exact h
  · exact h.hostWrite _ _

theorem Memories.fireOn {s : State} (h : Memories s) (ds : List Nat) (b : BindSource) (n : Nat) : Memories (s.fireOn ds b n) :=
  h.same (by simp) (by simp)

theorem Memories.complete {s : State} (h : Memories s) (d : Desc) (st : Status) (x y : Nat) (b : Bool) :
    Memories (s.complete d st x y b) := h

theorem Memories.endCycle {s : State} (h : Memories s) (st : Status) (x y : Nat) (b : Bool) : Memories (s.endCycle st x y b) := by
  unfold State.endCycle
  split
  · exact h
  · rename_i c _
    dsimp only
    have g := (Memories.fireOn (((h.hostWrite (c.desc.planArea + 0x100 * (1 + s.world.epoch % 2))
      (s.statusRec c st b).bytes).traceHeader c).complete c.desc st x y b) c.dies .cycleEnd 0).staleReports
    refine Memories.opsRun ⟨?_, ?_⟩ _
    · simpa using h.1
    · simpa using g.2

theorem Memories.abandon {s : State} (h : Memories s) (st : Status) : Memories (s.abandon st) := by
  unfold State.abandon
  split
  · exact h
  · dsimp only
    refine Memories.same (Memories.endCycle ?_ _ _ _ _) rfl rfl
    exact Memories.same h rfl rfl

theorem Memories.fenceData {s : State} (h : Memories s) (d : Nat) : Memories (s.fenceData d) := by
  unfold State.fenceData
  dsimp only
  refine ⟨?_, h.2⟩
  exact Machine.wf_clear (Machine.wf_clear (Machine.wf_foldl _ (fun _ _ hm => Machine.wf_write hm _ _) _ h.1) _ _) _ _

theorem Memories.fenceOff {s : State} (h : Memories s) (d : Nat) : Memories (s.fenceOff d) := by
  refine Memories.same h (by simp) ?_
  unfold State.fenceOff
  rfl

theorem Memories.fenceDie {s : State} (h : Memories s) (d : Nat) (c : FenceCause) (st : Status) :
    Memories (s.fenceDie d c st) := by
  unfold State.fenceDie
  split
  · exact h
  · dsimp only
    have g : Memories (s.mapDie d (fun (x : DieSt) =>
        { x with healthy := false, inService := false, fenced := some c, rejoin := false, out := .service })) := h
    exact (((((g.abandon st).fenceData d).withOps _).fenceOff d).endVerify).send _ _

theorem Memories.fatalEnds {s : State} (h : Memories s) : Memories s.fatalEnds := by
  unfold State.fatalEnds
  dsimp only
  refine Memories.same (s := s) h ?_ ?_ <;> simp

theorem Memories.fatalOff {s : State} (h : Memories s) : Memories s.fatalOff := by
  refine Memories.same h (by simp) ?_
  unfold State.fatalOff
  dsimp only
  split <;> rfl

theorem Memories.fatal {s : State} (h : Memories s) (b : Bool) : Memories (s.fatal b) := by
  have g := Memories.abandon (s := { s with saf := { s.saf with
    fatal := true, alive := s.saf.alive && b, causes := setBit s.saf.causes 7,
    due := [], active := s.saf.active.filter (fun u => u == RUnit.hub) } }) h .fatal
  unfold State.fatal
  exact ((g.withOps _).fatalEnds).fatalOff

theorem Memories.restartDue {s : State} (h : Memories s) (u : RUnit) : Memories (s.restartDue u) := by
  have g := Memories.abandon (s := { s with saf := { s.saf with causes := setBit s.saf.causes 2, due := addDue u s.saf.due } }) h .faultRestart
  unfold State.restartDue State.recovering
  dsimp only
  split <;> exact g

theorem Memories.restartFault {s : State} (h : Memories s) (u : RUnit) : Memories (s.restartFault u) := by
  unfold State.restartFault
  split
  · exact h.restartDue _
  · exact h.fenceDie _ _ _
  · exact h.fatal _

theorem Memories.fault {s : State} (h : Memories s) (f : Fault0) : Memories (s.fault f) := by
  unfold State.fault
  have g := h.record f
  generalize s.record f = u at g
  have r : Memories (match f.unit with | some v => u.restartFault v | none => u) := by
    split
    · exact g.restartFault _
    · exact g
  cases f.cls
  · exact g
  · exact g
  · exact g.abandon _
  · exact r
  · exact r
  · exact r
  · exact g
  · exact g.same rfl rfl
  · exact g.fatal _

theorem Memories.faults {s : State} (h : Memories s) (fs : List Fault0) : Memories (s.faults fs) :=
  Memories.foldl (fun _ _ hu => hu.fault _) _ h

end Sys2Proof
end

