-- ==== Sys2Proof/Laws/Solver.lean ====
section
/-!
SUPPORT. A work item that goes on with non-finite values comes to its end: EMIT's computation never ends early (log
entry 27).
-/
namespace Sys2Proof.Machine

open Sys2Proof

/-- A computation that no item which goes on with non-finite values ends early, and after which it still does. -/
structure GoesOn {α : Type} (m : QM α) : Prop where
  run : ∀ q : QSt, q.whole = true → q.cut = false → ∃ x r, (ExceptT.run m).run q = (.ok x, r) ∧ r.whole = true ∧ r.cut = false

theorem goesOn_pure {α : Type} (x : α) : GoesOn (pure x : QM α) := ⟨fun q h c => ⟨x, q, rfl, h, c⟩⟩

theorem goesOn_bind {α β : Type} {m : QM α} {f : α → QM β} (hm : GoesOn m) (hf : ∀ x, GoesOn (f x)) : GoesOn (m >>= f) := by
  refine ⟨fun q h c => ?_⟩
  obtain ⟨x, r, e, hr, hc⟩ := hm.run q h c
  obtain ⟨y, t, e', ht, hc'⟩ := (hf x).run r hr hc
  refine ⟨y, t, ?_, ht, hc'⟩
  rw [ExceptT.run_bind, StateT.run_bind, e]
  exact e'

theorem goesOn_keepF (r : FRes) : GoesOn (keepF r) := by
  constructor
  rintro ⟨fl, sat, whole, left, cut⟩ h c
  cases h
  cases c
  refine ⟨r.val, ⟨fl.or r.fl, sat, true, left.map (fun n => n - 1), false⟩, ?_, rfl, rfl⟩
  unfold keepF
  generalize isFinite32 r.val = b
  cases b <;> rfl

theorem goesOn_keepSat (r : Sat) : GoesOn (keepSat r) :=
  ⟨fun q h c => ⟨r.val, { q with sat := q.sat || r.sat }, rfl, h, c⟩⟩

theorem goesOn_ite {α : Type} {p : Prop} [Decidable p] {m n : QM α} (hm : GoesOn m) (hn : GoesOn n) : GoesOn (if p then m else n) := by
  split <;> assumption

theorem goesOn_mapM {α β : Type} {f : α → QM β} (hf : ∀ x, GoesOn (f x)) : ∀ xs : List α, GoesOn (xs.mapM f)
  | [] => goesOn_pure _
  | x :: xs => by
    rw [List.mapM_cons]
    exact goesOn_bind (hf x) (fun _ => goesOn_bind (goesOn_mapM hf xs) (fun _ => goesOn_pure _))

theorem goesOn_foldlM {α β : Type} {f : β → α → QM β} (hf : ∀ b x, GoesOn (f b x)) : ∀ (xs : List α) (b : β), GoesOn (xs.foldlM f b)
  | [], _ => goesOn_pure _
  | x :: xs, b => by
    rw [List.foldlM_cons]
    exact goesOn_bind (hf b x) (fun _ => goesOn_foldlM hf xs _)

theorem goesOn_dotM (ts : List (F32 × F32)) : GoesOn (dotM ts) := goesOn_keepF _
theorem goesOn_mulM (a b : F32) : GoesOn (mulM a b) := goesOn_keepF _
theorem goesOn_divM (a b : F32) : GoesOn (divM a b) := goesOn_keepF _
theorem goesOn_sqrtM (a : F32) : GoesOn (sqrtM a) := goesOn_keepF _
theorem goesOn_addM (a b : F32) : GoesOn (addM a b) := goesOn_keepF _
theorem goesOn_subM (a b : F32) : GoesOn (subM a b) := goesOn_keepF _
theorem goesOn_p32M (c : Int) : GoesOn (p32M c) := goesOn_keepF _
theorem goesOn_d32M (c : Int) : GoesOn (d32M c) := goesOn_bind (goesOn_p32M c) (fun _ => goesOn_mulM _ _)

theorem goesOn_stageGeo (opt : Bool) (m : List Nat) (r : Ref) (z : List F32) : GoesOn (stageGeo opt m r z) := by
  unfold stageGeo
  repeat' (first
    | with_reducible exact goesOn_pure _
    | with_reducible exact goesOn_dotM _
    | with_reducible exact goesOn_addM _ _
    | with_reducible apply goesOn_ite | with_reducible apply goesOn_bind | intro _)

theorem goesOn_stageTimes (b ds : List F32) (vstop : F32) :
    ∀ (f k : Nat) (st : StageTimes), GoesOn (stageTimes b ds vstop f k st)
  | 0, _, _ => goesOn_pure _
  | f + 1, k, st => by
    unfold stageTimes
    repeat' (first
      | with_reducible exact goesOn_pure _
      | with_reducible exact goesOn_sqrtM _
      | with_reducible exact goesOn_addM _ _
      | with_reducible exact goesOn_divM _ _
      | with_reducible exact goesOn_stageTimes _ _ _ _ _ _
      | with_reducible apply goesOn_ite | with_reducible apply goesOn_bind | intro _)

theorem goesOn_sampleAt (g : List StageGeo) (b ds sb t : List F32) (j k : Nat) (tau : F32) (reverse : Bool) :
    GoesOn (sampleAt g b ds sb t j k tau reverse) := by
  unfold sampleAt
  repeat' (first
    | with_reducible exact goesOn_pure _
    | with_reducible exact goesOn_subM _ _
    | with_reducible exact goesOn_addM _ _
    | with_reducible exact goesOn_divM _ _
    | with_reducible exact goesOn_mulM _ _
    | with_reducible exact goesOn_dotM _
    | with_reducible apply goesOn_ite | with_reducible apply goesOn_bind | intro _)

theorem goesOn_emitFrom (g : List StageGeo) (b ds : List F32) (st : StageTimes) (nst : Nat) (reverse : Bool) :
    ∀ (f j : Nat) (acc : List TSample) (stop : Option Nat), GoesOn (emitFrom g b ds st nst reverse f j acc stop)
  | 0, _, _, _ => goesOn_pure _
  | f + 1, j, acc, stop => by
    unfold emitFrom
    repeat' (first
      | with_reducible exact goesOn_pure _
      | with_reducible exact goesOn_divM _ _
      | with_reducible exact goesOn_sampleAt _ _ _ _ _ _ _ _ _
      | with_reducible exact goesOn_emitFrom _ _ _ _ _ _ _ _ _ _
      | with_reducible apply goesOn_ite | with_reducible apply goesOn_bind | intro _)

theorem goesOn_toP32M (x : F32) : GoesOn (toP32M x) :=
  ⟨fun q h c => ⟨(fToP32 x).1, { q with fl := q.fl.or (fToP32 x).2 }, rfl, h, c⟩⟩

theorem goesOn_toA16M (x : F32) : GoesOn (toA16M x) := by
  unfold toA16M
  repeat' (first
    | with_reducible exact goesOn_pure _
    | with_reducible exact goesOn_toP32M _
    | with_reducible exact goesOn_mulM _ _
    | with_reducible apply goesOn_mapM | with_reducible apply goesOn_ite | with_reducible apply goesOn_bind | intro _)

theorem goesOn_toAnchoredM (x : F32) (a : Int) : GoesOn (toAnchoredM x a) := by
  unfold toAnchoredM
  repeat' (first
    | with_reducible exact goesOn_pure _
    | with_reducible exact goesOn_toP32M _
    | with_reducible exact goesOn_keepSat _
    | with_reducible apply goesOn_mapM | with_reducible apply goesOn_ite | with_reducible apply goesOn_bind | intro _)

theorem goesOn_toI16M (k x : F32) : GoesOn (toI16M k x) := by
  unfold toI16M
  repeat' (first
    | with_reducible exact goesOn_pure _
    | with_reducible exact goesOn_toP32M _
    | with_reducible exact goesOn_keepSat _
    | with_reducible exact goesOn_mulM _ _
    | with_reducible apply goesOn_mapM | with_reducible apply goesOn_ite | with_reducible apply goesOn_bind | intro _)

theorem goesOn_bodyPsis (n : Nat) (p : TSample) : GoesOn (bodyPsis n p) := by
  unfold bodyPsis
  repeat' (first
    | with_reducible exact goesOn_pure _
    | with_reducible exact goesOn_subM _ _
    | with_reducible apply goesOn_mapM | with_reducible apply goesOn_ite | with_reducible apply goesOn_bind | intro _)

theorem goesOn_emitBound (xs : List F32) : GoesOn (emitBound xs) := by
  unfold emitBound
  repeat' (first
    | with_reducible exact goesOn_pure _
    | with_reducible exact goesOn_toP32M _
    | with_reducible exact goesOn_mulM _ _
    | with_reducible apply goesOn_mapM | with_reducible apply goesOn_ite | with_reducible apply goesOn_bind | intro _)

theorem goesOn_sweepSide (ego : List EgoBody) (p n : TSample) (pp np : List F32) : GoesOn (sweepSide ego p n pp np) := by
  unfold sweepSide
  repeat' (first
    | with_reducible exact goesOn_pure _
    | with_reducible exact goesOn_subM _ _
    | with_reducible exact goesOn_addM _ _
    | with_reducible exact goesOn_mulM _ _
    | with_reducible exact goesOn_dotM _
    | with_reducible exact goesOn_p32M _
    | with_reducible apply goesOn_mapM | with_reducible apply goesOn_ite | with_reducible apply goesOn_bind | with_reducible apply goesOn_foldlM | intro _)

theorem goesOn_recheckSample (ego : List EgoBody) (an : Anchor) (ts : List TSample) (j : Nat) (p : TSample) :
    GoesOn (recheckSample ego an ts j p) := by
  unfold recheckSample
  generalize ts[j + 1]? = o
  cases o
  all_goals dsimp only
  all_goals repeat' (first
    | with_reducible exact goesOn_pure _
    | with_reducible exact goesOn_bodyPsis _ _
    | with_reducible exact goesOn_toA16M _
    | with_reducible exact goesOn_p32M _
    | with_reducible exact goesOn_d32M _
    | with_reducible exact goesOn_dotM _
    | with_reducible exact goesOn_toAnchoredM _ _
    | with_reducible exact goesOn_toI16M _ _
    | with_reducible exact goesOn_sweepSide _ _ _ _ _
    | with_reducible exact goesOn_emitBound _
    | with_reducible apply goesOn_mapM | with_reducible apply goesOn_ite | with_reducible apply goesOn_bind | intro _)

/-- EMIT's computation comes to its end. -/
theorem goesOn_emitTraj (ego : List EgoBody) (an : Anchor) (vstop : F32) (hmax : Nat) (g : GeoSol) (bz : List F32) :
    GoesOn (emitTraj ego an vstop hmax g bz) := by
  unfold emitTraj
  repeat' (first
    | with_reducible exact goesOn_pure _
    | with_reducible exact goesOn_stageGeo _ _ _ _
    | with_reducible exact goesOn_stageTimes _ _ _ _ _ _
    | with_reducible exact goesOn_emitFrom _ _ _ _ _ _ _ _ _ _
    | with_reducible exact goesOn_recheckSample _ _ _ _ _
    | with_reducible apply goesOn_mapM | with_reducible apply goesOn_ite | with_reducible apply goesOn_bind | intro _)

/-- The trajectory of EMIT, which goes on with non-finite values (R264). -/
theorem emitTraj_ends (ego : List EgoBody) (an : Anchor) (vstop : F32) (hmax : Nat) (g : GeoSol) (bz : List F32) :
    ∃ x, ((ExceptT.run (emitTraj ego an vstop hmax g bz)).run { whole := true }).1 = .ok x := by
  obtain ⟨x, r, h, _⟩ := (goesOn_emitTraj ego an vstop hmax g bz).run { whole := true } rfl rfl
  exact ⟨x, by rw [h]⟩

end Sys2Proof.Machine
end

