-- ==== Sys2Proof/Tests/Slice0.lean ====
section
/-!
SUPPORT. Tests: an ill-formed command for each check of well-formedness, the specification's worked examples, and
for each statement a state and operands that meet its hypotheses.
-/
namespace Sys2Proof.Tests

open Sys2Proof Sys2Proof.Machine

set_option Elab.async false

/-! ### Well-formedness -/

/-- An ill-formed command for each check. -/
def illFormed : List Instr :=
  [.ringProbeRetry 0 (some []), .presence 0 [], .trainingReport 0 [], .buildCspace 0 0 .clean, .buildOcc 0 0 .clean,
   .buildStatic 0 0 .clean, .expandLib 0 0 .clean, .expandSeq 0 0 .clean, .buildPath 0 0 .clean, .rmSearch 0 0 .clean,
   .checkStream 0 0 .clean, .checkTraj 0 0 .clean, .checkPoses 0 0 .clean, .costStream 0 0 .clean, .costTraj 0 0 .clean,
   .costFinal 0 0 .clean, .select 0 0 .clean, .merge 0 0 .clean, .solve 0 0 .clean none, .emit 0 0 .clean, .key 0 0 .clean,
   .copy 0 0 0 .clean, .copy 0 0 0x101 .clean, .fill 0 0 0 .clean, .add32 0 0 0 .clean, .add64 0 0 0x24 .clean, .swap32 0 0 0 .clean,
   .swap64 0 0 0 .clean, .getm 0 0 64 [0], .ucWrite 0 0 60 [0, 0, 0, 0, 0], .list 0 0 (.merge 0 0 []), .bulk 0 0 [],
   .bulk 0 0 (zeroBytes 257), .faultRec 0 [], .holdLimitExpiry .pcie 1 0 0, .holdLimitExpiry .qe 0 4 0, .clockFault 0 8,
   .clockFault 5 0, .supplyExcursion 0 false false, .supplyExcursion 9 false false, .thermalEvaluation [(8, 2, 0)],
   .thermalEvaluation [(0, 4, 0)], .pmbusPollRound [], .patinaSample [(3, 0), (3, 1)], .registerWrite 1 1 15 0,
   .registerWrite 0 0 15 0, .registerWrite 0xFFFC 2 255 0]

theorem test_ill_formed_refused : illFormed.all (fun i => !i.wf) = true := by decide +kernel

/-- What the model's fault is for: the first of them meets it. -/
theorem test_ill_formed_faults :
    exec (.ringProbeRetry 0 (some [])) State.reset = .fault .malformed := rfl

/-- The opcode table gives its rows no bits. -/
theorem test_no_word_decodes : decodeTableWord 16 0x0001 = none := rfl

/-! ### Worked examples of the specification -/

/-- The digits' check value of CRC-32C, the reflected Castagnoli polynomial with complement (R425). -/
theorem test_crc32c_check : crc32c (List.map (BitVec.ofNat 8) [49, 50, 51, 52, 53, 54, 55, 56, 57]) = 0xE3069283 := by
  decide +kernel

/-- The example after R497: the CRC-8 of a read of SAF_FAULT_SUMMARY. -/
theorem test_smi_example_crc : crc8 [0x01, 0x08, 0x0C, 0, 0, 0, 0] = 0x60 := by decide +kernel

/-- The example of R39 and R43: 0xFFFFF0 + 0x20 saturates. -/
theorem test_c24_saturates : addC24 0xFFFFF0 0x20 = ⟨0xFFFFFE, true⟩ := by decide +kernel

/-- The worked C24 accumulation: its third term enters as 0 with SAT, its key is 1. -/
theorem test_c24_accumulation :
    addC24 0x3A0000 0xB20000 = ⟨0xEC0000, false⟩ ∧ termC24 (-0x1200) = ⟨0, true⟩
    ∧ addC24 0xEC0000 0x150000 = ⟨0xFFFFFE, true⟩ ∧ orderKeyC24 0xFFFFFE = 1 := by decide +kernel

/-- The example of R54: M + 1.0 - M is 1.0 exactly, whatever the order. -/
theorem test_exact_sum :
    exactSum [0x7F7FFFFF#32, 0x3F800000#32, 0xFF7FFFFF#32] = ⟨0x3F800000#32, {}⟩
    ∧ exactSum [0x7F7FFFFF#32, 0xFF7FFFFF#32, 0x3F800000#32] = ⟨0x3F800000#32, {}⟩ := by decide +kernel

/-- The example of R66: order keys of -0, +0, the least negative number and NaN. -/
theorem test_order_keys :
    [0x80000000#32, 0#32, 0x80000001#32, 0x7FC00000#32].map orderKeyF32 = [0x80000000, 0x80000000, 0x7FFFFFFF, 0] := by
  decide +kernel

/-- The world model's example: a pose in store form and expanded. -/
theorem test_store_pose : Pose.stored ⟨4146571, -15155, 0x2345⟩ 4096000 0 = ⟨4146568, -15152, 0x2340⟩ := by decide +kernel

/-- The Enlarger's example: one cell combined. -/
theorem test_combine_cell :
    combine ⟨[0x40, 0x10, 0x80, 0x30], [6], false, [0xFF, 0xFF, 0xFF, 0xF0], [0], 9, 48, 8⟩ 4 0
      (fun l => nth 0 [0x00, 0x41, 0x00, 0xC8] l) = ⟨0xA7, false⟩ := by decide +kernel

/-- The sequencer step of the example after R338. -/
theorem test_timed_wait_step :
    SeqStep.ofWord (leNat (List.map (BitVec.ofNat 8) [0x04, 0x12, 0x12, 0, 0x35, 0x0C, 0, 0, 0, 0xA3, 0, 0x0B, 0x94, 0, 0, 0]))
      = some ⟨.timedWait, 0, false, true, [0x121, 0x500, 0x0C3, 0], 0xC3500121, 0, 0, 0x0A3, 0x0B0, [(0x14, 4), (0, 0), (0, 0), (0, 0)]⟩ := by
  decide +kernel

/-! ### Small states -/

/-- A training report that passes. -/
def goodReport : TrainReport := ⟨true, true, 2, 2, 2, 1, true⟩

/-- A healthy die in service. -/
def okDie : DieSt := ⟨true, true, true, none, some 1, true, some goodReport, .service, false, true, 0, false, false⟩

/-- The device READY, eight dies in service, its PCIe link up. -/
def ready : State := { State.reset with
  boot := { State.reset.boot with st := .ready, pwrgd := true, resetHeld := false, lpcap := some 2 }
  pkg := ⟨List.replicate 8 okDie, List.replicate 16 { Link.reset with st := .up }, 255⟩
  host := { State.reset.host with linkUp := true }
  du := List.replicate 8 { DuState.empty with serve := .serving } }

/-- The device coming up: T0 has passed, no die is enabled. -/
def rising : State := { State.reset with
  boot := { State.reset.boot with st := .starting, pwrgd := true, resetHeld := false }
  host := { State.reset.host with linkUp := true } }

/-- A presence record of die 0 at start-up that passes R402. -/
def presence0 : List Byte := withCrc (leBytes 1 1 ++ leBytes 1 0 ++ leBytes 1 0x12 ++ zeroBytes 57)

/-- A training report that passes R404. -/
def report0 : List Byte := withCrc (zeroBytes 2 ++ leBytes 1 3 ++ zeroBytes 17 ++ leBytes 1 2 ++ leBytes 1 1 ++ zeroBytes 38)

/-- The sizes of the tables as a check. -/
def sized (s : State) : Bool :=
  decide (s.pkg.dies.length = 8 ∧ s.pkg.links.length = 16 ∧ s.du.length = 8 ∧ s.world.streams.length = 16
    ∧ s.host.attnSeen.length = 512 ∧ s.host.turn.length = 4 ∧ s.regs.rank.length = 6 ∧ s.regs.hold.length = 5
    ∧ s.regs.pmb.length = 16 ∧ s.regs.hiLatch.length = 6 ∧ s.regs.staging.length = 2)

theorem sized_iff (s : State) : sized s = true → Sized s := by
  intro h
  obtain ⟨a, b, c, d, e, f, g, i, j, k, l⟩ := of_decide_eq_true h
  exact ⟨a, b, c, d, e, f, g, i, j, k, l⟩

/-- The canonical memories as a check. -/
def memories (s : State) : Bool := s.mem.wf && s.host.mem.wf

theorem memories_iff (s : State) (h : memories s = true) : Memories s := by
  simpa [memories, Memories] using h

/-! ### What meets the statements' hypotheses: start-up and fences -/

/-- IdleStepIsOneTick: an empty queue, held and running, with and without a slew, the AON domain powered. -/
theorem meets_IdleStepIsOneTick :
    State.reset.pending = [] ∧ State.reset.boot.st = .held ∧ ready.pending = [] ∧ ready.boot.st ≠ .held
    ∧ ready.clk.reached ≠ .off ∧ ready.time.slew = none ∧ ready.aon.powered = true ∧ ready.aon.calSub < 32768
    ∧ ready.aon.calAcc < 100000000 ∧ ready.aon.calSec < 2 ^ 64 - 1
    ∧ (⟨1, 9999, false⟩ : Slew).set = false := by decide +kernel

/-- MemoriesStayCanonical, RegistersStayInRange, TablesKeepSizes, FencedDiesStayOut: the state after reset is sound, and a
step leads on from it. -/
theorem meets_invariants :
    Memories State.reset ∧ Registers State.reset ∧ Sized State.reset ∧ FencedOut State.reset
    ∧ (∃ t, step State.reset = .next t) := by
  refine ⟨memories_iff _ (by decide), ?_, sized_iff _ (by decide +kernel), by unfold FencedOut; decide +kernel, ?_⟩
  · constructor <;> decide +kernel
  · exact ⟨_, rfl⟩

/-- FencedDiesStayOut's second clause: a fenced die, and a command that is no power-on reset. -/
theorem meets_FencedDiesStayOut :
    ((ready.fenceDie 3 .host).die 3).fenced = some .host ∧ Instr.nop.powersOn = false
    ∧ sized (ready.fenceDie 3 .host) = true := by decide +kernel

/-- QueueFusesAndLockStay: LOCK set by CMD_LOCK, then another command. -/
theorem meets_QueueFusesAndLockStay :
    ({ ready with regs := { ready.regs with lock := true } } : State).regs.lock = true ∧ Instr.smiNop.powersOn = false := by decide

/-- CommitsNeverFall: a command that is no AON_POWER_UP, and AON_POWER_UP with its retention RAM. -/
theorem meets_CommitsNeverFall : Instr.nop ≠ .aonPowerUp ∧ State.reset.aon.lost = false := by decide

set_option maxRecDepth 20000 in
/-- AonDomainComesUp: off with the RAM intact; off and lost, without a checkpoint. -/
theorem meets_AonDomainComesUp :
    (let a : Aon := { Aon.fresh with powered := false }; a.powered = false ∧ a.lost = false)
    ∧ (let a : Aon := { Aon.fresh with powered := false, lost := true }; a.lost = true ∧ a.newest = none)
    ∧ (let a : Aon := { (Aon.fresh.checkpoint .shutdown) with powered := false, lost := true }
       a.powered = false ∧ a.lost = true ∧ a.newest.isSome = true) := by
  decide +kernel

/-- A configuration block that R589 accepts. -/
def block0 : List Byte := withCrc (leBytes 4 0x47464343 ++ zeroBytes 56)

/-- StartupActs: a valid block with firmware; each of the three failures. -/
theorem meets_StartupActs :
    State.reset.boot.st = .held ∧ State.reset.cyc.cur = none ∧ bootBlock [] block0 = some block0 ∧ (false || true) = true
    ∧ (bootBlock [] []).isNone = true ∧ (bootBlock block0 []).isSome = true := by decide +kernel

/-- Dies 0 to `n - 1` enabled. -/
def enabled (n : Nat) : State := { rising with pkg := { rising.pkg with
  dies := (List.range 8).map (fun d => { DieSt.off with enable := decide (d < n) }) } }

/-- DiesPowerUpInOrder: the last die's turn; a fused one; an enabled die without reset released. -/
theorem meets_DiesPowerUpInOrder :
    sized (enabled 7) = true ∧ (enabled 7).diesUp = true ∧ ((enabled 7).die 7).fenced = none
    ∧ (∀ k, k < 7 → ((enabled 7).die k).enable = true) ∧ ((enabled 7).die 7).enable = false
    ∧ bitAt (enabled 7).boot.fuseMask 7 = true
    ∧ bitAt ({ enabled 7 with boot := { (enabled 7).boot with fuseMask := 0x7F } } : State).boot.fuseMask 7 = false
    ∧ ((enabled 8).die 7).enable = true ∧ ((enabled 8).die 7).running = false := by decide +kernel

/-- Every die enabled and running, none announced. -/
def running : State := { rising with pkg := { rising.pkg with
  dies := List.replicate 8 { DieSt.off with enable := true, running := true } } }

/-- Every die announced but not reported, but die 0, which is as `x`. -/
def announced (x : DieSt) : State := { running with pkg := { running.pkg with
  dies := x :: List.replicate 7 { DieSt.off with enable := true, running := true, presence := true, serial := some 1 } } }

/-- DiesReport: a record that passes and one that fails; a report, first and repeated. -/
theorem meets_DiesReport :
    sized running = true ∧ running.diesUp = true ∧ presence0.length = 64 ∧ (running.die 0).fenced = none
    ∧ (running.die 7).owes = true ∧ (running.die 0).running = true ∧ (running.die 0).presence = false
    ∧ (running.die 0).out ≠ .test ∧ running.presenceCause 0 (Presence.ofBytes presence0) = none
    ∧ running.presenceCause 1 (Presence.ofBytes presence0) = some .position
    ∧ ((announced okDie).die 0).presence = true ∧ ((announced okDie).die 0).report.isSome = true
    ∧ ((announced okDie).die 7).owes = true ∧ report0.length = 64 := by decide +kernel

/-- The last report: seven dies have reported, die 0 has announced itself. -/
def lastReport : State := { running with pkg := { running.pkg with
  dies := { okDie with healthy := false, inService := false, report := none }
    :: List.replicate 7 { okDie with healthy := false, inService := false } } }

/-- LastReportDecides. -/
theorem meets_LastReportDecides :
    sized lastReport = true ∧ FencedOut lastReport ∧ lastReport.boot.st = .starting ∧ report0.length = 64
    ∧ lastReport.cyc.cur = none ∧ (lastReport.die 0).fenced = none ∧ (lastReport.die 0).presence = true
    ∧ (∀ k, k < 8 → k ≠ 0 → (lastReport.die k).owes = false) := by unfold FencedOut; decide +kernel

/-- A descriptor of an opcode on ring 0 with the operand bytes from byte 16 on. -/
def desc (op : Nat) (ops : List Byte) : Desc :=
  ⟨0, ⟨op, false, false, false, 0, 7⟩, leBytes 2 op ++ zeroBytes 6 ++ leBytes 8 7 ++ padTo 48 ops⟩

/-- The state with a descriptor started and outstanding. -/
def serving (d : Desc) (s : State) : State :=
  { s with host := { s.host with started := [d], waiting := s.host.waiting ++ [d] } }

/-- DiesAreFenced: the commands at start-up; FENCE with seven dies left; a fenced die. -/
theorem meets_DiesAreFenced :
    sized rising = true ∧ (rising.die 5).fenced = none ∧ running.diesUp = true ∧ (running.die 5).enable = true
    ∧ (running.die 5).presence = false ∧ (running.die 5).report = none
    ∧ sized (serving (desc 0x0070 [3]) ready) = true
    ∧ ((serving (desc 0x0070 [3]) ready).take 0x0070).isSome = true ∧ ready.cyc.cur = none
    ∧ (ready.die (getLe (desc 0x0070 [3]).bytes 16 1 % 8)).fenced = none
    ∧ 2 ≤ (ready.healthy.filter (· != 3)).length ∧ ((ready.fenceDie 3 .host).die 3).fenced.isSome = true := by
  decide +kernel

/-! ### What meets the statements' hypotheses: host interface -/

/-- A submission ring (number 0), its completion ring (1) and an event ring (2), 16 entries each. -/
def subRing : Ring := Ring.fresh (0, ⟨.submission, 0, none, 4, 0, 0x10000, 0x20000, 1, 0, false, 0, 0, 0⟩)
def compRing : Ring := Ring.fresh (1, ⟨.completion, 0, none, 4, 0, 0x11000, 0x20008, 0, 5, true, 4, 100, 0⟩)

/-- The ring engine at work, with these rings and host memory. -/
def ringing (rs : List Ring) (mem : Memory) (s : State) : State :=
  { s with host := { s.host with tblSt := .loaded, rings := rs, mem := mem } }

/-- FunctionIsReset: the link up, no reset held. -/
theorem meets_FunctionIsReset : ready.linkOk = true ∧ ready.boot.st ≠ .held ∧ ready.host.perst = false := by decide +kernel

/-- MessagesAreSent: the three outcomes of a timer of a ring with completions not yet signalled. -/
theorem meets_MessagesAreSent :
    ready.linkOk = true
    ∧ (let r : Ring := { compRing with unsignalled := 2 }; let s := ringing [subRing, r] [] ready
       s.ring 1 = some r ∧ s.ringEngine = true ∧ r.ctx.type ≠ .submission ∧ r.ctx.coalUs ≠ 0 ∧ r.unsignalled ≠ 0
       ∧ r.ctx.irqEn = true ∧ s.host.msix.unmasked.contains r.ctx.vector = false
       ∧ ({ s.host with msix := ⟨[5], []⟩ } : HostIf).msix.unmasked.contains r.ctx.vector = true
       ∧ ({ r.ctx with irqEn := false } : RingCtx).irqEn = false) := by decide +kernel

/-- PollsReadAttention: one enabled submission ring; its counters readable and moved; a failing read. -/
theorem meets_PollsReadAttention :
    (let s := ringing [subRing] [] ready
     let v : HostView := ⟨[(0, [1])], []⟩
     sized s = true ∧ (s.look v).ringEngine = true ∧ (s.look v).pollGroups = [0] ∧ subRing.polled = true
     ∧ (s.look v).movedGroups 0 0 = some [(0, 1)] ∧ (s.look ⟨[], [(0, 2)]⟩).movedGroups 0 0 = none) := by decide +kernel

/-- A NOP in a slot, with its sequence number, and one whose CRC fails. -/
def nopSlot : List Byte := withCrc (leBytes 2 1 ++ zeroBytes 6 ++ leBytes 8 9 ++ zeroBytes 44)

/-- DescriptorsAreFetched: a descriptor that passes, one that fails a check, one that STANDBY refuses. -/
theorem meets_DescriptorsAreFetched :
    (let r : Ring := { subRing with peer := 1 }
     let s := ringing [r, compRing] (Memory.write [] 0x10000 nopSlot) ready
     s.ringEngine = true ∧ s.host.d3hot = false ∧ s.host.held = [] ∧ s.outstanding.length < 1024 ∧ s.nextRing = some r
     ∧ s.ring r.num = some r ∧ s.hostRead 0x10000 64 = some nopSlot ∧ s.holds ⟨0, DescHead.ofBytes nopSlot, nopSlot⟩ = false
     ∧ s.fetchCheck r nopSlot = none ∧ s.powerRefuses 1 = false ∧ s.fetchCheck r (zeroBytes 64) = some .crc
     ∧ ({ s with clk := { s.clk with reached := .standby } } : State).powerRefuses 0x0030 = true) := by decide +kernel

/-- A completion due on ring 0. -/
def okCompl : Compl := ⟨0, 7, .ok, 1, 0, 0, 0, false, true⟩

/-- CompletionsAreWritten. -/
theorem meets_CompletionsAreWritten :
    (let s := ringing [subRing, compRing] [] ready
     let s := { s with host := { s.host with due := [okCompl] } }
     memories s = true ∧ s.ringEngine = true ∧ s.host.due.find? s.canLeave = some okCompl ∧ s.pairOf okCompl = some compRing
     ∧ compRing.error = none) := by decide +kernel

/-- A context's 32 bytes: completion ring of 16 entries at 0x1000, doorbell record at 0x2000. -/
def ctxBytes : List Byte := withCrc (leBytes 28 (2 + 4 * 2 ^ 16 + 0x1000 * 2 ^ 32 + 0x2000 * 2 ^ 96))

/-- TablesAreLoaded: nothing outstanding, both reads succeed, a table that passes and one that fails; a descriptor
outstanding. -/
theorem meets_TablesAreLoaded :
    ready.linkOk = true ∧ ready.hubDown = false ∧ ready.outstanding = [] ∧ ready.host.tblBase < 2 ^ 52
    ∧ ready.host.tblBase % 4096 = 0 ∧ ready.host.attnBase % 4096 = 0
    ∧ ({ ready with host := { ready.host with tblCount := 1 } } : State).hostReadN 0 32 = some (zeroBytes 32)
    ∧ (ready.hostRead 0 1024).isSome = true
    ∧ (match checkTable (fun _ => ctxBytes) 1 with | .ok rs => rs.length == 1 | .error _ => false) = true
    ∧ (match checkTable (fun _ => (0x02 : Byte) :: zeroBytes 31) 1 with | .ok _ => false | .error e => e.2.code == 1) = true
    ∧ (serving (desc 1 []) ready).outstanding ≠ [] := by decide +kernel

/-! ### What meets the statements' hypotheses: power states -/

/-- The state with a power state reached and a transition under way. -/
def power (r : PState) (b : Option PState) (s : State) : State :=
  { s with clk := { s.clk with reached := r, busy := b, acted := true } }

/-- A long operation in a state, its descriptor the first started. -/
def op (c : OpClass) (st : OpState) : LongOp := { LongOp.new (desc 0x0050 [1]) c with st := st }

/-- PowerStatesChange: each request with no transition and with one; each state's end, a suspending operation waiting
for IDLE, the dies back for ACTIVE. -/
theorem meets_PowerStatesChange :
    ready.linkOk = true ∧ ready.clk.reached = .active ∧ ready.clk.busy = none
    ∧ (power .active (some .idle) ready).clk.busy.isSome = true ∧ (power .standby none ready).clk.reached = .standby
    ∧ [PState.active, .idle, .standby, .off].all (fun p => (power .active (some p) ready).powerReady p) = true
    ∧ (power .standby (some .active) ready).powerReady .active = true
    ∧ (power .active (some .idle) ready).clk.acted = true ∧ ready.clk.after = none ∧ ready.clk.latched = none
    ∧ FencedOut ready ∧ sized ready = true ∧ ready.saf.fatal = false ∧ ready.cyc.cur = none
    ∧ (op .scrubLp .suspending).st = .suspending ∧ (op .scrubLp .suspending).waiting = []
    ∧ (op .scrubLp .running).st.terminal = false ∧ (op .scrubLp .running).cls ≠ .ledger := by
  unfold FencedOut; decide +kernel

/-- D3hotIsStandby: each state on entry; D3hot; STANDBY's end. -/
theorem meets_D3hotIsStandby :
    ready.linkOk = true ∧ (power .standby none ready).clk.busy = none ∧ ready.clk.reached = .active
    ∧ (power .idle (some .off) ready).clk.busy.isSome = true
    ∧ ({ ready.host with d3hot := true } : HostIf).d3hot = true
    ∧ (power .active (some .standby) ready).clk.acted = true ∧ ready.cyc.cur = none ∧ ready.host.due = []
    ∧ ready.clk.after = none ∧ ready.clk.latched = none := by decide +kernel

/-! ### An image small enough to look at -/

/-- The word of a sequencer step: kind, PHASE, PEND, operand, IDLE, NEXT, GOTO, RX. -/
def stepWord (kind phase : Nat) (pend : Bool) (operand idle next goto_ rx : Nat) : Nat :=
  kind + 2 ^ 4 * phase + 2 ^ 8 * boolNat pend + 2 ^ 12 * operand + 2 ^ 60 * idle + 2 ^ 72 * next + 2 ^ 84 * goto_ + 2 ^ 96 * rx

/-- The check value of a table of one step and the pool below. -/
def tblCrc0 (w : Nat) : Nat := crc32c (([w] ++ [1, 2, 3, 4]).flatMap (leBytes 16))

/-- A core of one thread with one step, a pool of four words and one ROADMAP family. -/
def core0 (w : Nat) : CoreEntry := ⟨[w], [1, 2, 3, 4], 0x40000, 0x40100, 0, 0, tblCrc0 w, [⟨1, 8, 0, 0⟩], [⟨0, 1, 0, 0x4000, 0x400, 0x4000, 0⟩]⟩

/-- A dispatch unit configuration without items, one event, one template, one binding. -/
def duCfg (m : DuMode) : DuCfg :=
  ⟨m, [⟨1, 0, 0, 4, 0xFFF, 0, 5, []⟩], 2, [⟨0, 0, false⟩], 1, 2, [⟨1, 0, 0, 0, 0xFFF, 0, 9, []⟩], [⟨0, .cycleEnd, 0⟩], 0x1000, 0x2000,
   List.replicate 144 0, true⟩

/-- An armature of two die slots. -/
def arm0 (w : Nat) (m : DuMode) : Armature :=
  let slot : DieSlot := ⟨[], 0, List.replicate 16 (core0 w), duCfg m⟩
  ⟨2, 3, false, 1, 64, 0x100, 0x200, 1, 1, [slot, slot],
   [⟨0, 0, false, 7, 4, 4⟩, ⟨1, 0, false, 8, 2, 4⟩, ⟨4, 0, false, 7, 1, 6⟩, ⟨5, 0, false, 8, 1, 6⟩], List.replicate 72 0, []⟩

/-- Grid, streams 0 to 2, and parameters. -/
def world0 : WorldCfg :=
  ⟨1024, 64, 64, [0], List.replicate 64 0, [⟨.layers, 1⟩, ⟨.objects, 8⟩, ⟨.statics, 8⟩] ++ List.replicate 13 ⟨.unused, 0⟩⟩

def params0 : List Param :=
  [⟨6, 1, [48, 48, 8], [(48, 48), (48, 48), (8, 8)]⟩, ⟨0x10, 4, [0xA000], [(0x8000, 0xC000)]⟩,
   ⟨0x60, 6, List.replicate 11 0x3F800000 ++ [0x41000000, 0x41000000], List.replicate 11 (0x3F800000, 0x41000000) ++ List.replicate 2 (0x41000000, 0x41000000)⟩]

/-- An image of the armatures `as`; with no bodies in its ego model, which no load would accept. -/
def image0 (as : List Armature) : Image :=
  ⟨⟨1, 64, 0x42, 0, 1, false, false, false, 0, 0, 0, 0, 0, 0⟩, as, [], params0, world0, [], .exact, zeroBytes 256, [], 1,
   ⟨0, 0, 0, 0, 0x1000, 0x40000, 100, 8, 1024, 0x40000⟩, ⟨16, 100, false, fOne, fOne, 1000, 32, 28, 4, false⟩⟩

/-- Core 0's step and pool in its scratchpad. -/
def tables (w : Nat) : Memory :=
  Memory.write (Memory.write [] (scratchBase 0 + 0x40000) (leBytes 16 w)) (scratchBase 0 + 0x40100) ([1, 2, 3, 4].flatMap (leBytes 16))

/-- The device with the image active on dies 0 and 1. -/
def imaged (w : Nat) (m : DuMode) : State := { ready with
  img := { ready.img with active := some (image0 [arm0 w m]), arm := some 0, used := [0, 1], params := params0 }
  mem := tables w }

/-- A HALT step. -/
def haltWord : Nat := stepWord 6 0 false 0 0 0 0 0

/-! ### What meets the statements' hypotheses: descriptors -/

/-- A cycle descriptor of a TIMESTAMP and deadline, GOAL_D_LO and GOAL_D_HI 0. -/
def planDesc : Desc := desc 0x0030 (leBytes 8 1000 ++ leBytes 8 2000000)

/-- A control that names TAG 3. -/
def control (o : Nat) : Desc := desc o (leBytes 8 3)

/-- A descriptor of TAG 3 that waits. -/
def waiting3 : Desc := ⟨0, ⟨0x0030, false, false, false, 1, 3⟩, planDesc.bytes⟩

/-- DescriptorsComplete: each descriptor; a target of each kind. -/
theorem meets_DescriptorsComplete :
    [(0x0001, desc 0x0001 []), (0x0043, control 0x0043), (0x0030, planDesc), (0x0031, desc 0x0031 [])].all (fun x =>
      ((serving x.2 ready).take x.1).isSome) = true
    ∧ ((serving (control 0x0043) ready).take 0x0043).all (fun p => match p.2.target 3 with | .none_ => true | _ => false) = true
    ∧ (let s := serving (control 0x0043) { ready with cyc := { ready.cyc with queue := [waiting3] }
                                                      host := { ready.host with waiting := [waiting3] } }
       (s.take 0x0043).all (fun p => match p.2.target 3 with | .queued d => d == waiting3 | _ => false)) = true
    ∧ (let s := serving (control 0x0043) { ready with ops := [{ op .load .running with desc := waiting3 }]
                                                      host := { ready.host with waiting := [waiting3] } }
       (s.take 0x0043).all (fun p => match p.2.target 3 with | .op o => o.desc == waiting3 | _ => false)) = true
    ∧ getSle planDesc.bytes 52 4 = getSle planDesc.bytes 48 4 := by decide +kernel

/-- A long operation with TAG 3, and a control that names it. -/
def controlled (c : Nat) (o : LongOp) : State :=
  serving (control c) { ready with ops := [o], host := { ready.host with waiting := [waiting3] } }

/-- That operation, of a class in a state. -/
def op3 (c : OpClass) (st : OpState) : LongOp := { op c st with desc := waiting3 }

/-- ControlsAct: each control at a target of each state, AUTO and not; an activating load; a target of each other kind. -/
theorem meets_ControlsAct :
    [0x0040, 0x0041, 0x0042].all (fun c =>
      ([OpState.queued, .running, .suspending, .suspended, .cancelling, .done].flatMap (fun st =>
        [op3 .scrubLp st, { op3 .scrubLp st with auto := true }, { op3 .load st with stage := .activate }])).all (fun o =>
      ((controlled c o).ops.filter (fun y => y.desc == o.desc)) == [o]
      && ((controlled c o).take c).any (fun p => match p.2.target (control c).target with | .op y => y == o | _ => false))) = true
    ∧ blocked (controlled 0x0041 (op3 .scrubLp .suspended)).ops (op3 .scrubLp .suspended) = false
    ∧ (let a := op3 .ledger .suspended; let b := op .ledger .running
       blocked [a, b] a = true ∧ scrubsBlocking [a, b] a = false ∧ [a, b].filter (fun y => y.desc == a.desc) = [a])
    ∧ (let a := { op3 .selftest .suspended with dies := 8 }; let b := { op .scrubLp .running with dies := 8 }
       scrubsBlocking [a, b] a = true ∧ [a, b].filter (fun y => y.desc == a.desc) = [a]
       ∧ (ctlResume (control 0x0041) a [a, b]).ops.map (fun o => (o.st, o.auto)) = [(.running, false), (.suspending, true)])
    ∧ ((serving (control 0x0040) ready).take 0x0040).any (fun p => match p.2.target 3 with | .none_ => true | _ => false) = true
    ∧ (let s := serving (control 0x0040) { ready with host := { ready.host with waiting := [waiting3] } }
       (s.take 0x0040).any (fun p => match p.2.target 3 with | .other d => d == waiting3 | _ => false)) = true
    ∧ (let s := serving (control 0x0040) { ready with host := { ready.host with due := [⟨0, 3, .badDesc, 1, 0, 0, 0, false, false⟩] } }
       (s.take 0x0040).any (fun p => match p.2.target 3 with | .rejected => true | _ => false)) = true
    ∧ [0x0040, 0x0041, 0x0042].all (fun c =>
       ((serving (control c) { ready with cyc := { ready.cyc with queue := [waiting3] }
                                          host := { ready.host with waiting := [waiting3] } }).take c).any (fun p =>
         match p.2.target 3 with | .queued d => d == waiting3 | _ => false)) = true := by
  decide +kernel

/-- A WORLD_STATIC of no primitive on ring 0, which is bound to stream 2. -/
def staticDesc : Desc := desc 0x0022 []
def streamRing (k : Nat) : Ring := { subRing with ctx := { subRing.ctx with stream := some k } }
def worldly (d : Desc) (k : Nat) : State := serving d (ringing [streamRing k] [] (imaged haltWord .rtk))

/-- WorldDescriptorsAct: an update of each kind accepted (an origin, no object, no primitive); the rejections. -/
theorem meets_WorldDescriptorsAct :
    [(0x0020, 0, desc 0x0020 (zeroBytes 24 ++ [2])), (0x0021, 1, desc 0x0021 []), (0x0022, 2, staticDesc)].all (fun x =>
      let s := worldly x.2.2 x.2.1
      sized s && (s.take x.1).any (fun p => p.1 == x.2.2
        && (match p.2.payload x.2.2 with | .ok b => b.isEmpty | .error _ => false)
        && p.2.streamFor (image0 [arm0 haltWord .rtk]) x.2.2 == some x.2.1
        && !s.world.tsLow x.2.1 0 && !s.world.full x.2.1
        && (match parseUpdate world0 x.1 x.2.1 x.2.2.bytes [] with | .ok _ => true | .error _ => false))) = true
    ∧ ((serving staticDesc ready).take 0x0022).isSome = true ∧ ready.img.active = none
    ∧ (let d := desc 0x0022 (zeroBytes 16 ++ [168])
       ((worldly d 2).take 0x0022).any (fun p => match p.2.payload d with | .ok _ => false | .error _ => true)) = true
    ∧ ((worldly staticDesc 1).take 0x0022).any (fun p => (p.2.streamFor (image0 [arm0 haltWord .rtk]) staticDesc).isNone) = true
    ∧ World.tsLow { World.reset with streams := List.replicate 16 ⟨[], some 1⟩ } 2 0 = true
    ∧ ((worldly (desc 0x0023 []) 2).take 0x0023).isSome = true
    ∧ parseEgo (image0 [arm0 haltWord .rtk]).ego.length (desc 0x0023 (zeroBytes 28 ++ [3])).bytes = none := by decide +kernel

/-! ### What meets the statements' hypotheses: long operations, images, time -/

/-- LongOperationsStart: one descriptor of each kind; a second load behind a running one. -/
theorem meets_LongOperationsStart :
    (let d := desc 0x0010 []
     ((serving d ready).take 0x0010).isSome = true ∧ addrOk d.imageAddr 64 = true ∧ addrOk d.refusalAddr 64 = true)
    ∧ (let d := desc 0x0050 [1, 2]
       ((serving d ready).take 0x0050).any (fun p => p.2.maintOk .scrubLp 2 false false 0
         && !(p.2.maintUnits .scrubLp ((List.range 8).filter (bitAt 2)) false 0).isEmpty) = true
       ∧ OpClass.ofMaint (getLe d.bytes 16 1) = some .scrubLp)
    ∧ (let d := desc 0x0051 ([1, 0, 0, 0] ++ leBytes 4 1024 ++ leBytes 4 0 ++ leBytes 4 100 ++ leBytes 4 0 ++ leBytes 4 100
          ++ leBytes 2 1 ++ leBytes 2 2)
       let s := serving d (imaged haltWord .rtk)
       (s.take 0x0051).any (fun p => p.2.growOk d) = true ∧ s.usesRoadmap = true ∧ s.armature.isSome = true
       ∧ s.img.used.all (fun k => (s.duOf k).serve == .serving) = true ∧ bitAt (getLe d.bytes 16 1) 0 = true)
    ∧ (let d := desc 0x0060 ([2] ++ zeroBytes 15 ++ leBytes 4 0x7FFFFFFF)
       ((serving d ready).take 0x0060).isSome = true ∧ getLe d.bytes 16 1 ≤ 2 ∧ addrOk (getLe d.bytes 24 8) 64 = true
       ∧ ledLength (getLe d.bytes 16 1) ≤ getLe d.bytes 32 4)
    ∧ (let s := serving (desc 0x0010 []) { ready with ops := [{ op .load .running with desc := waiting3 }] }
       ∃ y ∈ s.ops, y.cls = .load ∧ y.st.active = true ∧ y.desc ≠ desc 0x0010 []) := by decide +kernel

/-- CheckpointsAct: an operation at work in each state, with one and two units to do, controls waiting or not; a growth, a
ledger reading and a load at work; a queued one that nothing blocks. -/
theorem meets_CheckpointsAct :
    ([OpState.running, .suspending, .cancelling].flatMap (fun st =>
        [1, 2].map (fun n => { op .scrubLp st with todo := [(0, n)] }) ++ [{ op .scrubLp st with waiting := [(.resume, waiting3)] },
          op .ledger st, op .grow st, { op .load st with stage := .unpack, left := 2 }, { op .load st with left := 1 }])).all (fun o =>
      let s : State := { ready with ops := [o] }
      s.activeOp 7 == some o && s.opWorks o && s.ops.filter (fun y => y.desc == o.desc) == [o] && !o.late && s.growStops
      && (List.range 8).all (fun k => (s.duOf k).stale == 0) && s.cyc.stale.1 == 0) = true
    ∧ ([((0 : Nat), 2)].map (fun y => y.1)).Nodup ∧ ready.finished (op .ledger .running) = false
    ∧ ready.finished { op .grow .running with desc := desc 0x0051 (leBytes 4 0 ++ leBytes 4 1024) } = false
    ∧ ({ ready with host := { ready.host with fails := [(0, 64)] } } : State).hostReadN 0 64 = none
    ∧ (let o := op .scrubLp .queued
       blocked [o] o = false ∧ ([o].filter (fun y => y.desc == o.desc)) = [o]) := by decide +kernel

/-- DiesLeaveService: a self-test and a training about to take die 3; a training that ends. -/
theorem meets_DiesLeaveService :
    [OpClass.selftest, .retrain].all (fun c =>
      let o : LongOp := { op c .running with todo := [(3, 1)], dies := 8 }
      let s : State := { ready with ops := [o] }
      sized s && s.cyc.cur.isNone && s.boundary.dieOp c 3 == some o && s.boundary.canSpare) = true
    ∧ (let s := ready.mapDie 3 (fun x => { x with out := .retrain, inService := false })
       sized s = true ∧ (s.die 3).out = .retrain ∧ (s.die 3).rejoin = false ∧ (s.die 3).fenced = none) := by decide +kernel

/-- ImagesActivate: a load whose image is staged and ready. -/
theorem meets_ImagesActivate :
    (let d := desc 0x0010 []
     let i := image0 [arm0 haltWord .rtk]
     let o : LongOp := { op .load .running with desc := d, stage := .activate }
     let s : State := { ready with ops := [o], img := { ready.img with staged := [⟨d, [], some i, true⟩] } }
     s.ops.find? (fun o => o.cls == .load && o.stage == .activate && o.st == .running) = some o ∧ s.cyc.cur = none
     ∧ s.hubDown = false ∧ s.cyc.queue = [] ∧ (s.stagedOf o.desc).img = some i ∧ diesCheck i s.healthy.length s.clk.step = none) := by
  decide +kernel

/-- A patch of LETH_Q to 0x9000, as in the example after R322, and its payload. -/
def patchPayload : List Byte := leBytes 2 0x10 ++ leBytes 2 0 ++ leBytes 2 1 ++ leBytes 2 0 ++ leBytes 4 0x9000 ++ zeroBytes 4
def patchDesc : Desc := desc 0x0012 (leBytes 8 0x42 ++ leBytes 8 0x3000 ++ leBytes 4 16 ++ leBytes 4 (crc32c patchPayload))

/-- The outcome of the patch on an image without armatures. -/
def patched : State := serving patchDesc (ringing [subRing] (Memory.write [] 0x3000 patchPayload)
  { ready with img := { ready.img with active := some (image0 []), params := params0 } })

/-- ImagesUnloadAndPatch: an unload with no cycle, by identifier, by 0 and by another; a patch that keeps the image valid. -/
theorem meets_ImagesUnloadAndPatch :
    (let s := serving (desc 0x0011 (leBytes 8 0x42)) (imaged haltWord .rtk)
     (s.take 0x0011).isSome = true ∧ s.cyc.cur = none ∧ s.img.active.map (fun i => i.hdr.id) = some 0x42)
    ∧ ((serving (desc 0x0011 (leBytes 8 0x43)) ready).take 0x0011).isSome = true ∧ ready.img.active.map (fun i => i.hdr.id) ≠ some 0x43
    ∧ (patched.take 0x0012).any (fun p => (match p.2.payload patchDesc with | .ok b => b == patchPayload | .error _ => false)) = true
    ∧ patched.img.active = some (image0 []) ∧ getLe patchDesc.bytes 16 8 = (image0 []).hdr.id ∧ getLe patchDesc.bytes 24 8 % 64 = 0
    ∧ (match patchEntries params0 16 patchPayload with
        | some es => patchOk (image0 []) (applyPatch params0 es) && es == [⟨0x10, 0, [0x9000]⟩]
        | none => false) = true := by decide +kernel

/-- A SET_TIME whose correction is `t - 0`. -/
def timeDesc (t : Nat) : Desc := desc 0x0061 (leBytes 8 t)

/-- The same with the calendar's value valid, an AT_DEVTIME of `at_`. -/
def timeDescAt (t at_ : Nat) (cal : Bool) : Desc :=
  desc 0x0061 (leBytes 8 t ++ leBytes 8 at_ ++ leBytes 8 7 ++ leBytes 2 (0x4000 + 0x8000 * boolNat cal))

/-- TimeIsCorrected: each correction, with and without the calendar; a waiting step forward and one backward; a slew. -/
theorem meets_TimeIsCorrected :
    [(timeDescAt 5000 0 false, (5000 : Int)), (timeDescAt 5001 0 true, 5001), (timeDescAt 0 5000 true, -5000),
      (timeDescAt 0 5001 true, -5001), (timeDescAt 9 9 true, 0), (timeDescAt 9 9 false, 0)].all (fun x =>
      ((serving x.1 ready).take 0x0061).isSome && ready.timeOk x.1 && x.1.timeDelta == x.2) = true
    ∧ ready.timeOk (timeDescAt 0 100000001 true) = false
    ∧ bitAt (getLe (timeDescAt 9 9 true).bytes 40 2) 15 = true ∧ bitAt (getLe (timeDescAt 9 9 false).bytes 40 2) 15 = false
    ∧ (imaged haltWord .rtk).img.active.isSome = true ∧ ready.img.active.isNone = true ∧ ready.cyc.cur = none
    ∧ (let t : TimeBase := { ready.time with now := 6000, steps := [(-5001, timeDesc 0), (5001, timeDesc 0)] }
       t.steps.length = 2 ∧ 0 ≤ (t.now : Int) + -5001 ∧ (t.now : Int) + 5001 < 2 ^ 64)
    ∧ ({ ready.time with slew := some ⟨1, 0, false⟩ } : TimeBase).slew.isSome = true ∧ ready.boot.st ≠ .held
    ∧ ready.clk.reached ≠ .off := by decide +kernel

/-! ### What meets the statements' hypotheses: planning cycles -/

/-- An ego state of TIMESTAMP `t`. -/
def egoAt (t : Nat) : Ego := ⟨t, 0, 0, 0, 0, 0, 0, 0, 0, false⟩

/-- A cycle descriptor queued, two ego states kept. -/
def queued : State := { imaged haltWord .rtk with
  cyc := { ready.cyc with queue := [planDesc] }
  world := { ready.world with egos := [egoAt 2000, egoAt 500, egoAt 400] } }

/-- The cycle boundary at which the head of the queue is looked at. -/
def boundary (s : State) : State := State.boundary { s with cyc := { s.cyc with queue := [] } }

/-- CyclesAreReleased and EgoStatesAreKeptAndChosen: a cycle that starts, one that no ego state serves, one without an
image. -/
theorem meets_CyclesAreReleased :
    queued.cyc.cur = none ∧ queued.cyc.queue = [planDesc] ∧ queued.saf.due = [] ∧ queued.saf.active = []
    ∧ queued.clk.busy = none ∧ queued.clk.reached = .active ∧ queued.growStops = true ∧ (boundary queued).releaseStop planDesc = none
    ∧ (boundary { queued with img := ready.img }).releaseStop planDesc = some .noImage
    ∧ (let s := { queued with world := { queued.world with egos := [egoAt 2000] } }
       (boundary s).img.active.isSome = true ∧ (boundary s).armature.isSome = true ∧ 2 ≤ (boundary s).serving.length
       ∧ (boundary s).saf.hold = false ∧ (boundary s).saf.ext = none ∧ s.world.egos.all (fun e => decide (planDesc.worldTime < e.ts)) = true)
    ∧ (let d := desc 0x0023 []
       ((serving d (imaged haltWord .rtk)).take 0x0023).isSome = true ∧ (parseEgo 0 d.bytes).isSome = true) := by decide +kernel

/-- A list of one candidate, or of none. -/
def listOf (xs : List LEntry) : SList :=
  ⟨.c24, 4, false, false, (0, 0), 0, 0, xs, Side.ofKeys .c24 (xs.map (fun x => x.key)), Side.zero, Side.ofKeys .c24 (xs.map (fun x => x.key)), false⟩

/-- The hub lists of the four entries. -/
def hubLists (xs : List LEntry) : List HubList :=
  (List.range 4).map (fun e => ⟨e, 0, 8, listOf xs⟩)

/-- A trajectory of one sample at rest at the anchor, handed over as the plan or the safelight. -/
def emitted (kind : Nat) : Emitted :=
  let z : TSample := ⟨0, fZero, fZero, fZero, fZero, fZero, fZero, fZero, fZero⟩
  ⟨0, 5, kind, 0, ⟨5, 0, ⟨0, 0, 0⟩, 0, fZero, fZero, fZero, 0, 0, 0, 0, false, some 0, [z]⟩, 1,
   ⟨5, 0, .free, false, false, false, false, 0, 0, 0⟩, 0⟩

/-- Parameters under which a safelight of one sample is long enough. -/
def params1 : List Param :=
  [⟨6, 1, [16, 2, 2], []⟩, ⟨0x60, 6, List.replicate 11 0x3F800000 ++ [0, 0x41000000], []⟩]

/-- A cycle in a phase with its hub lists. -/
def cycleAt (phase : Nat) (lists : List HubList) : Cycle :=
  { desc := planDesc, retouch := false, phase := phase, arm := 0, dies := [0, 1], degraded := false, step := 0, release := 0
    releaseSclk := 0, phaseSclk := 0, passed := [], lists := lists, orders := [], emits := [emitted 0, emitted 1], costs := []
    counts := CycleCounts.zero, voided := [], nonfinite := false, optDl := 0, drops := (0, 0), optVoid := [], splice := none, path := [], proofPlan := .notRun
    proofSafe := .notRun, proofFlags := ({}, {}), traced := 0, traceLost := 0, params := params1 }

/-- The device in that cycle. -/
def inCycle (c : Cycle) (w : Nat) (m : DuMode) : State := { imaged w m with
  cyc := { ready.cyc with cur := some c, epoch := 9 }
  world := { ready.world with ego := some (egoAt 500) } }

/-- TimeIsCorrected: a step that waits for the end of a cycle. -/
theorem meets_TimeIsCorrected_waiting :
    (inCycle (cycleAt 4 []) haltWord .rtk).timeOk (timeDescAt 5001 0 false) = true
    ∧ (inCycle (cycleAt 4 []) haltWord .rtk).cyc.cur.isSome = true := by decide +kernel

def someLists : List HubList := hubLists [⟨⟨5, 100⟩, 0⟩]

/-- PhasesAdvance: every phase with its share done; phases 4 and 6 with and without candidates; phase 7 passed, passed
late, failed; phase 8 with both trajectories. -/
theorem meets_PhasesAdvance :
    (List.range 8).all (fun k =>
      let c := cycleAt (k + 1) someLists
      let s := inCycle c haltWord .rtk
      sized s && s.armature == some (arm0 haltWord .rtk) && s.world.ego == some (egoAt 500)
      && s.phaseDone c (arm0 haltWord .rtk)) = true
    ∧ (let a := arm0 haltWord .rtk
       let a : Armature := { a with slots := a.slots.map (fun x => { x with
         cores := x.cores.map (fun k => { k with steps := [], pool := [], tblCrc := 0 }) }) }
       let s := inCycle (cycleAt 1 []) haltWord .rtk
       let s : State := { s with img := { s.img with active := some (image0 [a]) } }
       [0, 1].all (fun d => (s.cores d).all (fun k => k.crcNow == k.tblCrc)) && s.phaseDone (cycleAt 1 []) a) = true
    ∧ ((inCycle (cycleAt 1 []) haltWord .rtk).cores 1).any (fun k => k.crcNow != k.tblCrc) = true
    ∧ [6].all (fun k =>
      let c := cycleAt k (hubLists [])
      (inCycle c haltWord .rtk).phaseDone c (arm0 haltWord .rtk) && (c.ranked (arm0 haltWord .rtk).sel 1).isEmpty
      && (c.ranked (arm0 haltWord .rtk).sel 4).isEmpty) = true
    ∧ (let c := cycleAt 4 someLists; let a := arm0 haltWord .rtk
       c.ranked a.sel 0 ≠ [] ∧ c.ranked a.sel 1 ≠ [] ∧ c.ranked a.sel 4 ≠ [] ∧ c.ranked a.sel 5 ≠ [] ∧ c.splice = none)
    ∧ (let c := cycleAt 7 someLists; let a := arm0 haltWord .rtk; let s := inCycle c haltWord .rtk
       let v := s.proofEnv c (image0 [a]) a (egoAt 500)
       (proveEmitted v false (c.finalOf a false)).1 = .pass ∧ (proveEmitted v true (c.finalOf a true)).1 = .pass
       ∧ s.time.now ≤ getLe c.desc.bytes 24 8 ∧ getLe c.desc.bytes 24 8 < 3000000
       ∧ (proveEmitted v false none).1 ≠ .pass)
    ∧ (let c := cycleAt 8 someLists; let a := arm0 haltWord .rtk
       c.finalOf a false = some (emitted 0) ∧ c.finalOf a true = some (emitted 1)) := by decide +kernel

/-- An empty merge list as its packet carries it. -/
def emptyList : List Byte := (listOf []).bytes

/-- A fault record of die 3, class INFO. -/
def recOf3 : List Byte := FaultRec.bytes ⟨.link, .info, Loc.ofDie 3, 1, 2, 0, 0, 0⟩

/-- PacketsArrive: lists of both dies arrived; a packet of this epoch and one of another; bulk data within and without
reach; a fault record. -/
theorem meets_PacketsArrive :
    (let c := cycleAt 4 [⟨0, 0, 0, listOf []⟩, ⟨0, 0, 1, listOf []⟩]
     let e : SelEntry := ⟨0, 0, false, 7, 4, 4⟩
     let ls := (c.lists.filter (fun l => l.entry == 0 && l.pass == 0)).map (fun l => l.list)
     (arm0 haltWord .rtk).sel[0]? = some e ∧ e.phase = c.phase ∧ (∀ l ∈ c.lists, l.die ≠ 8)
     ∧ (∀ k ∈ c.dies, ∃ l ∈ c.lists, l.entry = 0 ∧ l.pass = 0 ∧ l.die = k ∧ l.die ≠ 8)
     ∧ mergeCheck (c.passSpec e 0 0) ls (mergeLists (c.passSpec e 0 0) ls) = 0)
    ∧ emptyList.length = 1280
    ∧ (let c := cycleAt 4 []
       (inCycle c haltWord .rtk).cyc.epoch = 9 ∧ 1 ∈ c.dies ∧ c.lists = [])
    ∧ memories ready = true ∧ ready.sends 8 = true ∧ ready.sends 3 = true
    ∧ (inCycle (cycleAt 1 []) haltWord .rtk).bulkReach 8 (worldBase 0) 16 = true ∧ ready.bulkReach 8 hubBase 64 = true ∧ ready.bulkReach 8 (dualBase 3) 64 = true
    ∧ ready.bulkReach 0 0x1000 256 = true ∧ ready.bulkUp 0x1000 = true ∧ ready.cohBusy 0x1000 256 = false
    ∧ ready.bulkUp (dualBase 3) = true ∧ ready.bulkReach 8 (sharedBase 0) 16 = false
    ∧ recOf3.length = 32 ∧ crcOk 32 recOf3 = true
    ∧ Fault0.ofBytes recOf3 = some ⟨.link, .info, Loc.ofDie 3, 1, 2⟩ ∧ ready.saf.windows = [] := by decide +kernel

/-! ### What meets the statements' hypotheses: sequencers and dispatch units -/

/-- Thread 0 of core 0 at its step. -/
def thread0 : Thread := ⟨.running, 0, 0x4000, 0, false, .none, 0, 0, none, true, false, none⟩

/-- A die's dispatch unit with one thread, one item, one event. -/
def unit0 (x : Thread) : DuState := { DuState.empty with
  serve := .serving, epoch := 9, items := [.ready 0], events := [⟨0, [], []⟩], threads := [x] :: List.replicate 15 [] }

/-- Phase 4 of a cycle, core 0 of die 0 with one thread at a step whose word is `w`. -/
def seq (w : Nat) (m : DuMode) (x : Thread) : State := { inCycle (cycleAt 4 []) w m with
  du := unit0 x :: List.replicate 7 { DuState.empty with serve := .serving, epoch := 9 } }

/-- The step of that word. -/
def stepOfWord (w : Nat) : SeqStep := (SeqStep.ofWord w).getD ⟨.halt, 0, false, false, [], 0, 0, 0, 0, 0, []⟩

/-- A step of a kind in phase 4, and the state at it. -/
def word4 (kind operand idle rx : Nat) : Nat := stepWord kind 4 true operand idle 0 0 rx

/-- A command in core 0's PE queue. -/
def busyPe (s : State) : State := { s with eng := { s.eng with queues := [⟨0, .pe, [⟨1, 0, 0, 0, 0⟩]⟩] } }

/-- StepsEnd: each kind, started, its IDLE met and not met. -/
theorem meets_StepsEnd :
    [(0, StepKind.issue), (2, .waitEvent), (3, .signal), (4, .timedWait), (5, .msg)].all (fun k =>
      let w := word4 k.1 0 1 0
      let x : Thread := { thread0 with started := true }
      (seq w .rtk x).atStep 0 0 k.2 == some (x, stepOfWord w) && (seq w .rtk x).idleMet 0 0 (stepOfWord w) 0
      && (busyPe (seq w .rtk x)).atStep 0 0 k.2 == some (x, stepOfWord w)
      && !(busyPe (seq w .rtk x)).idleMet 0 0 (stepOfWord w) 0 && x.wait == .none) = true := by decide +kernel

/-- Slot 0's pool entry, the other slots empty. -/
def issueOp : Nat := 0 + 0xFFF * 2 ^ 12 + 0xFFF * 2 ^ 24 + 0xFFF * 2 ^ 36

/-- CommandsAreIssued: a direct slot; an indirect one whose solve order is of this phase epoch; one whose order is
stale. -/
theorem meets_CommandsAreIssued :
    [word4 0 issueOp 0 0, word4 0 issueOp 0 0x12 + 2 ^ 68].all (fun w =>
      let s := seq w .rtk thread0
      s.atStep 0 0 .issue == some (thread0, stepOfWord w) && (s.cores 0)[0]? == some (core0 w)) = true
    ∧ (let st := stepOfWord (word4 0 issueOp 0 0)
       (List.range 4).filter (fun i => nth 0xFFF st.cmds i != 0xFFF) = [0] ∧ bitAt st.ind 0 = false)
    ∧ (let st := stepOfWord (word4 0 issueOp 0 0x12 + 2 ^ 68)
       let o := SolveOrder.ofBytes ((seq 0 .rtk thread0).peek (dualBase 0 + 0x100) 32)
       bitAt st.ind 0 = true ∧ o.phaseEpoch ≠ ((seq 0 .rtk thread0).duOf 0).epoch ∧ o.phaseEpoch = 0
       ∧ reactionOf st 0x12 = .continue_ ∧ ((seq 0 .rtk thread0).armature.map (fun a => a.orderOff)) = some 0x100) := by
  decide +kernel

/-- The step's engine has a full queue, whatever its depth. -/
def issueFull : State :=
  let e := Config.slotEngine (word4 0 issueOp 0 0) 0
  { seq (word4 0 issueOp 0 0) .rtk thread0 with eng := { EngSt.reset with
    queues := [⟨unitOf 0 e, e, List.replicate (Config.queueDepth + 1) ⟨1, 0, 0, 0, 0⟩⟩] } }

/-- CommandsAreIssued: a full queue. -/
theorem meets_CommandsAreIssued_full :
    issueFull.queueFull 0 0 (stepOfWord (word4 0 issueOp 0 0)) thread0 = true
    ∧ issueFull.atStep 0 0 .issue = some (thread0, stepOfWord (word4 0 issueOp 0 0)) ∧ (stepOfWord (word4 0 issueOp 0 0)).ind = 0 := by
  have hw : (((issueFull.cores (0 / 16))[0 % 16]?).map (fun k => nth 0 k.steps 0)).getD 0 = word4 0 issueOp 0 0 := by decide +kernel
  have hi : (List.range 4).find? (fun i => nth 0xFFF (stepOfWord (word4 0 issueOp 0 0)).cmds i != 0xFFF && !bitAt thread0.placed i)
      = some 0 := by decide +kernel
  refine ⟨?_, by decide +kernel, by decide +kernel⟩
  simp only [State.queueFull, hw, hi]
  simp [State.queueOf, issueFull]

/-- The state with die 0's event 0 as given. -/
def withEvent (v : EventSt) (s : State) : State := s.mapDu 0 (fun u => { u with events := [v] })

/-- EventsAct: a wait that takes a count and one that waits; a signal that counts, that stalls, that wakes. -/
theorem meets_EventsAct :
    [⟨1, [none], []⟩, ⟨0, [], []⟩].all (fun v =>
      let w := word4 2 0 0 0
      let s := withEvent v (seq w .rtk thread0)
      s.atStep 0 0 .waitEvent == some (thread0, stepOfWord w) && (s.duOf 0).events[field (stepOfWord w).operand 0 8]? == some v) = true
    ∧ [⟨254, List.replicate 254 none, []⟩, ⟨255, List.replicate 255 none, []⟩, ⟨0, [], [(3, 1)]⟩].all (fun v =>
      let w := word4 3 0 0 0
      let s := withEvent v ((seq w .rtk thread0).mapDu 0 (fun u => { u with threads := setAt u.threads 3 [thread0, thread0] }))
      s.atStep 0 0 .signal == some (thread0, stepOfWord w) && (s.duOf 0).events[field (stepOfWord w).operand 0 8]? == some v
      && s.dieOfSlot (field (stepOfWord w).operand 9 3) == some 0 && !bitAt (stepOfWord w).operand 8
      && (s.duOf 0).serve == .serving && s.thr 3 1 == some thread0) = true := by decide +kernel

/-- ThreadsAct: a signal to die 1, a message to die 0 and to a slot without a die, a timed wait that waits and one that is over, GET, HALT, and a deadline. -/
theorem meets_ThreadsAct :
    (let w := word4 3 (2 ^ 9) 0 0
     (seq w .rtk thread0).atStep 0 0 .signal = some (thread0, stepOfWord w)
     ∧ (seq w .rtk thread0).dieOfSlot (field (stepOfWord w).operand 9 3) = some 1)
    ∧ (let w := word4 5 0 0 0; (seq w .rtk thread0).atStep 0 0 .msg = some (thread0, stepOfWord w)
       ∧ (seq w .rtk thread0).dieOfSlot (field (stepOfWord w).operand 0 3) ≠ none)
    ∧ (let w := word4 5 7 0 0x12; (seq w .rtk thread0).atStep 0 0 .msg = some (thread0, stepOfWord w)
       ∧ bitAt (stepOfWord w).operand 3 = false ∧ reactionOf (stepOfWord w) 0x12 = .continue_
       ∧ (seq w .rtk thread0).dieOfSlot (field (stepOfWord w).operand 0 3) = none)
    ∧ [0, 5 * 2 ^ 16].all (fun ticks =>
      let w := word4 4 ticks 0 0x14
      (seq w .rtk thread0).atStep 0 0 .timedWait == some (thread0, stepOfWord w) && !bitAt (stepOfWord w).operand 8
      && field (stepOfWord w).operand 16 32 == ticks / 2 ^ 16 && reactionOf (stepOfWord w) 0x14 == .continue_) = true
    ∧ (let w := word4 1 1 0 0
       let x : Thread := { thread0 with item := some ⟨0, false, 1, 0⟩ }
       (seq w .dataflow x).atStep 0 0 .get = some (x, stepOfWord w) ∧ ((seq w .dataflow x).duOf 0).serve = .serving
       ∧ 0 < ((seq w .dataflow x).duOf 0).items.length)
    ∧ (let w := word4 6 0 1 0
       (seq w .rtk thread0).atStep 0 0 .halt = some (thread0, stepOfWord w)
       ∧ (seq w .rtk thread0).idleMet 0 0 (stepOfWord w) 0 = true ∧ (busyPe (seq w .rtk thread0)).idleMet 0 0 (stepOfWord w) 0 = false)
    ∧ [0, 5].all (fun dl =>
      let w := word4 4 0 0 0x14
      let x : Thread := { thread0 with status := .waiting, wait := .timed dl none }
      (seq w .rtk x).thr 0 0 == some x && (seq w .rtk x).stepAt 0 0 == some (stepOfWord w) && (seq w .rtk x).time.now == 0) = true := by
  decide +kernel

/-- A flag of core 0's thread 0, from step 0. -/
def flag0 (code : Nat) : EngFlag := ⟨0, 0, 0, 0, code, 0, 5, none, []⟩
def flagged (code w : Nat) : State :=
  let s := seq w .rtk thread0
  { s with eng := { s.eng with flags := [flag0 code], stream := [⟨0, 5, 0, 0, false, false⟩]
                               lanes := [⟨0, 0, 5, some VRec.init, none⟩], queues := [⟨0, .ce, [⟨1 + 2 ^ 24 * 6, 0, 0, 0, 0⟩]⟩] } }

/-- FlagsAct: each reaction, and a list check's flag. -/
theorem meets_FlagsAct :
    [(0xC, Action.fault), (5, Action.continue_), (3, .retireRefill), (4, .retireVoid), (6, .skip), (7, .goto), (1, .fault)].all (fun x =>
      let act := match x.2 with
        | .continue_ => 0 | .retireRefill => 1 | .retireVoid => 2 | .skip => 3 | .goto => 4 | .fault => 5
      let w := word4 0 issueOp 0 (x.1 + 32 * act)
      let s := flagged x.1 w
      s.eng.flags.find? (fun y => y.core == 0) == some (flag0 x.1) && s.queueOf 0 .ce != [] && s.stepAt 0 0 == some (stepOfWord w)
      && reactionOf (stepOfWord w) x.1 == x.2 && s.thr 0 0 == some thread0
      && s.saf.escalate (.cluster 0) == .restart (.cluster 0) && (s.pushFrame 0 0 2 thread0).isSome) = true := by decide +kernel

/-- WorkIsGranted: a waiting GET and a ready item; a ready RTK thread and none that runs; nothing to grant. -/
theorem meets_WorkIsGranted :
    (let w := word4 1 1 0 0
     let x : Thread := { thread0 with status := .waiting, wait := .grant 1 0, started := true }
     let s := seq w .dataflow x
     s.duCfg 0 = some (duCfg .dataflow) ∧ memories s = true
     ∧ (bestGrant (s.grantCands 0)).any (fun k => k.held == some ⟨0, false, 1, 0⟩ && k.core == 0 && s.thr (0 * 16 + k.core) k.thread == some x
        && s.stepAt k.core x.step == some (stepOfWord w)) = true
     ∧ (duCfg .dataflow).items.length = 1)
    ∧ (let x : Thread := { thread0 with status := .ready, service := false }
       let s := seq (word4 6 0 0 0) .rtk x
       (bestGrant (s.grantCands 0)).any (fun k => k.held.isNone && k.core == 0 && s.thr (0 * 16 + k.core) k.thread == some x) = true
       ∧ x.status ≠ .running)
    ∧ ((seq haltWord .rtk thread0).grantCands 0 = []) := by decide +kernel

/-- A message of core 0's thread to core 0 of die 0, or to the hub. -/
def msg0 (epoch role : Nat) (signal : Option Bool) : Msg := ⟨some 0, 0, some 0, 0, role, 0, epoch, zeroBytes 16, signal, false⟩

/-- A cycle with tracing: its sheet and trace area is 16 pages from page 1 on. -/
def traceDesc : Desc := ⟨0, ⟨0x0031, false, false, true, 0, 7⟩, (desc 0x0031 (zeroBytes 21 ++ [1, 0, 0, 0, 0, 16, 0])).bytes⟩

/-- DispatchUnitsAct: a message stale, without room, delivered; at the hub; a source; a quiescent die and one that is not. -/
theorem meets_DispatchUnitsAct :
    (let s := seq haltWord .dataflow { thread0 with wait := .msg }
     sized s = true ∧ memories s = true ∧ s.duCfg 0 = some (duCfg .dataflow)
     ∧ msgStale (some (duCfg .dataflow)) s.phase (s.duOf 0) (msg0 8 0xFF (some false)) = true
     ∧ msgStale (some (duCfg .dataflow)) s.phase (s.duOf 0) (msg0 9 0xFF none) = false
     ∧ (s.duOf 0).slotFor (duCfg .dataflow) 0 = some 0 ∧ (s.duOf 0).dyn.length < (duCfg .dataflow).ndyn
     ∧ s.thr 0 0 = some { thread0 with wait := .msg }
     ∧ ({ s.duOf 0 with mbox := [⟨0, [0, 1]⟩] } : DuState).slotFor (duCfg .dataflow) 0 = none
     ∧ (s.duOf 0).serve = .serving)
    ∧ [none, some false].all (fun g =>
      let s := seq haltWord .rtk { thread0 with wait := .msg }
      !msgStale (some (duCfg .rtk)) s.phase (s.duOf 0) (msg0 9 0xFF g) && (s.duOf 0).events[0]? == some ⟨0, [], []⟩
      && (s.duOf 0).slotFor (duCfg .rtk) 0 == some 0 && s.thr 0 0 == some { thread0 with wait := .msg }) = true
    ∧ (let s := seq haltWord .dataflow { thread0 with wait := .msg }
       msgStale (some (duCfg .dataflow)) s.phase (s.duOf 1) { msg0 8 0xFF (some false) with die := some 1 } = true
       ∧ (msg0 8 0xFF (some false)).src = some 0 ∧ 0 / 16 ≠ 1)
    ∧ (let m : Msg := { msg0 9 0xFE none with src := none, die := none }
       [m].find? (fun y => y.die == none) = some m ∧ m.told = false ∧ ready.cyc.cur = none ∧ m.role = 0xFE ∧ ({ m with role := 1 } : Msg).role ≠ 0xFE
       ∧ traceArea traceDesc 0 = some (4096, 65536))
    ∧ (let s := (seq haltWord .dataflow thread0).mapDu 0 (fun u => { u with fires := [(.cycleEnd, 0)] })
       (s.duOf 0).fires = [(.cycleEnd, 0)] ∧ (s.duOf 0).serve = .serving
       ∧ (duCfg .dataflow).binds.filter (fun b => b.source == .cycleEnd) = [⟨0, .cycleEnd, 0⟩]
       ∧ sized (s.mapDu 0 (fun u => { u with serve := .recovering })) = true)
    ∧ (let x : Thread := { thread0 with status := .waiting, wait := .event 1 false }
       let s := seq haltWord .rtk x
       (s.duOf 0).quiescent (duCfg .rtk) (s.inFlight 0 || !(s.duOf 0).fires.isEmpty) = true
       ∧ s.saf.escalate (.die 0) = .restart (.die 0)
       ∧ (((seq haltWord .rtk thread0).duOf 0).quiescent (duCfg .rtk) false) = false) := by decide +kernel

/-! ### What meets the statements' hypotheses: engines -/

/-- Phase 4 of a cycle with a command at the head of an engine's queue. -/
def engine (u : Nat) (e : Engine) (w : Nat) : State :=
  let s := seq haltWord .rtk thread0
  { s with eng := { s.eng with queues := [⟨u, e, [⟨w, 0, 0, 0, 0⟩]⟩] } }

/-- The head of that queue, nothing behind it. -/
def atHead (s : State) (u : Nat) (e : Engine) (w : Nat) : Bool :=
  memories s && s.queueOf u e == [⟨w, 0, 0, 0, 0⟩] && (s.engEnv 0).isSome

/-- EnlargerBuilds: each command; the occupancy records of the image's grid stand apart and within shared memory. -/
theorem meets_EnlargerBuilds :
    [1, 2, 3].all (fun op => atHead (engine 0 .de op) 0 .de op && (DeCmd.ofWord op).op == op) = true
    ∧ (let r := buildOcc World.reset world0 (enlParamsOf params1) (DeCmd.ofWord 2)
       (r.1.map (fun x => x.1)).Nodup ∧ ∀ x ∈ r.1, (DeCmd.ofWord 2).bufAddr + x.1 * 32 + 32 ≤ 0x400000) := by decide +kernel

/-- The state with a roadmap region. -/
def regioned (s : State) : State := { s with img := { s.img with region := some ⟨0, 100, 0, 100, 1, 2⟩ } }

/-- A PE word: operation, MODE, COUNT 1. -/
def peWord (op mode : Nat) : Nat := op + 2 ^ 5 * mode + 2 ^ 8 + 2 ^ 16

/-- A CE or KE word: operation, LANES 1, SLOTS 1, COUNT 1, the output behind the ring. -/
def keWord (op : Nat) : Nat := op + 2 ^ 8 + 2 ^ 16 + 2 ^ 24 + 2 ^ 93 * 64

/-- PosesAreExpanded: each command; BUILD_PATH from stations within the band, from a node list, and without a path; a
search in a region. -/
theorem meets_PosesAreExpanded :
    (let s := engine 0 .pe (peWord 1 0); let d := PeCmd.ofWord (peWord 1 0)
     let s : State := { s with eng := { s.eng with
       runs := [⟨0, .pe, 0, 0, [], 0, 0, false, false, false⟩], stream := [⟨0, 0, d.outOff, 0, false, false⟩]
       queues := s.eng.queues ++ [⟨0, .ce, [⟨keWord 1 + 2 ^ 80 * d.outOff, 0, 0, 0, 0⟩]⟩] } }
     s.runs 0 .pe = true ∧ (s.runOf 0 .pe).next < d.count ∧ s.slotFree 0 d 0 = false) ∧
    (let s := engine 0 .pe (peWord 1 0); let d := PeCmd.ofWord (peWord 1 0)
     s.runs 0 .pe = false ∧ d.count ≤ d.slots ∧ s.slotFree 0 d 0 = true) ∧
    [1, 2, 3, 4].all (fun op => atHead (engine 0 .pe (peWord op 0)) 0 .pe (peWord op 0) && (PeCmd.ofWord (peWord op 0)).op == op
      && (PeCmd.ofWord (peWord op 0)).count == 1) = true
    ∧ (let s := engine 0 .pe (peWord 3 1); let d := PeCmd.ofWord (peWord 3 1)
       let raw := (s.stationsAt (scratchBase 0 + d.inOff * 64) d.count).map (fun x => (x.x, x.y, x.psi, x.kappa))
       d.op = 3 ∧ d.mode = true ∧ stationsInBand 0 (finishStations [] 0 (egoAt 500) (satRaw raw)) = true)
    ∧ (let s := regioned (engine 0 .pe (peWord 3 0)); let d := PeCmd.ofWord (peWord 3 0)
       let t : State := { s with mem := Memory.write [] (scratchBase 0) [1] }
       let path := t.pathAt (image0 []) ⟨0, 100, 0, 100, 1, 2⟩ (scratchBase 0 + d.inOff * 64)
       d.mode = false ∧ path.isEmpty = false ∧ t.mem.wf = true
       ∧ stationsInBand 0 (finishStations [] 0 (egoAt 500) (satRaw (cubicRaw 0 d.count (egoAt 500) path))) = true
       ∧ (s.pathAt (image0 []) ⟨0, 100, 0, 100, 1, 2⟩ (scratchBase 0 + d.inOff * 64)).isEmpty = true)
    ∧ (let s := regioned (engine 0 .pe (peWord 4 0)); let d := PeCmd.ofWord (peWord 4 0)
       s.img.region.isSome = true ∧ s.cyc.cur.isSome = true ∧ d.outOff * 64 + d.count * 4160 ≤ 0x80000) := by decide +kernel

/-- The engine's command with candidate 0 written in the ring, and the command under way or not. -/
def streaming (e : Engine) (runs : List StreamRun) (lanes : List Lane) : State :=
  let s := engine 0 e (keWord 1)
  { s with eng := { s.eng with stream := [⟨0, 0, 0, 0, false, false⟩], runs := runs, lanes := lanes } }

/-- CandidatesAreCheckedAndCosted: each command; a stream command that begins, that waits, that ends. -/
theorem meets_CandidatesAreCheckedAndCosted :
    [1, 2, 3].all (fun op =>
      atHead (engine 0 .ce (keWord op)) 0 .ce (keWord op) && (ceOfWord (keWord op)).op == op
      && atHead (engine 0 .ke (keWord op)) 0 .ke (keWord op) && (KeCmd.ofWord (keWord op)).op == op
      && decide ((engine 0 .ke (keWord op)).phase = 4) && !(KeCmd.ofWord (keWord op)).flag) = true
    ∧ (let d := ceOfWord (keWord 1); let s := streaming .ce [] []
       s.runs 0 .ce = false ∧ min d.lanes d.count = 1 ∧ d.first = 0 ∧ s.toCost 0 d.inOff 0 = false
       ∧ s.written 0 d.inOff 0 = some ⟨0, 0, 0, 0, false, false⟩)
    ∧ (let s := streaming .ce [⟨0, .ce, 1, 0, [], 0, 0, false, false, false⟩] [⟨0, 0, 0, some VRec.init, none⟩]
       s.runs 0 .ce = true ∧ (s.runOf 0 .ce).done < 1 ∧ ∀ l ∈ s.eng.lanes, l.verdict.isSome = true)
    ∧ (let s := streaming .ce [⟨0, .ce, 1, 1, [VRec.init], 0, 0, false, false, false⟩] []
       s.runs 0 .ce = true ∧ 1 ≤ (s.runOf 0 .ce).done)
    ∧ (let d := KeCmd.ofWord (keWord 1); let s := streaming .ke [] []
       s.runs 0 .ke = false ∧ d.outOff * 64 + d.count * 16 ≤ 0x80000
       ∧ s.written 0 d.inOff 0 = some ⟨0, 0, 0, 0, false, false⟩ ∧ d.inOff * 64 + (0 + 1) * (16 * 64) ≤ d.outOff * 64
       ∧ (engine 0 .ke (keWord 1)).written 0 d.inOff 0 = none)
    ∧ (inCycle (cycleAt 3 []) haltWord .rtk).phase = 3 := by decide +kernel

/-- A SELECT or MERGE of no record, K 4. -/
def seWord (op : Nat) : Nat := op + 2 ^ 8 * 4

/-- A GEO template, and one of TS. -/
def tmpl0 (k : TKind) : Template := ⟨k, 1, 1, 0, 0, 1, [], 0, [], []⟩
/-- A result record, and the solution of GEO that it goes with. -/
def res0 : QResult := ⟨5, .converged, 0, none, false, {}, 1, 1, fZero, fZero, fZero, fZero, 1, 0⟩
def geo0 : GeoSol := ⟨5, SolveOrder.ofBytes (zeroBytes 32), 0, false, [], [], [], [], [], res0, false⟩
def ts0 : TsSol := ⟨[], [], res0⟩

/-- A QE word: operation, NOTRAJ. -/
def qeWord (op notraj : Nat) : Nat := op + 2 ^ 9 * notraj

/-- A QE command with a template and the solutions held. -/
def solver (w : Nat) (k : TKind) : State :=
  let s := engine 0 .qe w
  { s with img := { s.img with active := some { image0 [arm0 haltWord .rtk] with templates := [tmpl0 k] } }
           eng := { s.eng with solved := [⟨0, some geo0, some ts0⟩] }
           mem := s.mem.write ((QeCmd.ofWord w).base 0) res0.bytes }

/-- SelectionsAndSolves: a SELECT and a MERGE whose checks pass; each solver command of the winning core, and of one
that does not win. -/
theorem meets_SelectionsAndSolves :
    (let s := engine 0 .se (seWord 1); let d := SeCmd.ofWord (seWord 1)
     atHead s 0 .se (seWord 1) = true ∧ d.op = 1
     ∧ (s.engEnv 0).any (fun e => selectCheck (s.selRow 0 d)
        (selectRow ⟨d.keyT, d.k, d.inclZero, d.bounded, (s.seBound 0 d).2, s.sePass e d⟩ (s.seElig 0 d) (s.seBound 0 d).1 0
          (s.seTotal 0 d (s.selRow 0 d)) (s.selRow 0 d)) == 0) = true)
    ∧ (let s := engine 0 .se (seWord 2); let d := SeCmd.ofWord (seWord 2)
       let ls := (s.recordsAt (d.inBase 0) 1280 d.count).map SList.ofBytes
       let sp : SelSpec := ⟨d.keyT, d.k, d.inclZero, d.bounded, (s.seBound 0 d).2, (ls.head?.map (fun x => x.pass)).getD 0⟩
       atHead s 0 .se (seWord 2) = true ∧ d.op = 2 ∧ mergeCheck sp ls (mergeLists sp ls) = 0)
    ∧ [(1, 0), (2, 0), (3, 0), (3, 1)].all (fun x => [TKind.geo, .ts].all (fun k =>
      let w := qeWord x.1 x.2
      let s := solver w k
      atHead s 0 .qe w && s.qeWinner 0 == some 0 && (QeCmd.ofWord w).op == x.1 && (QeCmd.ofWord w).notraj == (x.2 == 1)
      && (s.engEnv 0).any (fun e => (e.tmpl (QeCmd.ofWord w).tmpl).any (fun t => t.kind == k))
      && s.geoAt 0 ((QeCmd.ofWord w).base 0 + (QeCmd.ofWord w).inOff * 64) == some geo0
      && s.tsAt 0 ((QeCmd.ofWord w).base 0 + (QeCmd.ofWord w).auxOff * 64) == some ts0)) = true
    ∧ (engine 0 .qe 1).qeWinner 0 ≠ some 1 := by decide +kernel

/-- A mover's word: operation, length in words of 16 bytes, source and destination. -/
def mvWord (op len src dst : Nat) : Nat := op + 2 ^ 8 * len + 2 ^ 28 * (src / 16) + 2 ^ 68 * (dst / 16)

/-- A mover's slot numbers: with dies 1 and 3 in service, slot 1's window is die 3's; hub addresses stand, and with
every die in service a word stands. -/
theorem test_slot_addresses :
    let w := mvWord 1 4 (dualBase 4) (hubBase + 0x2C0000)
    slotWord [1, 3] .mv0 w = mvWord 1 4 (dualBase 12) (hubBase + 0x2C0000) ∧ slotWord (List.range 8) .mv1 w = w
    ∧ slotWord [1, 3] .de w = w ∧ slotAddr [1, 3] 0x40 = 0x200000040 := by decide +kernel

/-- MoversMove: a copy and a fill between SRAM and LPDDR, the four atomics in the cluster's shared memory; a copy from
the hub, which no mover reads. -/
theorem meets_MoversMove :
    [(1, 0x1000, sharedBase 0), (2, sharedBase 0, 0x1000)].all (fun x =>
      let w := mvWord x.1 4 x.2.1 x.2.2
      let m := MvCmd.ofWord w
      atHead (engine 0 .mv0 w) 0 (moverEngine 0) w && m.ok && m.op == x.1
      && (engine 0 .mv0 w).moverRange 0 false m.src (if x.1 = 1 then m.len else 16) && (engine 0 .mv0 w).moverRange 0 true m.dst m.len
      && (engine 0 .mv0 w).reachUp 0 .mv0 m.src && (engine 0 .mv0 w).reachUp 0 .mv0 m.dst && !(engine 0 .mv0 w).moverWaits m
      && !(engine 0 .mv0 w).portTaken 0 0 && !(engine 0 .mv0 w).poisoned m.src m.len) = true
    ∧ [3, 4, 5, 6].all (fun op =>
      let w := mvWord op 0 (sharedBase 0) (sharedBase 0 + 0x100)
      let m := MvCmd.ofWord w
      atHead (engine 0 .mv0 w) 0 (moverEngine 0) w && m.ok && m.op == op && (engine 0 .mv0 w).moverRange 0 false m.src 16
      && ((engine 0 .mv0 w).space m.dst).map (fun x => x.1) == some (.shared 0)) = true
    ∧ (let m := MvCmd.ofWord (mvWord 1 4 hubBase (sharedBase 0)); let s := engine 0 .mv0 (mvWord 1 4 hubBase (sharedBase 0))
       m.ok = true ∧ m.op = 1 ∧ s.moverRange 0 false m.src m.len = false ∧ s.moverWaits m = false ∧ s.portTaken 0 0 = false) := by
  decide +kernel

/-! ### What meets the statements' hypotheses: coherence and links -/

/-- The device with a directory entry of line 0, caches and messages. -/
def coherent (st : DirSt) (txn : Option HomeTxn) (caches : List CLine) (msgs : List CohMsg) : State :=
  { ready with coh := { CohState.empty with dir := [⟨0, st, txn, []⟩], caches := caches, msgs := msgs } }

/-- HomesServe: a home that can answer, its line in each state; a busy line; a home that cannot answer. -/
theorem meets_HomesServe :
    ready.homeFor 0 0 = true ∧ ready.coh.poison = [] ∧ (ready.coh.entry 0).txn = none ∧ (ready.coh.entry 0).waiting = [] ∧ (ready.coh.entry 0).st = .uncached
    ∧ ((coherent (.shared 2) none [] []).coh.entry 0).st = .shared 2
    ∧ (sharersOf 2).filter (fun x => x != 1) = [] ∧ (sharersOf 6).filter (fun x => x != 1) ≠ []
    ∧ ((coherent (.modified 3) none [] []).coh.entry 0).st = .modified 3 ∧ (coherent (.modified 3) none [] []).coh.holds 3 0 = false
    ∧ (let s := coherent (.modified 3) none [] [.data 3 0 .m (zeroBytes 64)]; s.coh.held 3 0 = none ∧ s.coh.holds 3 0 = true)
    ∧ ((coherent (.shared 2) (some ⟨⟨1, .getm⟩, [2], none⟩) [] []).coh.entry 0).txn.isSome = true
    ∧ (60 + ([1, 2, 3, 4] : List Byte).length ≤ 64)
    ∧ ready.space (0 * 64) = some (.lpddr 0, 0) ∧ (ready.fenceDie 0 .host).homeFor 0 0 = false
    ∧ ({ ready with pkg := { ready.pkg with links := setAt ready.pkg.links 0 { Link.reset with st := .lost } } } : State).homeFor 4 0 = false := by decide +kernel

/-- A line of zeros held by a cluster. -/
def held0 (cl : Nat) (st : CacheSt) : CLine := ⟨cl, 0, st, zeroBytes 64⟩

/-- CachesAnswer: each message there, and what it needs. -/
theorem meets_CachesAnswer :
    ((coherent (.shared 1) none [] [.data 0 0 .s (zeroBytes 64)]).coh.msgs.find? (fun m => match m with
        | .data c l _ _ => c == 0 && l == 0 | _ => false) = some (.data 0 0 .s (zeroBytes 64)))
    ∧ (coherent (.shared 1) none [] [.data 0 0 .s (zeroBytes 64)]).coh.poison = []
    ∧ (let s := coherent (.modified 0) (some ⟨⟨40, .ucRead⟩, [], some 0⟩) [] [.data 0 0 .m (zeroBytes 64)]
       s.coh.acc = [] ∧ s.coh.entry 0 = ⟨0, .modified 0, some ⟨⟨40, .ucRead⟩, [], some 0⟩, []⟩)
    ∧ (let s := coherent (.shared 1) none [held0 0 .s] [.inv 0 0]
       CohMsg.inv 0 0 ∈ s.coh.msgs ∧ s.coh.holds 0 0 = false ∧ CohMsg.inv 1 0 ∉ s.coh.msgs)
    ∧ [[0], [0, 5]].all (fun acks =>
      let s := coherent (.shared 1) (some ⟨⟨1, .getm⟩, acks, none⟩) [] [.invAck 0 0]
      s.coh.msgs.contains (.invAck 0 0) && (s.coh.entry 0).txn == some ⟨⟨1, .getm⟩, acks, none⟩
      && (acks.filter (fun k => k != 0)).isEmpty == (acks == [0]) && (s.coh.entry 0).waiting.isEmpty) = true
    ∧ [true, false].all (fun toS =>
      let y : HomeTxn := ⟨⟨1, if toS then .gets else .getm⟩, [], some 0⟩
      let s := coherent (.modified 0) (some y) [held0 0 .m] [.recall 0 0 toS]
      s.coh.msgs.find? (fun m => match m with | .recall c l _ => c == 0 && l == 0 | _ => false) == some (.recall 0 0 toS)
      && !s.coh.holds 0 0 && s.coh.held 0 0 == some (held0 0 .m) && (s.coh.entry 0).txn == some y && y.recalled == some 0) = true
    ∧ (let s := coherent (.modified 0) none [held0 0 .m] []
       s.homeFor 0 0 = true ∧ s.coh.held 0 0 = some (held0 0 .m) ∧ (s.coh.entry 0).txn = none ∧ (s.coh.entry 0).waiting = [])
    ∧ (let s := coherent .uncached none [] [.respErr 0 0, .respErr 40 0, .respErr 96 0]
       s.coh.msgs.length = 3 ∧ s.saf.escalate (.cluster 0) = .restart (.cluster 0) ∧ s.saf.escalate (.cluster 4) = .restart (.cluster 4)
       ∧ s.saf.escalate .hub = .restart .hub) := by decide +kernel

/-- A flit of a sequence number and type, acknowledging `ak`, with NAK or not; its payload the header of a message to the
hub. -/
def flit (seq ty ak nak : Nat) : BitVec 320 :=
  flitSeal (0x6308 + seq * 2 ^ 256 + ak * 2 ^ 266 + nak * 2 ^ 276 + ty * 2 ^ 277)

/-- A link end with a flit unacknowledged. -/
def holding : LinkEnd := { LinkEnd.init with txNext := 1, replay := [⟨0, flit 0 1 1023 0⟩] }

/-- The device with link 0 or 8 as given. -/
def linked (n : Nat) (l : Link) : State := { ready with pkg := { ready.pkg with links := setAt ready.pkg.links n l } }

set_option maxRecDepth 20000 in
/-- LinksReplay: flits that may and may not be sent, that arrive good, bad, out of sequence, idle, with and without NAK; a full
replay buffer. -/
theorem meets_LinksReplay :
    sized ready = true ∧ (ready.link 0).ends.length = 2 ∧ (ready.link 0).stall.length = 2 ∧ (ready.link 0).st = .up
    ∧ (State.reset.link 0).st ≠ .up ∧ (State.reset.link 0).ends.length = 2
    ∧ ready.sendable 0 1 (flit 0 1 1023 0) = true ∧ ready.sendable 0 1 (flit 5 1 1023 0) = false ∧ LinkEnd.init.canSend (flit 0 1 1023 0) = true ∧ LinkEnd.init.canSend (flit 5 1 1023 0) = false
    ∧ LinkEnd.init.canSend (flit 1023 0 1023 0) = true
    ∧ LinkEnd.canSend { LinkEnd.init with nakDue := true } (flit 1023 0 1023 1) = true
    ∧ flitGood (flit 0 1 1023 0 ^^^ 0) = true ∧ flitGood (flit 0 1 1023 0 ^^^ 1) = false
    ∧ (Flit.ofBits (flit 0 1 1023 0)).ftype = 1 ∧ (Flit.ofBits (flit 0 1 1023 0)).nak = false
    ∧ (Flit.ofBits (flit 0 1 1023 0)).fseq = (((ready.link 0).end_ 0).rxLast + 1) % 1024
    ∧ (Flit.ofBits (flit 1 1 1023 0)).fseq ≠ (((ready.link 0).end_ 0).rxLast + 1) % 1024
    ∧ holding.canSend (flit 1 1 1023 0) = true ∧ holding.resend = none
    ∧ (Flit.ofBits (flit 1023 0 1023 1)).ftype = 0 ∧ (Flit.ofBits (flit 1023 0 1023 1)).nak = true
    ∧ dropAcked (Flit.ofBits (flit 1023 0 1023 1)).akseq holding.replay ≠ [] := by decide +kernel

/-- LinksReplay: a full replay buffer, a timeout short of a recovery and one that begins it, recoveries that end each way. -/
theorem meets_LinksReplay_recovery :
    (let full : LinkEnd := { LinkEnd.init with replay := List.replicate 256 ⟨0, 0⟩ }
     256 ≤ full.replay.length ∧ full.resend = none)
    ∧ [0, 7].all (fun n =>
      let l : Link := { Link.reset with st := .up, stall := [n, 0], ends := [holding, LinkEnd.init] }
      ((linked 0 l).link 0).st == .up && !(((linked 0 l).link 0).end_ 0).replay.isEmpty && nth 0 ((linked 0 l).link 0).stall 0 == n
      && l.recoveries.isEmpty) = true
    ∧ ((linked 0 { Link.reset with st := .recovering }).link 0).st = .recovering
    ∧ ((linked 8 { Link.reset with st := .recovering }).link 8).st = .recovering
    ∧ (ready.die 0).fenced = none ∧ (ready.die 0).hubLosses = 0 ∧ ready.saf.escalate (.die 0) = .restart (.die 0)
    ∧ ((ready.mapDie 0 (fun x => { x with hubLosses := 1 })).die 0).hubLosses = 1 := by decide +kernel

/-- R391: a flit with a bad FCRC is discarded and asks for one NAK; the NAK makes its sender replay. -/
def replayed : State :=
  let s := match exec (.flitReceived 0 0 (flit 0 1 1023 0) 1) ready with | .next t => t | _ => ready
  match exec (.flitReceived 0 1 (flit 1023 0 1023 1) 0) s with | .next t => t | _ => ready

set_option maxRecDepth 20000 in
theorem test_flit_replay :
    ((replayed.link 0).end_ 1).replay.length = 1 ∧ ((replayed.link 0).end_ 1).resend = some 0
    ∧ ((replayed.link 0).end_ 0).nakDue = false ∧ ((replayed.link 0).end_ 0).discarding = true
    ∧ (replayed.link 0).replays = 1 := by decide +kernel

/-! ### What meets the statements' hypotheses: restarts, safety, monitors -/

/-- The device with restarts due and in progress. -/
def restarting (due active : List RUnit) : State := { ready with saf := { ready.saf with due := due, active := active } }

/-- A core that owes the end of its phase. -/
def owing : State := seq (word4 6 0 0 0) .rtk thread0

/-- UnitsRestart: a due restart of each unit and one that is not due; the end of each; late dies; holds over their limit. -/
theorem meets_UnitsRestart :
    (restarting [.cluster 3] []).canRestart (.cluster 3) = true ∧ ready.canRestart (.cluster 3) = false
    ∧ (restarting [.die 3] []).canRestart (.die 3) = true ∧ sized (restarting [.die 3] []) = true
    ∧ (restarting [.hub] []).canRestart .hub = true
    ∧ (let s := restarting [] [.cluster 3, .hub]
       RUnit.cluster 3 ∈ s.saf.active ∧ RUnit.hub ∈ s.saf.active ∧ s.regs.heldWrites = [] ∧ s.host.rings = []
       ∧ (RUnit.cluster 3).dieOf = some 0 ∧ (∀ v ∈ s.saf.active ++ s.saf.due, v.dieOf = some 0 → v = .cluster 3))
    ∧ (let s := restarting [] [.die 3]; RUnit.die 3 ∈ s.saf.active ∧ (s.die 3).presence = true)
    ∧ ((restarting [] [.die 3]).mapDie 3 (fun x => { x with presence := false })).pkg.dies.length = 8
    ∧ owing.cyc.cur = some (cycleAt 4 []) ∧ owing.dieLate (cycleAt 4 []) 0 = true ∧ owing.dieLate (cycleAt 4 []) 5 = false
    ∧ owing.saf.escalate (.die 0) = .restart (.die 0)
    ∧ (arbShape .lpddr).2.1 = 8 ∧ 4 ≤ (arbShape .lpddr).2.2 ∧ nth 0 ready.regs.hold 1 = 2000 ∧ nth 0 ready.regs.hold 0 = 20000
    ∧ (ready.die 7).running = true ∧ ready.eng.queues = [] ∧ ready.saf.escalate (.cluster 31) = .restart (.cluster 31)
    ∧ (engine 0 .qe 1).qeWinner 0 = some 0 ∧ (engine 0 .qe 1).queueOf 0 .qe = [⟨1, 0, 0, 0, 0⟩] := by decide +kernel

/-- An open merge window. -/
def window (n : Nat) : MergeWin :=
  ⟨⟨.link, .info, Loc.ofDie 0, 0, 0, 0, 0, 1⟩, ⟨.link, .info, Loc.ofDie 0, 0, 0⟩, n⟩

/-- SafetyInputsAct: each input in each of its states. -/
theorem meets_SafetyInputsAct :
    ready.saf.stale = none ∧ (window 0).count = 0 ∧ 0 < (window 2).count ∧ ready.boot.st ≠ .held ∧ ready.saf.ext = none
    ∧ ready.regs.finAction = 0 ∧ clockClass 1 0 = some .fatal ∧ clockClass 2 8 = some .fatal ∧ clockClass 3 0 = some .restartDie
    ∧ clockClass 6 0 = some .info ∧ clockClass 7 0 = some .info ∧ (ready.die 0).running = true
    ∧ ready.saf.escalate (.die 0) = .restart (.die 0) ∧ railOk 1 = true ∧ railOk 23 = true ∧ railFloor 1 = true ∧ railFloor 3 = false
    ∧ railClass 1 = .fatal ∧ railClass 16 = .restartDie ∧ (ready.die (23 - 16)).running = true := by decide +kernel

/-- MonitorsAct: an evaluation hot, at the floor for the tenth time, warm, cool for the hundredth time, calm for the thousandth,
critical; a step outside a cycle; a round off, and on. -/
theorem meets_MonitorsAct :
    [((0x870 : Int) - 1), 0x780, 0x77F, 0x6E0, 0x6DF, 0x870].all (fun t =>
      siteOk (8, 1, t) && hottest ([((8 : Fin 9), (1 : Fin 16), t)].filter (fun y => ready.sampled y.1.val)) == some (8, 1, t)) = true
    ∧ ready.boot.st ≠ .held ∧ ready.regs.thrHi = 0x780 ∧ ready.regs.thrLo = 0x6E0 ∧ ready.clk.target < ready.floor
    ∧ ready.clk.alert = false ∧ ready.saf.hold = false ∧ critTemp = 0x870 ∧ ready.cyc.cur = none
    ∧ sized ready = true ∧ bitAt ready.regs.pmbCfg 0 = false ∧ bitAt ({ ready.regs with pmbCfg := 1 } : Regs).pmbCfg 0 = true
    ∧ (List.replicate 16 (some (⟨0, 0, 0, 0, 0⟩ : PmbRead))).length = 16 ∧ pmbFault 0 = false := by decide +kernel

/-- SYNC_CFG with EN, MODE DISCIPLINE and PER 10 ms. -/
def syncing (cfg : Nat) (t : TimeBase) : State := { ready with regs := { ready.regs with syncCfg := cfg }, time := t }

/-- AonAndSyncAct: readings; a checkpoint due and not due; an identity due; an edge accepted, ignored, far and near; SYNC_IN
stuck. -/
theorem meets_AonAndSyncAct :
    ready.aon.powered = true ∧ ready.boot.st ≠ .held ∧ ready.sampled 8 = true ∧ ready.sampled 0 = true
    ∧ ready.aon.sinceCk < 600 ∧ ready.aon.faultCk = false
    ∧ 600 ≤ ({ ready.aon with ctr := { ready.aon.ctr with powerOn := 600 } } : Aon).sinceCk
    ∧ ready.aon.ctr.powerOn < ready.aon.stamp + yearSeconds
    ∧ (let s := syncing (1 + 1000000 * 4096) ready.time
       syncEn s.regs.syncCfg = true ∧ s.time.stuck = false ∧ s.syncIgnored = false)
    ∧ (syncing (1 + 1000000 * 4096) { ready.time with lastEdge := some 0 }).syncIgnored = true
    ∧ iabs (syncError 1000000 5000) ≤ 5000 ∧ 5000 < iabs (syncError 1000000 5001)
    ∧ ({ ready.time with stuck := true } : TimeBase).stuck = true := by decide +kernel

/-- RegistersAct: the link up, the hub up and down; byte enables; a view's end; an offset that is no register; a read-only
one. -/
theorem meets_RegistersAct :
    ready.linkOk = true ∧ ready.hubDown = false ∧ contiguous 6 = true ∧ contiguous 15 = true
    ∧ field 0x10DF 0 12 < viewLen (field 0x10DF 12 2) ∧ ready.regs.lock = false
    ∧ ready.regOk 0x0C00 20000 = true ∧ ready.regOk 0x0C04 3 = true
    ∧ occupied 0x0020 = false ∧ occupied 0x0C08 = true ∧ regRo 0x0C08 = true
    ∧ (restarting [] [.hub]).hubDown = true ∧ ready.regs.heldWrites.length < 64 := by decide +kernel

/-- SafetyInterfaceAnswers: held and not; an address with a value and one without; an acknowledgement taken and refused; a
limit in and out of range; runs of bad frames. -/
theorem meets_SafetyInterfaceAnswers :
    State.reset.boot.st = .held ∧ ready.boot.st ≠ .held ∧ ready.smiValue 0x0FFC = none ∧ (ready.smiValue 0x001C).isSome = true
    ∧ (0 + 2 ^ 32 - ready.saf.frAcked) % 2 ^ 32 ≤ 2 ^ 31 - 1
    ∧ (ready.aon.ctr.frTotal % 2 ^ 32 + 2 ^ 32 - ready.saf.frAcked) % 2 ^ 32 < (1 + 2 ^ 32 - ready.saf.frAcked) % 2 ^ 32
    ∧ ready.regOk 0x0C04 1 = true ∧ ready.regOk 0x0C04 0 = false ∧ ready.smi.run < 15
    ∧ 15 ≤ ({ ready.smi with run := 15 } : Smi).run := by decide +kernel

/-! ### One step of some commands -/

/-- The example after R497: a read of SAF_FAULT_SUMMARY answers in the next frame, OK with its address. -/
theorem test_smi_read_answers :
    (match exec (.smiRead 0x0C08) ready with
     | .next s => (s.smi.rstat, s.smi.addr) == (0, 0x0C08) && s.smi.frame.take 3 == [0x00, 0x08, 0x0C]
     | _ => false) = true := by decide +kernel

/-- NOP completes with STATUS_OK. -/
theorem test_nop_completes :
    (match exec .nop (serving (desc 1 []) ready) with
     | .next s => s.host.due == [⟨0, 7, .ok, 1, 0, 0, 0, false, false⟩] && s.host.started.isEmpty
     | _ => false) = true := by decide +kernel

/-- A queue's front runs first. -/
theorem test_step_takes_front :
    (match step { ready with pending := [.faultInAssert, .nop] } with
     | .next s => s.pending == [.nop] && s.saf.ext == some 0
     | _ => false) = true := by decide +kernel

/-- A fenced die does not come back with DIE_FENCE's record; its cause stands. -/
theorem test_fence_keeps_cause :
    (match exec (.dieFence 3 .rail) (ready.fenceDie 3 .host) with
     | .next s => (s.die 3).fenced == some .host
     | _ => false) = true := by decide +kernel

/-- The reset ranks of the arbiters of a cluster's QE: 15, 14, 13 and 12 for CO0 to CO3. -/
theorem test_reset_ranks : (List.range 4).map (fun k => field (State.reset.regRead 0x0800) (4 * k) 4) = [15, 14, 13, 12] := by
  decide +kernel

/-- The cycle status record, its places as R293 numbers their bits. -/
theorem test_status_record_layout :
    (let r : StatusRec := ⟨1, 2, 3, true, false, true, false, 4, 5, 6, 7, 8, 9,
       ⟨[10, 11, 12, 13], 14, 15, 16, 17, 18, [20, 21, 22, 23, 24, 25, 26, 27], 28, [30, 31, 32, 33, 34, 70000]⟩,
       .pass, .failed ⟨.limit, some 36, 37⟩, 38, 300⟩
     let at_ (bit n : Nat) : Nat := getLe r.bytes (bit / 8) n
     r.bytes.length == 256
     && [at_ 0 8, at_ 64 4, at_ 96 2, at_ 112 1, at_ 120 1, at_ 128 8, at_ 192 8, at_ 256 8] == [1, 2, 3, 5, 4, 5, 6, 7]
     && [at_ 320 4, at_ 416 4, at_ 448 2, at_ 464 2, at_ 480 4, at_ 512 4, at_ 544 4] == [10, 13, 8, 9, 14, 15, 16]
     && [at_ 576 4, at_ 608 4, at_ 640 2, at_ 752 2, at_ 768 2, at_ 784 2, at_ 864 2] == [17, 18, 20, 27, 28, 30, 65535]
     && [at_ 880 1, at_ 888 1, at_ 896 2, at_ 912 4, at_ 944 1, at_ 952 1] == [0, 3, 36, 37, 38, 255]) = true := by
  decide +kernel

end Sys2Proof.Tests
end

/-! ## The sizes of the tables: what each operation of the machine keeps -/

namespace Sys2Proof.Machine
open Sys2Proof

/-- The two states' tables have the same sizes. -/
@[simp] abbrev SameSizes (t s : State) : Prop :=
  t.pkg.dies.length = s.pkg.dies.length ∧ t.pkg.links.length = s.pkg.links.length ∧ t.du.length = s.du.length
  ∧ t.world.streams.length = s.world.streams.length ∧ t.host.attnSeen.length = s.host.attnSeen.length
  ∧ t.host.turn.length = s.host.turn.length ∧ t.regs.rank.length = s.regs.rank.length
  ∧ t.regs.hold.length = s.regs.hold.length ∧ t.regs.pmb.length = s.regs.pmb.length
  ∧ t.regs.hiLatch.length = s.regs.hiLatch.length ∧ t.regs.staging.length = s.regs.staging.length

theorem SameSizes.trans {t u s : State} (h : SameSizes t u) (g : SameSizes u s) : SameSizes t s := by
  simp [h, g]

/-- What either branch leaves, the choice between them leaves. -/
@[simp] theorem ite_sizes (c : Prop) [Decidable c] (t u : State) :
    (if c then t else u).pkg.dies.length = (if c then t.pkg.dies.length else u.pkg.dies.length)
    ∧ (if c then t else u).pkg.links.length = (if c then t.pkg.links.length else u.pkg.links.length)
    ∧ (if c then t else u).du.length = (if c then t.du.length else u.du.length)
    ∧ (if c then t else u).world.streams.length = (if c then t.world.streams.length else u.world.streams.length)
    ∧ (if c then t else u).host.attnSeen.length = (if c then t.host.attnSeen.length else u.host.attnSeen.length)
    ∧ (if c then t else u).host.turn.length = (if c then t.host.turn.length else u.host.turn.length)
    ∧ (if c then t else u).regs.rank.length = (if c then t.regs.rank.length else u.regs.rank.length)
    ∧ (if c then t else u).regs.hold.length = (if c then t.regs.hold.length else u.regs.hold.length)
    ∧ (if c then t else u).regs.pmb.length = (if c then t.regs.pmb.length else u.regs.pmb.length)
    ∧ (if c then t else u).regs.hiLatch.length = (if c then t.regs.hiLatch.length else u.regs.hiLatch.length)
    ∧ (if c then t else u).regs.staging.length = (if c then t.regs.staging.length else u.regs.staging.length) := by
  split <;> simp

/-- A fold keeps the sizes that each of its turns keeps. -/
@[simp] theorem foldl_sizes {α : Type} {g : State → α → State} (h : ∀ u x, SameSizes (g u x) u) (xs : List α)
    (s : State) :
    SameSizes (xs.foldl g s) s := by
  induction xs generalizing s with
  | nil => simp
  | cons x r ih => exact (ih (g s x)).trans (h s x)

/-! #### Definitions of Machine/Ops -/

@[simp] theorem State.spend_sizes (s : State) (n : Nat) : SameSizes (s.spend n) s := by simp [State.spend]

@[simp] theorem State.mapDie_sizes (s : State) (d : Nat) (f : DieSt → DieSt) : SameSizes (s.mapDie d f) s := by
  simp [State.mapDie]

@[simp] theorem State.mapDu_sizes (s : State) (d : Nat) (f : DuState → DuState) : SameSizes (s.mapDu d f) s := by
  simp [State.mapDu]

@[simp] theorem State.poke_sizes (s : State) (a : Nat) (bs : List Byte) : SameSizes (s.poke a bs) s := by
  simp [State.poke]

/-! #### Definitions of Machine/World -/

@[simp] theorem World.store_streams (w : World) (d off : Nat) (bs : List Byte) :
    (w.store d off bs).streams = w.streams := rfl

/-! #### Definitions of Machine/Ops -/

@[simp] theorem State.sramWrite_sizes (s : State) (a : Nat) (bs : List Byte) : SameSizes (s.sramWrite a bs) s := by
  unfold State.sramWrite
  split <;> simp

@[simp] theorem State.hostWrite_sizes (s : State) (a : Nat) (bs : List Byte) : SameSizes (s.hostWrite a bs) s := by
  simp [State.hostWrite]

@[simp] theorem State.look_sizes (s : State) (v : HostView) : SameSizes (s.look v) s := by simp [State.look]

@[simp] theorem State.message_sizes (s : State) (v : Nat) : SameSizes (s.message v) s := by simp [State.message]

@[simp] theorem State.mapRing_sizes (s : State) (n : Nat) (f : Ring → Ring) : SameSizes (s.mapRing n f) s := by
  simp [State.mapRing]

@[simp] theorem State.signalRing_sizes (s : State) (n : Nat) : SameSizes (s.signalRing n) s := by
  unfold State.signalRing
  split <;> simp

@[simp] theorem State.wrote_sizes (s : State) (n : Nat) (now : Bool) : SameSizes (s.wrote n now) s := by
  unfold State.wrote
  dsimp only
  split <;> simp

@[simp] theorem State.complete_sizes (s : State) (d : Desc) (st : Status) (r0 r1 : Nat) (beat : Bool) :
    SameSizes (s.complete d st r0 r1 beat) s := by
  simp [State.complete]

@[simp] theorem State.completeAll_sizes (s : State) (xs : List (Desc × Status)) : SameSizes (s.completeAll xs) s := by
  simp [State.completeAll]

@[simp] theorem State.fireOn_sizes (s : State) (ds : List Nat) (src : BindSource) (arg : Nat) :
    SameSizes (s.fireOn ds src arg) s := by
  unfold State.fireOn
  refine foldl_sizes (fun u x => ?_) _ _
  split <;> simp

@[simp] theorem State.begin_sizes (s : State) (o : LongOp) : SameSizes (s.begin_ o) s := by
  unfold State.begin_
  repeat' split
  all_goals simp

@[simp] theorem State.opsRun_sizes (s : State) (old : List LongOp) : SameSizes (s.opsRun old) s := by
  simp [State.opsRun]

@[simp] theorem State.completeOp_sizes (s : State) (o : LongOp) : SameSizes (s.completeOp o) s := by
  simp [State.completeOp]

@[simp] theorem State.eventWrite_sizes (s : State) (b : List Byte) : SameSizes (s.eventWrite b) s := by
  unfold State.eventWrite
  split <;> simp

@[simp] theorem State.send_sizes (s : State) (f : Fault0) (merged : Nat) : SameSizes (s.send f merged) s := by
  simp [State.send]

@[simp] theorem State.record_sizes (s : State) (f : Fault0) : SameSizes (s.record f) s := by
  unfold State.record
  dsimp only
  repeat' split
  all_goals simp

@[simp] theorem State.count_sizes (s : State) (f : Counters → Counters) : SameSizes (s.count f) s := by
  simp [State.count]

@[simp] theorem State.staleReports_sizes (s : State) : SameSizes s.staleReports s := by
  unfold State.staleReports
  dsimp only
  generalize hu : List.foldl _ s (List.range 8) = u
  have hs : SameSizes u s := hu ▸ foldl_sizes (fun v d => by split <;> simp) _ _
  split <;> simp [hs]

@[simp] theorem State.runEnds_sizes (s : State) (old : List LongOp) : SameSizes (s.runEnds old) s := by
  simp [State.runEnds]

@[simp] theorem State.withOps_sizes (s : State) (r : OpsOut) : SameSizes (s.withOps r) s := by
  unfold State.withOps
  split <;> simp

@[simp] theorem State.traceHeader_sizes (s : State) (c : Cycle) : SameSizes (s.traceHeader c) s := by
  unfold State.traceHeader
  split <;> simp

@[simp] theorem State.endCycle_sizes (s : State) (st : Status) (r0 r1 : Nat) (committed : Bool) :
    SameSizes (s.endCycle st r0 r1 committed) s := by
  unfold State.endCycle
  split
  · simp
  · simp

@[simp] theorem State.stopEngines_sizes (s : State) : SameSizes s.stopEngines s := by simp [State.stopEngines]

@[simp] theorem State.abandon_sizes (s : State) (st : Status) : SameSizes (s.abandon st) s := by
  unfold State.abandon
  split <;> simp

@[simp] theorem State.withCoh_sizes (s : State) (o : CohOut) : SameSizes (s.withCoh o) s := by simp [State.withCoh]

@[simp] theorem State.dropLinks_sizes (s : State) (d : Nat) : SameSizes (s.dropLinks d) s := by simp [State.dropLinks]

@[simp] theorem State.endVerify_sizes (s : State) : SameSizes s.endVerify s := by simp [State.endVerify]

@[simp] theorem State.fenceData_sizes (s : State) (d : Nat) : SameSizes (s.fenceData d) s := by simp [State.fenceData]

@[simp] theorem State.fenceOff_sizes (s : State) (d : Nat) : SameSizes (s.fenceOff d) s := by simp [State.fenceOff]

@[simp] theorem State.fenceDie_sizes (s : State) (d : Nat) (cause : FenceCause) (abandonAs : Status) :
    SameSizes (s.fenceDie d cause abandonAs) s := by
  simp [State.fenceDie]

@[simp] theorem State.fatalEnds_sizes (s : State) : SameSizes s.fatalEnds s := by simp [State.fatalEnds]

@[simp] theorem State.fatalOff_sizes (s : State) : SameSizes s.fatalOff s := by
  unfold State.fatalOff
  dsimp only
  split <;> simp

@[simp] theorem State.fatal_sizes (s : State) (alive : Bool) : SameSizes (s.fatal alive) s := by simp [State.fatal]

@[simp] theorem State.recovering_sizes (s : State) (u : RUnit) : SameSizes (s.recovering u) s := by
  unfold State.recovering
  split <;> simp

@[simp] theorem State.restartDue_sizes (s : State) (u : RUnit) : SameSizes (s.restartDue u) s := by
  simp [State.restartDue]

@[simp] theorem State.restartFault_sizes (s : State) (u : RUnit) : SameSizes (s.restartFault u) s := by
  unfold State.restartFault
  split <;> simp

@[simp] theorem State.fault_sizes (s : State) (f : Fault0) : SameSizes (s.fault f) s := by
  unfold State.fault
  repeat' split
  all_goals simp

@[simp] theorem State.faults_sizes (s : State) (fs : List Fault0) : SameSizes (s.faults fs) s := by
  simp [State.faults]

/-! #### Definitions of Machine/EngineOps -/

@[simp] theorem State.setQueue_sizes (s : State) (unit : Nat) (e : Engine) (cs : List QCmd) :
    SameSizes (s.setQueue unit e cs) s := by
  simp [State.setQueue]

@[simp] theorem State.qeDecide_sizes (s : State) (cl : Nat) : SameSizes (s.qeDecide cl) s := by simp [State.qeDecide]

@[simp] theorem State.qeDrop_sizes (s : State) (cl : Nat) : SameSizes (s.qeDrop cl) s := by simp [State.qeDrop]

@[simp] theorem State.enqueue_sizes (s : State) (unit : Nat) (e : Engine) (c : QCmd) :
    SameSizes (s.enqueue unit e c) s := by
  simp [State.enqueue]

@[simp] theorem State.dequeue_sizes (s : State) (unit : Nat) (e : Engine) (rest : List QCmd) :
    SameSizes (s.dequeue unit e rest) s := by
  simp [State.dequeue]

@[simp] theorem State.commandDone_sizes (s : State) (c : QCmd) : SameSizes (s.commandDone c) s := by
  simp [State.commandDone]

@[simp] theorem State.flag_sizes (s : State) (c : QCmd) (code lane cand : Nat) (cause : Option Fault0)
    (also : List Nat) :
    SameSizes (s.flag c code lane cand cause also) s := by
  simp [State.flag]

@[simp] theorem State.flagFault_sizes (s : State) (c : QCmd) (cause : Option Fault0) (cand : Nat) :
    SameSizes (s.flagFault c cause cand) s := by
  simp [State.flagFault]

@[simp] theorem State.flagsWhere_sizes (s : State) (c : QCmd) (fs : List (Nat × Bool)) :
    SameSizes (s.flagsWhere c fs) s := by
  simp [State.flagsWhere]

@[simp] theorem State.result_sizes (s : State) (cl off : Nat) (bs : List Byte) : SameSizes (s.result cl off bs) s := by
  simp [State.result]

@[simp] theorem State.corrected_sizes (s : State) (die m : Nat) : SameSizes (s.corrected die m) s := by
  simp [State.corrected]

@[simp] theorem State.cacheWord_sizes (s : State) (cl : Nat) (loc : Loc) (bank line : Nat) :
    SameSizes (s.cacheWord cl loc bank line).1 s := by
  unfold State.cacheWord
  dsimp only
  repeat' split
  all_goals simp

/-- A body and a failure that keep the tables' sizes do so behind an engine's checks. -/
theorem State.checked_sizes (s : State) (c : QCmd) (e : Engine) (hw : HwEvent) (op first count : Nat)
    {body : State → State} {failed : Fault0 → State → State} (adjust : Fault0 → Fault0)
    (hb : ∀ u, SameSizes (body u) u) (hf : ∀ f u, SameSizes (failed f u) u) :
    SameSizes (s.checked c e hw op first count body failed adjust) s := by
  unfold State.checked
  split
  · dsimp only
    split <;> simp [hb, hf]
  · dsimp only
    repeat' split
    all_goals simp [hb, hf]

theorem State.engineRun_sizes (s : State) (unit : Nat) (e : Engine) (w : BitVec 128) (hw : HwEvent)
    (op first count : Nat)
    {body : QCmd → State → State} {failed : QCmd → Fault0 → State → State} (adjust : Fault0 → Fault0)
    (hb : ∀ c u, SameSizes (body c u) u) (hf : ∀ c f u, SameSizes (failed c f u) u) :
    SameSizes (s.engineRun unit e w hw op first count body failed adjust) s := by
  unfold State.engineRun
  split
  · simp
  · split
    · simp
    · exact (State.checked_sizes _ _ e hw op first count adjust (hb _) (hf _)).trans (by simp)

@[simp] theorem State.setRun_sizes (s : State) (r : StreamRun) : SameSizes (s.setRun r) s := by simp [State.setRun]

@[simp] theorem State.endRun_sizes (s : State) (core : Nat) (e : Engine) : SameSizes (s.endRun core e) s := by
  simp [State.endRun]

theorem State.streamRun_sizes (s : State) (core : Nat) (e : Engine) (w : BitVec 128) (hw : HwEvent)
    (op first count : Nat)
    {body : QCmd → State → State} (ended : State → Bool) {finish failed : QCmd → State → State}
    (hb : ∀ c u, SameSizes (body c u) u) (hn : ∀ c u, SameSizes (finish c u) u) (hf : ∀ c u, SameSizes (failed c u) u) :
    SameSizes (s.streamRun core e w hw op first count body ended finish failed) s := by
  unfold State.streamRun
  split
  · simp
  · split
    · simp
    · exact State.checked_sizes _ _ e hw op first count id (fun u => by simp [hb, hn]) (fun f u => by simp [hf])

@[simp] theorem State.cohWrite_sizes (s : State) (a : Nat) (bs : List Byte) : SameSizes (s.cohWrite a bs) s := by
  simp [State.cohWrite]

/-! #### Definitions of Machine/EngineEnv -/

@[simp] theorem State.clearCaches_sizes (s : State) (p : Nat → Bool) : SameSizes (s.clearCaches p) s := by
  simp [State.clearCaches]

@[simp] theorem State.dropStream_sizes (s : State) (core : Nat) (p : Nat → Bool) :
    SameSizes (s.dropStream core p) s := by
  simp [State.dropStream]

@[simp] theorem State.mapStream_sizes (s : State) (core cand : Nat) (f : RingCand → RingCand) :
    SameSizes (s.mapStream core cand f) s := by
  simp [State.mapStream]

@[simp] theorem State.tally_sizes (s : State) (f : CycleCounts → CycleCounts) : SameSizes (s.tally f) s := by
  simp [State.tally]

@[simp] theorem State.mapCycle_sizes (s : State) (f : Cycle → Cycle) : SameSizes (s.mapCycle f) s := by
  simp [State.mapCycle]

@[simp] theorem State.countVoid_sizes (s : State) (e : EngEnv) (cand : Nat) : SameSizes (s.countVoid e cand) s := by
  simp [State.countVoid]

/-! #### Definitions of Machine/CeExec -/

@[simp] theorem State.verdictFlags_sizes (s : State) (c : QCmd) (lane cand : Nat) (r : VRec) (early : Bool) :
    SameSizes (s.verdictFlags c lane cand r early) s := by
  simp [State.verdictFlags]

@[simp] theorem State.putVerdict_sizes (s : State) (core : Nat) (d : KeCmd) (cand : Nat) (r : VRec) :
    SameSizes (s.putVerdict core d cand r) s := by
  simp [State.putVerdict]

@[simp] theorem State.checkCounts_sizes (s : State) (rs : List VRec) : SameSizes (s.checkCounts rs) s := by
  simp [State.checkCounts]

@[simp] theorem State.startLanes_sizes (s : State) (core : Nat) (d : KeCmd) : SameSizes (s.startLanes core d) s := by
  simp [State.startLanes]

@[simp] theorem State.setLane_sizes (s : State) (core j : Nat) (l : Option Lane) :
    SameSizes (s.setLane core j l) s := by
  simp [State.setLane]

@[simp] theorem State.laneStep_sizes (s : State) (e : EngEnv) (core : Nat) (d : KeCmd) (c : QCmd)
    (miss : Option Nat) (j : Nat) :
    SameSizes (s.laneStep e core d c miss j) s := by
  unfold State.laneStep
  repeat' split
  all_goals simp

@[simp] theorem State.checkStreamBody_sizes (s : State) (core : Nat) (d : KeCmd) (miss : Option Nat) (c : QCmd) :
    SameSizes (s.checkStreamBody core d miss c) s := by
  unfold State.checkStreamBody
  split <;> simp

@[simp] theorem State.retireLane_sizes (s : State) (core cand : Nat) : SameSizes (s.retireLane core cand) s := by
  unfold State.retireLane
  dsimp only
  repeat' split
  all_goals simp

@[simp] theorem State.checkStreamEnd_sizes (s : State) (core : Nat) (d : KeCmd) (c : QCmd) :
    SameSizes (s.checkStreamEnd core d c) s := by
  simp [State.checkStreamEnd]

@[simp] theorem State.checkFailed_sizes (s : State) (core : Nat) (d : KeCmd) (c : QCmd) :
    SameSizes (s.checkFailed core d c) s := by
  simp [State.checkFailed]

@[simp] theorem State.checkTrajBody_sizes (s : State) (core : Nat) (d : KeCmd) (c : QCmd) :
    SameSizes (s.checkTrajBody core d c) s := by
  unfold State.checkTrajBody
  split <;> simp

@[simp] theorem State.checkPosesBody_sizes (s : State) (core : Nat) (d : KeCmd) (c : QCmd) :
    SameSizes (s.checkPosesBody core d c) s := by
  unfold State.checkPosesBody
  split <;> simp

@[simp] theorem State.checkStream_sizes (s : State) (core : Nat) (w : BitVec 128) (hw : HwEvent) (d : KeCmd)
    (miss : Option Nat) :
    SameSizes (s.checkStream core w hw d miss) s :=
  State.streamRun_sizes _ _ _ _ _ _ _ _ _ (by simp) (by simp) (by simp)

/-! #### Definitions of Machine/KeExec -/

@[simp] theorem State.costFailed_sizes (s : State) (core : Nat) (d : KeCmd) (_c : QCmd) :
    SameSizes (s.costFailed core d _c) s := by
  simp [State.costFailed]

@[simp] theorem State.putRecs_sizes (s : State) (core : Nat) (d : KeCmd) (rs : List (List Byte)) :
    SameSizes (s.putRecs core d rs) s := by
  simp [State.putRecs]

@[simp] theorem State.costFlags_sizes (s : State) (c : QCmd) (cand : Nat) (q : Partial) :
    SameSizes (s.costFlags c cand q) s := by
  simp [State.costFlags]

@[simp] theorem State.costNext_sizes (s : State) (e : EngEnv) (core : Nat) (d : KeCmd) (c : QCmd) :
    SameSizes (s.costNext e core d c) s := by
  unfold State.costNext
  dsimp only
  split <;> simp

@[simp] theorem State.costStreamBody_sizes (s : State) (core : Nat) (d : KeCmd) (c : QCmd) :
    SameSizes (s.costStreamBody core d c) s := by
  unfold State.costStreamBody
  split <;> simp

@[simp] theorem State.costStreamEnd_sizes (s : State) (core : Nat) (d : KeCmd) (_c : QCmd) :
    SameSizes (s.costStreamEnd core d _c) s := by
  simp [State.costStreamEnd]

@[simp] theorem State.costTrajBody_sizes (s : State) (core : Nat) (d : KeCmd) (c : QCmd) :
    SameSizes (s.costTrajBody core d c) s := by
  unfold State.costTrajBody
  split <;> simp

@[simp] theorem State.costFinalBody_sizes (s : State) (core : Nat) (d : KeCmd) (c : QCmd) :
    SameSizes (s.costFinalBody core d c) s := by
  unfold State.costFinalBody
  split <;> simp

/-! #### Definitions of Machine/PeExec -/

@[simp] theorem State.putSlot_sizes (s : State) (core : Nat) (d : PeCmd) (nsamp cand slot : Nat) (ps : List Sample) :
    SameSizes (s.putSlot core d nsamp cand slot ps) s := by
  simp [State.putSlot]

@[simp] theorem State.expandNext_sizes (s : State) (e : EngEnv) (core : Nat) (d : PeCmd) (c : QCmd)
    (gen : State → Nat → List Sample) :
    SameSizes (s.expandNext e core d c gen) s := by
  simp [State.expandNext]

@[simp] theorem State.expandBody_sizes (s : State) (core : Nat) (d : PeCmd)
    (gen : EngEnv → State → Nat → List Sample) (c : QCmd) :
    SameSizes (s.expandBody core d gen c) s := by
  unfold State.expandBody
  split <;> simp

@[simp] theorem State.expandEnd_sizes (s : State) (core : Nat) (d : PeCmd) (fault : Bool) (_c : QCmd) :
    SameSizes (s.expandEnd core d fault _c) s := by
  simp [State.expandEnd]

@[simp] theorem State.keepPathSat_sizes (s : State) (core cand : Nat) (sat : Bool) :
    SameSizes (s.keepPathSat core cand sat) s := by
  simp [State.keepPathSat]

@[simp] theorem State.buildPathBody_sizes (s : State) (core : Nat) (d : PeCmd) (c : QCmd) :
    SameSizes (s.buildPathBody core d c) s := by
  unfold State.buildPathBody
  split <;> simp

@[simp] theorem State.rmSearchBody_sizes (s : State) (core : Nat) (d : PeCmd) (c : QCmd) :
    SameSizes (s.rmSearchBody core d c) s := by
  unfold State.rmSearchBody
  split <;> simp

/-! #### Definitions of Machine/QeExec -/

@[simp] theorem State.dropCand_sizes (s : State) (kind : Nat) : SameSizes (s.dropCand kind) s := by
  simp [State.dropCand]

@[simp] theorem State.solveEnd_sizes (s : State) (core : Nat) (d : QeCmd) (c : QCmd) (o : SolveOrder) (r : QResult) :
    SameSizes (s.solveEnd core d c o r) s := by
  simp [State.solveEnd]

@[simp] theorem State.keepSolved_sizes (s : State) (cl : Nat) (d : QeCmd) (x : Solved) (bytes : List Byte) :
    SameSizes (s.keepSolved cl d x bytes) s := by
  simp [State.keepSolved]

@[simp] theorem State.abftNumeric_sizes (s : State) (core : Nat) (e : QEnd) : SameSizes (s.abftNumeric core e) s := by
  simp [State.abftNumeric]

@[simp] theorem State.solveGeo_sizes (s : State) (e : EngEnv) (t : Template) (core : Nat) (d : QeCmd) (ev : SolveEv)
    (late : Option Nat) (c : QCmd) :
    SameSizes (s.solveGeo e t core d ev late c) s := by
  unfold State.solveGeo
  dsimp only
  repeat' split
  all_goals simp

@[simp] theorem State.solveTs_sizes (s : State) (e : EngEnv) (t : Template) (core : Nat) (d : QeCmd) (ev : SolveEv)
    (late : Option Nat) (c : QCmd) :
    SameSizes (s.solveTs e t core d ev late c) s := by
  unfold State.solveTs
  dsimp only
  repeat' split
  all_goals simp

@[simp] theorem State.solveBody_sizes (s : State) (core : Nat) (d : QeCmd) (ev : SolveEv) (late : Option Nat)
    (c : QCmd) :
    SameSizes (s.solveBody core d ev late c) s := by
  unfold State.solveBody
  repeat' split
  all_goals simp

@[simp] theorem State.emitBody_sizes (s : State) (core : Nat) (d : QeCmd) (retried : Bool) (c : QCmd) :
    SameSizes (s.emitBody core d retried c) s := by
  unfold State.emitBody
  dsimp only
  repeat' split
  all_goals simp

@[simp] theorem State.keyBody_sizes (s : State) (core : Nat) (d : QeCmd) (retried : Bool) (c : QCmd) :
    SameSizes (s.keyBody core d retried c) s := by
  unfold State.keyBody
  split <;> simp

/-! #### Definitions of Machine/SeExec -/

@[simp] theorem State.seFinish_sizes (s : State) (core : Nat) (d : SeCmd) (c : QCmd) (l : SList) (retried : Bool) :
    SameSizes (s.seFinish core d c l retried) s := by
  simp [State.seFinish]

@[simp] theorem State.seFailed_sizes (s : State) (core : Nat) (d : SeCmd) (c : QCmd) (n : Nat) :
    SameSizes (s.seFailed core d c n) s := by
  simp [State.seFailed]

@[simp] theorem State.seFault_sizes (s : State) (core : Nat) (d : SeCmd) (c : QCmd) (n : Nat) :
    SameSizes (s.seFault core d c n) s := by
  simp [State.seFault]

@[simp] theorem State.selectBody_sizes (s : State) (core : Nat) (d : SeCmd) (retried : Bool) (c : QCmd) :
    SameSizes (s.selectBody core d retried c) s := by
  unfold State.selectBody
  split <;> simp

@[simp] theorem State.mergeBody_sizes (s : State) (core : Nat) (d : SeCmd) (retried : Bool) (c : QCmd) :
    SameSizes (s.mergeBody core d retried c) s := by
  simp [State.mergeBody]

/-! #### Definitions of Machine/SeqOps -/

@[simp] theorem State.mapThr_sizes (s : State) (c t : Nat) (f : Thread → Thread) : SameSizes (s.mapThr c t f) s := by
  simp [State.mapThr]

@[simp] theorem State.report_sizes (s : State) (c : Nat) (st : SeqStep) : SameSizes (s.report c st) s := by
  simp [State.report]

@[simp] theorem State.goStep_sizes (s : State) (c t n : Nat) : SameSizes (s.goStep c t n) s := by simp [State.goStep]

@[simp] theorem State.endStep_sizes (s : State) (c t : Nat) (st : SeqStep) : SameSizes (s.endStep c t st) s := by
  simp [State.endStep]

@[simp] theorem State.hubStale_sizes (s : State) (epoch : Nat) : SameSizes (s.hubStale epoch) s := by
  simp [State.hubStale]

@[simp] theorem State.contextLost_sizes (s : State) (c t : Nat) (x : Thread) (phase : Nat) :
    SameSizes (s.contextLost c t x phase) s := by
  simp [State.contextLost]

theorem State.pushFrame_sizes {s u : State} {c t reason : Nat} {x : Thread} (h : s.pushFrame c t reason x = some u) :
    SameSizes u s := by
  unfold State.pushFrame at h
  split at h
  · cases h
  · split at h
    · cases h
      simp
    · cases h

@[simp] theorem State.endThread_sizes (s : State) (c t : Nat) : SameSizes (s.endThread c t) s := by
  unfold State.endThread
  split
  · simp
  · split
    · simp
    · split
      · simp
      · next h => simp [State.pushFrame_sizes h]

@[simp] theorem State.stepFault_sizes (s : State) (c t code step : Nat) (cause : Option Fault0) :
    SameSizes (s.stepFault c t code step cause) s := by
  simp [State.stepFault]

@[simp] theorem State.divert_sizes (s : State) (c t step dest : Nat) : SameSizes (s.divert c t step dest) s := by
  unfold State.divert
  split <;> simp

@[simp] theorem State.retireVoid_sizes (s : State) (core cand : Nat) : SameSizes (s.retireVoid core cand) s := by
  simp [State.retireVoid]

@[simp] theorem State.react_sizes (s : State) (c t step slot code lane cand : Nat) (cause : Option Fault0) :
    SameSizes (s.react c t step slot code lane cand cause) s := by
  unfold State.react
  repeat' split
  all_goals simp

@[simp] theorem State.raise_sizes (s : State) (c t step code : Nat) : SameSizes (s.raise c t step code) s := by
  simp [State.raise]

/-! #### Definitions of Machine/World -/

@[simp] theorem World.copyStore_streams (w : World) (src dst : Nat) : (w.copyStore src dst).streams = w.streams := rfl

/-! #### Definitions of Machine/CycleOps -/

@[simp] theorem State.restoreStore_sizes (s : State) (d : Nat) : SameSizes (s.restoreStore d) s := by
  unfold State.restoreStore
  split <;> simp

@[simp] theorem State.rejoinDies_sizes (s : State) : SameSizes s.rejoinDies s := by simp [State.rejoinDies]

@[simp] theorem State.thermHold_sizes (s : State) : SameSizes s.thermHold s := by simp [State.thermHold]

@[simp] theorem State.newFloor_sizes (s : State) : SameSizes s.newFloor s := by simp [State.newFloor]

@[simp] theorem State.placeCopies_sizes (s : State) (d : Nat) : SameSizes (s.placeCopies d) s := by
  unfold State.placeCopies
  dsimp only
  repeat' split
  all_goals simp

@[simp] theorem State.loadCore_sizes (s : State) (d c : Nat) (e : CoreEntry) : SameSizes (s.loadCore d c e) s := by
  simp [State.loadCore]

@[simp] theorem State.freshDu_sizes (s : State) (d : Nat) : SameSizes (s.freshDu d) s := by
  unfold State.freshDu
  split <;> simp

@[simp] theorem State.loadDie_sizes (s : State) (d : Nat) : SameSizes (s.loadDie d) s := by simp [State.loadDie]

@[simp] theorem State.loadTables_sizes (s : State) : SameSizes s.loadTables s := by simp [State.loadTables]

@[simp] theorem State.takeUp_sizes (s : State) (ds : List Nat) : SameSizes (s.takeUp ds) s := by simp [State.takeUp]

@[simp] theorem State.chooseArmature_sizes (s : State) : SameSizes s.chooseArmature s := by
  unfold State.chooseArmature
  split <;> simp

@[simp] theorem State.boundary_sizes (s : State) : SameSizes s.boundary s := by simp [State.boundary]

@[simp] theorem State.applyPatches_sizes (s : State) : SameSizes s.applyPatches s := by simp [State.applyPatches]

@[simp] theorem State.wrapEpoch_sizes (s : State) : SameSizes s.wrapEpoch s := by simp [State.wrapEpoch]

/-! #### The world's streams in a snapshot -/

/-- A fold over worlds keeps the number of streams that each of its turns keeps. -/
theorem World.foldl_streams {α : Type} {g : World → α → World} (h : ∀ w x, (g w x).streams.length = w.streams.length)
    (xs : List α) (w : World) : (xs.foldl g w).streams.length = w.streams.length := by
  induction xs generalizing w with
  | nil => rfl
  | cons x r ih => exact (ih (g w x)).trans (h w x)

/-! #### Definitions of Machine/World -/

theorem World.applyLayers_streams (w : World) (c : WorldCfg) (oS oD : Int)
    (tiles : List (Nat × List (Nat × List Byte))) :
    (w.applyLayers c oS oD tiles).streams.length = w.streams.length := by
  unfold World.applyLayers
  split
  · rfl
  · refine World.foldl_streams (fun u e => ?_) _ _
    split <;> rfl

theorem World.putStatic_streams (w : World) (c : WorldCfg) (slot : Nat) (p : Option Prim) :
    (w.putStatic c slot p).streams.length = w.streams.length := rfl

theorem World.applyStatics_streams (w : World) (c : WorldCfg) (k : Nat) (all : Bool) (recs : List (Nat × Option Prim)) :
    (w.applyStatics c k all recs).streams.length = w.streams.length := by
  unfold World.applyStatics
  refine (World.foldl_streams (fun v e => v.putStatic_streams c _ _) _ _).trans ?_
  split
  · exact World.foldl_streams (fun v j => v.putStatic_streams c _ _) _ _
  · rfl

theorem World.applyUpdate_streams (w : World) (c : WorldCfg) (k : Nat) (u : Update) :
    (w.applyUpdate c k u).streams.length = w.streams.length := by
  unfold World.applyUpdate
  split
  · exact World.applyLayers_streams ..
  · rfl
  · rfl
  · exact World.applyStatics_streams ..

theorem World.applyStream_streams (w : World) (c : WorldCfg) (wt k : Nat) :
    (w.applyStream c wt k).streams.length = w.streams.length :=
  (length_modAt _ _ _).trans (World.foldl_streams (fun v u => v.applyUpdate_streams c k u) _ _)

@[simp] theorem World.snapshot_streams (w : World) (c : WorldCfg) (reach wt : Nat) (e : Ego) :
    (w.snapshot c reach wt e).streams.length = w.streams.length :=
  World.foldl_streams (fun v k => v.applyStream_streams c wt k) _ _

/-! #### Definitions of Machine/CycleOps -/

@[simp] theorem State.snap_sizes (s : State) (i : Image) (w : Nat) (e : Ego) : SameSizes (s.snap i w e) s := by
  simp [State.snap]

@[simp] theorem State.saveThreads_sizes (s : State) (d : Nat) : SameSizes (s.saveThreads d) s := by
  unfold State.saveThreads
  refine foldl_sizes (fun u k => ?_) _ _
  dsimp only
  split
  · split
    · split
      · next h => simp [State.pushFrame_sizes h]
      · simp
    · simp
  · simp

@[simp] theorem State.releaseDus_sizes (s : State) (ds : List Nat) : SameSizes (s.releaseDus ds) s := by
  unfold State.releaseDus
  refine foldl_sizes (fun u d => ?_) _ _
  dsimp only
  split <;> simp

@[simp] theorem State.beginCycle_sizes (s : State) (d : Desc) (i : Image) (a : Armature) (e : Ego) :
    SameSizes (s.beginCycle d i a e) s := by
  simp [State.beginCycle]

@[simp] theorem State.releaseCycle_sizes (s : State) (d : Desc) : SameSizes (s.releaseCycle d) s := by
  unfold State.releaseCycle
  repeat' split
  all_goals simp

@[simp] theorem State.refreshEdges_sizes (s : State) (c : Cycle) : SameSizes (s.refreshEdges c) s := by
  unfold State.refreshEdges
  split <;> simp

@[simp] theorem State.placeSplice_sizes (s : State) (c : Cycle) : SameSizes (s.placeSplice c) s := by
  unfold State.placeSplice
  repeat' split
  all_goals simp

@[simp] theorem State.writeSheet_sizes (s : State) (c : Cycle) (i : Image) (a : Armature) :
    SameSizes (s.writeSheet c i a) s := by
  simp [State.writeSheet]

@[simp] theorem State.verifyFault_sizes (s : State) : SameSizes s.verifyFault s := by simp [State.verifyFault]

@[simp] theorem State.endEmpty_sizes (s : State) (c : Cycle) : SameSizes (s.endEmpty c) s := by simp [State.endEmpty]

@[simp] theorem State.committed_sizes (s : State) (seq : Nat) (plan safe : PlanRec) :
    SameSizes (s.committed seq plan safe) s := by
  simp [State.committed]

@[simp] theorem State.fix_sizes (s : State) (c : Cycle) (i : Image) (a : Armature) (e : Ego) (p q : Emitted) :
    SameSizes (s.fix c i a e p q) s := by
  simp [State.fix]

/-! #### Definitions of Machine/RingOps -/

@[simp] theorem State.ringFailed_sizes (s : State) (r : Ring) (e : RingError) : SameSizes (s.ringFailed r e) s := by
  simp [State.ringFailed]

@[simp] theorem State.ringError_sizes (s : State) (n : Nat) (e : RingError) : SameSizes (s.ringError n e) s := by
  unfold State.ringError
  split <;> simp

@[simp] theorem State.readDoorbell_sizes (s : State) (n : Nat) : SameSizes (s.readDoorbell n).1 s := by
  unfold State.readDoorbell
  dsimp only
  repeat' split
  all_goals simp

@[simp] theorem State.readDoorbells_sizes (s : State) (ns : List Nat) : SameSizes (s.readDoorbells ns).1 s := by
  unfold State.readDoorbells
  generalize false = b
  induction ns generalizing s b with
  | nil => simp
  | cons n r ih => exact (ih (s.readDoorbell n).1 _).trans (State.readDoorbell_sizes s n)

@[simp] theorem State.pollPeriod_sizes (s : State) (find : Bool) : SameSizes (s.pollPeriod find) s := by
  simp [State.pollPeriod]

/-- Setting entries of a table leaves its size. -/
@[simp] theorem length_foldl_setAt {α β : Type} (i : β → Nat) (v : β → α) (xs : List β) (l : List α) :
    (xs.foldl (fun l x => setAt l (i x) (v x)) l).length = l.length := by
  induction xs generalizing l with
  | nil => rfl
  | cons x r ih => simp [ih]

@[simp] theorem State.poll_sizes (s : State) (lo hi : Nat) : SameSizes (s.poll lo hi) s := by
  unfold State.poll
  dsimp only
  split <;> simp

@[simp] theorem State.startDesc_sizes (s : State) (d : Desc) : SameSizes (s.startDesc d) s := by
  simp [State.startDesc]

@[simp] theorem State.fetchFrom_sizes (s : State) (r : Ring) : SameSizes (s.fetchFrom r) s := by
  unfold State.fetchFrom
  dsimp only
  repeat' split
  all_goals simp

theorem State.take_sizes {s u : State} {op : Nat} {d : Desc} (h : s.take op = some (d, u)) : SameSizes u s := by
  unfold State.take at h
  obtain ⟨x, -, hx⟩ := Option.map_eq_some_iff.1 h
  cases hx
  simp

@[simp] theorem State.retire_sizes (s : State) (c : Compl) : SameSizes (s.retire c) s := by simp [State.retire]

@[simp] theorem State.writeCompl_sizes (s : State) (c : Compl) : SameSizes (s.writeCompl c) s := by
  unfold State.writeCompl
  split <;> simp

@[simp] theorem State.loadFailed_sizes (s : State) (ring : Nat) (c : LoadCause) :
    SameSizes (s.loadFailed ring c) s := by
  simp [State.loadFailed]

@[simp] theorem State.regFault_sizes (s : State) (off be cause : Nat) : SameSizes (s.regFault off be cause) s := by
  simp [State.regFault]

@[simp] theorem State.holdWrite_sizes (s : State) (off be v : Nat) : SameSizes (s.holdWrite off be v) s := by
  simp [State.holdWrite]

@[simp] theorem World.length_stage_streams (w : World) (k : Nat) (u : Update) :
    (w.stage k u).streams.length = w.streams.length := by
  simp [World.stage]

/-! #### Definitions of Machine/DescExec -/

@[simp] theorem State.worldUpdate_sizes (d : Desc) (s : State) : SameSizes (State.worldUpdate d s) s := by
  unfold State.worldUpdate
  repeat' split
  all_goals simp

@[simp] theorem State.queueCycle_sizes (s : State) (d : Desc) : SameSizes (s.queueCycle d) s := by
  simp [State.queueCycle]

/-! #### Definitions of Machine/LoadOps -/

@[simp] theorem State.mapStaged_sizes (s : State) (d : Desc) (f : Staged → Staged) : SameSizes (s.mapStaged d f) s := by
  simp [State.mapStaged]

@[simp] theorem State.loadFail_sizes (s : State) (o : LongOp) (r : Option Refused) : SameSizes (s.loadFail o r) s := by
  unfold State.loadFail
  split <;> simp

/-- The number of units and the read stand for opaque functions while the unit's branches are taken apart: their chunk of
16 MiB is a numeral that the kernel would count down in unary. -/
theorem State.fetchUnit_sizes {s u : State} {o : LongOp} (h : s.fetchUnit o = .next u) : SameSizes u s := by
  obtain ⟨unit, hunit⟩ : ∃ f, f = State.fetchUnit := ⟨_, rfl⟩
  obtain ⟨units, hunits⟩ : ∃ f, f = loadUnits := ⟨_, rfl⟩
  obtain ⟨read, hread⟩ : ∃ f, f = State.hostReadN := ⟨_, rfl⟩
  rw [← hunit] at h
  delta State.fetchUnit at hunit
  rw [← hunits, ← hread] at hunit
  subst hunit
  dsimp only at h
  split at h
  · cases h
  · split at h <;> cases h
    simp

theorem State.unpackUnit_sizes {s u : State} {o : LongOp} (h : s.unpackUnit o = .next u) : SameSizes u s := by
  unfold State.unpackUnit at h
  dsimp only at h
  split at h
  · cases h
    simp
  · split at h <;> cases h
    simp

theorem State.checkUnit_sizes {s u : State} {o : LongOp} (h : s.checkUnit o = .next u) : SameSizes u s := by
  unfold State.checkUnit at h
  dsimp only at h
  split at h
  · cases h
  · split at h
    · cases h
      simp
    · split at h <;> cases h
      simp

@[simp] theorem State.loadUnit_sizes (s : State) (o : LongOp) : SameSizes (s.loadUnit o) s := by
  unfold State.loadUnit
  dsimp only
  split
  · simp
  · simp
  · next u h =>
    have hu : SameSizes u s := by
      split at h
      · exact State.fetchUnit_sizes h
      · exact State.fetchUnit_sizes h
      · exact State.unpackUnit_sizes h
      · exact State.checkUnit_sizes h
      · cases h
        simp
    simp [hu]

@[simp] theorem State.cancelGrowth_sizes (s : State) : SameSizes s.cancelGrowth s := by simp [State.cancelGrowth]

/-! #### Definitions of Machine/LongExec -/

@[simp] theorem State.startLong_sizes (s : State) (o : LongOp) : SameSizes (s.startLong o) s := by
  simp [State.startLong]

@[simp] theorem State.stopOp_sizes (s : State) (d : Desc) : SameSizes (s.stopOp d) s := by
  unfold State.stopOp
  repeat' split
  all_goals simp

@[simp] theorem State.scrubFound_sizes (s : State) (cls : OpClass) (d : Nat) : SameSizes (s.scrubFound cls d) s := by
  unfold State.scrubFound
  split <;> simp

@[simp] theorem State.ledgerUnit_sizes (s : State) (o : LongOp) : SameSizes (s.ledgerUnit o) s := by
  simp [State.ledgerUnit]

@[simp] theorem State.afterUnit_sizes (s : State) (d : Desc) : SameSizes (s.afterUnit d) s := by
  unfold State.afterUnit
  split <;> simp

@[simp] theorem State.countUnit_sizes (s : State) (o : LongOp) (good : Bool) : SameSizes (s.countUnit o good) s := by
  unfold State.countUnit
  repeat' split
  all_goals simp

@[simp] theorem State.checkpointOp_sizes (s : State) (o : LongOp) (ev : CkEvent) :
    SameSizes (s.checkpointOp o ev) s := by
  unfold State.checkpointOp
  split <;> simp

@[simp] theorem State.takeDie_sizes (s : State) (o : LongOp) (d : Nat) (why : OutOf) :
    SameSizes (s.takeDie o d why) s := by
  simp [State.takeDie]

@[simp] theorem State.flushDie_sizes (s : State) (d : Nat) : SameSizes (s.flushDie d) s := by simp [State.flushDie]

@[simp] theorem State.wipeDie_sizes (s : State) (d : Nat) : SameSizes (s.wipeDie d) s := by simp [State.wipeDie]

@[simp] theorem State.dieReady_sizes (s : State) (d : Nat) : SameSizes (s.dieReady d) s := by
  unfold State.dieReady
  dsimp only
  split <;> simp

/-! #### Definitions of Machine/StartOps -/

@[simp] theorem State.fatalStart_sizes (s : State) (f : Fault0) : SameSizes (s.fatalStart f) s := by
  simp [State.fatalStart]

@[simp] theorem State.dieServe_sizes (s : State) (d : Nat) (v : DieServe) : SameSizes (s.dieServe d v) s := by
  simp [State.dieServe]

@[simp] theorem State.checkReports_sizes (s : State) : SameSizes s.checkReports s := by
  unfold State.checkReports
  refine foldl_sizes (fun u x => ?_) _ _
  split <;> simp

@[simp] theorem State.decideCapacity_sizes (s : State) : SameSizes s.decideCapacity s := by
  simp [State.decideCapacity]

@[simp] theorem State.decideLinks_sizes (s : State) : SameSizes s.decideLinks s := by simp [State.decideLinks]

@[simp] theorem State.enterService_sizes (s : State) : SameSizes s.enterService s := by simp [State.enterService]

@[simp] theorem State.ready_sizes (s : State) : SameSizes s.ready s := by simp [State.ready]

@[simp] theorem State.settle_sizes (s : State) : SameSizes s.settle s := by simp [State.settle]

@[simp] theorem State.fenceStart_sizes (s : State) (d : Nat) (c : FenceCause) : SameSizes (s.fenceStart d c) s := by
  simp [State.fenceStart]

@[simp] theorem State.latentFence_sizes (s : State) (d row : Nat) : SameSizes (s.latentFence d row) s := by
  simp [State.latentFence]

@[simp] theorem State.presenceFail_sizes (s : State) (d : Nat) (p : Presence) (c : FenceCause) :
    SameSizes (s.presenceFail d p c) s := by
  simp [State.presenceFail]

/-! #### Definitions of Machine/PowerOps -/

@[simp] theorem State.suspendAll_sizes (s : State) : SameSizes s.suspendAll s := by
  unfold State.suspendAll
  refine foldl_sizes (fun u x => ?_) _ _
  split <;> simp

@[simp] theorem State.suspendAllN_sizes (s : State) (n : Nat) : SameSizes (s.suspendAllN n) s := by
  induction n generalizing s with
  | zero => simp [State.suspendAllN]
  | succ n ih => exact (ih s.suspendAll).trans s.suspendAll_sizes

@[simp] theorem State.askIdle_sizes (s : State) : SameSizes s.askIdle s := by simp [State.askIdle]

@[simp] theorem State.flushAll_sizes (s : State) : SameSizes s.flushAll s := by simp [State.flushAll]

@[simp] theorem State.wake_sizes (s : State) : SameSizes s.wake s := by simp [State.wake]

@[simp] theorem State.powerDone_sizes (s : State) (p : PState) : SameSizes (s.powerDone p) s := by
  unfold State.powerDone
  cases p <;> simp

/-! #### Definitions of Machine/ClockExec -/

@[simp] theorem State.thermFatal_sizes (s : State) : SameSizes s.thermFatal s := by simp [State.thermFatal]

@[simp] theorem State.evalHot_sizes (s : State) : SameSizes s.evalHot s := by simp [State.evalHot]

@[simp] theorem State.evalCool_sizes (s : State) : SameSizes s.evalCool s := by simp [State.evalCool]

@[simp] theorem State.pmbTarget_sizes (s : State) (t : Nat) (r : Option PmbRead) : SameSizes (s.pmbTarget t r) s := by
  unfold State.pmbTarget
  split <;> simp

/-! #### Definitions of Machine/CoherenceExec -/

@[simp] theorem State.homeRequest_sizes (s : State) (req line : Nat) (k : HomeReqKind) :
    SameSizes (s.homeRequest req line k) s := by
  unfold State.homeRequest
  split <;> simp

@[simp] theorem State.poisonIn_sizes (s : State) (cl line : Nat) (m : CohMsg) : SameSizes (s.poisonIn cl line m) s := by
  simp [State.poisonIn]

@[simp] theorem State.accessError_sizes (s : State) (req line : Nat) : SameSizes (s.accessError req line) s := by
  simp [State.accessError]

/-! #### Definitions of Machine/Movers -/

@[simp] theorem State.moverWrite_sizes (s : State) (a : Nat) (bs : List Byte) : SameSizes (s.moverWrite a bs) s := by
  simp [State.moverWrite]

@[simp] theorem State.moverFails_sizes (s : State) (c : QCmd) (cl : Nat) (m : MvCmd) (cause : Option Fault0) :
    SameSizes (s.moverFails c cl m cause) s := by
  simp [State.moverFails]

@[simp] theorem State.moverFault_sizes (s : State) (c : QCmd) (cl : Nat) (e : Engine) (m : MvCmd) (a : Nat) :
    SameSizes (s.moverFault c cl e m a) s := by
  simp [State.moverFault]

@[simp] theorem State.moverPoison_sizes (s : State) (c : QCmd) (cl : Nat) (e : Engine) (m : MvCmd) (a n : Nat) :
    SameSizes (s.moverPoison c cl e m a n) s := by
  simp [State.moverPoison]

@[simp] theorem State.moverError_sizes (s : State) (c : QCmd) (cl : Nat) (m : MvCmd) :
    SameSizes (s.moverError c cl m) s := by
  simp [State.moverError]

@[simp] theorem State.copyBody_sizes (s : State) (c : QCmd) (cl : Nat) (e : Engine) (m : MvCmd) :
    SameSizes (s.copyBody c cl e m) s := by
  simp [State.copyBody]

@[simp] theorem State.fillBody_sizes (s : State) (c : QCmd) (cl : Nat) (e : Engine) (m : MvCmd) :
    SameSizes (s.fillBody c cl e m) s := by
  simp [State.fillBody]

@[simp] theorem State.atomicBody_sizes (s : State) (c : QCmd) (cl : Nat) (e : Engine) (m : MvCmd) (bytes : Nat)
    (add : Bool) :
    SameSizes (s.atomicBody c cl e m bytes add) s := by
  simp [State.atomicBody]

/-! #### Definitions of Machine/CycleExec -/

@[simp] theorem State.nextPhase_sizes (s : State) (c : Cycle) : SameSizes (s.nextPhase c) s := by
  simp [State.nextPhase]

@[simp] theorem State.endSnapshot_sizes (s : State) (c : Cycle) : SameSizes (s.endSnapshot c) s := by
  simp [State.endSnapshot]

@[simp] theorem State.endEnlarge_sizes (s : State) (c : Cycle) : SameSizes (s.endEnlarge c) s := by
  simp [State.endEnlarge]

@[simp] theorem State.endGenerate_sizes (s : State) (c : Cycle) : SameSizes (s.endGenerate c) s := by
  unfold State.endGenerate
  dsimp only
  repeat' split
  all_goals simp

@[simp] theorem State.endSelect_sizes (s : State) (c : Cycle) (i : Image) (a : Armature) :
    SameSizes (s.endSelect c i a) s := by
  unfold State.endSelect
  dsimp only
  split <;> simp

@[simp] theorem State.endRecheck_sizes (s : State) (c : Cycle) (a : Armature) : SameSizes (s.endRecheck c a) s := by
  simp [State.endRecheck]

@[simp] theorem State.endProof_sizes (s : State) (c : Cycle) (i : Image) (a : Armature) (e : Ego) :
    SameSizes (s.endProof c i a e) s := by
  simp [State.endProof]

@[simp] theorem State.endFix_sizes (s : State) (c : Cycle) (i : Image) (a : Armature) (e : Ego) :
    SameSizes (s.endFix c i a e) s := by
  unfold State.endFix
  split <;> simp

@[simp] theorem State.lockstep_sizes (s : State) (phase : Nat) (hw : HwEvent) : SameSizes (s.lockstep phase hw) s := by
  unfold State.lockstep
  dsimp only
  split <;> simp

@[simp] theorem State.muFail_sizes (s : State) (sp : SelSpec) (n : Nat) (ls : List HubList) :
    SameSizes (s.muFail sp n ls) s := by
  simp [State.muFail]

@[simp] theorem State.muRun_sizes (s : State) (c : Cycle) (e : SelEntry) (entry pass : Nat) (hw : HwEvent)
    (ls : List HubList) :
    SameSizes (s.muRun c e entry pass hw ls) s := by
  unfold State.muRun
  split <;> simp

@[simp] theorem State.listIn_sizes (s : State) (src epoch entry pass : Nat) (bytes : List Byte) :
    SameSizes (s.listIn src epoch entry pass bytes) s := by
  unfold State.listIn
  split <;> simp

@[simp] theorem State.dualIn_sizes (s : State) (epoch cl off : Nat) (bytes : List Byte) :
    SameSizes (s.dualIn epoch cl off bytes) s := by
  unfold State.dualIn
  split <;> simp

@[simp] theorem State.bulkWrite_sizes (s : State) (src da : Nat) (bytes : List Byte) :
    SameSizes (s.bulkWrite src da bytes) s := by
  simp [State.bulkWrite]

/-! #### Definitions of Machine/DeExec -/

@[simp] theorem State.broadcast_sizes (s : State) (die off : Nat) (bs : List Byte) :
    SameSizes (s.broadcast die off bs) s := by
  simp [State.broadcast]

@[simp] theorem State.deCounts_sizes (s : State) (die satrec satstat big : Nat) :
    SameSizes (s.deCounts die satrec satstat big) s := by
  simp [State.deCounts]

@[simp] theorem State.deFinish_sizes (s : State) (cl : Nat) (d : DeCmd) (c : QCmd) (tiles satrec satstat big : Nat)
    (sat : Bool) :
    SameSizes (s.deFinish cl d c tiles satrec satstat big sat) s := by
  simp [State.deFinish]

@[simp] theorem State.cspaceBody_sizes (s : State) (cl : Nat) (d : DeCmd) (c : QCmd) :
    SameSizes (s.cspaceBody cl d c) s := by
  unfold State.cspaceBody
  split <;> simp

@[simp] theorem State.occBody_sizes (s : State) (cl : Nat) (d : DeCmd) (c : QCmd) : SameSizes (s.occBody cl d c) s := by
  unfold State.occBody
  split <;> simp

@[simp] theorem State.staticBody_sizes (s : State) (cl : Nat) (d : DeCmd) (c : QCmd) :
    SameSizes (s.staticBody cl d c) s := by
  unfold State.staticBody
  split <;> simp

/-! #### Definitions of Machine/SeqExec -/

@[simp] theorem State.tryEnd_sizes (s : State) (c t : Nat) (x : Thread) (st : SeqStep) :
    SameSizes (s.tryEnd c t x st) s := by
  simp [State.tryEnd]

@[simp] theorem State.markStarted_sizes (s : State) (c t : Nat) : SameSizes (s.markStarted c t) s := by
  simp [State.markStarted]

@[simp] theorem State.issueSlot_sizes (s : State) (c t n : Nat) (st : SeqStep) (i : Nat) :
    SameSizes (s.issueSlot c t n st i).1 s := by
  unfold State.issueSlot
  dsimp only
  repeat' split
  all_goals simp

@[simp] theorem State.issueAll_sizes (s : State) (c t n : Nat) (st : SeqStep) :
    SameSizes (s.issueAll c t n st).1 s := by
  unfold State.issueAll
  generalize (false, false) = b
  induction List.range 4 generalizing s b with
  | nil => simp
  | cons i r ih =>
    rw [List.foldl_cons]
    split
    · exact ih s b
    · exact (ih _ _).trans (State.issueSlot_sizes s c t n st i)

/-! #### Definitions of Machine/DuExec -/

@[simp] theorem State.grantRec_sizes (s : State) (d : Nat) (g : DuCfg) (core thread item : Nat) (dyn : Bool)
    (arg : Nat) (m : Option (Nat × Nat)) :
    SameSizes (s.grantRec d g core thread item dyn arg m) s := by
  simp [State.grantRec]

@[simp] theorem State.grantItem_sizes (s : State) (d : Nat) (g : DuCfg) (k : GrantCand) (h : Held) :
    SameSizes (s.grantItem d g k h) s := by
  unfold State.grantItem
  dsimp only
  repeat' split
  all_goals simp

@[simp] theorem State.preempt_sizes (s : State) (core : Nat) : SameSizes (s.preempt core) s := by
  unfold State.preempt
  split
  · simp
  · split
    · simp
    · next h => simp [State.pushFrame_sizes h]

@[simp] theorem State.grantThread_sizes (s : State) (d : Nat) (g : DuCfg) (k : GrantCand) :
    SameSizes (s.grantThread d g k) s := by
  unfold State.grantThread
  dsimp only
  split <;> simp

@[simp] theorem State.outcome_sizes (s : State) (m : Msg) (flag : Option Nat) : SameSizes (s.outcome m flag) s := by
  unfold State.outcome
  repeat' split
  all_goals simp

@[simp] theorem State.traceMsg_sizes (s : State) (c : Cycle) (m : Msg) : SameSizes (s.traceMsg c m) s := by
  unfold State.traceMsg
  split <;> simp

@[simp] theorem State.deliverHub_sizes (s : State) (m : Msg) : SameSizes (s.deliverHub m) s := by
  unfold State.deliverHub
  repeat' split
  all_goals simp

@[simp] theorem State.deliverDie_sizes (s : State) (d : Nat) (m : Msg) : SameSizes (s.deliverDie d m) s := by
  unfold State.deliverDie
  dsimp only
  repeat' split
  all_goals simp

/-! #### Definitions of Machine/LinkExec -/

@[simp] theorem State.mapLink_sizes (s : State) (l : Nat) (f : Link → Link) : SameSizes (s.mapLink l f) s := by
  simp [State.mapLink]

@[simp] theorem State.linkLoss_sizes (s : State) (l : Nat) : SameSizes (s.linkLoss l) s := by simp [State.linkLoss]

@[simp] theorem State.linkRecovery_sizes (s : State) (l : Nat) : SameSizes (s.linkRecovery l) s := by
  simp [State.linkRecovery]

@[simp] theorem State.replayFrom_sizes (s : State) (l e : Nat) : SameSizes (s.replayFrom l e) s := by
  simp [State.replayFrom]

@[simp] theorem State.packetFlit_sizes (s : State) (l e : Nat) (f : Flit) : SameSizes (s.packetFlit l e f) s := by
  unfold State.packetFlit
  repeat' split
  all_goals simp

@[simp] theorem State.flitTaken_sizes (s : State) (l e : Nat) (f : Flit) : SameSizes (s.flitTaken l e f) s := by
  simp [State.flitTaken]

/-! #### Definitions of Machine/RegOps -/

@[simp] theorem State.readReg_sizes (s : State) (off : Nat) : SameSizes (s.readReg off) s := by
  unfold State.readReg
  split <;> simp

@[simp] theorem State.busRead_sizes (s : State) (off : Nat) : SameSizes (s.busRead off) s := by simp [State.busRead]

/-! #### Definitions of Machine/RestartOps -/

@[simp] theorem State.restartBegin_sizes (s : State) (u : RUnit) : SameSizes (s.restartBegin u) s := by
  simp [State.restartBegin]

@[simp] theorem State.clearCluster_sizes (s : State) (cl : Nat) : SameSizes (s.clearCluster cl) s := by
  simp [State.clearCluster]

@[simp] theorem State.resetCluster_sizes (s : State) (cl : Nat) : SameSizes (s.resetCluster cl) s := by
  simp [State.resetCluster]

@[simp] theorem State.dropHomed_sizes (s : State) (d : Nat) : SameSizes (s.dropHomed d) s := by simp [State.dropHomed]

@[simp] theorem State.retrainLinks_sizes (s : State) (d : Nat) : SameSizes (s.retrainLinks d) s := by
  unfold State.retrainLinks
  dsimp only
  repeat' split
  all_goals simp

@[simp] theorem State.resetDie_sizes (s : State) (d : Nat) : SameSizes (s.resetDie d) s := by
  unfold State.resetDie
  dsimp only
  refine (State.mapDie_sizes _ _ _).trans ((State.mapDu_sizes _ _ _).trans ?_)
  simp

@[simp] theorem State.dropDescs_sizes (s : State) : SameSizes s.dropDescs s := by simp [State.dropDescs]

@[simp] theorem State.resetHub_sizes (s : State) (held : Bool) (lost : List Nat) :
    SameSizes (s.resetHub held lost) s := by
  simp [State.resetHub]

@[simp] theorem State.rereadContexts_sizes (s : State) : SameSizes s.rereadContexts s := by
  simp [State.rereadContexts]

@[simp] theorem State.dieBack_sizes (s : State) (d : Nat) : SameSizes (s.dieBack d) s := by simp [State.dieBack]

@[simp] theorem State.copyStatics_sizes (s : State) (cl : Nat) : SameSizes (s.copyStatics cl) s := by
  unfold State.copyStatics
  split <;> simp

/-! #### Definitions of Machine/SafetyExec -/

@[simp] theorem State.cutOp_sizes (s : State) (p : LongOp → Bool) : SameSizes (s.cutOp p) s := by
  unfold State.cutOp
  split <;> simp

@[simp] theorem State.cutQe_sizes (s : State) (core : Nat) : SameSizes (s.cutQe core) s := by
  unfold State.cutQe
  split <;> simp

@[simp] theorem State.cutMover_sizes (s : State) (cl mv : Nat) : SameSizes (s.cutMover cl mv) s := by
  unfold State.cutMover
  split <;> simp

@[simp] theorem State.holdQe_sizes (s : State) (cl k len : Nat) : SameSizes (s.holdQe cl k len) s := by
  simp [State.holdQe]

@[simp] theorem State.fillFails_sizes (s : State) (cl : Nat) (f : Fault0) : SameSizes (s.fillFails cl f) s := by
  unfold State.fillFails
  dsimp only
  split <;> simp

@[simp] theorem State.holdLpddr_sizes (s : State) (d k len : Nat) : SameSizes (s.holdLpddr d k len) s := by
  unfold State.holdLpddr
  dsimp only
  repeat' split
  all_goals simp

@[simp] theorem State.loseMsg_sizes (s : State) (sender : Nat) : SameSizes (s.loseMsg sender) s := by
  unfold State.loseMsg
  split <;> simp

@[simp] theorem State.loseCoh_sizes (s : State) (x d vc : Nat) (f : FClass → Loc → Fault0) (loc : Loc) :
    SameSizes (s.loseCoh x d vc f loc) s := by
  unfold State.loseCoh
  dsimp only
  split <;> simp

@[simp] theorem State.holdUtx_sizes (s : State) (inst vc len : Nat) : SameSizes (s.holdUtx inst vc len) s := by
  simp [State.holdUtx]

@[simp] theorem State.holdPcie_sizes (s : State) (k len : Nat) : SameSizes (s.holdPcie k len) s := by
  simp [State.holdPcie]

@[simp] theorem State.holdLed_sizes (s : State) (k len : Nat) : SameSizes (s.holdLed k len) s := by
  simp [State.holdLed]

/-! #### Definitions of Machine/SmiExec -/

@[simp] theorem State.smiAnswer_sizes (s : State) (rstat addr data : Nat) :
    SameSizes (s.smiAnswer rstat addr data) s := by
  simp [State.smiAnswer]

@[simp] theorem State.smiLatch_sizes (s : State) (addr : Nat) : SameSizes (s.smiLatch addr) s := by
  simp [State.smiLatch]

/-! #### Definitions of Machine/StartExec -/

@[simp] theorem State.trained_sizes (s : State) (d : Nat) (rec : List Byte) : SameSizes (s.trained d rec) s := by
  simp [State.trained]

/-! #### Definitions of Machine/Tick -/

@[simp] theorem State.moveDeadlines_sizes (s : State) (delta : Int) : SameSizes (s.moveDeadlines delta) s := by
  simp [State.moveDeadlines]

@[simp] theorem State.slewMoves_sizes (s : State) : SameSizes s.slewMoves s := by
  unfold State.slewMoves
  split <;> simp

@[simp] theorem State.tick_sizes (s : State) : SameSizes s.tick s := by simp [State.tick]

/-! #### Definitions of Machine/TimeExec -/

@[simp] theorem State.stepTime_sizes (s : State) (delta : Int) : SameSizes (s.stepTime delta) s := by
  simp [State.stepTime]

@[simp] theorem State.setCalendar_sizes (s : State) (d : Desc) : SameSizes (s.setCalendar d) s := by
  simp [State.setCalendar]

end Sys2Proof.Machine

namespace Sys2Proof
open Sys2Proof.Machine

/-! ### The operations that put a table in place anew -/

theorem Sized.of_sizes {s t : State} (h : Sized s) (k : SameSizes t s) : Sized t := by
  obtain ⟨dies, links, units, streams, seen, turn, rank, hold, pmb, latches, staging⟩ := k
  exact ⟨dies.trans h.dies, links.trans h.links, units.trans h.units, streams.trans h.streams, seen.trans h.seen,
    turn.trans h.turn, rank.trans h.rank, hold.trans h.hold, pmb.trans h.pmb, latches.trans h.latches,
    staging.trans h.staging⟩

theorem Sized.foldl {α : Type} {g : State → α → State} (hg : ∀ u x, Sized u → Sized (g u x)) (xs : List α) {s : State}
    (h : Sized s) : Sized (xs.foldl g s) := by
  induction xs generalizing s with
  | nil => exact h
  | cons x r ih => exact ih (hg s x h)

theorem Sized.ite {c : Prop} [Decidable c] {t u : State} (ht : Sized t) (hu : Sized u) :
    Sized (if c then t else u) := by
  split
  · exact ht
  · exact hu

/-- A power-on reset gives every table its size (R530). -/
theorem powerOn_sized (s : State) (low : Bool) : Sized (s.powerOn low) where
  dies := rfl
  links := rfl
  units := rfl
  streams := rfl
  seen := List.length_replicate
  turn := rfl
  rank := rfl
  hold := rfl
  pmb := rfl
  latches := rfl
  staging := rfl

/-- A function reset empties the host interface's tables and keeps their sizes (R443). -/
theorem Sized.functionReset {s : State} (h : Sized s) : Sized s.functionReset := by
  unfold State.functionReset
  exact ⟨by simp [h.dies], by simp [h.links], by simp [h.units], by simp [h.streams], List.length_replicate, rfl,
    by simp [h.rank], by simp [h.hold], by simp [h.pmb], by simp [h.latches], rfl⟩

/-- A table load takes the counters of 512 groups and starts the four classes' turns anew (R416, R420, R423). -/
theorem Sized.loadTable {s : State} (h : Sized s) : Sized s.loadTable := by
  have failed (n : Nat) (c : LoadCause) (u : State) (k : SameSizes u s) : Sized (u.loadFailed n c) :=
    h.of_sizes ((u.loadFailed_sizes n c).trans k)
  unfold State.loadTable
  dsimp only
  split
  · exact h.of_sizes (by simp)
  · split
    · exact failed _ _ _ (by simp)
    · split
      · exact failed _ _ _ (by simp)
      · split
        · exact failed _ _ _ (by simp)
        · split
          · exact failed _ _ _ (by simp)
          · exact failed _ _ _ (by simp)
          · constructor <;> simp [h.dies, h.links, h.units, h.streams, h.rank, h.hold, h.pmb, h.latches, h.staging]

theorem length_clear_streams (w : World) : w.clear.1.streams.length = 16 := by
  simp [World.clear]

theorem Sized.clearPlanning {s : State} (h : Sized s) : Sized s.clearPlanning.1 :=
  { h with streams := length_clear_streams s.world }

theorem Sized.activate {s : State} (h : Sized s) (o : LongOp) (i : Image) : Sized (s.activate o i) := by
  unfold State.activate
  split
  · exact h.of_sizes (by simp)
  · exact (Sized.clearPlanning (h.of_sizes s.cancelGrowth_sizes)).of_sizes (by simp)

theorem Sized.unload {s : State} (h : Sized s) : Sized s.unload :=
  (Sized.clearPlanning (h.of_sizes s.cancelGrowth_sizes)).of_sizes (by simp [State.unload])

/-- With the planning dies off, the world has no update waiting and the dispatch units are empty. -/
theorem Sized.diesOff {s : State} (h : Sized s) : Sized s.diesOff := by
  have k := h.of_sizes s.flushAll_sizes
  unfold State.diesOff
  constructor <;> simp [length_clear_streams, k.dies, k.links, k.seen, k.turn, k.rank, k.hold, k.pmb, k.latches, k.staging]

theorem Sized.withClk {s : State} (h : Sized s) (c : ClockPower) : Sized { s with clk := c } := { h with }

theorem Sized.powerAct {s : State} (h : Sized s) (p : PState) : Sized (s.powerAct p) := by
  unfold State.powerAct
  cases p with
  | active => exact h.withClk _
  | idle => exact h.of_sizes (by simp)
  | standby => exact (Sized.diesOff (h.of_sizes (by simp))).withClk _
  | off => exact (Sized.diesOff (h.of_sizes (by simp))).withClk _

theorem Sized.powerBegin {s : State} (h : Sized s) (p : PState) : Sized (s.powerBegin p) := by
  unfold State.powerBegin
  dsimp only
  split
  · exact h.of_sizes (by simp)
  · exact Sized.powerAct (h.of_sizes (by simp)) _

theorem Sized.powerTo {s : State} (h : Sized s) (p : PState) : Sized (s.powerTo p) := by
  unfold State.powerTo
  split
  · exact h
  · split
    · exact h.of_sizes (by simp)
    · split
      · exact h
      · exact Sized.powerBegin h p

theorem Sized.powerReq {s : State} (h : Sized s) (p : PState) : Sized (s.powerReq p) := by
  unfold State.powerReq
  split
  · exact h
  · exact Sized.powerTo (h.of_sizes (by simp)) p

theorem Sized.powerNext {s : State} (h : Sized s) : Sized s.powerNext := by
  unfold State.powerNext
  split
  · exact Sized.powerBegin (h.of_sizes (by simp)) _
  · split
    · exact Sized.powerTo (h.of_sizes (by simp)) _
    · exact h

/-! ### Register writes -/

theorem Sized.regPut {s : State} (h : Sized s) (off v : Nat) : Sized (s.regPut off v) := by
  unfold State.regPut
  dsimp only
  split
  case h_5 =>
    split
    · exact Sized.loadTable h
    · exact h
  case h_11 => exact Sized.powerReq h _
  all_goals exact h.of_sizes (by simp)

theorem Sized.regApply {s : State} (h : Sized s) (off be v : Nat) : Sized (s.regApply off be v) :=
  Sized.regPut h _ _

theorem Sized.regFault {s : State} (h : Sized s) (off be n : Nat) : Sized (s.regFault off be n) := h.of_sizes (by simp)

theorem Sized.dwordWrite {s : State} (h : Sized s) (off be v : Nat) : Sized (s.dwordWrite off be v) :=
  have bad (n : Nat) : Sized (s.regFault off be n) := Sized.regFault h off be n
  have held : Sized (s.holdWrite off be v) := h.of_sizes (by simp)
  .ite h (.ite (bad 4) (.ite (bad 1) (.ite h (.ite (bad 2) (.ite (bad 3) (.ite held (Sized.regApply h off be v)))))))

theorem Sized.busWrite {s : State} (h : Sized s) (off dwords be v : Nat) : Sized (s.busWrite off dwords be v) :=
  have low := Sized.dwordWrite h off (be % 16) (v % 2 ^ 32)
  .ite h (.ite (Sized.regFault h _ _ 6) (.ite (Sized.regFault h _ _ 7) (.ite (Sized.regFault h _ _ 7)
    (.ite low (Sized.dwordWrite low _ _ _)))))

theorem Sized.applyHeld {s : State} (h : Sized s) : Sized s.applyHeld :=
  Sized.foldl (fun _ _ hu => Sized.regApply hu _ _ _) _ (h.of_sizes (by simp))

theorem Sized.restartEnd {s : State} (h : Sized s) (u : RUnit) : Sized (s.restartEnd u) := by
  unfold State.restartEnd
  cases u with
  | cluster c => exact h.of_sizes (by simp)
  | die d => exact h.of_sizes (by simp)
  | hub => exact Sized.applyHeld (h.of_sizes (by simp))

theorem Sized.smiPut {s t : State} {addr v : Nat} (h : Sized s) (ht : s.smiPut addr v = some t) : Sized t := by
  unfold State.smiPut at ht
  split at ht
  · unfold State.forceSafe at ht
    split at ht
    · cases ht
      exact h.of_sizes (by simp)
    · split at ht <;> cases ht
      exact h.of_sizes (by simp)
  · obtain ⟨x, -, hx⟩ := Option.map_eq_some_iff.1 ht
    exact hx ▸ h.of_sizes (by simp)
  · unfold State.lockSafety at ht
    split at ht <;> cases ht
    exact h.of_sizes (by simp)
  · split at ht <;> cases ht
    exact Sized.regPut h _ _
  · split at ht <;> cases ht
    exact Sized.regPut h _ _
  · cases ht

theorem Sized.smiWriteTo {s : State} (h : Sized s) (addr v : Nat) : Sized (s.smiWriteTo addr v) := by
  unfold State.smiWriteTo
  split
  · exact h
  · split
    · exact h.of_sizes (by simp)
    · split
      · next ht => exact (Sized.smiPut h ht).of_sizes (by simp)
      · exact h.of_sizes (by simp)

/-! ### What a command does: it leads to a next state, whose tables keep their sizes -/

/-- The outcome `o` of a command in `s` is a next state, and one with tables of the right sizes where `s` has them. -/
def Advances (s : State) (o : Out) : Prop := ∃ t, o = .next t ∧ (Sized s → Sized t)

theorem Advances.next {s t : State} (h : Sized s → Sized t) : Advances s (.next t) := ⟨t, rfl, h⟩

@[simp] theorem advances_of_sizes {s t : State} (h : SameSizes t s) : Advances s (.next t) :=
  .next fun k => k.of_sizes h

/-- A command on what a descriptor asks advances where its meaning keeps the tables. -/
theorem serve_advances {s : State} {op : Nat} {f : Desc → State → State} (hf : ∀ d u, Sized u → Sized (f d u)) :
    Advances s (s.serve op f) := by
  unfold State.serve
  split
  · simp
  · next x hx => exact .next fun h => hf _ _ (h.of_sizes (State.take_sizes hx))

theorem serve_advances_of_sizes {s : State} {op : Nat} {f : Desc → State → State} (hf : ∀ d u, SameSizes (f d u) u) :
    Advances s (s.serve op f) :=
  serve_advances fun d u h => h.of_sizes (hf d u)

/-! ### Commands of the engines -/

theorem advances_ceRun {s : State} {core : Nat} {w : BitVec 128} {hw : HwEvent} {op : Nat}
    {body : KeCmd → QCmd → State → State} (h : (ceOfWord w.toNat).op = op) (hb : ∀ d c u, SameSizes (body d c u) u) :
    Advances s (s.ceRun core w hw op body) := by
  unfold State.ceRun
  rw [if_neg (not_not_intro h)]
  exact advances_of_sizes (State.engineRun_sizes _ _ _ _ _ _ _ _ id (hb _) (by simp))

theorem advances_keRun {s : State} {core : Nat} {w : BitVec 128} {hw : HwEvent} {op : Nat}
    {body : KeCmd → QCmd → State → State} (h : (KeCmd.ofWord w.toNat).op = op) (hb : ∀ d c u, SameSizes (body d c u) u) :
    Advances s (s.keRun core w hw op body) := by
  unfold State.keRun
  rw [if_neg (not_not_intro h)]
  exact advances_of_sizes (State.engineRun_sizes _ _ _ _ _ _ _ _ id (hb _) (by simp))

theorem advances_expandRun {s : State} {core : Nat} {w : BitVec 128} {hw : HwEvent} {op : Nat}
    {gen : PeCmd → EngEnv → State → Nat → List Sample} (h : (PeCmd.ofWord w.toNat).op = op) :
    Advances s (s.expandRun core w hw op gen) := by
  unfold State.expandRun
  rw [if_neg (not_not_intro h)]
  exact advances_of_sizes (State.streamRun_sizes _ _ _ _ _ _ _ _ _ (by simp) (by simp) (by simp))

theorem advances_peRun {s : State} {core : Nat} {w : BitVec 128} {hw : HwEvent} {op : Nat}
    {body : PeCmd → QCmd → State → State} (h : (PeCmd.ofWord w.toNat).op = op) (hb : ∀ d c u, SameSizes (body d c u) u) :
    Advances s (s.peRun core w hw op body) := by
  unfold State.peRun
  rw [if_neg (not_not_intro h)]
  exact advances_of_sizes (State.engineRun_sizes _ _ _ _ _ _ _ _ id (hb _) (by simp))

theorem advances_qeRun {s : State} {core : Nat} {w : BitVec 128} {hw : HwEvent} {op : Nat}
    {body : QeCmd → QCmd → State → State} (h : (QeCmd.ofWord w.toNat).op = op) (hb : ∀ d c u, SameSizes (body d c u) u) :
    Advances s (s.qeRun core w hw op body) := by
  unfold State.qeRun
  rw [if_neg (not_not_intro h)]
  split
  · simp
  · exact advances_of_sizes (State.engineRun_sizes _ _ _ _ _ _ _ _ _ (hb _) (by simp))

theorem advances_seRun {s : State} {core : Nat} {w : BitVec 128} {hw : HwEvent} {op : Nat}
    {body : SeCmd → Bool → QCmd → State → State} (h : (SeCmd.ofWord w.toNat).op = op)
    (hb : ∀ d r c u, SameSizes (body d r c u) u) : Advances s (s.seRun core w hw op body) := by
  unfold State.seRun
  rw [if_neg (not_not_intro h)]
  exact advances_of_sizes (State.engineRun_sizes _ _ _ _ _ _ _ _ _ (hb _ _) (by simp))

theorem advances_deRun {s : State} {cl : Nat} {w : BitVec 128} {hw : HwEvent} {op : Nat}
    {body : DeCmd → QCmd → State → State} (h : (DeCmd.ofWord w.toNat).op = op) (hb : ∀ d c u, SameSizes (body d c u) u) :
    Advances s (s.deRun cl w hw op body) := by
  unfold State.deRun
  rw [if_neg (not_not_intro h)]
  exact advances_of_sizes (State.engineRun_sizes _ _ _ _ _ _ _ _ id (hb _) (by simp))

theorem advances_moverRun {s : State} {cl : Cluster} {mv : Fin 2} {w : BitVec 128} {hw : HwEvent} {op : Nat}
    {body : QCmd → MvCmd → State → State} (h : moverWord w op = true) (hb : ∀ c m u, SameSizes (body c m u) u) :
    Advances s (s.moverRun cl mv w hw op body) := by
  obtain ⟨hop, hok⟩ : (MvCmd.ofWord w.toNat).op = op ∧ (MvCmd.ofWord w.toNat).ok = true := by simpa [moverWord] using h
  unfold State.moverRun
  rw [if_neg (by simp [hop, hok])]
  split
  · simp
  · exact advances_of_sizes (State.engineRun_sizes _ _ _ _ _ _ _ _ id (fun c => hb c _) (by simp))

theorem qeRun_malformed {s : State} {core : Nat} {w : BitVec 128} {hw : HwEvent} {op : Nat}
    {body : QeCmd → QCmd → State → State} (h : (QeCmd.ofWord w.toNat).op ≠ op) :
    s.qeRun core w hw op body = .fault .malformed :=
  if_pos h

/-- A word of another operation, or one that no mover takes, is malformed for the mover's row. -/
theorem moverRun_malformed {s : State} {cl : Cluster} {mv : Fin 2} {w : BitVec 128} {hw : HwEvent} {op : Nat}
    {body : QCmd → MvCmd → State → State} (h : moverWord w op = false) :
    s.moverRun cl mv w hw op body = .fault .malformed := by
  unfold State.moverRun
  exact if_pos (by simpa [moverWord, imp_iff_not_or] using h)

/-! ### The rows -/

/-! #### Definitions of Machine/CeExec -/

theorem execCheckStream_advances (core : Core) {w : BitVec 128} (hw : HwEvent) (s : State)
    (h : (ceOfWord w.toNat).op = 1) :
    Advances s (execCheckStream core w hw s) := by
  unfold execCheckStream
  rw [if_neg (not_not_intro h)]
  split
  · split <;> simp
  · simp

theorem execCheckTraj_advances (core : Core) {w : BitVec 128} (hw : HwEvent) (s : State)
    (h : (ceOfWord w.toNat).op = 2) : Advances s (execCheckTraj core w hw s) :=
  advances_ceRun h (by simp)

theorem execCheckPoses_advances (core : Core) {w : BitVec 128} (hw : HwEvent) (s : State)
    (h : (ceOfWord w.toNat).op = 3) : Advances s (execCheckPoses core w hw s) :=
  advances_ceRun h (by simp)

/-! #### Definitions of Machine/KeExec -/

theorem execCostStream_advances (core : Core) {w : BitVec 128} (hw : HwEvent) (s : State)
    (h : (KeCmd.ofWord w.toNat).op = 1) : Advances s (execCostStream core w hw s) := by
  unfold execCostStream
  rw [if_neg (not_not_intro h)]
  exact advances_of_sizes (State.streamRun_sizes _ _ _ _ _ _ _ _ _ (by simp) (by simp) (by simp))

theorem execCostTraj_advances (core : Core) {w : BitVec 128} (hw : HwEvent) (s : State)
    (h : (KeCmd.ofWord w.toNat).op = 2) : Advances s (execCostTraj core w hw s) :=
  advances_keRun h (by simp)

theorem execCostFinal_advances (core : Core) {w : BitVec 128} (hw : HwEvent) (s : State)
    (h : (KeCmd.ofWord w.toNat).op = 3) : Advances s (execCostFinal core w hw s) :=
  advances_keRun h (by simp)

/-! #### Definitions of Machine/PeExec -/

theorem execExpandLib_advances (core : Core) {w : BitVec 128} (hw : HwEvent) (s : State)
    (h : (PeCmd.ofWord w.toNat).op = 1) : Advances s (execExpandLib core w hw s) :=
  advances_expandRun h

theorem execExpandSeq_advances (core : Core) {w : BitVec 128} (hw : HwEvent) (s : State)
    (h : (PeCmd.ofWord w.toNat).op = 2) : Advances s (execExpandSeq core w hw s) :=
  advances_expandRun h

theorem execBuildPath_advances (core : Core) {w : BitVec 128} (hw : HwEvent) (s : State)
    (h : (PeCmd.ofWord w.toNat).op = 3) : Advances s (execBuildPath core w hw s) :=
  advances_peRun h (by simp)

theorem execRmSearch_advances (core : Core) {w : BitVec 128} (hw : HwEvent) (s : State)
    (h : (PeCmd.ofWord w.toNat).op = 4) : Advances s (execRmSearch core w hw s) :=
  advances_peRun h (by simp)

/-! #### Definitions of Machine/QeExec -/

theorem execSolve_advances (core : Core) {w : BitVec 128} (hw : HwEvent) (late : Option Nat) (s : State)
    (h : (QeCmd.ofWord w.toNat).op = 1) : Advances s (execSolve core w hw late s) := by
  unfold execSolve
  dsimp only
  split
  · exact advances_qeRun h (by simp)
  · exact advances_qeRun h (by simp)

theorem execEmit_advances (core : Core) {w : BitVec 128} (hw : HwEvent) (s : State)
    (h : (QeCmd.ofWord w.toNat).op = 2) : Advances s (execEmit core w hw s) :=
  advances_qeRun h (by simp)

theorem execKey_advances (core : Core) {w : BitVec 128} (hw : HwEvent) (s : State)
    (h : (QeCmd.ofWord w.toNat).op = 3) : Advances s (execKey core w hw s) :=
  advances_qeRun h (by simp)

/-! #### Definitions of Machine/SeExec -/

theorem execSelect_advances (core : Core) {w : BitVec 128} (hw : HwEvent) (s : State)
    (h : (SeCmd.ofWord w.toNat).op = 1) : Advances s (execSelect core w hw s) :=
  advances_seRun h (by simp)

theorem execMerge_advances (core : Core) {w : BitVec 128} (hw : HwEvent) (s : State)
    (h : (SeCmd.ofWord w.toNat).op = 2) : Advances s (execMerge core w hw s) :=
  advances_seRun h (by simp)

/-! #### Definitions of Machine/SeqOps -/

theorem execEngineFlag_advances (c : Core) (s : State) : Advances s (execEngineFlag c s) := by
  unfold execEngineFlag
  split <;> simp

/-! #### Definitions of Machine/DescExec -/

theorem execNop_advances (s : State) : Advances s (execNop s) :=
  serve_advances_of_sizes fun d u => by simp

theorem execWorldLayerPatch_advances (s : State) : Advances s (execWorldLayerPatch s) :=
  serve_advances_of_sizes fun d u => by simp

theorem execWorldObjects_advances (s : State) : Advances s (execWorldObjects s) :=
  serve_advances_of_sizes fun d u => by simp

theorem execWorldStatic_advances (s : State) : Advances s (execWorldStatic s) :=
  serve_advances_of_sizes fun d u => by simp

theorem execEgoState_advances (s : State) : Advances s (execEgoState s) := by
  refine serve_advances_of_sizes fun d u => ?_
  split
  · simp
  · split
    · simp
    · split
      · simp
      · simp [World.keepEgo]

theorem execPlanCycle_advances (s : State) : Advances s (execPlanCycle s) :=
  serve_advances_of_sizes fun d u => by simp

theorem execRetouchPlan_advances (s : State) : Advances s (execRetouchPlan s) :=
  serve_advances_of_sizes fun d u => by simp

theorem execSuspend_advances (s : State) : Advances s (execSuspend s) := by
  refine serve_advances_of_sizes fun d u => ?_
  split <;> simp

theorem execResume_advances (s : State) : Advances s (execResume s) := by
  refine serve_advances_of_sizes fun d u => ?_
  split <;> simp

theorem execCancel_advances (s : State) : Advances s (execCancel s) := by
  refine serve_advances_of_sizes fun d u => ?_
  split <;> simp

theorem execQueryOp_advances (s : State) : Advances s (execQueryOp s) := by
  refine serve_advances_of_sizes fun d u => ?_
  split <;> simp

/-! #### Definitions of Machine/LongExec -/

theorem execLoadImage_advances (s : State) : Advances s (execLoadImage s) :=
  serve_advances_of_sizes fun d u => by simp

theorem execMaintStart_advances (s : State) : Advances s (execMaintStart s) := by
  refine serve_advances_of_sizes fun d u => ?_
  split <;> simp

theorem execRoadmapGrow_advances (s : State) : Advances s (execRoadmapGrow s) :=
  serve_advances_of_sizes fun d u => by simp

theorem execLedgerRead_advances (s : State) : Advances s (execLedgerRead s) :=
  serve_advances_of_sizes fun d u => by simp

theorem execLongopCheckpoint_advances (tag : Word64) (ev : CkEvent) (s : State) :
    Advances s (execLongopCheckpoint tag ev s) := by
  unfold execLongopCheckpoint
  repeat' split
  all_goals simp

theorem execLongopDequeue_advances (s : State) : Advances s (execLongopDequeue s) := by simp [execLongopDequeue]

theorem execSelftestDie_advances (d : Die) (s : State) : Advances s (execSelftestDie d s) := by
  unfold execSelftestDie
  dsimp only
  repeat' split
  all_goals simp

theorem execRetrainDie_advances (d : Die) (s : State) : Advances s (execRetrainDie d s) := by
  unfold execRetrainDie
  dsimp only
  split <;> simp

theorem execRetrainComplete_advances (d : Die) (ok : Bool) (s : State) : Advances s (execRetrainComplete d ok s) := by
  unfold execRetrainComplete
  repeat' split
  all_goals simp

theorem execImageActivation_advances (s : State) : Advances s (execImageActivation s) := by
  unfold execImageActivation
  split
  · simp
  · split
    · simp
    · split
      · exact .next fun h => Sized.activate h _ _
      · simp

theorem execUnloadImage_advances (s : State) : Advances s (execUnloadImage s) := by
  refine serve_advances fun d u h => ?_
  dsimp only
  split
  · exact h.of_sizes (by simp)
  · split
    · exact h.of_sizes (by simp)
    · exact (Sized.unload h).of_sizes (by simp)

theorem execPatchParams_advances (s : State) : Advances s (execPatchParams s) := by
  refine serve_advances_of_sizes fun d u => ?_
  repeat' split
  all_goals simp

/-! #### Definitions of Machine/ClockExec -/

theorem execClockFault_advances (clk : Fin 8) (loc : Fin 9) (s : State)
    (h : (clockClass clk.val loc.val).isSome = true) :
    Advances s (execClockFault clk loc s) := by
  obtain ⟨cls, hc⟩ := Option.isSome_iff_exists.1 h
  unfold execClockFault
  rw [hc]
  dsimp only
  split <;> simp

theorem execSupplyExcursion_advances (rail : Fin 24) (belowFloor full : Bool) (s : State) (h : railOk rail.val = true) :
    Advances s (execSupplyExcursion rail belowFloor full s) := by
  unfold execSupplyExcursion
  rw [if_neg (by simp [h])]
  split
  · simp
  · dsimp only
    split
    · simp
    · refine .next fun k => ?_
      split
      · exact Sized.functionReset (k.of_sizes (by simp))
      · exact k.of_sizes (by simp)

theorem execThermalEvaluation_advances (sites : List (Fin 9 × Fin 16 × Int)) (s : State) (h : sites.all siteOk = true) :
    Advances s (execThermalEvaluation sites s) := by
  unfold execThermalEvaluation
  rw [if_neg (by simp [h])]
  split
  · simp
  · split <;> simp

theorem execEclkStepChange_advances (s : State) : Advances s (execEclkStepChange s) := by
  unfold execEclkStepChange
  split <;> simp

theorem execThermAlertChange_advances (level : Bool) (s : State) :
    Advances s (execThermAlertChange level s) := by simp [execThermAlertChange]

theorem execPmbusPollRound_advances (reads : List (Option PmbRead)) (s : State) (h : reads.length = 16) :
    Advances s (execPmbusPollRound reads s) := by
  unfold execPmbusPollRound
  rw [if_neg (not_not_intro h)]
  split <;> simp

/-! #### Definitions of Machine/CoherenceExec -/

theorem execGets_advances (cl : Cluster) (line : Nat) (s : State) :
    Advances s (execGets cl line s) := by simp [execGets]

theorem execGetm_advances (cl : Cluster) (line off : Nat) (bytes : List Byte) (s : State)
    (h : off + bytes.length ≤ 64) :
    Advances s (execGetm cl line off bytes s) := by
  unfold execGetm
  rw [if_neg (Nat.not_lt.2 h)]
  simp

theorem execPutm_advances (cl : Cluster) (line : Nat) (s : State) :
    Advances s (execPutm cl line s) := by simp [execPutm]

theorem execData_advances (cl : Cluster) (line : Nat) (s : State) : Advances s (execData cl line s) := by
  unfold execData
  repeat' split
  all_goals simp

theorem execInv_advances (cl : Cluster) (line : Nat) (s : State) : Advances s (execInv cl line s) := by simp [execInv]

theorem execInvAck_advances (cl : Cluster) (line : Nat) (s : State) :
    Advances s (execInvAck cl line s) := by simp [execInvAck]

theorem execRecall_advances (cl : Cluster) (line : Nat) (s : State) : Advances s (execRecall cl line s) := by
  unfold execRecall
  split <;> simp

theorem execWbAck_advances (cl : Cluster) (line : Nat) (s : State) :
    Advances s (execWbAck cl line s) := by simp [execWbAck]

theorem execUcRead_advances (req : Fin 98) (line : Nat) (s : State) :
    Advances s (execUcRead req line s) := by simp [execUcRead]

theorem execUcWrite_advances (req : Fin 98) (line off : Nat) (bytes : List Byte) (s : State)
    (h : off + bytes.length ≤ 64) : Advances s (execUcWrite req line off bytes s) := by
  unfold execUcWrite
  rw [if_neg (Nat.not_lt.2 h)]
  simp

theorem execRespErr_advances (req : Fin 98) (line : Nat) (s : State) : Advances s (execRespErr req line s) := by
  unfold execRespErr
  split <;> simp

/-! #### Definitions of Machine/Movers -/

theorem execCopy_advances (cl : Cluster) (mv : Fin 2) {w : BitVec 128} (hw : HwEvent) (s : State)
    (h : moverWord w 1 = true) : Advances s (execCopy cl mv w hw s) :=
  advances_moverRun h (by simp)

theorem execFill_advances (cl : Cluster) (mv : Fin 2) {w : BitVec 128} (hw : HwEvent) (s : State)
    (h : moverWord w 2 = true) : Advances s (execFill cl mv w hw s) :=
  advances_moverRun h (by simp)

theorem execAdd32_advances (cl : Cluster) (mv : Fin 2) {w : BitVec 128} (hw : HwEvent) (s : State)
    (h : moverWord w 3 = true) : Advances s (execAdd32 cl mv w hw s) :=
  advances_moverRun h (by simp)

theorem execAdd64_advances (cl : Cluster) (mv : Fin 2) {w : BitVec 128} (hw : HwEvent) (s : State)
    (h : moverWord w 4 = true) : Advances s (execAdd64 cl mv w hw s) :=
  advances_moverRun h (by simp)

theorem execSwap32_advances (cl : Cluster) (mv : Fin 2) {w : BitVec 128} (hw : HwEvent) (s : State)
    (h : moverWord w 5 = true) : Advances s (execSwap32 cl mv w hw s) :=
  advances_moverRun h (by simp)

theorem execSwap64_advances (cl : Cluster) (mv : Fin 2) {w : BitVec 128} (hw : HwEvent) (s : State)
    (h : moverWord w 6 = true) : Advances s (execSwap64 cl mv w hw s) :=
  advances_moverRun h (by simp)

/-! #### Definitions of Machine/CycleExec -/

theorem execCycleRelease_advances (s : State) : Advances s (execCycleRelease s) := by
  unfold execCycleRelease
  repeat' split
  all_goals simp

theorem execPhaseBoundary_advances (lockstep : HwEvent) (s : State) : Advances s (execPhaseBoundary lockstep s) := by
  unfold execPhaseBoundary
  split
  · split
    · simp
    · split
      · dsimp only
        split <;> simp
      · dsimp only
        split <;> simp
      all_goals simp
  · simp

theorem execMuMerge_advances (entry : Fin 8) (pass : Fin 16) (hw : HwEvent) (s : State) :
    Advances s (execMuMerge entry pass hw s) := by
  unfold execMuMerge
  dsimp only
  repeat' split
  all_goals simp

/-- The bytes of a merge set, if the packet is one, are 1280. -/
theorem execList_advances (src : Fin 9) (epoch : Nat) (pkt : ListPkt) (s : State)
    (h : (Instr.list src epoch pkt).wf = true) : Advances s (execList src epoch pkt s) := by
  cases pkt with
  | merge entry pass bytes =>
    have hlen : bytes.length = 1280 := eq_of_beq h
    simp only [execList, hlen, ne_eq, not_true, if_false]
    split <;> simp
  | dual cl off bytes =>
    simp only [execList]
    split <;> simp

theorem execBulk_advances (src : Fin 9) (da : Nat) (bytes : List Byte) (s : State)
    (h : 1 ≤ bytes.length ∧ bytes.length ≤ 256) : Advances s (execBulk src da bytes s) := by
  unfold execBulk
  rw [if_neg (by omega)]
  repeat' split
  all_goals simp

theorem execFaultRec_advances (src : Die) (rec : List Byte) (s : State) (h : rec.length = 32) :
    Advances s (execFaultRec src rec s) := by
  unfold execFaultRec
  rw [if_neg (not_not_intro h)]
  split
  · simp
  · split
    · simp
    · split <;> simp

/-! #### Definitions of Machine/DeExec -/

theorem execBuildCspace_advances (cl : Cluster) {w : BitVec 128} (hw : HwEvent) (s : State)
    (h : (DeCmd.ofWord w.toNat).op = 1) : Advances s (execBuildCspace cl w hw s) :=
  advances_deRun h (by simp)

theorem execBuildOcc_advances (cl : Cluster) {w : BitVec 128} (hw : HwEvent) (s : State)
    (h : (DeCmd.ofWord w.toNat).op = 2) : Advances s (execBuildOcc cl w hw s) :=
  advances_deRun h (by simp)

theorem execBuildStatic_advances (cl : Cluster) {w : BitVec 128} (hw : HwEvent) (s : State)
    (h : (DeCmd.ofWord w.toNat).op = 3) : Advances s (execBuildStatic cl w hw s) :=
  advances_deRun h (by simp)

/-! #### Definitions of Machine/SeqExec -/

theorem execIssue_advances (c : Core) (t : ThreadNo) (s : State) : Advances s (execIssue c t s) := by
  unfold execIssue
  repeat' split
  all_goals simp

theorem execGet_advances (c : Core) (t : ThreadNo) (s : State) : Advances s (execGet c t s) := by
  unfold execGet
  dsimp only
  repeat' split
  all_goals simp

theorem execWaitEvent_advances (c : Core) (t : ThreadNo) (s : State) : Advances s (execWaitEvent c t s) := by
  unfold execWaitEvent
  repeat' split
  all_goals simp

theorem execSignal_advances (c : Core) (t : ThreadNo) (s : State) : Advances s (execSignal c t s) := by
  unfold execSignal
  dsimp only
  repeat' split
  all_goals simp

theorem execTimedWait_advances (c : Core) (t : ThreadNo) (s : State) : Advances s (execTimedWait c t s) := by
  unfold execTimedWait
  dsimp only
  repeat' split
  all_goals simp

theorem execTimedWaitExpiry_advances (c : Core) (t : ThreadNo) (s : State) :
    Advances s (execTimedWaitExpiry c t s) := by
  unfold execTimedWaitExpiry
  repeat' split
  all_goals simp

theorem execMsg_advances (c : Core) (t : ThreadNo) (s : State) : Advances s (execMsg c t s) := by
  unfold execMsg
  dsimp only
  repeat' split
  all_goals simp

theorem execHalt_advances (c : Core) (t : ThreadNo) (s : State) : Advances s (execHalt c t s) := by
  unfold execHalt
  repeat' split
  all_goals simp

/-! #### Definitions of Machine/DuExec -/

theorem execDuGrant_advances (d : Die) (s : State) : Advances s (execDuGrant d s) := by
  unfold execDuGrant
  repeat' split
  all_goals simp

theorem execMessageDelivery_advances (dst : Fin 9) (s : State) : Advances s (execMessageDelivery dst s) := by
  unfold execMessageDelivery
  split <;> simp

theorem execPhaseEpochAdvance_advances (d : Die) (s : State) :
    Advances s (execPhaseEpochAdvance d s) := by simp [execPhaseEpochAdvance]

theorem execBoundSourceFire_advances (d : Die) (s : State) : Advances s (execBoundSourceFire d s) := by
  unfold execBoundSourceFire
  dsimp only
  repeat' split
  all_goals simp

theorem execQuiescenceExpiry_advances (d : Die) (s : State) : Advances s (execQuiescenceExpiry d s) := by
  unfold execQuiescenceExpiry
  dsimp only
  repeat' split
  all_goals simp

/-! #### Definitions of Machine/LinkExec -/

theorem execFlitReceived_advances (link : Fin 16) (end_ : Fin 2) (sent err : BitVec 320) (s : State) :
    Advances s (execFlitReceived link end_ sent err s) := by
  unfold execFlitReceived
  dsimp only
  repeat' split
  all_goals simp

theorem execReplayTimeout_advances (link : Fin 16) (end_ : Fin 2) (s : State) :
    Advances s (execReplayTimeout link end_ s) := by
  unfold execReplayTimeout
  dsimp only
  split <;> simp

theorem execLinkRecoveryDone_advances (link : Fin 16) (ok : Bool) (s : State) :
    Advances s (execLinkRecoveryDone link ok s) := by
  unfold execLinkRecoveryDone
  repeat' split
  all_goals simp

/-! #### Definitions of Machine/PatinaExec -/

theorem execPatinaSample_advances (readings : List (Fin 9 × Int)) (s : State)
    (h : noDup (readings.map (fun x => x.1.val)) = true) : Advances s (execPatinaSample readings s) := by
  unfold execPatinaSample
  rw [if_neg (by simp [h])]
  split <;> simp

theorem execCheckpointTimer_advances (badSlots : Fin 128) (s : State) :
    Advances s (execCheckpointTimer badSlots s) := by
  unfold execCheckpointTimer
  repeat' split
  all_goals simp

theorem execIdentityRefresh_advances (s : State) : Advances s (execIdentityRefresh s) := by
  unfold execIdentityRefresh
  split <;> simp

/-! #### Definitions of Machine/PowerExec -/

theorem execFunctionLevelReset_advances (s : State) : Advances s (execFunctionLevelReset s) := by
  unfold execFunctionLevelReset
  split
  · exact .next Sized.functionReset
  · simp

theorem execHotReset_advances (s : State) : Advances s (execHotReset s) := execFunctionLevelReset_advances s

theorem execLinkDownReset_advances (s : State) : Advances s (execLinkDownReset s) := execFunctionLevelReset_advances s

theorem execPciePerst_advances (s : State) : Advances s (execPciePerst s) := by
  unfold execPciePerst
  split
  · simp
  · exact .next fun h => Sized.functionReset { h with }

theorem execPciePerstRelease_advances (s : State) :
    Advances s (execPciePerstRelease s) := by simp [execPciePerstRelease]

theorem execD3hotEntry_advances (s : State) : Advances s (execD3hotEntry s) := by
  unfold execD3hotEntry
  split
  · simp
  · dsimp only
    split
    · simp
    · exact .next fun h => Sized.powerTo (h.of_sizes (by simp)) _

theorem execD0Return_advances (s : State) : Advances s (execD0Return s) := by simp [execD0Return]

theorem execPwrReqActive_advances (s : State) : Advances s (execPwrReqActive s) := by
  unfold execPwrReqActive
  split
  · exact .next fun h => Sized.powerReq h _
  · simp

theorem execPwrReqIdle_advances (s : State) : Advances s (execPwrReqIdle s) := by
  unfold execPwrReqIdle
  split
  · exact .next fun h => Sized.powerReq h _
  · simp

theorem execPwrReqStandby_advances (s : State) : Advances s (execPwrReqStandby s) := by
  unfold execPwrReqStandby
  split
  · exact .next fun h => Sized.powerReq h _
  · simp

theorem execPwrReqOff_advances (s : State) : Advances s (execPwrReqOff s) := by
  unfold execPwrReqOff
  split
  · exact .next fun h => Sized.powerReq h _
  · simp

/-- A state whose transition to `p` has taken effect either ends the transition or waits for its condition. -/
theorem advances_powerReached {s t : State} (h : Sized s → Sized t) (p : PState) :
    Advances s (if t.powerReady p then .next (t.powerDone p).powerNext else .next t) := by
  split
  · exact .next fun k => Sized.powerNext ((h k).of_sizes (by simp))
  · exact .next h

theorem execPwrStateReached_advances (s : State) : Advances s (execPwrStateReached s) := by
  unfold execPwrStateReached
  split
  · simp
  · refine advances_powerReached (fun h => ?_) _
    split
    · exact h
    · exact Sized.powerAct h _

/-! #### Definitions of Machine/RegExec -/

theorem execClrAttn_advances (s : State) : Advances s (execClrAttn s) :=
  .next fun h => Sized.busWrite h _ _ _ _

theorem execArbRankWrite_advances (reg : Fin 6) (be : BitVec 4) (v : Word32) (s : State) :
    Advances s (execArbRankWrite reg be v s) :=
  .next fun h => Sized.busWrite h _ _ _ _

theorem execArbHoldWrite_advances (reg : Fin 5) (be : BitVec 4) (v : Word32) (s : State) :
    Advances s (execArbHoldWrite reg be v s) :=
  .next fun h => Sized.busWrite h _ _ _ _

theorem execPairLoRead_advances (pair : Fin 6) (s : State) :
    Advances s (execPairLoRead pair s) := by simp [execPairLoRead]

theorem execPairHiWrite_advances (pair : Fin 6) (be : BitVec 4) (v : Word32) (s : State) :
    Advances s (execPairHiWrite pair be v s) :=
  .next fun h => Sized.busWrite h _ _ _ _

theorem execLedWinAddrWrite_advances (be : BitVec 4) (v : Word32) (s : State) :
    Advances s (execLedWinAddrWrite be v s) :=
  .next fun h => Sized.busWrite h _ _ _ _

theorem execLedWinDataRead_advances (s : State) : Advances s (execLedWinDataRead s) := by simp [execLedWinDataRead]

theorem execRegisterWrite_advances (off : BitVec 16) (dwords : Nat) (be : BitVec 8) (v : Word64) (s : State)
    (h : off.toNat % 4 = 0 ∧ dwords ≠ 0 ∧ off.toNat + 4 * dwords ≤ 65536) :
    Advances s (execRegisterWrite off dwords be v s) := by
  unfold execRegisterWrite
  rw [if_neg (by omega)]
  exact .next fun k => Sized.busWrite k _ _ _ _

/-! #### Definitions of Machine/RestartExec -/

theorem execClusterRestart_advances (cl : Cluster) (s : State) : Advances s (execClusterRestart cl s) := by
  unfold execClusterRestart
  split <;> simp

theorem execDieWarmRestart_advances (d : Die) (s : State) : Advances s (execDieWarmRestart d s) := by
  unfold execDieWarmRestart
  split <;> simp

theorem execHubCoreRestart_advances (held digest : Bool) (lost : List (Fin 16)) (s : State) :
    Advances s (execHubCoreRestart held digest lost s) := by
  unfold execHubCoreRestart
  repeat' split
  all_goals simp

theorem execRestartComplete_advances (u : RUnit) (s : State) : Advances s (execRestartComplete u s) := by
  have ends (c : Prop) [Decidable c] : Advances s (if c then .next (s.restartEnd u) else .next s) := by
    split
    · exact .next fun h => Sized.restartEnd h u
    · simp
  exact ends _

/-! #### Definitions of Machine/RingExec -/

theorem execAttentionPoll_advances (host : HostView) (s : State) : Advances s (execAttentionPoll host s) := by
  unfold execAttentionPoll
  dsimp only
  repeat' split
  all_goals simp

theorem execDescriptorFetch_advances (s : State) : Advances s (execDescriptorFetch s) := by
  unfold execDescriptorFetch
  repeat' split
  all_goals simp

theorem execCompletionWrite_advances (s : State) : Advances s (execCompletionWrite s) := by
  unfold execCompletionWrite
  repeat' split
  all_goals simp

theorem execCoalescingTimer_advances (ring : Fin 16384) (s : State) : Advances s (execCoalescingTimer ring s) := by
  unfold execCoalescingTimer
  repeat' split
  all_goals simp

theorem execMsixVectorUnmask_advances (v : Fin 2048) (s : State) : Advances s (execMsixVectorUnmask v s) := by
  unfold execMsixVectorUnmask
  dsimp only
  repeat' split
  all_goals simp

theorem execRingTblLoad_advances (host : HostView) (s : State) : Advances s (execRingTblLoad host s) := by
  unfold execRingTblLoad
  dsimp only
  split
  · simp
  · split
    · simp
    · exact .next fun h => Sized.loadTable (h.of_sizes (by simp))

/-! #### Definitions of Machine/SafetyExec -/

theorem execFaultInAssert_advances (s : State) : Advances s (execFaultInAssert s) := by
  unfold execFaultInAssert
  split <;> simp

theorem execFaultInDeassert_advances (s : State) : Advances s (execFaultInDeassert s) := by simp [execFaultInDeassert]

theorem execStaleTimerExpiry_advances (s : State) : Advances s (execStaleTimerExpiry s) := by
  unfold execStaleTimerExpiry
  split <;> simp

theorem execMergeWindowEnd_advances (s : State) : Advances s (execMergeWindowEnd s) := by
  unfold execMergeWindowEnd
  split <;> simp

theorem execPhaseWatchdogExpiry_advances (late : List Die) (hubLate : Bool) (s : State) :
    Advances s (execPhaseWatchdogExpiry late hubLate s) := by
  unfold execPhaseWatchdogExpiry
  split <;> simp

theorem execHoldLimitExpiry_advances (cls : ArbClass) (inst : Fin 32) (owner : Fin 16) (len : Nat) (s : State)
    (h : inst.val < (arbShape cls).2.1 ∧ owner.val < (arbShape cls).2.2) :
    Advances s (execHoldLimitExpiry cls inst owner len s) := by
  unfold execHoldLimitExpiry
  dsimp only
  rw [if_neg (by omega)]
  split
  · simp
  · cases cls <;> simp

/-! #### Definitions of Machine/SmiExec -/

theorem execSmiNop_advances (s : State) : Advances s (execSmiNop s) := by
  unfold execSmiNop
  split <;> simp

theorem execSmiRead_advances (addr : BitVec 16) (s : State) : Advances s (execSmiRead addr s) := by
  unfold execSmiRead
  repeat' split
  all_goals simp

theorem execSmiWrite_advances (addr : BitVec 16) (v : Word32) (s : State) : Advances s (execSmiWrite addr v s) :=
  .next fun h => Sized.smiWriteTo h _ _

theorem execCmdForceSafeSet_advances (s : State) : Advances s (execCmdForceSafeSet s) :=
  .next fun h => Sized.smiWriteTo h _ _

theorem execCmdForceSafeRelease_advances (s : State) : Advances s (execCmdForceSafeRelease s) :=
  .next fun h => Sized.smiWriteTo h _ _

theorem execCmdAck_advances (rseq : Word32) (s : State) : Advances s (execCmdAck rseq s) :=
  .next fun h => Sized.smiWriteTo h _ _

theorem execCmdLock_advances (s : State) : Advances s (execCmdLock s) :=
  .next fun h => Sized.smiWriteTo h _ _

theorem execSmiBadFrame_advances (why : BadFrame) (addr : BitVec 16) (s : State) :
    Advances s (execSmiBadFrame why addr s) := by
  unfold execSmiBadFrame
  dsimp only
  repeat' split
  all_goals simp

/-! #### Definitions of Machine/StartExec -/

theorem execPowerOnReset_advances (pwrgdLow : Bool) (s : State) : Advances s (execPowerOnReset pwrgdLow s) :=
  .next fun _ => powerOn_sized s pwrgdLow

theorem execPwrgdInFall_advances (s : State) : Advances s (execPwrgdInFall s) :=
  .next fun _ => powerOn_sized s true

theorem execStartup_advances (blockA blockB : List Byte) (fwA fwB sris hubBist : Bool) (hubInj : Nat) (s : State) :
    Advances s (execStartup blockA blockB fwA fwB sris hubBist hubInj s) := by
  unfold execStartup
  repeat' split
  all_goals simp

theorem execAonPowerUp_advances (s : State) : Advances s (execAonPowerUp s) := by
  unfold execAonPowerUp
  split <;> simp

theorem execAonPowerLoss_advances (s : State) : Advances s (execAonPowerLoss s) :=
  .next fun _ => { powerOn_sized s true with }

theorem execPdPwrEn_advances (d : Die) (s : State) : Advances s (execPdPwrEn d s) := by
  unfold execPdPwrEn
  dsimp only
  repeat' split
  all_goals simp

theorem execPdRailCheck_advances (d : Die) (good : Bool) (s : State) : Advances s (execPdRailCheck d good s) := by
  unfold execPdRailCheck
  dsimp only
  repeat' split
  all_goals simp

theorem execPresence_advances (link : Die) (rec : List Byte) (s : State) (h : rec.length = 64) :
    Advances s (execPresence link rec s) := by
  unfold execPresence
  dsimp only
  rw [if_neg (not_not_intro h)]
  split
  · simp
  · split
    · simp
    · split
      · simp
      · split <;> simp

theorem execAnnounceDeadline_advances (d : Die) (s : State) : Advances s (execAnnounceDeadline d s) := by
  unfold execAnnounceDeadline
  dsimp only
  split <;> simp

theorem execTrainingReport_advances (d : Die) (rec : List Byte) (s : State) (h : rec.length = 64) :
    Advances s (execTrainingReport d rec s) := by
  unfold execTrainingReport
  rw [if_neg (not_not_intro h)]
  simp

theorem execRingProbeRetry_advances (d : Die) (report : Option (List Byte)) (s : State)
    (h : ∀ rec, report = some rec → rec.length = 64) : Advances s (execRingProbeRetry d report s) := by
  unfold execRingProbeRetry
  split
  · simp
  · next rec =>
    rw [if_neg (not_not_intro (h rec rfl))]
    split <;> simp

theorem execTrainingDeadline_advances (d : Die) (s : State) : Advances s (execTrainingDeadline d s) := by
  unfold execTrainingDeadline
  split <;> simp

theorem execDieFence_advances (d : Die) (cause : FenceCause) (s : State) :
    Advances s (execDieFence d cause s) := by simp [execDieFence]

theorem execFenceRailCheck_advances (d : Die) (fell : Bool) (s : State) :
    Advances s (execFenceRailCheck d fell s) := by
  unfold execFenceRailCheck
  split <;> simp

theorem execFence_advances (s : State) : Advances s (execFence s) :=
  serve_advances_of_sizes fun d u => by simp

/-! #### Definitions of Machine/TimeExec -/

theorem execSetTime_advances (s : State) : Advances s (execSetTime s) :=
  serve_advances_of_sizes fun d u => by simp

theorem execTimeStep_advances (s : State) : Advances s (execTimeStep s) := by
  unfold execTimeStep
  repeat' split
  all_goals simp

theorem execTimeSlewStep_advances (s : State) : Advances s (execTimeSlewStep s) := by
  unfold execTimeSlewStep
  split <;> simp

theorem execSyncEdge_advances (lag : Fin 4096) (s : State) : Advances s (execSyncEdge lag s) := by
  unfold execSyncEdge
  repeat' split
  all_goals simp

theorem execSyncStuck_advances (s : State) : Advances s (execSyncStuck s) := by
  unfold execSyncStuck
  split <;> simp

theorem execSyncStuckEnd_advances (s : State) : Advances s (execSyncStuckEnd s) := by
  unfold execSyncStuckEnd
  split <;> simp

/-! ### All commands -/

/-- A well-formed command advances: every row of `exec` is one of the above. -/
theorem exec_advances (i : Instr) (s : State) (h : i.wf = true) : Advances s (exec i s) := by
  cases i with
  | powerOnReset pwrgdLow => exact execPowerOnReset_advances pwrgdLow s
  | pwrgdInFall => exact execPwrgdInFall_advances s
  | startup blockA blockB fwA fwB sris hubBist hubInj => exact execStartup_advances blockA blockB fwA fwB sris hubBist hubInj s
  | aonPowerUp => exact execAonPowerUp_advances s
  | pdPwrEn d => exact execPdPwrEn_advances d s
  | pdRailCheck d good => exact execPdRailCheck_advances d good s
  | ringProbeRetry d report => exact execRingProbeRetry_advances d report s (by rintro rec rfl; exact eq_of_beq h)
  | presence link rec => exact execPresence_advances link rec s (eq_of_beq h)
  | announceDeadline d => exact execAnnounceDeadline_advances d s
  | trainingReport d rec => exact execTrainingReport_advances d rec s (eq_of_beq h)
  | trainingDeadline d => exact execTrainingDeadline_advances d s
  | dieFence d cause => exact execDieFence_advances d cause s
  | fenceRailCheck d fell => exact execFenceRailCheck_advances d fell s
  | functionLevelReset => exact execFunctionLevelReset_advances s
  | hotReset => exact execHotReset_advances s
  | linkDownReset => exact execLinkDownReset_advances s
  | pciePerst => exact execPciePerst_advances s
  | d3hotEntry => exact execD3hotEntry_advances s
  | msixVectorUnmask v => exact execMsixVectorUnmask_advances v s
  | attentionPoll host => exact execAttentionPoll_advances host s
  | descriptorFetch => exact execDescriptorFetch_advances s
  | completionWrite => exact execCompletionWrite_advances s
  | coalescingTimer ring => exact execCoalescingTimer_advances ring s
  | nop => exact execNop_advances s
  | loadImage => exact execLoadImage_advances s
  | imageActivation => exact execImageActivation_advances s
  | unloadImage => exact execUnloadImage_advances s
  | patchParams => exact execPatchParams_advances s
  | worldLayerPatch => exact execWorldLayerPatch_advances s
  | worldObjects => exact execWorldObjects_advances s
  | worldStatic => exact execWorldStatic_advances s
  | egoState => exact execEgoState_advances s
  | planCycle => exact execPlanCycle_advances s
  | retouchPlan => exact execRetouchPlan_advances s
  | suspend => exact execSuspend_advances s
  | resume => exact execResume_advances s
  | cancel => exact execCancel_advances s
  | queryOp => exact execQueryOp_advances s
  | maintStart => exact execMaintStart_advances s
  | roadmapGrow => exact execRoadmapGrow_advances s
  | ledgerRead => exact execLedgerRead_advances s
  | setTime => exact execSetTime_advances s
  | timeStep => exact execTimeStep_advances s
  | timeSlewStep => exact execTimeSlewStep_advances s
  | fence => exact execFence_advances s
  | longopCheckpoint tag ev => exact execLongopCheckpoint_advances tag ev s
  | longopDequeue => exact execLongopDequeue_advances s
  | selftestDie d => exact execSelftestDie_advances d s
  | retrainDie d => exact execRetrainDie_advances d s
  | cycleRelease => exact execCycleRelease_advances s
  | phaseBoundary lockstep => exact execPhaseBoundary_advances lockstep s
  | muMerge entry pass hw => exact execMuMerge_advances entry pass hw s
  | issue c t => exact execIssue_advances c t s
  | get c t => exact execGet_advances c t s
  | waitEvent c t => exact execWaitEvent_advances c t s
  | signal c t => exact execSignal_advances c t s
  | timedWait c t => exact execTimedWait_advances c t s
  | msg c t => exact execMsg_advances c t s
  | halt c t => exact execHalt_advances c t s
  | timedWaitExpiry c t => exact execTimedWaitExpiry_advances c t s
  | duGrant d => exact execDuGrant_advances d s
  | messageDelivery dst => exact execMessageDelivery_advances dst s
  | phaseEpochAdvance d => exact execPhaseEpochAdvance_advances d s
  | boundSourceFire d => exact execBoundSourceFire_advances d s
  | quiescenceExpiry d => exact execQuiescenceExpiry_advances d s
  | engineFlag c => exact execEngineFlag_advances c s
  | buildCspace cl _ hw => exact execBuildCspace_advances cl hw s (eq_of_beq h)
  | buildOcc cl _ hw => exact execBuildOcc_advances cl hw s (eq_of_beq h)
  | buildStatic cl _ hw => exact execBuildStatic_advances cl hw s (eq_of_beq h)
  | expandLib c _ hw => exact execExpandLib_advances c hw s (eq_of_beq h)
  | expandSeq c _ hw => exact execExpandSeq_advances c hw s (eq_of_beq h)
  | buildPath c _ hw => exact execBuildPath_advances c hw s (eq_of_beq h)
  | rmSearch c _ hw => exact execRmSearch_advances c hw s (eq_of_beq h)
  | checkStream c _ hw => exact execCheckStream_advances c hw s (eq_of_beq h)
  | checkTraj c _ hw => exact execCheckTraj_advances c hw s (eq_of_beq h)
  | checkPoses c _ hw => exact execCheckPoses_advances c hw s (eq_of_beq h)
  | costStream c _ hw => exact execCostStream_advances c hw s (eq_of_beq h)
  | costTraj c _ hw => exact execCostTraj_advances c hw s (eq_of_beq h)
  | costFinal c _ hw => exact execCostFinal_advances c hw s (eq_of_beq h)
  | select c _ hw => exact execSelect_advances c hw s (eq_of_beq h)
  | merge c _ hw => exact execMerge_advances c hw s (eq_of_beq h)
  | solve c _ hw late => exact execSolve_advances c hw late s (eq_of_beq h)
  | emit c _ hw => exact execEmit_advances c hw s (eq_of_beq h)
  | key c _ hw => exact execKey_advances c hw s (eq_of_beq h)
  | copy cl mv _ hw => exact execCopy_advances cl mv hw s h
  | fill cl mv _ hw => exact execFill_advances cl mv hw s h
  | add32 cl mv _ hw => exact execAdd32_advances cl mv hw s h
  | add64 cl mv _ hw => exact execAdd64_advances cl mv hw s h
  | swap32 cl mv _ hw => exact execSwap32_advances cl mv hw s h
  | swap64 cl mv _ hw => exact execSwap64_advances cl mv hw s h
  | gets cl line => exact execGets_advances cl line s
  | getm cl line off bytes => exact execGetm_advances cl line off bytes s (of_decide_eq_true h)
  | putm cl line => exact execPutm_advances cl line s
  | data cl line => exact execData_advances cl line s
  | inv cl line => exact execInv_advances cl line s
  | invAck cl line => exact execInvAck_advances cl line s
  | wbAck cl line => exact execWbAck_advances cl line s
  | ucRead req line => exact execUcRead_advances req line s
  | ucWrite req line off bytes => exact execUcWrite_advances req line off bytes s (of_decide_eq_true h)
  | respErr req line => exact execRespErr_advances req line s
  | list src epoch pkt => exact execList_advances src epoch pkt s h
  | bulk src da bytes => exact execBulk_advances src da bytes s (of_decide_eq_true h)
  | faultRec src rec => exact execFaultRec_advances src rec s (eq_of_beq h)
  | flitReceived link end_ sent err => exact execFlitReceived_advances link end_ sent err s
  | replayTimeout link end_ => exact execReplayTimeout_advances link end_ s
  | holdLimitExpiry cls inst owner len => exact execHoldLimitExpiry_advances cls inst owner len s (of_decide_eq_true h)
  | phaseWatchdogExpiry late hubLate => exact execPhaseWatchdogExpiry_advances late hubLate s
  | clusterRestart cl => exact execClusterRestart_advances cl s
  | dieWarmRestart d => exact execDieWarmRestart_advances d s
  | hubCoreRestart held digest lost => exact execHubCoreRestart_advances held digest lost s
  | staleTimerExpiry => exact execStaleTimerExpiry_advances s
  | mergeWindowEnd => exact execMergeWindowEnd_advances s
  | clockFault clk loc => exact execClockFault_advances clk loc s h
  | supplyExcursion rail belowFloor full => exact execSupplyExcursion_advances rail belowFloor full s h
  | thermalEvaluation sites => exact execThermalEvaluation_advances sites s h
  | eclkStepChange => exact execEclkStepChange_advances s
  | faultInAssert => exact execFaultInAssert_advances s
  | faultInDeassert => exact execFaultInDeassert_advances s
  | syncEdge lag => exact execSyncEdge_advances lag s
  | syncStuck => exact execSyncStuck_advances s
  | pmbusPollRound reads => exact execPmbusPollRound_advances reads s (eq_of_beq h)
  | patinaSample readings => exact execPatinaSample_advances readings s h
  | checkpointTimer badSlots => exact execCheckpointTimer_advances badSlots s
  | identityRefresh => exact execIdentityRefresh_advances s
  | pwrReqActive => exact execPwrReqActive_advances s
  | pwrReqIdle => exact execPwrReqIdle_advances s
  | pwrReqStandby => exact execPwrReqStandby_advances s
  | pwrReqOff => exact execPwrReqOff_advances s
  | pwrStateReached => exact execPwrStateReached_advances s
  | ringTblLoad host => exact execRingTblLoad_advances host s
  | clrAttn => exact execClrAttn_advances s
  | arbRankWrite reg be v => exact execArbRankWrite_advances reg be v s
  | arbHoldWrite reg be v => exact execArbHoldWrite_advances reg be v s
  | pairLoRead pair => exact execPairLoRead_advances pair s
  | pairHiWrite pair be v => exact execPairHiWrite_advances pair be v s
  | ledWinAddrWrite be v => exact execLedWinAddrWrite_advances be v s
  | ledWinDataRead => exact execLedWinDataRead_advances s
  | registerWrite off dwords be v => exact execRegisterWrite_advances off dwords be v s (by simpa [Instr.wf, and_assoc] using h)
  | smiNop => exact execSmiNop_advances s
  | smiRead addr => exact execSmiRead_advances addr s
  | smiWrite addr v => exact execSmiWrite_advances addr v s
  | cmdForceSafeSet => exact execCmdForceSafeSet_advances s
  | cmdForceSafeRelease => exact execCmdForceSafeRelease_advances s
  | cmdAck rseq => exact execCmdAck_advances rseq s
  | cmdLock => exact execCmdLock_advances s
  | restartComplete u => exact execRestartComplete_advances u s
  | retrainComplete d ok => exact execRetrainComplete_advances d ok s
  | linkRecoveryDone link ok => exact execLinkRecoveryDone_advances link ok s
  | aonPowerLoss => exact execAonPowerLoss_advances s
  | thermAlertChange level => exact execThermAlertChange_advances level s
  | syncStuckEnd => exact execSyncStuckEnd_advances s
  | pciePerstRelease => exact execPciePerstRelease_advances s
  | d0Return => exact execD0Return_advances s
  | smiBadFrame why addr => exact execSmiBadFrame_advances why addr s
  -- RECALL, whose name is a tactic's word too
  | _ => exact execRecall_advances _ _ s

/-- A command that is not well-formed is malformed: its row asks for what `Instr.wf` asks for, first of all. -/
theorem exec_malformed (i : Instr) (s : State) (h : i.wf = false) : exec i s = .fault .malformed := by
  cases i
  case presence | trainingReport | buildCspace | buildOcc | buildStatic | expandLib | expandSeq | buildPath |
      rmSearch | checkStream | checkTraj | checkPoses | costStream | costTraj | costFinal | select | merge |
      emit | key | faultRec | pmbusPollRound =>
    exact if_pos (ne_of_beq_false h)
  case getm | ucWrite =>
    exact if_pos (Nat.lt_of_not_le (of_decide_eq_false h))
  case supplyExcursion | thermalEvaluation | patinaSample =>
    exact if_pos (by simpa [Instr.wf] using h)
  case ringProbeRetry d report =>
    cases report with
    | none => cases h
    | some rec => exact if_pos (ne_of_beq_false h)
  case solve =>
    have bad := ne_of_beq_false h
    simp [exec, execSolve, qeRun_malformed bad]
  case copy =>
    unfold exec execCopy
    exact moverRun_malformed h
  case fill =>
    unfold exec execFill
    exact moverRun_malformed h
  case add32 =>
    unfold exec execAdd32
    exact moverRun_malformed h
  case add64 =>
    unfold exec execAdd64
    exact moverRun_malformed h
  case swap32 =>
    unfold exec execSwap32
    exact moverRun_malformed h
  case swap64 =>
    unfold exec execSwap64
    exact moverRun_malformed h
  case list src epoch pkt =>
    cases pkt with
    | merge entry pass bytes => exact if_pos (ne_of_beq_false h)
    | dual cl off bytes => cases h
  case bulk =>
    have hlen := of_decide_eq_false h
    exact if_pos (by omega)
  case holdLimitExpiry =>
    have hout := of_decide_eq_false h
    exact if_pos (by omega)
  case clockFault clk loc =>
    have hc : clockClass clk.val loc.val = none := by simpa [Instr.wf] using h
    simp only [exec, execClockFault, hc]
  case registerWrite =>
    exact if_pos (by simpa [Instr.wf, or_assoc, imp_iff_not_or] using h)
  all_goals cases h

/-- Settles O4: the rows of `exec` and `Instr.wf` ask for the same of a command's operands. -/
theorem wellFormedCommandsRun : Obligations.WellFormedCommandsRun := fun i s =>
  ⟨fun h => (exec_advances i s h).imp fun _ ht => ht.1, exec_malformed i s⟩

/-- Settles O7: every command keeps the sizes of the tables, or gives them their sizes anew. -/
theorem tablesKeepSizes : Obligations.TablesKeepSizes := by
  intro s t h ht
  unfold step at ht
  split at ht
  · cases ht
    exact h.of_sizes s.tick_sizes
  · next c rest _ =>
    cases hc : c.wf with
    | true =>
      obtain ⟨u, hu, keep⟩ := exec_advances c { s with pending := rest } hc
      cases hu.symm.trans ht
      exact keep { h with }
    | false => cases (exec_malformed c _ hc).symm.trans ht

end Sys2Proof

namespace Sys2Proof.Machine
open Sys2Proof

/-! ## CYCLE_RELEASE: what the cycle boundary and the release leave of the state -/

/-- What neither a fault's record, nor a change of the long operations, nor a dispatch unit's release touches. The hub's
stale drops, which a report clears, do not count. -/
structure Steady where
  boot : Boot
  regs : Regs
  time : TimeBase
  smi : Smi
  world : World
  eng : EngSt
  cyc : CycSt
  params : List Param
  patches : List Patch

/-- The steady part of a state. -/
def State.steady (s : State) : Steady :=
  ⟨s.boot, s.regs, s.time, s.smi, s.world, s.eng, { s.cyc with stale := (0, 0) }, s.img.params, s.img.patches⟩

/-- What a cycle boundary leaves as it was: not the bytes laid in the world stores, not the phase epoch. -/
def Steady.inputs (v : Steady) : Steady :=
  { v with world := { v.world with laid := [] }, cyc := { v.cyc with epoch := 0 } }

/-! ### Records and operations -/

@[simp] theorem State.mapDie_steady (s : State) (d : Nat) (f : DieSt → DieSt) : (s.mapDie d f).steady = s.steady := rfl
@[simp] theorem State.mapDu_steady (s : State) (d : Nat) (f : DuState → DuState) : (s.mapDu d f).steady = s.steady := rfl
@[simp] theorem State.poke_steady (s : State) (a : Nat) (bs : List Byte) : (s.poke a bs).steady = s.steady := rfl
@[simp] theorem State.mapThr_steady (s : State) (c t : Nat) (f : Thread → Thread) : (s.mapThr c t f).steady = s.steady := rfl
@[simp] theorem State.cohWrite_steady (s : State) (a : Nat) (bs : List Byte) : (s.cohWrite a bs).steady = s.steady := rfl
@[simp] theorem State.clearCaches_steady (s : State) (p : Nat → Bool) : (s.clearCaches p).steady = s.steady := rfl

@[simp] theorem State.record_steady (s : State) (f : Fault0) : (s.record f).steady = s.steady := by simp [State.steady]

@[simp] theorem State.completeAll_steady (s : State) (xs : List (Desc × Status)) : (s.completeAll xs).steady = s.steady := by
  simp [State.steady]

@[simp] theorem State.completeOp_steady (s : State) (o : LongOp) : (s.completeOp o).steady = s.steady := by
  simp [State.steady]

@[simp] theorem State.fireOn_steady (s : State) (ds : List Nat) (b : BindSource) (n : Nat) :
    (s.fireOn ds b n).steady = s.steady := by
  simp [State.steady]

/-- What either branch keeps, the choice between them keeps. -/
theorem ite_steady {c : Prop} [Decidable c] {t u s : State} (ht : t.steady = s.steady) (hu : u.steady = s.steady) :
    (if c then t else u).steady = s.steady := by
  split <;> assumption

@[simp] theorem State.begin_steady (s : State) (o : LongOp) : (s.begin_ o).steady = s.steady := by
  unfold State.begin_
  dsimp only
  repeat' split
  all_goals rfl

@[simp] theorem State.opsRun_steady (s : State) (old : List LongOp) : (s.opsRun old).steady = s.steady := by
  have fired (u : State) (xs ys : List LongOp) : State.steady (ys.foldl (fun (s : State) o =>
      s.fireOn ((List.range 8).filter (fun d => bitAt o.dies d)) .longopRun o.cls.code) (xs.foldl State.begin_ u)) = u.steady :=
    (foldl_same State.steady (fun _ _ => by simp) _ _).trans (foldl_same State.steady (fun _ _ => by simp) _ _)
  unfold State.opsRun
  dsimp only
  split <;> split <;> exact fired _ _ _

theorem State.clearStale_steady (s : State) : State.steady { s with cyc := { s.cyc with stale := (0, 0) } } = s.steady := rfl

@[simp] theorem State.staleReports_steady (s : State) : s.staleReports.steady = s.steady := by
  have reported (u : State) : State.steady ((List.range 8).foldl (fun (s : State) d =>
      if (s.duOf d).stale = 0 then s
      else (s.record ⟨.staleDrop, .info, ⟨d, 15, 15, 0xA⟩, (s.duOf d).stale, (s.duOf d).staleEpoch⟩).mapDu d
        (fun u => { u with stale := 0, staleEpoch := 0 })) u) = u.steady :=
    foldl_same State.steady (fun u x => by split <;> simp) _ _
  unfold State.staleReports
  dsimp only
  split
  · exact reported s
  · exact (State.clearStale_steady _).trans ((State.record_steady _ _).trans (reported s))

@[simp] theorem State.runEnds_steady (s : State) (old : List LongOp) : (s.runEnds old).steady = s.steady := by
  unfold State.runEnds
  split <;> simp

@[simp] theorem State.withOps_steady (s : State) (r : OpsOut) : (s.withOps r).steady = s.steady := by
  unfold State.withOps
  simp only [State.runEnds_steady, State.opsRun_steady, State.completeAll_steady]
  exact foldl_same State.steady (fun _ _ => by simp) _ _

/-! ### The cycle boundary -/

@[simp] theorem State.thermHold_steady (s : State) : s.thermHold.steady = s.steady :=
  State.record_steady { s with saf := { s.saf with hold := true } } _

@[simp] theorem State.newFloor_steady (s : State) : s.newFloor.steady = s.steady := by
  unfold State.newFloor
  split
  · rfl
  · split
    · simp
    · rfl

@[simp] theorem State.placeCopies_steady (s : State) (d : Nat) : (s.placeCopies d).steady = s.steady := by
  unfold State.placeCopies
  dsimp only
  repeat' split
  all_goals rfl

@[simp] theorem State.freshDu_steady (s : State) (d : Nat) : (s.freshDu d).steady = s.steady := by simp [State.steady]

@[simp] theorem State.loadDie_steady (s : State) (d : Nat) : (s.loadDie d).steady = s.steady := by
  refine (State.freshDu_steady _ d).trans (foldl_same State.steady (fun u e => ?_) _ s)
  rfl

@[simp] theorem State.loadTables_steady (s : State) : s.loadTables.steady = s.steady :=
  foldl_same State.steady (fun _ _ => by simp) _ _

@[simp] theorem State.takeUp_steady (s : State) (ds : List Nat) : (s.takeUp ds).steady = s.steady := by
  unfold State.takeUp
  refine (foldl_same State.steady (fun u d => u.placeCopies_steady d) ds _).trans ?_
  exact foldl_same State.steady (fun u d => u.mapDie_steady d _) _ s

theorem State.restoreStore_inputs (s : State) (d : Nat) : (s.restoreStore d).steady.inputs = s.steady.inputs := by
  unfold State.restoreStore
  split <;> rfl

theorem State.rejoinDies_inputs (s : State) : s.rejoinDies.steady.inputs = s.steady.inputs := by
  unfold State.rejoinDies
  refine foldl_same (fun s => s.steady.inputs) (fun u d => ?_) _ s
  exact u.restoreStore_inputs d

theorem State.chooseArmature_inputs (s : State) : s.chooseArmature.steady.inputs = s.steady.inputs := by
  unfold State.chooseArmature
  split
  · rfl
  · next i _ =>
    generalize (if s.healthy.length < 2 then none else chooseArm i.arms s.serving.length) = k
    dsimp only
    split
    · rfl
    · simp only [State.newFloor_steady, State.loadTables_steady, State.takeUp_steady, State.clearCaches_steady]
      split <;> rfl

/-- A cycle boundary (R310, R408) keeps what a release reads of the host's side: the queue, the patches and parameters,
the ego states and the epoch number. -/
theorem State.boundary_inputs (s : State) : s.boundary.steady.inputs = s.steady.inputs :=
  s.rejoinDies.chooseArmature_inputs.trans s.rejoinDies_inputs

/-! ### The snapshot -/

/-- The instant of a world's last snapshot. -/
def World.moment (w : World) : Nat × Nat × Option Ego := (w.epoch, w.worldTime, w.ego)

theorem World.foldl_moment {α : Type} {g : World → α → World} (h : ∀ w x, (g w x).moment = w.moment) (xs : List α) (w : World) :
    (xs.foldl g w).moment = w.moment := by
  induction xs generalizing w with
  | nil => rfl
  | cons x r ih => exact (ih (g w x)).trans (h w x)

theorem World.applyLayers_moment (w : World) (c : WorldCfg) (oS oD : Int) (tiles : List (Nat × List (Nat × List Byte))) :
    (w.applyLayers c oS oD tiles).moment = w.moment := by
  unfold World.applyLayers
  split
  · rfl
  · exact World.foldl_moment (fun u e => by split <;> rfl) _ _

theorem World.putStatic_moment (w : World) (c : WorldCfg) (slot : Nat) (p : Option Prim) :
    (w.putStatic c slot p).moment = w.moment := rfl

theorem World.applyStatics_moment (w : World) (c : WorldCfg) (k : Nat) (all : Bool) (recs : List (Nat × Option Prim)) :
    (w.applyStatics c k all recs).moment = w.moment := by
  unfold World.applyStatics
  refine (World.foldl_moment (fun v e => World.putStatic_moment v ..) _ _).trans ?_
  split
  · exact World.foldl_moment (fun v e => World.putStatic_moment v ..) _ _
  · rfl

theorem World.applyUpdate_moment (w : World) (c : WorldCfg) (k : Nat) (u : Update) : (w.applyUpdate c k u).moment = w.moment := by
  unfold World.applyUpdate
  split
  · exact World.applyLayers_moment ..
  · rfl
  · rfl
  · exact World.applyStatics_moment ..

theorem World.snapshot_moment (w : World) (c : WorldCfg) (reach wt : Nat) (e : Ego) :
    (w.snapshot c reach wt e).moment = (w.nextEpoch, wt, some e) :=
  World.foldl_moment (g := fun w k => w.applyStream c wt k)
    (fun v k => World.foldl_moment (fun x u => x.applyUpdate_moment c k u) _ v) _ _

theorem State.snap_steady (s : State) (i : Image) (w : Nat) (e : Ego) :
    (s.snap i w e).steady = { s.steady with world := (s.snap i w e).world } := by
  unfold State.snap State.wrapEpoch
  dsimp only
  split <;> rfl

theorem State.snap_pkg_clk (s : State) (i : Image) (w : Nat) (e : Ego) :
    (s.snap i w e).pkg = s.pkg ∧ (s.snap i w e).clk = s.clk := by
  unfold State.snap State.wrapEpoch
  dsimp only
  split <;> exact ⟨rfl, rfl⟩

theorem State.snap_moment (s : State) (i : Image) (w : Nat) (e : Ego) :
    (s.snap i w e).world.moment = (s.world.nextEpoch, w, some e) := by
  unfold State.snap State.wrapEpoch
  dsimp only
  split <;> exact World.snapshot_moment ..

/-! ### The release -/

/-- A fault of class INFO is recorded, and no reaction follows (R479). -/
theorem State.fault_info_steady (s : State) {f : Fault0} (h : f.cls = .info) : (s.fault f).steady = s.steady := by
  simp [State.fault, h]

/-- A lost context of a long operation's thread ends the operation and no cycle (R319, R452). -/
@[simp] theorem State.contextLost_steady (s : State) (c t : Nat) (x : Thread) : (s.contextLost c t x 0).steady = s.steady := by
  unfold State.contextLost
  simp [State.fault_info_steady]

theorem State.pushFrame_steady {s u : State} {c t reason : Nat} {x : Thread} (h : s.pushFrame c t reason x = some u) :
    u.steady = s.steady := by
  unfold State.pushFrame at h
  split at h
  · cases h
  · split at h
    · rw [← Option.some.inj h, State.mapThr_steady, State.poke_steady]
    · cases h

@[simp] theorem State.saveThreads_steady (s : State) (d : Nat) : (s.saveThreads d).steady = s.steady := by
  unfold State.saveThreads
  refine foldl_same State.steady (fun u k => ?_) _ s
  dsimp only
  split
  · refine ite_steady ?_ rfl
    split
    · next h => exact (State.mapDu_steady _ _ _).trans (State.pushFrame_steady h)
    · exact State.contextLost_steady ..
  · rfl

@[simp] theorem State.releaseDus_steady (s : State) (ds : List Nat) : (s.releaseDus ds).steady = s.steady := by
  unfold State.releaseDus
  refine foldl_same State.steady (fun u d => ?_) ds s
  have saved : (if s.growthHeld ∧ (u.duOf d).saved.isEmpty then u.saveThreads d else u).steady = u.steady := by
    split <;> simp
  dsimp only
  split <;> exact saved

/-- The cycle that a release of a descriptor starts, on the dies of the armature (R27, R28, R308, R322). -/
structure Released (s : State) (d : Desc) (a : Armature) (c : Cycle) : Prop where
  desc : c.desc = d
  phase : c.phase = 1
  retouch : c.retouch = (d.head.opcode == 0x0031)
  dies : c.dies = s.serving.take a.ndie
  release : c.release = s.time.now
  step : c.step = s.clk.step
  passed : c.passed = []
  lists : c.lists = []
  params : c.params = s.img.patches.foldl (fun ps y => applyPatch ps y.entries) s.img.params

/-- What a release changes of the steady part (R28, R341): the cycle, its phase epoch and date, the engines emptied. -/
def Steady.release (v : Steady) (c : Cycle) : Steady :=
  { v with eng := { EngSt.reset with flags := v.eng.flags.filter (fun f => f.cause.isSome) }
           cyc := { v.cyc with cur := some c, epoch := (v.cyc.epoch + 1) % 2 ^ 32, lastRelease := some v.time.now } }

theorem State.released_steady (s : State) (c : Cycle) (ds : List Nat) :
    State.steady (State.fireOn (State.releaseDus { s with
      cyc := { s.cyc with cur := some c, epoch := (s.cyc.epoch + 1) % 2 ^ 32, lastRelease := some s.time.now }
      eng := { EngSt.reset with flags := s.eng.flags.filter (fun f => f.cause.isSome) } } ds) ds .phaseRelease 1)
      = s.steady.release c := by
  rw [State.fireOn_steady, State.releaseDus_steady]
  rfl

/-- A cycle begins on the snapshot (R98) and the patched parameters (R322); all else of the steady part stands. -/
theorem State.beginCycle_steady (s : State) (d : Desc) (i : Image) (a : Armature) (e : Ego) :
    ∃ c, Released s d a c ∧ (s.beginCycle d i a e).steady = Steady.release { s.steady with
      world := (s.applyPatches.snap i d.worldTime e).world
      params := s.img.patches.foldl (fun ps y => applyPatch ps y.entries) s.img.params
      patches := [] } c := by
  have snapped := s.applyPatches.snap_steady i d.worldTime e
  obtain ⟨hpkg, hclk⟩ := s.applyPatches.snap_pkg_clk i d.worldTime e
  unfold State.beginCycle
  generalize s.applyPatches.snap i d.worldTime e = u at *
  have yielded := (u.withOps_steady (yieldOps u.ops)).trans snapped
  refine ⟨_, ?_, (State.released_steady ..).trans (congrArg (Steady.release · _) yielded)⟩
  have hserving : u.serving = s.serving := by
    unfold State.serving State.die
    rw [hpkg]
    rfl
  have htime : u.time = s.time := congrArg Steady.time snapped
  have hparams := congrArg Steady.params snapped
  exact { desc := rfl, phase := rfl, retouch := rfl, passed := rfl, lists := rfl, params := hparams
          dies := congrArg (List.take a.ndie) hserving
          release := congrArg TimeBase.now htime
          step := congrArg ClockPower.step hclk }

/-- A cycle that R37 does not stop has an image, an armature and an ego state. -/
theorem State.releaseStop_none {s : State} {d : Desc} (h : s.releaseStop d = none) :
    ∃ i a e, s.img.active = some i ∧ s.armature = some a ∧ pickEgo d.worldTime s.world.egos = some e := by
  unfold State.releaseStop at h
  split at h
  · next i a hi ha =>
    cases he : pickEgo d.worldTime s.world.egos with
    | some e => exact ⟨i, a, e, hi, ha, rfl⟩
    | none =>
      simp only [he, Option.isNone_none, if_true] at h
      repeat' split at h
      all_goals cases h
  · cases h

theorem State.releaseCycle_of_stop {s : State} {d : Desc} {st : Status} (h : s.releaseStop d = some st) :
    s.releaseCycle d = { s.complete d st 0 0 with saf := if st = .noImage then s.saf.set 6 else s.saf } := by
  unfold State.releaseCycle
  simp only [h]
  split <;> rfl

/-- CYCLE_RELEASE where nothing keeps the head of the queue back: it is put to R37 at the cycle boundary. -/
theorem execCycleRelease_boundary {s : State} {d : Desc} {rest : List Desc} (hcur : s.cyc.cur = none)
    (hq : s.cyc.queue = d :: rest) (hdue : s.saf.due = []) (hact : s.saf.active = []) (hbusy : s.clk.busy = none)
    (hreach : s.clk.reached = .active) (hgrow : s.growStops = true) :
    exec .cycleRelease s = .next ((State.boundary { s with cyc := { s.cyc with queue := rest } }).releaseCycle d) := by
  have can : s.canRelease = true := by simp [State.canRelease, hcur, hq, hdue, hact, hbusy, hreach]
  simp [exec, execCycleRelease, hcur, hq, can, hgrow]

end Sys2Proof.Machine

namespace Sys2Proof
open Sys2Proof.Machine

/-- Settles O36: the boundary keeps the queue, the patches, the ego states and the epoch number that the release reads, and
the release's own operations keep what it has set. -/
theorem cyclesAreReleased : Obligations.CyclesAreReleased := by
  intro d rest s b hcur hq hdue hact hbusy hreach hgrow hb
  have hexec := execCycleRelease_boundary hcur hq hdue hact hbusy hreach hgrow
  rw [← hb] at hexec
  refine ⟨fun st hst => hexec.trans (congrArg _ (State.releaseCycle_of_stop hst)), fun hgo => ?_⟩
  obtain ⟨i, a, e, hi, ha, he⟩ := State.releaseStop_none hgo
  obtain ⟨c, hc, ht⟩ := b.beginCycle_steady d i a e
  have hbegin : b.releaseCycle d = b.beginCycle d i a e := by simp [State.releaseCycle, hgo, hi, ha, he]
  rw [hbegin] at hexec
  have hin : b.steady.inputs = { s.steady with cyc := { s.steady.cyc with queue := rest } }.inputs :=
    hb ▸ State.boundary_inputs _
  have hqueue : b.cyc.queue = rest := congrArg (fun v => v.cyc.queue) hin
  have hpatches : b.img.patches = s.img.patches := congrArg Steady.patches hin
  have hparams : b.img.params = s.img.params := congrArg Steady.params hin
  have htime : b.time = s.time := congrArg Steady.time hin
  have hegos : b.world.egos = s.world.egos := congrArg (fun v => v.world.egos) hin
  have hepoch : b.world.nextEpoch = s.world.nextEpoch := congrArg (fun v => v.world.nextEpoch) hin
  have moment : (b.beginCycle d i a e).world.moment = (b.world.nextEpoch, d.worldTime, some e) :=
    (congrArg (fun v => v.world.moment) ht).trans (b.applyPatches.snap_moment i d.worldTime e)
  have tCyc := congrArg Steady.cyc ht
  exact ⟨_, c, a, e, hexec, congrArg CycSt.cur tCyc, ha, hegos ▸ he, hc.desc, hc.phase, hc.retouch, hc.dies,
    htime ▸ hc.release, hc.step, hc.passed, hc.lists, hpatches ▸ hparams ▸ hc.params,
    (congrArg CycSt.queue tCyc).trans hqueue, congrArg CycSt.epoch tCyc, htime ▸ congrArg CycSt.lastRelease tCyc,
    congrArg Steady.patches ht, (congrArg Steady.params ht).trans hc.params.symm,
    (congrArg Prod.fst moment).trans hepoch, congrArg (fun m => m.2.1) moment, congrArg (fun m => m.2.2) moment,
    congrArg (fun v => v.eng.queues) ht, (congrArg Steady.regs ht).trans (congrArg Steady.regs hin),
    (congrArg Steady.smi ht).trans (congrArg Steady.smi hin), (congrArg Steady.time ht).trans htime,
    (congrArg Steady.boot ht).trans (congrArg Steady.boot hin)⟩

end Sys2Proof

namespace Sys2Proof.Machine
open Sys2Proof

/-! ## PHASE_BOUNDARY: a table mismatch at a die that is fenced already -/

/-- A die is fenced once: a fence of a fenced die does nothing (R407). -/
theorem State.fenceDie_of_fenced {s : State} {d : Nat} (h : (s.die d).fenced.isSome = true) (cause : FenceCause) (st : Status) :
    s.fenceDie d cause st = s := if_pos h

/-- A restart that escalates to the fence of a fenced die is recorded, and no reaction follows (R479, R480, R481). -/
theorem State.fault_of_fenced {s : State} {f : Fault0} {u : RUnit} {d : Nat} (hcls : f.cls = .restartCluster)
    (hunit : f.unit = some u) (hesc : (s.record f).saf.escalate u = .fence d) (hd : (s.die d).fenced.isSome = true) :
    s.fault f = s.record f := by
  have hd' : ((s.record f).die d).fenced.isSome = true := by simpa [State.die] using hd
  simp only [State.fault, hcls, hunit, State.restartFault, hesc, State.fenceDie_of_fenced hd']

/-- The end of Snapshot on one die of one core, whose table is corrupted, raises that core's fault (R317). -/
theorem State.endSnapshot_mismatch {s : State} {c : Cycle} {d : Nat} {k : CoreEntry} (hdies : c.dies = [d])
    (hcores : s.cores d = [k]) (hcrc : k.crcNow ≠ k.tblCrc) :
    s.endSnapshot c = s.fault ⟨.tableCrc, .restartCluster, ⟨d, 0, 0, 1⟩, 0, k.crcNow⟩ := by
  simp [State.endSnapshot, hdies, hcores, hcrc, State.faults, orderFaults, sortBy, insertBy]

/-- PHASE_BOUNDARY of phase 1, every share of it done, is the end of Snapshot. -/
theorem execPhaseBoundary_snapshot {s : State} {c : Cycle} {i : Image} {a : Armature} {e : Ego} (hcur : s.cyc.cur = some c)
    (himg : s.img.active = some i) (harm : s.armature = some a) (hego : s.world.ego = some e) (hdone : s.phaseDone c a = true)
    (hphase : c.phase = 1) : exec (.phaseBoundary .clean) s = .next (s.endSnapshot c) := by
  show execPhaseBoundary .clean s = _
  unfold execPhaseBoundary
  rw [hcur, himg, harm, hego]
  dsimp only
  rw [hdone, hphase]
  rfl

namespace FencedMidCycle

/-- A core of empty tables whose TBL_CRC is not theirs. -/
def core : CoreEntry := ⟨[], [], 0, 0, 0, 0, 1, [], []⟩

/-- An armature of one die slot with that core alone, without selection entries. -/
def arm : Armature :=
  ⟨1, 3, false, 0, 0, 0, 0, 1, 1, [⟨[], 0, [core], ⟨.rtk, [], 0, [], 0, 0, [], [], 0, 0, [], true⟩⟩], [], [], []⟩

def image : Image :=
  ⟨⟨1, 0, 0, 0, 1, false, false, false, 0, 0, 0, 0, 0, 0⟩, [arm], [], [], ⟨0, 0, 0, [], [], []⟩, [], .exact, [], [], 0,
   ⟨0, 0, 0, 0, 0, 0, 0, 0, 0, 0⟩, ⟨0, 0, false, 0, 0, 0, 0, 0, 0, false⟩⟩

def ego : Ego := ⟨0, 0, 0, 0, 0, 0, 0, 0, 0, false⟩

/-- A cycle in Snapshot on die 0. -/
def cycle : Cycle :=
  { desc := ⟨0, ⟨0x0030, false, false, false, 0, 0⟩, []⟩, retouch := false, phase := 1, arm := 0, dies := [0], degraded := false
    step := 0, release := 0, releaseSclk := 0, phaseSclk := 0, passed := [], lists := [], orders := [], emits := [], costs := []
    counts := CycleCounts.zero, voided := [], nonfinite := false, optDl := 0, drops := (0, 0), optVoid := [], splice := none
    path := [], proofPlan := .notRun, proofSafe := .notRun, proofFlags := ({}, {}), traced := 0, traceLost := 0, params := [] }

/-- The cycle runs on die 0, which is fenced and still watched since a restart. -/
def state : State := { State.reset with
  pkg := { Package.reset with dies := modAt (fun x => { x with fenced := some .repeat_ }) Package.reset.dies 0 }
  saf := { State.reset.saf with watch := [.die 0] }
  img := { ImgState.reset with active := some image, arm := some 0 }
  world := { World.reset with ego := some ego }
  cyc := { CycSt.reset with cur := some cycle } }

/-- The fault of the core's corrupted table. -/
def mismatch : Fault0 := ⟨.tableCrc, .restartCluster, ⟨0, 0, 0, 1⟩, 0, core.crcNow⟩

theorem state_sized : Sized state := by
  constructor <;> decide +kernel

theorem state_cores : state.cores 0 = [core] := by decide +kernel
theorem core_corrupted : core.crcNow ≠ core.tblCrc := by decide +kernel
theorem phase_done : state.phaseDone cycle arm = true := by decide +kernel

/-- The phase boundary raises the fault of the core's table. -/
theorem ends_with_mismatch : exec (.phaseBoundary .clean) state = .next (state.fault mismatch) :=
  (execPhaseBoundary_snapshot rfl rfl rfl rfl phase_done rfl).trans
    (congrArg _ (State.endSnapshot_mismatch rfl state_cores core_corrupted))

/-- The watched die is to be fenced (R481). -/
theorem mismatch_escalates : (state.record mismatch).saf.escalate (.cluster 0) = .fence 0 := by decide +kernel

/-- The cycle stands after its phase boundary. -/
theorem cycle_stands : (state.fault mismatch).cyc.cur = some cycle := by
  rw [State.fault_of_fenced rfl rfl mismatch_escalates (by decide +kernel)]
  simp [state]

end FencedMidCycle

end Sys2Proof.Machine

namespace Sys2Proof
open Sys2Proof.Machine

/-- Refutes O38: `Sized` and `phaseDone` allow a cycle on a die that is fenced already and watched since a restart. The table
mismatch of its core at the end of Snapshot escalates to that die's fence, which does nothing a second time, so the cycle
that the statement says has ended goes on. The statement wants the hypothesis that no die of the cycle is fenced. -/
theorem not_phasesAdvance : ¬ Obligations.PhasesAdvance := by
  intro h
  obtain ⟨-, mismatched, -⟩ := h FencedMidCycle.cycle FencedMidCycle.image FencedMidCycle.arm FencedMidCycle.ego
    FencedMidCycle.state FencedMidCycle.state_sized rfl rfl rfl rfl FencedMidCycle.phase_done
  obtain ⟨t, ht, ended, -⟩ := mismatched 0 FencedMidCycle.core rfl (List.mem_singleton_self 0)
    (FencedMidCycle.state_cores ▸ List.mem_singleton_self _) FencedMidCycle.core_corrupted
  cases FencedMidCycle.ends_with_mismatch.symm.trans ht
  cases FencedMidCycle.cycle_stands.symm.trans ended

end Sys2Proof

namespace Sys2Proof.Machine
open Sys2Proof

/-! ## World descriptors -/

/-- A descriptor taken up by its unit changes the host interface's books alone. -/
theorem State.take_frame {s u : State} {op : Nat} {d : Desc} (h : s.take op = some (d, u)) :
    ∃ host, u = { s with host := host } := by
  obtain ⟨x, -, hx⟩ := Option.map_eq_some_iff.1 h
  cases hx
  exact ⟨_, rfl⟩

theorem State.take_img {s u : State} {op : Nat} {d : Desc} (h : s.take op = some (d, u)) : u.img = s.img := by
  obtain ⟨host, rfl⟩ := State.take_frame h
  rfl

theorem State.take_world {s u : State} {op : Nat} {d : Desc} (h : s.take op = some (d, u)) : u.world = s.world := by
  obtain ⟨host, rfl⟩ := State.take_frame h
  rfl

/-- A descriptor command serves the descriptor that its unit takes up. -/
theorem State.serve_of_take {s u : State} {op : Nat} {d : Desc} (h : s.take op = some (d, u)) (f : Desc → State → State) :
    s.serve op f = .next (f d u) := by
  simp only [State.serve, h]

/-- The three world updates are one operation on the descriptor taken up (R84). -/
theorem exec_worldUpdate {c : Instr} {op : Nat} {s u : State} {d : Desc}
    (hc : (c, op) ∈ [(Instr.worldLayerPatch, 0x0020), (.worldObjects, 0x0021), (.worldStatic, 0x0022)])
    (h : s.take op = some (d, u)) : exec c s = .next (u.worldUpdate d) := by
  simp only [List.mem_cons, Prod.mk.injEq, List.not_mem_nil, or_false] at hc
  obtain ⟨rfl, rfl⟩ | ⟨rfl, rfl⟩ | ⟨rfl, rfl⟩ := hc <;> exact State.serve_of_take h _

/-! ### The rows of R104, in their order -/

theorem State.worldUpdate_noImage {s : State} {d : Desc} (h : s.img.active = none) :
    s.worldUpdate d = s.complete d .noImage 0 0 := by
  simp only [State.worldUpdate, h]

section
variable {s : State} {d : Desc} {i : Image} {p : List Byte} {k : Nat} (hi : s.img.active = some i)
include hi

theorem State.worldUpdate_payload_error {st : Status} (hp : s.payload d = .error st) :
    s.worldUpdate d = s.complete d st 0 0 := by
  simp only [State.worldUpdate, hi, hp]

theorem State.worldUpdate_no_stream (hp : s.payload d = .ok p) (hk : s.streamFor i d = none) :
    s.worldUpdate d = s.complete d .badDesc 0 0 := by
  simp only [State.worldUpdate, hi, hp, hk]

theorem State.worldUpdate_late_or_reserved (hp : s.payload d = .ok p) (hk : s.streamFor i d = some k)
    (h : s.world.tsLow k (getLe d.bytes 16 8) = true ∨ opRsvOk (leNat (d.bytes.take 64)) d.head.opcode = false) :
    s.worldUpdate d = s.complete d .badDesc 0 0 := by
  simp only [State.worldUpdate, hi, hp, hk]
  split
  · rfl
  · next low => simp [h.resolve_left low]

theorem State.worldUpdate_accepts {u : UpdBody × Nat} (hp : s.payload d = .ok p) (hk : s.streamFor i d = some k)
    (hts : s.world.tsLow k (getLe d.bytes 16 8) = false) (hrsv : opRsvOk (leNat (d.bytes.take 64)) d.head.opcode = true)
    (hu : parseUpdate i.world d.head.opcode k d.bytes p = .ok u) (hfull : s.world.full k = false) :
    s.worldUpdate d = State.complete
      { s with world := s.world.stage k ⟨d.head.seq, getLe d.bytes 16 8, u.1⟩
               cyc := { s.cyc with lost := s.cyc.lost.filter (· != k) } } d .ok s.world.nextEpoch u.2 := by
  simp only [State.worldUpdate, hi, hp, hk, hts, hrsv, hu, hfull, Bool.not_true, Bool.false_eq_true, if_false]
  rfl

end

/-! ### Streams -/

theorem World.stream_stage_same {w : World} {k : Nat} (u : Update) (h : k < w.streams.length) :
    (w.stage k u).stream k = ⟨(w.stream k).queue ++ [u], some u.ts⟩ :=
  nth_modAt_same _ _ _ _ h

theorem World.stream_stage_other (w : World) {j k : Nat} (u : Update) (h : j ≠ k) : (w.stage k u).stream j = w.stream j :=
  nth_modAt_other _ _ _ _ _ h

/-! ### EGO_STATE -/

section
variable {s u : State} {d : Desc} (h : s.take 0x0023 = some (d, u))
include h

theorem exec_egoState_noImage (hi : u.img.active = none) : exec .egoState s = .next (u.complete d .noImage 0 0) := by
  simp [exec, execEgoState, State.serve_of_take h, hi]

theorem exec_egoState_rejects {i : Image} (hi : u.img.active = some i)
    (bad : parseEgo i.ego.length d.bytes = none ∨ opRsvOk (leNat (d.bytes.take 64)) d.head.opcode = false) :
    exec .egoState s = .next (u.complete d .badDesc 0 0) := by
  obtain hp | hr := bad
  · simp [exec, execEgoState, State.serve_of_take h, hi, hp]
  · simp [exec, execEgoState, State.serve_of_take h, hi, hr]

theorem exec_egoState_keeps {i : Image} {e : Ego} (hi : u.img.active = some i)
    (hrsv : opRsvOk (leNat (d.bytes.take 64)) d.head.opcode = true) (he : parseEgo i.ego.length d.bytes = some e) :
    exec .egoState s = .next (State.complete { u with world := u.world.keepEgo e } d .ok u.world.nextEpoch 0) := by
  simp only [exec, execEgoState, State.serve_of_take h, hi, hrsv, he, Bool.not_true, Bool.false_eq_true, if_false]

end

end Sys2Proof.Machine

namespace Sys2Proof
open Sys2Proof.Machine

/-- Settles O29: the descriptor taken up is put to R104's rows in their order; past the last of them the update is staged on
its stream alone. -/
theorem worldDescriptorsAct : Obligations.WorldDescriptorsAct := by
  refine ⟨fun c op k x i p u s s1 hsize hc htake hi hp hk hk16 hts hrsv hu hfull => ?_, fun c op x s s1 hc htake => ?_⟩
  · rw [← State.take_img htake] at hi
    rw [← State.take_world htake] at hts hfull
    have hexec := exec_worldUpdate hc htake
    rw [State.worldUpdate_accepts hi hp hk hts hrsv hu hfull] at hexec
    obtain ⟨host, rfl⟩ := State.take_frame htake
    exact ⟨_, hexec, World.stream_stage_same _ (hsize.streams ▸ hk16), fun j hj => World.stream_stage_other _ _ hj, rfl, rfl, rfl⟩
  · rw [← State.take_img htake, ← State.take_world htake]
    obtain hupd | hego : (c, op) ∈ [(Instr.worldLayerPatch, 0x0020), (.worldObjects, 0x0021), (.worldStatic, 0x0022)]
        ∨ (c, op) ∈ [(Instr.egoState, 0x0023)] := List.mem_append.1 hc
    · rw [exec_worldUpdate hupd htake]
      have notEgo : op ≠ 0x0023 := by
        rintro rfl
        simp at hupd
      exact ⟨fun hi => congrArg _ (State.worldUpdate_noImage hi), fun _ i hi =>
        ⟨fun st hp => congrArg _ (State.worldUpdate_payload_error hi hp), fun p hp =>
          ⟨fun hk => congrArg _ (State.worldUpdate_no_stream hi hp hk), fun k hk bad =>
            congrArg _ (State.worldUpdate_late_or_reserved hi hp hk bad)⟩⟩, fun h => absurd h notEgo⟩
    · cases List.mem_singleton.1 hego
      exact ⟨exec_egoState_noImage htake, fun h => absurd rfl h, fun _ i hi => exec_egoState_rejects htake hi⟩

end Sys2Proof

namespace Sys2Proof.Machine
open Sys2Proof

/-! ## The choice of the ego state -/

/-- The oldest ego state is chosen only where it qualifies and no newer one is as late (R94). -/
theorem pickEgo_concat (wt : Nat) (es : List Ego) (e : Ego) :
    pickEgo wt (es ++ [e]) = if e.ts ≤ wt ∧ ∀ b ∈ pickEgo wt es, b.ts < e.ts then some e else pickEgo wt es := by
  unfold pickEgo
  rw [List.foldl_append, List.foldl_cons, List.foldl_nil]
  generalize List.foldl _ none es = best
  by_cases hw : e.ts ≤ wt
  · cases best <;> simp [hw]
  · simp [hw]

/-- No ego state is chosen exactly where every one is above the world time. -/
theorem pickEgo_eq_none_iff (wt : Nat) (es : List Ego) : pickEgo wt es = none ↔ ∀ e ∈ es, wt < e.ts := by
  induction es using List.reverseRecOn with
  | nil => simp [pickEgo]
  | append_singleton es a ih =>
    rw [pickEgo_concat, List.forall_mem_append, List.forall_mem_singleton, ← ih]
    split
    · next h => exact ⟨nofun, fun hn => absurd h.1 hn.2.not_ge⟩
    · next h => exact ⟨fun hn => ⟨hn, not_le.1 fun hle => h ⟨hle, by simp [hn]⟩⟩, And.left⟩

/-- `e` is the ego state that R94 takes at world time `wt` from states listed from the newest: of the highest TIMESTAMP not
above `wt`, the newest among equals. -/
def ChosenEgo (wt : Nat) (es : List Ego) (e : Ego) : Prop :=
  ∃ newer older, es = newer ++ e :: older ∧ e.ts ≤ wt ∧ (∀ f ∈ newer, f.ts ≤ wt → f.ts < e.ts)
    ∧ (∀ f ∈ older, f.ts ≤ wt → f.ts ≤ e.ts)

/-- Every ego state that qualifies is at most as late as the chosen one. -/
theorem ChosenEgo.latest {wt : Nat} {es : List Ego} {e : Ego} (h : ChosenEgo wt es e) :
    ∀ f ∈ es, f.ts ≤ wt → f.ts ≤ e.ts := by
  obtain ⟨newer, older, rfl, -, hnewer, holder⟩ := h
  intro f hf hw
  obtain hf | rfl | hf : f ∈ newer ∨ f = e ∨ f ∈ older := by simpa using hf
  · exact (hnewer f hf hw).le
  · exact le_rfl
  · exact holder f hf hw

theorem pickEgo_chosen {wt : Nat} {es : List Ego} {e : Ego} (h : pickEgo wt es = some e) : ChosenEgo wt es e := by
  induction es using List.reverseRecOn generalizing e with
  | nil => cases h
  | append_singleton es a ih =>
    rw [pickEgo_concat] at h
    split at h
    · next later =>
      cases h
      refine ⟨es, [], rfl, later.1, fun f hf hw => ?_, by simp⟩
      cases hb : pickEgo wt es with
      | none => exact absurd hw ((pickEgo_eq_none_iff wt es).1 hb f hf).not_ge
      | some b => exact ((ih hb).latest f hf hw).trans_lt (later.2 b hb)
    · next stays =>
      obtain ⟨newer, older, rfl, hle, hnewer, holder⟩ := ih h
      refine ⟨newer, older ++ [a], by simp, hle, hnewer, List.forall_mem_append.2 ⟨holder, ?_⟩⟩
      rw [List.forall_mem_singleton]
      exact fun hw => not_lt.1 fun hlt => stays ⟨hw, by simpa [h] using hlt⟩

/-! ## The release of a cycle that no ego state serves -/

/-- R37 stops a cycle with STATUS_STALE where no ego state qualifies, its rows above not applying. -/
theorem State.releaseStop_no_ego {s : State} {d : Desc} {i : Image} {a : Armature} (hi : s.img.active = some i)
    (ha : s.armature = some a) (hdies : 2 ≤ s.serving.length ∨ i.hdr.compat = true) (hhold : s.saf.hold = false)
    (hext : s.saf.ext ≠ some 1) (hego : pickEgo d.worldTime s.world.egos = none) : s.releaseStop d = some .stale := by
  have enough : ¬((decide (s.serving.length < 2) && !i.hdr.compat) = true) := by
    obtain two | compat := hdies
    · simp [two.not_gt, -not_lt]
    · simp [compat]
  have noHold : ¬((s.saf.hold || s.saf.ext == some 1) = true) := by simp [hhold, hext]
  simp only [State.releaseStop, hi, ha, if_neg enough, if_neg noHold, hego, Option.isNone_none, if_true]

end Sys2Proof.Machine

namespace Sys2Proof
open Sys2Proof.Machine

/-- Settles O37: EGO_STATE keeps its state by `World.keepEgo`; the cycle boundary leaves the ego states that the release
chooses from, and a cycle that R37 stops leaves the world as it was. -/
theorem egoStatesAreKeptAndChosen : Obligations.EgoStatesAreKeptAndChosen := by
  refine ⟨fun x i e s s1 htake hi hrsv he => ?_, fun d rest s b hcur hq hdue hact hbusy hreach hgrow hb => ⟨?_, fun hgo => ?_⟩⟩
  · rw [← State.take_img htake] at hi
    rw [← State.take_world htake]
    exact exec_egoState_keeps htake hi hrsv he
  · intro i a hi ha hdies hhold hext hlate
    have hin : b.steady.inputs = { s.steady with cyc := { s.steady.cyc with queue := rest } }.inputs :=
      hb ▸ State.boundary_inputs _
    have hegos : b.world.egos = s.world.egos := congrArg (fun v => v.world.egos) hin
    have hnone : pickEgo d.worldTime b.world.egos = none := (pickEgo_eq_none_iff _ _).2 (hegos ▸ hlate)
    have hstop := State.releaseCycle_of_stop (State.releaseStop_no_ego hi ha hdies hhold hext hnone)
    have hexec := execCycleRelease_boundary hcur hq hdue hact hbusy hreach hgrow
    rw [← hb] at hexec
    exact ⟨hexec.trans (congrArg _ hstop), (congrArg (fun v => v.cyc.cur) hin).trans hcur,
      congrArg (fun v => { v.world with laid := s.world.laid }) hin⟩
  · obtain ⟨t, c, a, e, hexec, -, -, he, -, -, -, -, -, -, -, -, -, -, -, -, -, -, -, -, hego, -⟩ :=
      (cyclesAreReleased d rest s b hcur hq hdue hact hbusy hreach hgrow hb).2 hgo
    obtain ⟨newer, older, hchosen⟩ := pickEgo_chosen he
    exact ⟨t, e, newer, older, hexec, hego, hchosen⟩

end Sys2Proof

/-! ## Engine commands without a finding, at the head of their queue -/

namespace Sys2Proof.Machine
open Sys2Proof

/-! ### Queues -/

/-- A search finds past a filter what the filter lets through. -/
theorem find_filter_of_imp {α : Type} {p r : α → Bool} {xs : List α} (h : ∀ x, p x = true → r x = true) :
    (xs.filter r).find? p = xs.find? p := by
  rw [List.find?_filter]
  congr 1
  funext x
  simpa using h x

@[simp] theorem State.queueOf_setQueue_same (s : State) (u : Nat) (e : Engine) (cs : List QCmd) :
    (s.setQueue u e cs).queueOf u e = cs := by
  have hnone : (s.eng.queues.filter (fun q => !(q.unit == u && q.engine == e))).find? (fun q => q.unit == u && q.engine == e)
      = none := by
    refine List.find?_eq_none.2 fun x hx => ?_
    have hout := (List.mem_filter.1 hx).2
    rwa [Bool.not_eq_true', ← Bool.not_eq_true] at hout
  unfold State.setQueue State.queueOf
  cases cs with
  | nil => simp only [List.isEmpty_nil, if_true, hnone, Option.map_none, Option.getD_none]
  | cons x r =>
    simp only [List.isEmpty_cons, Bool.false_eq_true, if_false, List.find?_append, hnone, Option.none_or]
    simp

theorem State.queueOf_setQueue_other (s : State) {u n : Nat} {e f : Engine} (cs : List QCmd) (h : (n, f) ≠ (u, e)) :
    (s.setQueue u e cs).queueOf n f = s.queueOf n f := by
  have hkeep : ∀ x : EngQueue, (x.unit == n && x.engine == f) = true → (!(x.unit == u && x.engine == e)) = true := by
    intro x hx
    have hnf : x.unit = n ∧ x.engine = f := by simpa using hx
    have hue : ¬ (x.unit = u ∧ x.engine = e) := fun hx' => h (by rw [← hnf.1, ← hnf.2, hx'.1, hx'.2])
    rw [Bool.not_eq_true', ← Bool.not_eq_true]
    simpa using hue
  unfold State.setQueue State.queueOf
  cases cs with
  | nil => simp only [List.isEmpty_nil, if_true, find_filter_of_imp hkeep]
  | cons x r =>
    have hnew : ¬ (u = n ∧ e = f) := fun hx => h (by rw [hx.1, hx.2])
    have hnil : ([⟨u, e, x :: r⟩] : List EngQueue).find? (fun q => q.unit == n && q.engine == f) = none := by simpa using hnew
    simp only [List.isEmpty_cons, Bool.false_eq_true, if_false, List.find?_append, find_filter_of_imp hkeep, hnil, Option.or_none]

/-- A state with the queues that the head leaves behind, and its slot of the issuing step ended, has taken it. -/
theorem State.taken_of_queues {s t : State} {u : Nat} {e : Engine} {q : QCmd} {rest : List QCmd}
    (hqueues : t.eng.queues = (s.setQueue u e rest).eng.queues) (hdu : t.du = (s.commandDone q).du) : Taken s t u e q rest := by
  have hof : ∀ n f, t.queueOf n f = (s.setQueue u e rest).queueOf n f := fun n f => by rw [State.queueOf, hqueues]; rfl
  exact ⟨by rw [hof, State.queueOf_setQueue_same], fun n f h => by rw [hof, State.queueOf_setQueue_other s rest h], hdu⟩

/-- A command of an engine other than the QE run to its end is its body, once its queue is shorter. -/
theorem State.engineRun_clean {s : State} {u : Nat} {e : Engine} {w : BitVec 128} {q : QCmd} {rest : List QCmd}
    (hq : s.queueOf u e = q :: rest) (hw : q.word = w.toNat) (he : e ≠ .qe) (op first count : Nat) (body : QCmd → State → State)
    (failed : QCmd → Fault0 → State → State) (adjust : Fault0 → Fault0) :
    s.engineRun u e w .clean op first count body failed adjust = body q ((s.setQueue u e rest).commandDone q) := by
  simp only [State.engineRun, hq, if_neg (not_not.2 hw), State.dequeue, if_neg he]
  rfl

/-- A stream command leaves its queue once its body has left it no work. -/
theorem State.streamRun_clean {s : State} {core : Nat} {e : Engine} {w : BitVec 128} {q : QCmd} {rest : List QCmd}
    (hq : s.queueOf core e = q :: rest) (hw : q.word = w.toNat) (op first count : Nat) (body : QCmd → State → State)
    (ended : State → Bool) (finish failed : QCmd → State → State) :
    s.streamRun core e w .clean op first count body ended finish failed
      = if ended (body q s) then (((finish q (body q s)).setQueue core e rest).commandDone q).endRun core e else body q s := by
  simp only [State.streamRun, hq, if_neg (not_not.2 hw)]
  rfl

/-! ### Writes in a row -/

section
variable {α : Type} (a : α → Nat) (bs : α → List Byte)

/-- Pokes in a row change device memory alone. -/
theorem State.foldl_poke (xs : List α) (s : State) :
    xs.foldl (fun (u : State) x => u.poke (a x) (bs x)) s = { s with mem := xs.foldl (fun m x => m.write (a x) (bs x)) s.mem } := by
  induction xs generalizing s with
  | nil => rfl
  | cons x r ih => exact ih _

/-- Writes in a row leave every address outside their ranges alone. -/
theorem get_writes_other {xs : List α} {y : Nat} (h : ∀ x ∈ xs, y < a x ∨ a x + (bs x).length ≤ y) (m : Memory) :
    (xs.foldl (fun m x => m.write (a x) (bs x)) m).get y = m.get y := by
  induction xs generalizing m with
  | nil => rfl
  | cons x r ih =>
    obtain ⟨hx, hr⟩ := List.forall_mem_cons.1 h
    exact (ih hr _).trans (get_write_other m _ _ y hx)

/-- Writes in a row leave a range apart from theirs as it was. -/
theorem read_writes_other {xs : List α} {y n : Nat} (h : ∀ x ∈ xs, y + n ≤ a x ∨ a x + (bs x).length ≤ y) (m : Memory) :
    (xs.foldl (fun m x => m.write (a x) (bs x)) m).read y n = m.read y n := by
  refine List.map_congr_left fun i hi => get_writes_other a bs (fun x hx => ?_) m
  have hin := List.mem_range.1 hi
  have hapart := h x hx
  omega

/-- Of writes in a row, one apart from all others is read back. -/
theorem read_writes_same {xs : List α} {x : α} (hx : x ∈ xs)
    (h : ∀ y ∈ xs, y = x ∨ a x + (bs x).length ≤ a y ∨ a y + (bs y).length ≤ a x) {m : Memory} (hm : m.wf = true) :
    (xs.foldl (fun m x => m.write (a x) (bs x)) m).read (a x) (bs x).length = bs x := by
  induction xs generalizing m with
  | nil => simp at hx
  | cons y r ih =>
    obtain ⟨hy, hr⟩ := List.forall_mem_cons.1 h
    by_cases hxr : x ∈ r
    · exact ih hxr hr (wf_write hm _ _)
    · obtain rfl : x = y := (List.mem_cons.1 hx).resolve_right hxr
      have hapart : ∀ z ∈ r, a x + (bs x).length ≤ a z ∨ a z + (bs z).length ≤ a x :=
        fun z hz => (hr z hz).resolve_left fun e => hxr (e ▸ hz)
      exact (read_writes_other a bs hapart _).trans (read_write_same hm _ _)

end

/-! ### Lengths of records -/

@[simp] theorem length_leBytes (n v : Nat) : (leBytes n v).length = n := by
  induction n generalizing v with
  | zero => rfl
  | succ n ih => simp [leBytes, ih]

@[simp] theorem Sample.length_bytes (p : Sample) : p.bytes.length = 64 := by
  unfold Sample.bytes
  dsimp only
  simp only [List.length_append, length_leBytes]

@[simp] theorem length_peResult (done voids unbound window : Nat) (sat range fault : Bool) :
    (peResult done voids unbound window sat range fault).length = 16 := by
  simp only [peResult, List.length_append, length_leBytes]

theorem length_samples (ps : List Sample) : (ps.map Sample.bytes).flatten.length = ps.length * 64 := by
  induction ps with
  | nil => rfl
  | cons p r ih => simp only [List.map_cons, List.flatten_cons, List.length_append, ih, Sample.length_bytes, List.length_cons]; omega

/-- The scratchpads of the cores stand below the dual-port regions of their die. -/
theorem scratch_below_dual (c : Nat) : scratchBase c + 0x80000 ≤ dualBase (c / 4) := by
  have hdie : c / 4 / 4 = c / 16 := Nat.div_div_eq_div_mul c 4 4
  simp only [scratchBase, dualBase, hdie]
  omega

/-! ### What memory holds after a write -/

theorem holds_of_read {t : State} {a : Nat} {bs : List Byte} {m : Memory} (ht : t.mem = m) (h : m.read a bs.length = bs) :
    Holds t a bs := by rwa [Holds, State.peek, ht]

theorem holds_write {t : State} {a : Nat} {bs : List Byte} {m : Memory} (hm : m.wf = true) (ht : t.mem = m.write a bs) :
    Holds t a bs := holds_of_read ht (read_write_same hm a bs)

/-! ### Commands that put their effect at once -/

/-- The state once the head of an engine's queue has left it and its slot of the issuing step has ended. -/
def State.taking (s : State) (u : Nat) (e : Engine) (rest : List QCmd) (q : QCmd) : State := (s.setQueue u e rest).commandDone q

/-- The state with this memory, these candidates with saturated paths and these flags behind its own. -/
def State.put (s : State) (m : Memory) (ps : List (Nat × Nat)) (fl : List EngFlag) : State :=
  { s with mem := m, eng := { s.eng with pathSat := ps, flags := s.eng.flags ++ fl } }

theorem State.put_taken (s : State) (u : Nat) (e : Engine) (rest : List QCmd) (q : QCmd) (m : Memory) (ps : List (Nat × Nat))
    (fl : List EngFlag) : Taken s ((s.taking u e rest q).put m ps fl) u e q rest :=
  State.taken_of_queues rfl rfl

@[simp] theorem State.taking_mem (s : State) (u : Nat) (e : Engine) (rest : List QCmd) (q : QCmd) : (s.taking u e rest q).mem = s.mem := rfl
@[simp] theorem State.put_mem (s : State) (m : Memory) (ps : List (Nat × Nat)) (fl : List EngFlag) : (s.put m ps fl).mem = m := rfl
@[simp] theorem boolNat_false : boolNat false = 0 := rfl
@[simp] theorem boolNat_true : boolNat true = 1 := rfl

/-- A command that has put its effect leaves every other field of the state. -/
theorem State.put_frame (s : State) (u : Nat) (e : Engine) (rest : List QCmd) (q : QCmd) (m : Memory) (ps : List (Nat × Nat))
    (fl : List EngFlag) : { (s.taking u e rest q).put m ps fl with mem := s.mem, eng := s.eng, du := s.du } = s := by
  simp only [State.put, State.taking, State.commandDone, State.mapDu, State.setQueue]

theorem State.put_engines (s : State) (u : Nat) (e : Engine) (rest : List QCmd) (q : QCmd) (m : Memory) (ps : List (Nat × Nat))
    (fl : List EngFlag) : { ((s.taking u e rest q).put m ps fl).eng with
      queues := s.eng.queues, flags := s.eng.flags, pathSat := s.eng.pathSat } = s.eng := by
  simp only [State.put, State.taking, State.commandDone, State.mapDu, State.setQueue]

/-- A flag sent where a condition holds. -/
theorem State.flag_if (s : State) (b : Bool) (q : QCmd) (code lane cand : Nat) :
    (if b then s.flag q code lane cand else s)
      = { s with eng := { s.eng with flags := s.eng.flags ++ if b then [q.flagOf code lane cand] else [] } } := by
  cases b
  · simp only [Bool.false_eq_true, if_false, List.append_nil]
  · rfl

/-- A command of the PE that writes no ring, as the head of its queue, is its body. -/
theorem State.peRun_clean {s : State} {core op : Nat} {w : BitVec 128} {q : QCmd} {rest : List QCmd}
    (hq : s.queueOf core .pe = q :: rest) (hw : q.word = w.toNat) (hop : (PeCmd.ofWord w.toNat).op = op)
    (body : PeCmd → QCmd → State → State) :
    s.peRun core w .clean op body = .next (body (PeCmd.ofWord w.toNat) q (s.taking core .pe rest q)) := by
  simp only [State.peRun, if_neg (not_not.2 hop)]
  rw [State.engineRun_clean hq hw (by decide)]
  rfl

/-! ## BUILD_PATH -/

/-- The candidates with saturated paths once `cand` of `core` has come to them or not. -/
def satPaths (ps : List (Nat × Nat)) (core cand : Nat) (sat : Bool) : List (Nat × Nat) :=
  if sat ∧ !ps.contains (core, cand) then ps ++ [(core, cand)] else ps

theorem State.keepPathSat_eq (s : State) (core cand : Nat) (sat : Bool) :
    s.keepPathSat core cand sat = { s with eng := { s.eng with pathSat := satPaths s.eng.pathSat core cand sat } } := by
  unfold State.keepPathSat satPaths
  split <;> rfl

theorem satPaths_contains (ps : List (Nat × Nat)) (core cand : Nat) : (satPaths ps core cand true).contains (core, cand) = true := by
  unfold satPaths
  split <;> simp_all

@[simp] theorem satPaths_false (ps : List (Nat × Nat)) (core cand : Nat) : satPaths ps core cand false = ps := if_neg (by simp)

/-- The nodes that a BUILD_PATH in CUBIC mode reads; none without a region. -/
def State.pathNodes (s : State) (e : EngEnv) (core : Nat) (d : PeCmd) : List RmNode :=
  match s.img.region with
  | some r => s.pathAt e.img r (scratchBase core + d.inOff * 64)
  | none => []

section
variable {s : State} {e : EngEnv} {core : Nat} {d : PeCmd}

/-- With no path behind the node list of any region, there are no nodes to read. -/
theorem State.pathNodes_eq_nil (h : ∀ r, s.img.region = some r → s.pathAt e.img r (scratchBase core + d.inOff * 64) = []) :
    s.pathNodes e core d = [] := by
  unfold State.pathNodes
  split
  · next r hr => exact h r hr
  · rfl

theorem State.pathNodes_eq {r : RmRegion} (hr : s.img.region = some r) :
    s.pathNodes e core d = s.pathAt e.img r (scratchBase core + d.inOff * 64) := by
  rw [State.pathNodes, hr]

end

/-- The raw stations of a BUILD_PATH. -/
def State.rawPath (s : State) (e : EngEnv) (core : Nat) (d : PeCmd) : List (Int × Int × Nat × Int) :=
  if d.mode then (s.stationsAt (scratchBase core + d.inOff * 64) d.count).map (fun x => (x.x, x.y, x.psi, x.kappa))
  else cubicRaw e.lib.step d.count e.ego (s.pathNodes e core d)

/-- BUILD_PATH with its sequence's bytes, SAT and RANGE: the steps with which it ends. -/
def State.putPath (s : State) (core : Nat) (d : PeCmd) (q : QCmd) (bs : List Byte) (sat range : Bool) : State :=
  let s := s.poke (scratchBase core + d.outOff * 64) bs
  let s := s.result (core / 4) d.resultOff (peResult d.count (boolNat range) 0 0 sat range false)
  let s := s.keepPathSat core d.first sat
  let s := if sat then s.flag q 0x5 0xFFFFFFFF d.first else s
  if range then s.flag q 0x6 0xFFFFFFFF d.first else s

theorem State.putPath_eq (s : State) (core : Nat) (d : PeCmd) (q : QCmd) (bs : List Byte) (sat range : Bool) :
    s.putPath core d q bs sat range
      = s.put ((s.mem.write (scratchBase core + d.outOff * 64) bs).write (dualBase (core / 4) + d.resultOff * 16)
          (peResult d.count (boolNat range) 0 0 sat range false))
        (satPaths s.eng.pathSat core d.first sat)
        ((if sat then [q.flagOf 5 0xFFFFFFFF d.first] else []) ++ (if range then [q.flagOf 6 0xFFFFFFFF d.first] else [])) := by
  simp only [State.putPath, State.keepPathSat_eq, State.flag_if, List.append_assoc, State.put, State.result, State.poke]

section
variable {s : State} {e : EngEnv} {core : Nat} {d : PeCmd} {q : QCmd} {raw : List (Int × Int × Nat × Int)} {missing range : Bool}
  {ss : List Station}

/-- What BUILD_PATH writes and reports (R141, R142, R148, R149, R152). -/
theorem State.buildPathBody_eq (he : s.engEnv (core / 16) = some e) (hraw : raw = s.rawPath e core d)
    (hmissing : missing = (!d.mode && (s.pathNodes e core d).isEmpty))
    (hss : ss = finishStations e.img.ego e.lib.step e.ego (satRaw raw)) (hrange : range = (missing || !stationsInBand e.lib.step ss)) :
    s.buildPathBody core d q = s.putPath core d q
      (seqBytes ss (if range then badProfile e.img.misc.nsamp
        else if d.mode then s.stationsProfile e d (scratchBase core + d.inOff * 64)
        else roadmapProfile e.img.misc.nsamp e.img.misc.dts e.ego (s.pathNodes e core d)))
      ((!missing && rawSat e.img.ego e.lib.step e.ego raw) || (!d.mode && speedSat e.ego)) range := by
  subst hrange hss hmissing hraw
  simp only [State.buildPathBody, he]
  rfl

/-- BUILD_PATH from raw stations that lie within the band (R141, R152). -/
theorem State.buildPathBody_stations (he : s.engEnv (core / 16) = some e) (hmode : d.mode = true)
    (hraw : raw = (s.stationsAt (scratchBase core + d.inOff * 64) d.count).map (fun x => (x.x, x.y, x.psi, x.kappa)))
    (hss : ss = finishStations e.img.ego e.lib.step e.ego (satRaw raw)) (hband : stationsInBand e.lib.step ss = true) :
    s.buildPathBody core d q = s.putPath core d q (seqBytes ss (s.stationsProfile e d (scratchBase core + d.inOff * 64)))
      (rawSat e.img.ego e.lib.step e.ego raw) false := by
  have h := State.buildPathBody_eq (q := q) he (hraw.trans (if_pos hmode).symm) rfl hss rfl
  simpa only [hmode, hband, Bool.not_true, Bool.false_and, Bool.or_false, Bool.not_false, Bool.true_and, Bool.false_eq_true,
    if_false, if_true] using h

/-- BUILD_PATH from the node list of a path whose stations lie within the band (R142, R148, R149). -/
theorem State.buildPathBody_nodes (he : s.engEnv (core / 16) = some e) (hmode : d.mode = false) (hne : s.pathNodes e core d ≠ [])
    (hraw : raw = cubicRaw e.lib.step d.count e.ego (s.pathNodes e core d))
    (hss : ss = finishStations e.img.ego e.lib.step e.ego (satRaw raw)) (hband : stationsInBand e.lib.step ss = true) :
    s.buildPathBody core d q = s.putPath core d q
      (seqBytes ss (roadmapProfile e.img.misc.nsamp e.img.misc.dts e.ego (s.pathNodes e core d)))
      (rawSat e.img.ego e.lib.step e.ego raw || speedSat e.ego) false := by
  have hcubic : raw = s.rawPath e core d := hraw.trans (if_neg (by simp [hmode])).symm
  have h := State.buildPathBody_eq (q := q) he hcubic rfl hss rfl
  simpa only [hmode, hband, List.isEmpty_eq_false_iff.2 hne, Bool.not_true, Bool.not_false, Bool.true_and, Bool.or_false,
    Bool.false_eq_true, if_false] using h

/-- BUILD_PATH from a node list that names no path is void, with RANGE (R129, R142). -/
theorem State.buildPathBody_missing (he : s.engEnv (core / 16) = some e) (hmode : d.mode = false) (hno : s.pathNodes e core d = []) :
    ∃ bs, s.buildPathBody core d q = s.putPath core d q bs (speedSat e.ego) true := by
  have h := State.buildPathBody_eq (q := q) (d := d) he rfl rfl rfl rfl
  simp only [hmode, hno, List.isEmpty_nil, Bool.not_false, Bool.true_and, Bool.not_true, Bool.false_and, Bool.false_or, Bool.true_or,
    if_true] at h
  exact ⟨_, h⟩

end

/-! ## RM_SEARCH -/

/-- The entry of a path in a path list (log entry 23). -/
def pathEntry (p : Option (List Nat)) : List Byte :=
  leBytes 4 ((p.getD []).take 1039).length ++ (((p.getD []).take 1039).map (leBytes 4)).flatten

theorem length_pathEntry_le (p : Option (List Nat)) : (pathEntry p).length ≤ 4160 := by
  have hnodes : ∀ ns : List Nat, (ns.map (leBytes 4)).flatten.length = 4 * ns.length := fun ns => by
    induction ns with
    | nil => rfl
    | cons n r ih => simp only [List.map_cons, List.flatten_cons, List.length_append, ih, length_leBytes, List.length_cons]; omega
  have htake : ((p.getD []).take 1039).length ≤ 1039 := List.length_take_le _ _
  simp only [pathEntry, List.length_append, length_leBytes, hnodes]
  omega

/-- A memory with a path list written from an address on (log entry 23). -/
def Memory.putPaths (m : Memory) (a : Nat) (ps : List (Option (List Nat))) : Memory :=
  ps.zipIdx.foldl (fun m x => m.write (a + x.2 * 4160) (pathEntry x.1)) m

theorem wf_putPaths {m : Memory} (hm : m.wf = true) (a : Nat) (ps : List (Option (List Nat))) : (m.putPaths a ps).wf = true :=
  wf_foldl _ (fun _ _ h => wf_write h _ _) _ hm

/-- An entry of a path list is read back. -/
theorem read_putPaths {m : Memory} (hm : m.wf = true) (a : Nat) {ps : List (Option (List Nat))} {i : Nat} {p : Option (List Nat)}
    (hp : ps[i]? = some p) : (m.putPaths a ps).read (a + i * 4160) (pathEntry p).length = pathEntry p := by
  refine read_writes_same (fun x : Option (List Nat) × Nat => a + x.2 * 4160) (fun x => pathEntry x.1) (x := (p, i))
    (List.mk_mem_zipIdx_iff_getElem?.2 hp) (fun y hy => ?_) hm
  by_cases hi : y.2 = i
  · have hy' : ps[y.2]? = some y.1 := List.mem_zipIdx_iff_getElem?.1 hy
    rw [hi, hp] at hy'
    exact .inl (Prod.ext (Option.some.inj hy').symm hi)
  · have hlenp := length_pathEntry_le p
    have hleny := length_pathEntry_le y.1
    refine .inr ?_
    dsimp only
    omega

/-- A path list leaves what is outside it alone. -/
theorem get_putPaths_other (m : Memory) {a y : Nat} {ps : List (Option (List Nat))} (h : y < a ∨ a + ps.length * 4160 ≤ y) :
    (m.putPaths a ps).get y = m.get y := by
  refine get_writes_other (fun x : Option (List Nat) × Nat => a + x.2 * 4160) (fun x => pathEntry x.1) (fun x hx => ?_) m
  have hlt : x.2 < ps.length := List.snd_lt_of_mem_zipIdx hx
  have hlen := length_pathEntry_le x.1
  omega

/-- An entry of a path list that ends below another write is read back after both. -/
theorem read_paths_behind_result {m : Memory} (hm : m.wf = true) {a b : Nat} {bs : List Byte} {ps : List (Option (List Nat))} {i : Nat}
    {p : Option (List Nat)} (hp : ps[i]? = some p) (hb : a + (i + 1) * 4160 ≤ b) :
    ((m.putPaths a ps).write b bs).read (a + i * 4160) (pathEntry p).length = pathEntry p := by
  have hlen := length_pathEntry_le p
  exact (read_write_other _ _ _ _ _ (.inl (by omega))).trans (read_putPaths hm a hp)

/-- A path list and another write touch their own ranges alone. -/
theorem untouched_paths {s t : State} {a b n len : Nat} {bs : List Byte} {ps : List (Option (List Nat))}
    (ht : t.mem = (s.mem.putPaths a ps).write b bs) (hbs : bs.length = len) (hps : ps.length = n) :
    Untouched s t [(b, len), (a, n * 4160)] := by
  intro y hy
  obtain ⟨hb, ha⟩ : (y < b ∨ b + len ≤ y) ∧ (y < a ∨ a + n * 4160 ≤ y) := by simpa using hy
  subst hbs hps
  rw [ht, get_write_other _ _ _ y hb, get_putPaths_other s.mem ha]

/-- What RM_SEARCH writes and reports (R147, R157). -/
theorem State.rmSearchBody_eq {s : State} {e : EngEnv} {core : Nat} {d : PeCmd} {q : QCmd} {r : RmRegion} {y : Cycle} {cs : List RmCost}
    {ps : List (Option (List Nat))} {sat : Bool} (he : s.engEnv (core / 16) = some e) (hr : s.img.region = some r)
    (hy : s.cyc.cur = some y)
    (hcs : cs = rmSearch e.img.roadmap r ((e.img.ego.head?.map (fun b => b.kappaMax)).getD 0) s.img.nodes (paramVal e.ps 0x32 0)
      s.estatOf e.ego)
    (hps : ps = (List.range d.count).map (fun i => rmPath e.img.roadmap r y.desc.goal cs (d.ord + i)))
    (hsat : sat = (cs.any (fun x => x.sat) || speedSat e.ego)) :
    s.rmSearchBody core d q = s.put
      ((s.mem.putPaths (scratchBase core + d.outOff * 64) ps).write (dualBase (core / 4) + d.resultOff * 16)
        (peResult (ps.filter (fun p => p.isSome)).length 0 0
          (((rmWindow e.img.roadmap r s.img.nodes e.ego.x).length + 15) / 16) sat false false))
      s.eng.pathSat (if sat then [q.flagOf 5 0xFFFFFFFF 0xFFFFFFFF] else []) := by
  subst hsat hps hcs
  simp only [State.rmSearchBody, he, hr, hy]
  rw [State.foldl_poke, State.flag_if]
  simp only [State.put, State.result, State.poke, Memory.putPaths, pathStride]
  rfl

/-! ## BUILD_PATH and RM_SEARCH as the head of their queue -/

section
variable {c : Core} {w : BitVec 128} {d : PeCmd} {q : QCmd} {rest : List QCmd} {s : State}

/-- BUILD_PATH as the head of its queue is its body. -/
theorem exec_buildPath_clean (hq : s.queueOf c .pe = q :: rest) (hw : q.word = w.toNat) (hd : d = PeCmd.ofWord w.toNat) (hop : d.op = 3) :
    exec (.buildPath c w .clean) s = .next ((s.taking c .pe rest q).buildPathBody c d q) := by
  subst hd
  exact State.peRun_clean hq hw hop (fun d q s => s.buildPathBody c d q)

/-- RM_SEARCH as the head of its queue is its body. -/
theorem exec_rmSearch_clean (hq : s.queueOf c .pe = q :: rest) (hw : q.word = w.toNat) (hd : d = PeCmd.ofWord w.toNat) (hop : d.op = 4) :
    exec (.rmSearch c w .clean) s = .next ((s.taking c .pe rest q).rmSearchBody c d q) := by
  subst hd
  exact State.peRun_clean hq hw hop (fun d q s => s.rmSearchBody c d q)

end

/-! ## EXPAND_LIB and EXPAND_SEQ: candidate after candidate -/

/-! ### Stream commands under way -/

@[simp] theorem State.runOf_core (s : State) (core : Nat) (e : Engine) : (s.runOf core e).core = core := by
  unfold State.runOf
  cases h : s.eng.runs.find? (fun r => r.core == core && r.engine == e) with
  | none => rfl
  | some r =>
    have hr := List.find?_some h
    simp only [Bool.and_eq_true, beq_iff_eq] at hr
    exact hr.1

@[simp] theorem State.runOf_engine (s : State) (core : Nat) (e : Engine) : (s.runOf core e).engine = e := by
  unfold State.runOf
  cases h : s.eng.runs.find? (fun r => r.core == core && r.engine == e) with
  | none => rfl
  | some r =>
    have hr := List.find?_some h
    simp only [Bool.and_eq_true, beq_iff_eq] at hr
    exact hr.2

/-- With no stream command of the engine under way, none is taken out. -/
theorem State.runs_filter {s : State} {core : Nat} {e : Engine} (h : s.runs core e = false) :
    s.eng.runs.filter (fun x => !(x.core == core && x.engine == e)) = s.eng.runs := by
  refine List.filter_eq_self.2 fun r hr => ?_
  rw [Bool.not_eq_true', ← Bool.not_eq_true]
  exact List.any_eq_false.1 h r hr

/-- A stream command that has not begun has done nothing. -/
def StreamRun.start (core : Nat) (e : Engine) : StreamRun := ⟨core, e, 0, 0, [], 0, 0, false, false, false⟩

theorem State.runOf_start {s : State} {core : Nat} {e : Engine} (h : s.runs core e = false) : s.runOf core e = .start core e := by
  have hnone : s.eng.runs.find? (fun r => r.core == core && r.engine == e) = none := List.find?_eq_none.2 (List.any_eq_false.1 h)
  rw [State.runOf, hnone]
  rfl

/-- The stream command noted behind those of other engines is the one under way. -/
theorem State.runOf_noted {s u : State} {core : Nat} {e : Engine} {r : StreamRun} (h : s.runs core e = false)
    (hu : u.eng.runs = s.eng.runs ++ [r]) (hcore : r.core = core) (he : r.engine = e) : u.runOf core e = r := by
  have hnone : s.eng.runs.find? (fun r => r.core == core && r.engine == e) = none := List.find?_eq_none.2 (List.any_eq_false.1 h)
  simp [State.runOf, hu, List.find?_append, hnone, hcore, he]

/-! ### What a pose engine's candidate adds -/

/-- The entry of candidate `i` of an expansion in its ring. -/
def PeCmd.entry (d : PeCmd) (core i : Nat) : RingCand := ⟨core, d.first + i, d.outOff, i, false, false⟩

/-- The counts of an expansion with one more candidate (R157). -/
def StreamRun.expanded (r : StreamRun) (ps : List Sample) : StreamRun :=
  { r with next := r.next + 1, voids := r.voids + boolNat (isVoid ps), unbound := r.unbound + (ps.filter (fun p => p.unbound)).length
           sat := r.sat || ps.any (fun p => p.sat) }

/-- The counts of an expansion are those of its candidates (R157). -/
theorem foldl_expanded (r : StreamRun) (cs : List (List Sample)) : cs.foldl StreamRun.expanded r
    = { r with next := r.next + cs.length, voids := r.voids + (cs.filter isVoid).length
               unbound := r.unbound + (cs.map (fun ps => (ps.filter (fun p => p.unbound)).length)).sum
               sat := r.sat || cs.any (fun ps => ps.any (fun p => p.sat)) } := by
  induction cs generalizing r with
  | nil => simp
  | cons ps cs ih =>
    rw [List.foldl_cons, ih]
    cases hv : isVoid ps <;> simp [StreamRun.expanded, hv, boolNat, Nat.add_assoc, Nat.add_comm, Nat.add_left_comm, Bool.or_assoc]

/-- The flags of a candidate (R42, R129, R158). -/
def QCmd.sampleFlags (q : QCmd) (cand : Nat) (ps : List Sample) : List EngFlag :=
  (if ps.any (fun y => y.sat) then [q.flagOf 5 0xFFFFFFFF cand] else []) ++ (if isVoid ps then [q.flagOf 6 0xFFFFFFFF cand] else [])

/-- A queued CHECK_STREAM of the core names a candidate of a ring (R156). -/
def State.toCheck (s : State) (core ring cand : Nat) : Bool :=
  (s.queueOf core .ce).any (fun q =>
    let k := ceOfWord q.word
    k.op == 1 && k.inOff == ring && decide (k.first ≤ cand ∧ cand < k.first + k.count))

/-- A slot is free where every entry that holds it has retired or is neither the command's own nor named (R156). -/
theorem State.slotFree_iff (s : State) (core : Nat) (d : PeCmd) (slot : Nat) : s.slotFree core d slot = true ↔
    ∀ r ∈ s.eng.stream, r.core = core → r.ring = d.outOff → r.slot = slot → r.retired = false →
      ¬ (d.first ≤ r.cand ∧ r.cand < d.first + (s.runOf core .pe).next) ∧ s.toCheck core d.outOff r.cand = false := by
  rw [State.slotFree, Bool.not_eq_true', List.any_eq_false]
  refine forall₂_congr fun r _ => ?_
  change ¬ ((r.core == core && r.ring == d.outOff && r.slot == slot && !r.retired
    && (decide (d.first ≤ r.cand ∧ r.cand < d.first + (s.runOf core .pe).next) || s.toCheck core d.outOff r.cand)) = true) ↔ _
  simp only [Bool.and_eq_true, beq_iff_eq, Bool.not_eq_true', Bool.or_eq_true, decide_eq_true_eq, ← Bool.not_eq_true]
  tauto

/-- An expansion whose next slot is taken stands still (R156). -/
theorem State.expandNext_waits {s : State} {e : EngEnv} {core : Nat} {d : PeCmd} {q : QCmd} {gen : State → Nat → List Sample}
    (h : s.slotFree core d ((s.runOf core .pe).next % d.slots) = false) : s.expandNext e core d q gen = s := by
  simp only [State.expandNext, h, Bool.not_false, or_true, if_true]

/-- An expansion whose next slot is free writes the candidate (R128, R129, R156 to R158). -/
theorem State.expandNext_writes {s : State} {e : EngEnv} {core : Nat} {d : PeCmd} {q : QCmd} {gen : State → Nat → List Sample}
    {i : Nat} {ps : List Sample} (hrun : (s.runOf core .pe).next = i) (hi : i < d.count) (hslots : d.count ≤ d.slots)
    (hfree : s.slotFree core d i = true) (hps : ps = stickySat (s.eng.pathSat.contains (core, d.first + i)) (gen s i)) :
    s.expandNext e core d q gen = { s with
      mem := s.mem.write (scratchBase core + d.outOff * 64 + i * (e.img.misc.nsamp * 64)) (ps.map Sample.bytes).flatten
      eng := { s.eng with
        stream := s.eng.stream.filter (fun r => r.void || !(r.core == core && r.ring == d.outOff && r.slot == i)) ++ [d.entry core i]
        runs := s.eng.runs.filter (fun x => !(x.core == core && x.engine == .pe)) ++ [(s.runOf core .pe).expanded ps]
        flags := s.eng.flags ++ q.sampleFlags (d.first + i) ps }
      cyc := if isVoid ps then (s.countVoid e (d.first + i)).cyc else s.cyc } := by
  have hslot : i % d.slots = i := Nat.mod_eq_of_lt (by omega)
  have hgo : ¬ (d.count ≤ i ∨ (!s.slotFree core d i) = true) := by simp [hfree, hi]
  simp only [State.expandNext, hrun, hslot, if_neg hgo, ← hps, State.flag_if, State.setRun, State.runOf_core, State.runOf_engine,
    List.append_assoc, QCmd.sampleFlags, PeCmd.entry, StreamRun.expanded]
  cases isVoid ps <;> rfl

/-! ### Void candidates counted (R129, R293) -/

section
variable {s : State} {e : EngEnv} {cand k : Nat}

@[simp] theorem State.countVoid_held : (s.countVoid e cand).cyc.held = s.cyc.held := rfl

@[simp] theorem State.countVoid_optVoid : (s.countVoid e cand).cyc.cur.map (fun y => y.optVoid) = s.cyc.cur.map (fun y => y.optVoid) := by
  simp only [State.countVoid, State.mapCycle, Option.map_map]
  congr 1
  funext y
  dsimp only [Function.comp]
  split <;> rfl

@[simp] theorem State.countVoid_phase : (s.countVoid e cand).phase = s.phase := by
  simp only [State.countVoid, State.mapCycle, State.phase, Option.map_map]
  congr 2
  funext y
  dsimp only [Function.comp]
  split <;> rfl

theorem State.countVoid_of_phase_ne (h : s.phase ≠ 3) : (s.countVoid e cand).cyc = s.cyc := by
  unfold State.phase at h
  cases hy : s.cyc.cur with
  | none =>
    simp only [State.countVoid, State.mapCycle, hy, Option.map_none]
    rw [← hy]
  | some y =>
    simp only [hy, Option.map_some, Option.getD_some] at h
    simp only [State.countVoid, State.mapCycle, hy, Option.map_some, if_pos (Or.inl h)]
    rw [← hy]

/-- A void candidate of phase 3 is among the voided ones of its cycle. -/
theorem State.countVoid_voids (h : s.phase = 3) : (s.countVoid e cand).cyc.cur.map (fun y => y.voided.contains cand) = some true := by
  unfold State.phase at h
  cases hy : s.cyc.cur with
  | none => simp [hy] at h
  | some y =>
    simp only [hy, Option.map_some, Option.getD_some] at h
    simp only [State.countVoid, State.mapCycle, hy, Option.map_some, Option.some.injEq]
    split
    · next hc => exact hc.resolve_left (not_not.2 h)
    · simp

theorem State.countVoid_keeps (h : s.cyc.cur.map (fun y => y.voided.contains k) = some true) :
    (s.countVoid e cand).cyc.cur.map (fun y => y.voided.contains k) = some true := by
  obtain ⟨y, hy, hk⟩ := Option.map_eq_some_iff.1 h
  simp only [State.countVoid, State.mapCycle, hy, Option.map_some, Option.some.injEq]
  split
  · exact hk
  · simp only [List.contains_eq_mem, List.mem_append, decide_eq_true_eq] at hk ⊢
    exact .inl hk

end

/-! ### Candidates by number -/

/-- The first `k` candidates. -/
def firstCands (f : Nat → List Sample) (k : Nat) : List (List Sample) := (List.range k).map f

@[simp] theorem length_firstCands (f : Nat → List Sample) (k : Nat) : (firstCands f k).length = k := by simp [firstCands]

theorem firstCands_succ (f : Nat → List Sample) (k : Nat) : firstCands f (k + 1) = firstCands f k ++ [f k] := by
  simp [firstCands, List.range_succ]

theorem zipIdx_firstCands_succ (f : Nat → List Sample) (k : Nat) :
    (firstCands f (k + 1)).zipIdx = (firstCands f k).zipIdx ++ [(f k, k)] := by
  simp [firstCands_succ, List.zipIdx_append]

theorem mem_zipIdx_firstCands {f : Nat → List Sample} {k : Nat} {x : List Sample × Nat} (h : x ∈ (firstCands f k).zipIdx) :
    x.2 < k ∧ x.1 = f x.2 := by
  have hget := List.mem_zipIdx_iff_getElem?.1 h
  have hlt : x.2 < k := by simpa using List.snd_lt_of_mem_zipIdx h
  rw [firstCands, List.getElem?_map, List.getElem?_range hlt] at hget
  exact ⟨hlt, (Option.some.inj hget).symm⟩

/-- A memory with candidates written into the slots of a ring, `n` samples each. -/
def Memory.putCands (m : Memory) (a n : Nat) (cs : List (List Sample)) : Memory :=
  cs.zipIdx.foldl (fun m x => m.write (a + x.2 * (n * 64)) (x.1.map Sample.bytes).flatten) m

/-- Candidates of at most `n` samples leave what is outside of their ring alone. -/
theorem read_putCands_other (m : Memory) {a n k y len : Nat} {f : Nat → List Sample} (hlen : ∀ i, (f i).length ≤ n)
    (h : y + len ≤ a ∨ a + k * (n * 64) ≤ y) : (m.putCands a n (firstCands f k)).read y len = m.read y len := by
  refine read_writes_other (fun x : List Sample × Nat => a + x.2 * (n * 64)) (fun x => (x.1.map Sample.bytes).flatten)
    (fun x hx => ?_) m
  obtain ⟨hlt, hx⟩ := mem_zipIdx_firstCands hx
  have hcand : x.1.length ≤ n := hx ▸ hlen x.2
  have hslot : (x.2 + 1) * (n * 64) ≤ k * (n * 64) := Nat.mul_le_mul_right _ hlt
  rw [length_samples]
  rw [Nat.succ_mul] at hslot
  omega

/-! ### The ring: slots 0 to k - 1 hold the candidates written -/

/-- In `u` the rings hold the entries of the command's first `k` candidates and, of those that they held in `s`, none of
its candidates. -/
structure RingFilled (s u : State) (core : Nat) (d : PeCmd) (k : Nat) : Prop where
  entries : ∀ i, i < k → d.entry core i ∈ u.eng.stream
  stream : ∀ r ∈ u.eng.stream, (∃ i, i < k ∧ r = d.entry core i)
    ∨ r ∈ s.eng.stream ∧ ¬ (r.core = core ∧ d.first ≤ r.cand ∧ r.cand < d.first + d.count)

theorem RingFilled.start (s : State) (core : Nat) (d : PeCmd) (r : StreamRun) :
    RingFilled s ((s.dropStream core (fun k => decide (d.first ≤ k ∧ k < d.first + d.count))).setRun r) core d 0 := by
  refine ⟨fun i hi => absurd hi (Nat.not_lt_zero i), fun r hr => .inr ?_⟩
  obtain ⟨hin, hout⟩ := List.mem_filter.1 hr
  refine ⟨hin, fun hr => ?_⟩
  simp [hr] at hout

/-- An entry takes the place of what its slot held; earlier candidates stand in other slots. -/
theorem RingFilled.step {s u v : State} {core : Nat} {d : PeCmd} {k : Nat} (h : RingFilled s u core d k)
    (hv : v.eng.stream = u.eng.stream.filter (fun r => r.void || !(r.core == core && r.ring == d.outOff && r.slot == k))
      ++ [d.entry core k]) : RingFilled s v core d (k + 1) := by
  constructor
  · intro i hi
    rw [hv]
    refine List.mem_append.2 ?_
    rcases Nat.lt_succ_iff_lt_or_eq.1 hi with hlt | rfl
    · refine .inl (List.mem_filter.2 ⟨h.entries i hlt, ?_⟩)
      have hne : i ≠ k := by omega
      simp [PeCmd.entry, hne]
    · exact .inr (List.mem_singleton.2 rfl)
  · intro r hr
    rw [hv] at hr
    rcases List.mem_append.1 hr with hold | hnew
    · rcases h.stream r (List.mem_filter.1 hold).1 with ⟨i, hi, rfl⟩ | hout
      · exact .inl ⟨i, by omega, rfl⟩
      · exact .inr hout
    · exact .inl ⟨k, by omega, List.mem_singleton.1 hnew⟩

/-- The entry of each candidate is the one that the core's rings show. -/
theorem RingFilled.ringCand {s u : State} {core : Nat} {d : PeCmd} (h : RingFilled s u core d d.count) {i : Nat} (hi : i < d.count) :
    u.ringCand core (d.first + i) = some (d.entry core i) := by
  have hfound : (u.ringCand core (d.first + i)).isSome = true :=
    List.find?_isSome.2 ⟨d.entry core i, h.entries i hi, by simp [PeCmd.entry]⟩
  obtain ⟨r, hr⟩ := Option.isSome_iff_exists.1 hfound
  obtain ⟨hcore, hcand⟩ : r.core = core ∧ r.cand = d.first + i := by simpa using List.find?_some hr
  rcases h.stream r (List.mem_of_find?_eq_some hr) with ⟨j, hj, rfl⟩ | ⟨-, hout⟩
  · have hji : d.first + j = d.first + i := hcand
    rw [hr, Nat.add_left_cancel hji]
  · exact absurd ⟨hcore, by omega, by omega⟩ hout

/-! ### The cycle: void candidates of phase 3 -/

/-- In `u` the void ones of the first `k` candidates are counted in the cycle of `s`, in phase 3 alone. -/
structure VoidsCounted (s u : State) (first : Nat) (f : Nat → List Sample) (k : Nat) : Prop where
  held : u.cyc.held = s.cyc.held
  optVoid : u.cyc.cur.map (fun y => y.optVoid) = s.cyc.cur.map (fun y => y.optVoid)
  phase : u.phase = s.phase
  calm : s.phase ≠ 3 → u.cyc = s.cyc
  voided : s.phase = 3 → ∀ i, i < k → isVoid (f i) = true → u.cyc.cur.map (fun y => y.voided.contains (first + i)) = some true

theorem VoidsCounted.start {s u : State} (first : Nat) (f : Nat → List Sample) (hu : u.cyc = s.cyc) : VoidsCounted s u first f 0 :=
  ⟨by rw [hu], by rw [hu], by rw [State.phase, hu, State.phase], fun _ => hu, fun _ i hi => absurd hi (Nat.not_lt_zero i)⟩

theorem VoidsCounted.step {s u v : State} {e : EngEnv} {first : Nat} {f : Nat → List Sample} {k : Nat} (h : VoidsCounted s u first f k)
    (hv : v.cyc = if isVoid (f k) then (u.countVoid e (first + k)).cyc else u.cyc) : VoidsCounted s v first f (k + 1) := by
  have hphase : ∀ t : State, v.cyc = t.cyc → v.phase = t.phase := fun t ht => by rw [State.phase, ht, State.phase]
  by_cases hvoid : isVoid (f k) = true
  · rw [if_pos hvoid] at hv
    refine ⟨by rw [hv, State.countVoid_held, h.held], by rw [hv, State.countVoid_optVoid, h.optVoid],
      by rw [hphase _ hv, State.countVoid_phase, h.phase],
      fun hp => by rw [hv, State.countVoid_of_phase_ne (h.phase ▸ hp), h.calm hp], fun hp i hi hi' => ?_⟩
    rw [hv]
    rcases Nat.lt_succ_iff_lt_or_eq.1 hi with hlt | rfl
    · exact State.countVoid_keeps (h.voided hp i hlt hi')
    · exact State.countVoid_voids (h.phase.trans hp)
  · rw [if_neg hvoid] at hv
    refine ⟨by rw [hv, h.held], by rw [hv, h.optVoid], by rw [hphase _ hv, h.phase], fun hp => by rw [hv, h.calm hp], fun hp i hi hi' => ?_⟩
    have hne : i ≠ k := fun hik => hvoid (hik ▸ hi')
    rw [hv]
    exact h.voided hp i (by omega) hi'

/-! ### The expansion up to a candidate -/

/-- `u` is `s` with the first `k` candidates of an expansion in their slots, counted and flagged. -/
structure Expanding (s u : State) (core : Nat) (d : PeCmd) (q : QCmd) (n : Nat) (f : Nat → List Sample) (k : Nat) : Prop where
  frame : { u with mem := s.mem, eng := s.eng, cyc := s.cyc } = s
  engines : { u.eng with flags := s.eng.flags, stream := s.eng.stream, runs := s.eng.runs } = s.eng
  mem : u.mem = s.mem.putCands (scratchBase core + d.outOff * 64) n (firstCands f k)
  flags : u.eng.flags = s.eng.flags ++ ((firstCands f k).zipIdx.map (fun x => q.sampleFlags (d.first + x.2) x.1)).flatten
  runs : u.eng.runs = s.eng.runs ++ [(firstCands f k).foldl StreamRun.expanded (.start core .pe)]
  ring : RingFilled s u core d k
  cycle : VoidsCounted s u d.first f k

section
variable {s u : State} {e : EngEnv} {core : Nat} {d : PeCmd} {q : QCmd} {n : Nat} {f : Nat → List Sample} {k : Nat}

theorem Expanding.queues (h : Expanding s u core d q n f k) : u.eng.queues = s.eng.queues := (congrArg EngSt.queues h.engines :)
theorem Expanding.pathSat (h : Expanding s u core d q n f k) : u.eng.pathSat = s.eng.pathSat := (congrArg EngSt.pathSat h.engines :)
theorem Expanding.world (h : Expanding s u core d q n f k) : u.world = s.world := (congrArg State.world h.frame :)

theorem Expanding.runOf (h : Expanding s u core d q n f k) (hs : s.runs core .pe = false) :
    u.runOf core .pe = (firstCands f k).foldl StreamRun.expanded (.start core .pe) :=
  State.runOf_noted hs h.runs (by rw [foldl_expanded]; rfl) (by rw [foldl_expanded]; rfl)

theorem Expanding.next_eq (h : Expanding s u core d q n f k) (hs : s.runs core .pe = false) : (u.runOf core .pe).next = k := by
  rw [h.runOf hs, foldl_expanded]
  simp [StreamRun.start]

/-- Without its own run, the expansion's stream commands are those of other engines. -/
theorem Expanding.runs_filter (h : Expanding s u core d q n f k) (hs : s.runs core .pe = false) :
    u.eng.runs.filter (fun x => !(x.core == core && x.engine == .pe)) = s.eng.runs := by
  rw [h.runs, foldl_expanded, List.filter_append, State.runs_filter hs]
  simp [StreamRun.start]

/-- A slot that was free for the command is free when its turn comes. -/
theorem Expanding.slotFree (h : Expanding s u core d q n f k) (hs : s.runs core .pe = false) (hk : k < d.count)
    (hfree : s.slotFree core d k = true) : u.slotFree core d k = true := by
  rw [State.slotFree_iff] at hfree ⊢
  have hcheck : ∀ cand, u.toCheck core d.outOff cand = s.toCheck core d.outOff cand := fun cand => by
    simp only [State.toCheck, State.queueOf, h.queues]
  intro r hr hcore hring hslot hretired
  rw [h.next_eq hs, hcheck]
  rcases h.ring.stream r hr with ⟨i, hi, rfl⟩ | ⟨hold, hout⟩
  · have hik : i = k := hslot
    omega
  · exact ⟨by omega, (hfree r hold hcore hring hslot hretired).2⟩

/-- The start of an expansion: earlier entries of its candidates have left the rings. -/
theorem Expanding.start (hs : s.runs core .pe = false) :
    Expanding s ((s.dropStream core (fun k => decide (d.first ≤ k ∧ k < d.first + d.count))).setRun (s.runOf core .pe))
      core d q n f 0 := by
  refine ⟨rfl, rfl, rfl, (List.append_nil _).symm, ?_, RingFilled.start .., VoidsCounted.start _ _ rfl⟩
  simp only [State.setRun_eng, State.runOf_core, State.runOf_engine, State.dropStream]
  rw [State.runs_filter hs, State.runOf_start hs]
  rfl

/-- One more candidate. -/
theorem Expanding.step {gen : State → Nat → List Sample} {one : Nat → List Sample}
    (h : Expanding s u core d q e.img.misc.nsamp f k) (hs : s.runs core .pe = false) (hk : k < d.count)
    (hslots : d.count ≤ d.slots) (hfree : s.slotFree core d k = true)
    (hf : f = fun i => stickySat (s.eng.pathSat.contains (core, d.first + i)) (one i)) (hgen : gen u k = one k) :
    Expanding s (u.expandNext e core d q gen) core d q e.img.misc.nsamp f (k + 1) := by
  have hps : f k = stickySat (u.eng.pathSat.contains (core, d.first + k)) (gen u k) := by rw [h.pathSat, hgen, hf]
  rw [State.expandNext_writes (h.next_eq hs) hk hslots (h.slotFree hs hk hfree) hps]
  refine ⟨h.frame, h.engines, ?_, ?_, ?_, h.ring.step rfl, h.cycle.step rfl⟩
  · simp only [h.mem, Memory.putCands, zipIdx_firstCands_succ, List.foldl_append, List.foldl_cons, List.foldl_nil]
  · simp only [h.flags, zipIdx_firstCands_succ, List.map_append, List.flatten_append, List.map_cons, List.map_nil, List.flatten_cons,
      List.flatten_nil, List.append_nil, List.append_assoc]
  · simp only [h.runs_filter hs, h.runOf hs, firstCands_succ, List.foldl_append, List.foldl_cons, List.foldl_nil]

/-- All candidates of an expansion, one after another. -/
theorem Expanding.all {gen : State → Nat → List Sample} {one : Nat → List Sample} (h0 : Expanding s u core d q e.img.misc.nsamp f 0)
    (hs : s.runs core .pe = false) (hslots : d.count ≤ d.slots) (hfree : ∀ i, i < d.count → s.slotFree core d i = true)
    (hf : f = fun i => stickySat (s.eng.pathSat.contains (core, d.first + i)) (one i))
    (hgen : ∀ v k, k < d.count → Expanding s v core d q e.img.misc.nsamp f k → gen v k = one k) :
    Expanding s ((List.range d.count).foldl (fun (v : State) _ => v.expandNext e core d q gen) u) core d q e.img.misc.nsamp f d.count := by
  suffices hall : ∀ k, k ≤ d.count →
      Expanding s ((List.range k).foldl (fun (v : State) _ => v.expandNext e core d q gen) u) core d q e.img.misc.nsamp f k from
    hall d.count le_rfl
  intro k hk
  induction k with
  | zero => exact h0
  | succ k ih =>
    have hprev := ih (by omega)
    rw [List.range_succ, List.foldl_append]
    exact hprev.step hs hk hslots (hfree k hk) hf (hgen _ k hk hprev)

end

/-! ### The samples of a candidate while its command expands -/

theorem State.optIsVoid_iff (s : State) (e : EngEnv) (cand : Nat) : s.optIsVoid e cand = true ↔
    (e.arm.famOf cand).map (fun f => f.1) = some 2 ∧ (s.cyc.held = none ∨ ∃ y, s.cyc.cur = some y ∧ cand ∈ y.optVoid) := by
  simp only [State.optIsVoid, Bool.and_eq_true, beq_iff_eq, Bool.or_eq_true, Option.isNone_iff_eq_none]
  cases s.cyc.cur <;> simp

@[simp] theorem length_stickySat (sat : Bool) (ps : List Sample) : (stickySat sat ps).length = ps.length := by
  induction ps generalizing sat with
  | nil => rfl
  | cons p ps ih => simp only [stickySat, List.length_cons, ih]

theorem length_of_mapM {α β : Type} {g : α → Option β} {xs : List α} {ys : List β} (h : xs.mapM g = some ys) :
    ys.length = xs.length := by
  induction xs generalizing ys with
  | nil =>
    rw [List.mapM_nil] at h
    cases h
    rfl
  | cons x xs ih =>
    rw [List.mapM_cons] at h
    obtain ⟨y, -, h⟩ := Option.bind_eq_some_iff.1 h
    obtain ⟨zs, hzs, h⟩ := Option.bind_eq_some_iff.1 h
    cases h
    rw [List.length_cons, List.length_cons, ih hzs]

theorem length_expandSeq_le (ego : List EgoBody) (n : Nat) (q : SeqIn) (hn : n ≠ 0) : (expandSeq ego n q).length ≤ n := by
  unfold expandSeq
  split
  · next ps h => rw [length_of_mapM h, List.length_range]
  · exact Nat.one_le_iff_ne_zero.2 hn

theorem State.length_seqSamples_le (s : State) (e : EngEnv) (core : Nat) (d : PeCmd) (i : Nat) (hn : e.img.misc.nsamp ≠ 0) :
    (s.seqSamples e core d i).length ≤ e.img.misc.nsamp := by
  unfold State.seqSamples
  dsimp only
  split
  · exact Nat.one_le_iff_ne_zero.2 hn
  · exact length_expandSeq_le _ _ _ hn

theorem le_up64 (n : Nat) : n ≤ up64 n := by
  unfold up64
  omega

section
variable {s u : State} {e : EngEnv} {core : Nat} {d : PeCmd} {q : QCmd} {n : Nat} {f : Nat → List Sample} {k : Nat}

/-- A candidate of the library, or the guess of an OPT candidate, does not depend on how far its command is. -/
theorem Expanding.libSamples (h : Expanding s u core d q n f k) (i : Nat) : u.libSamples e d i = s.libSamples e d i := by
  simp only [State.libSamples, State.guess, h.cycle.held, h.world]

theorem Expanding.optIsVoid (h : Expanding s u core d q n f k) (cand : Nat) : u.optIsVoid e cand = s.optIsVoid e cand := by
  have hcur : u.cyc.cur.map (fun y => y.optVoid.contains cand) = s.cyc.cur.map (fun y => y.optVoid.contains cand) := by
    simpa only [Option.map_map, Function.comp_def] using congrArg (Option.map (fun l : List Nat => l.contains cand)) h.cycle.optVoid
  simp only [State.optIsVoid, h.cycle.held, hcur]

/-- What the sequences hold that stand apart from the ring stays while the command fills the ring. -/
theorem Expanding.peek_input (h : Expanding s u core d q n f k) (hk : k < d.count) (hlen : ∀ i, (f i).length ≤ n) {stride y len : Nat}
    (hapart : d.inOff * 64 + d.count * stride ≤ d.outOff * 64 ∨ d.outOff * 64 + d.count * (n * 64) ≤ d.inOff * 64)
    (hlo : scratchBase core + d.inOff * 64 + k * stride ≤ y) (hhi : y + len ≤ scratchBase core + d.inOff * 64 + k * stride + stride) :
    u.peek y len = s.peek y len := by
  have hin : (k + 1) * stride ≤ d.count * stride := Nat.mul_le_mul_right _ hk
  have hout : k * (n * 64) ≤ d.count * (n * 64) := Nat.mul_le_mul_right _ hk.le
  rw [Nat.succ_mul] at hin
  rw [State.peek, h.mem]
  exact read_putCands_other s.mem hlen (by omega)

/-- A sequence that stands apart from the ring expands to the samples that it had before the command. -/
theorem Expanding.seqSamples (h : Expanding s u core d q e.img.misc.nsamp f k) (hk : k < d.count)
    (hlen : e.img.misc.nsamp ≠ 0 → ∀ i, (f i).length ≤ e.img.misc.nsamp)
    (hapart : d.inOff * 64 + d.count * seqStride e.lib.nstn e.img.misc.nsamp ≤ d.outOff * 64
      ∨ d.outOff * 64 + d.count * (e.img.misc.nsamp * 64) ≤ d.inOff * 64) :
    u.seqSamples e core d k = s.seqSamples e core d k := by
  unfold State.seqSamples
  dsimp only
  rw [h.optIsVoid]
  by_cases hn : e.img.misc.nsamp = 0
  · rw [hn]
    rfl
  · have hstride : up64 (24 * e.lib.nstn) + up64 (8 * e.img.misc.nsamp) = seqStride e.lib.nstn e.img.misc.nsamp := rfl
    have hstn := le_up64 (24 * e.lib.nstn)
    have hprof := le_up64 (8 * e.img.misc.nsamp)
    simp only [State.stationsAt, State.profileAt, State.recordsAt]
    rw [h.peek_input hk (hlen hn) hapart (len := 24 * e.lib.nstn) le_rfl (by omega),
      h.peek_input hk (hlen hn) hapart (len := 8 * e.img.misc.nsamp) (Nat.le_add_right _ _) (by omega)]

end

/-! ### The result -/

theorem sumNat_eq_sum (xs : List Nat) : sumNat xs = xs.sum := List.sum_eq_foldl.symm

/-- The result of an expansion that has run through its candidates (R157). -/
theorem Expanding.result_eq {s u : State} {core : Nat} {d : PeCmd} {q : QCmd} {n : Nat} {f : Nat → List Sample} {k : Nat}
    (h : Expanding s u core d q n f k) (hs : s.runs core .pe = false) (fault : Bool) :
    peResult (u.runOf core .pe).next (u.runOf core .pe).voids (u.runOf core .pe).unbound 0 (u.runOf core .pe).sat
      ((u.runOf core .pe).voids != 0) fault = expandResult (firstCands f k) fault := by
  rw [h.runOf hs, foldl_expanded]
  simp only [StreamRun.start, Nat.zero_add, Bool.false_or, expandResult, sumNat_eq_sum]

/-! ### The command -/

/-- The state in which an expansion leaves its queue. -/
def State.expansionEnd (u : State) (core : Nat) (d : PeCmd) (rest : List QCmd) (q : QCmd) : State :=
  (((u.expandEnd core d false q).setQueue core .pe rest).commandDone q).endRun core .pe

section
variable {s : State} {e : EngEnv} {core op : Nat} {w : BitVec 128} {d : PeCmd} {q : QCmd} {rest : List QCmd}
  {gen : PeCmd → EngEnv → State → Nat → List Sample}

theorem State.expandRun_clean (hq : s.queueOf core .pe = q :: rest) (hw : q.word = w.toNat) (hd : d = PeCmd.ofWord w.toNat)
    (hop : d.op = op) {u : State} (hu : s.expandBody core d (gen d) q = u) : s.expandRun core w .clean op gen
      = .next (if (u.engEnv (core / 16)).isNone || decide (d.count ≤ (u.runOf core .pe).next)
          then u.expansionEnd core d rest q else u) := by
  subst hd
  simp only [State.expandRun, if_neg (not_not.2 hop), State.streamRun_clean hq hw, hu, State.expansionEnd]

/-- An expansion under way whose next slot is taken waits (R156). -/
theorem State.expandRun_waits (hq : s.queueOf core .pe = q :: rest) (hw : q.word = w.toNat) (hd : d = PeCmd.ofWord w.toNat)
    (hop : d.op = op) (he : s.engEnv (core / 16) = some e) (hruns : s.runs core .pe = true) (hnext : (s.runOf core .pe).next < d.count)
    (hslot : s.slotFree core d ((s.runOf core .pe).next % d.slots) = false) : s.expandRun core w .clean op gen = .next s := by
  have hbody : s.expandBody core d (gen d) q = s := by
    simp only [State.expandBody, he, hruns, if_true]
    exact List.foldl_fixed' (fun _ => State.expandNext_waits hslot) _
  rw [State.expandRun_clean hq hw hd hop hbody, he]
  simp [Nat.not_le.2 hnext]

/-- An expansion that begins takes earlier entries of its candidates out of the rings. -/
theorem State.expandBody_begins {gen : EngEnv → State → Nat → List Sample} (he : s.engEnv (core / 16) = some e)
    (hruns : s.runs core .pe = false) : s.expandBody core d gen q
      = (List.range d.count).foldl (fun (v : State) _ => v.expandNext e core d q (gen e))
          ((s.dropStream core (fun k => decide (d.first ≤ k ∧ k < d.first + d.count))).setRun (s.runOf core .pe)) := by
  simp only [State.expandBody, he, hruns, Bool.false_eq_true, if_false]

/-- An expansion whose slots are all free runs through its candidates and leaves its queue. -/
theorem State.expandRun_runs {one : Nat → List Sample} {f : Nat → List Sample} (hq : s.queueOf core .pe = q :: rest) (hw : q.word = w.toNat)
    (hd : d = PeCmd.ofWord w.toNat) (hop : d.op = op) (he : s.engEnv (core / 16) = some e) (hruns : s.runs core .pe = false)
    (hslots : d.count ≤ d.slots) (hfree : ∀ i, i < d.count → s.slotFree core d i = true)
    (hf : f = fun i => stickySat (s.eng.pathSat.contains (core, d.first + i)) (one i))
    (hgen : ∀ v k, k < d.count → Expanding s v core d q e.img.misc.nsamp f k → gen d e v k = one k) :
    ∃ u, Expanding s u core d q e.img.misc.nsamp f d.count ∧ s.expandRun core w .clean op gen
      = .next (u.expansionEnd core d rest q) := by
  have hall := Expanding.all (gen := gen d e) (Expanding.start (q := q) hruns) hruns hslots hfree hf hgen
  refine ⟨_, hall, ?_⟩
  rw [State.expandRun_clean hq hw hd hop (State.expandBody_begins he hruns), hall.next_eq hruns, decide_eq_true le_rfl, Bool.or_true]
  rfl

end

/-! ### The end of the command -/

theorem State.expansionEnd_eq (u : State) (core : Nat) (d : PeCmd) (rest : List QCmd) (q : QCmd) :
    u.expansionEnd core d rest q = { u with
      mem := (u.expandEnd core d false q).mem
      eng := { u.eng with queues := (u.setQueue core .pe rest).eng.queues
                          runs := u.eng.runs.filter (fun x => !(x.core == core && x.engine == .pe)) }
      du := (u.commandDone q).du } := by
  simp only [State.expansionEnd, State.endRun, State.commandDone, State.mapDu, State.setQueue, State.expandEnd, State.result, State.poke,
    reduceCtorEq, if_false]

@[simp] theorem State.expansionEnd_cyc (u : State) (core : Nat) (d : PeCmd) (rest : List QCmd) (q : QCmd) :
    (u.expansionEnd core d rest q).cyc = u.cyc := by rw [State.expansionEnd_eq]

section
variable {s u : State} {core : Nat} {d : PeCmd} {q : QCmd} {rest : List QCmd} {n : Nat} {f : Nat → List Sample} {k : Nat}

theorem Expanding.end_taken (h : Expanding s u core d q n f k) : Taken s (u.expansionEnd core d rest q) core .pe q rest := by
  have hdu : u.du = s.du := (congrArg State.du h.frame :)
  rw [State.expansionEnd_eq]
  refine State.taken_of_queues ?_ ?_
  · simp only [State.setQueue, h.queues]
  · simp only [State.commandDone, State.mapDu, hdu]

theorem Expanding.end_frame (h : Expanding s u core d q n f k) :
    { u.expansionEnd core d rest q with mem := s.mem, eng := s.eng, du := s.du, cyc := s.cyc } = s := by
  have hframe := congrArg (fun v : State => { v with du := s.du }) h.frame
  rw [State.expansionEnd_eq]
  dsimp only at hframe ⊢
  exact hframe

theorem Expanding.end_engines (h : Expanding s u core d q n f k) (hs : s.runs core .pe = false) :
    { (u.expansionEnd core d rest q).eng with queues := s.eng.queues, flags := s.eng.flags, stream := s.eng.stream } = s.eng := by
  have hengines := congrArg (fun v : EngSt => { v with queues := s.eng.queues }) h.engines
  simp only [State.expansionEnd_eq, h.runs_filter hs] at hengines ⊢
  exact hengines

theorem Expanding.end_mem (h : Expanding s u core d q n f k) (hs : s.runs core .pe = false) :
    (u.expansionEnd core d rest q).mem = (s.mem.putCands (scratchBase core + d.outOff * 64) n (firstCands f k)).write
      (dualBase (core / 4) + d.resultOff * 16) (expandResult (firstCands f k) false) := by
  simp only [State.expansionEnd_eq, State.expandEnd, State.result, State.poke_mem, h.mem, h.result_eq hs]

theorem Expanding.end_flags (h : Expanding s u core d q n f k) : (u.expansionEnd core d rest q).eng.flags
    = s.eng.flags ++ ((firstCands f k).zipIdx.map (fun x => q.sampleFlags (d.first + x.2) x.1)).flatten := by
  rw [State.expansionEnd_eq, h.flags]

theorem Expanding.end_ringCand (h : Expanding s u core d q n f d.count) {i : Nat} (hi : i < d.count) :
    (u.expansionEnd core d rest q).ringCand core (d.first + i) = some (d.entry core i) := by
  rw [State.ringCand, State.expansionEnd_eq]
  exact h.ring.ringCand hi

theorem Expanding.end_voided (h : Expanding s u core d q n f k) (hp : s.phase = 3) {x : List Sample × Nat}
    (hx : x ∈ (firstCands f k).zipIdx) (hv : isVoid x.1 = true) :
    (u.expansionEnd core d rest q).cyc.cur.map (fun y => y.voided.contains (d.first + x.2)) = some true := by
  obtain ⟨hlt, hfx⟩ := mem_zipIdx_firstCands hx
  rw [State.expansionEnd_cyc]
  exact h.cycle.voided hp x.2 hlt (hfx ▸ hv)

end

/-- EXPAND_LIB is the expansion that takes its samples from the library. -/
theorem exec_expandLib (c : Core) (w : BitVec 128) (hw : HwEvent) (s : State) :
    exec (.expandLib c w hw) s = s.expandRun c w hw 1 (fun d e s i => s.libSamples e d i) := rfl

/-- EXPAND_SEQ is the expansion that takes its samples from the sequences at IN_OFF. -/
theorem exec_expandSeq (c : Core) (w : BitVec 128) (hw : HwEvent) (s : State) :
    exec (.expandSeq c w hw) s = s.expandRun c w hw 2 (fun d e s i => s.seqSamples e c d i) := rfl

end Sys2Proof.Machine

namespace Sys2Proof
open Sys2Proof.Machine

/-- Settles O48: what BUILD_PATH and RM_SEARCH leave is an update of memory, paths' SAT and flags (`State.put`); an expansion
keeps the invariant `Expanding` from one candidate to the next, whose slot its earlier candidates leave free and whose
input they leave alone. -/
theorem posesAreExpanded : Obligations.PosesAreExpanded := by
  intro c w d q rest e s hmem hq hw he hd
  refine ⟨fun cmd one cs hcmd hcs => ?_, fun hop raw prof path ss sat hsrc hss hband => ?_, fun hop hmode hno => ?_,
    fun r y cs ps sat hop hr hy hcs hps hsat => ?_⟩
  · obtain ⟨op, gen, hop, hexec, hgen⟩ : ∃ op gen, d.op = op ∧ exec cmd s = s.expandRun c w .clean op gen
        ∧ ∀ v k, k < d.count → Expanding s v c d q e.img.misc.nsamp
            (fun i => stickySat (s.eng.pathSat.contains (c.val, d.first + i)) (one i)) k → gen d e v k = one k := by
      rcases hcmd with ⟨hop, rfl, hone⟩ | ⟨hop, rfl, hapart, hone⟩
      · exact ⟨1, _, hop, exec_expandLib .., fun v k _ hv => (hv.libSamples k).trans (hone k).symm⟩
      · have hseq : ∀ i, one i = s.seqSamples e c d i := fun i => by
          rw [hone, State.seqSamples]
          simp only [State.optIsVoid_iff]
        refine ⟨2, _, hop, exec_expandSeq .., fun v k hk hv => (hv.seqSamples hk (fun hn i => ?_) hapart).trans (hseq k).symm⟩
        rw [length_stickySat, hseq]
        exact s.length_seqSamples_le e c d i hn
    rw [hexec]
    obtain rfl : cs = firstCands _ d.count := hcs
    refine ⟨State.expandRun_waits hq hw hd hop he, fun hruns hslots hfree => ?_⟩
    obtain ⟨u, hu, hrun⟩ := State.expandRun_runs hq hw hd hop he hruns hslots hfree rfl hgen
    exact ⟨_, hrun, hu.end_taken, hu.end_frame, hu.end_engines hruns, fun i hi => hu.end_ringCand hi, hu.end_mem hruns, hu.end_flags,
      fun hp => (State.expansionEnd_cyc ..).trans (hu.cycle.calm hp), fun hp x hx hv => hu.end_voided hp hx hv⟩
  · have hbody : (s.taking c .pe rest q).buildPathBody c d q = (s.taking c .pe rest q).putPath c d q (seqBytes ss prof) sat false := by
      rcases hsrc with ⟨hmode, hraw, rfl, rfl⟩ | ⟨hmode, ⟨r, hr, hpath⟩, hne, hraw, rfl, rfl⟩
      · exact State.buildPathBody_stations he hmode hraw hss hband
      · obtain rfl : path = (s.taking c .pe rest q).pathNodes e c d := hpath.trans (State.pathNodes_eq (s := s.taking c .pe rest q) hr).symm
        exact State.buildPathBody_nodes he hmode hne hraw hss hband
    rw [State.putPath_eq, State.taking_mem, boolNat_false] at hbody
    refine ⟨_, (exec_buildPath_clean hq hw hd hop).trans (congrArg _ hbody), State.put_taken .., State.put_frame .., State.put_engines ..,
      State.put_mem .., ?_, ?_, congrArg _ (List.append_nil _)⟩
    · rintro rfl
      exact satPaths_contains ..
    · rintro rfl
      exact satPaths_false _ c.val d.first
  · obtain ⟨bs, hbody⟩ := State.buildPathBody_missing (s := s.taking c .pe rest q) (q := q) he hmode (State.pathNodes_eq_nil hno)
    rw [State.putPath_eq, State.taking_mem, boolNat_true] at hbody
    exact ⟨_, (exec_buildPath_clean hq hw hd hop).trans (congrArg _ hbody), State.put_taken .., State.put_frame .., State.put_engines ..,
      holds_write (wf_write hmem.1 _ bs) (State.put_mem ..), (List.append_assoc ..).symm⟩
  · have hbody := State.rmSearchBody_eq (s := s.taking c .pe rest q) (core := c) (q := q) he hr hy hcs hps hsat
    have hlen : ps.length = d.count := by rw [hps, List.length_map, List.length_range]
    rw [State.taking_mem] at hbody
    refine ⟨_, (exec_rmSearch_clean hq hw hd hop).trans (congrArg _ hbody), State.put_taken .., State.put_frame .., State.put_engines ..,
      rfl, holds_write (wf_putPaths hmem.1 _ ps) (State.put_mem ..), fun hfit i hi p hp => ?_, ?_⟩
    · refine holds_of_read (bs := pathEntry p) (State.put_mem ..) (read_paths_behind_result hmem.1 hp ?_)
      have hbelow := scratch_below_dual c
      omega
    · exact untouched_paths (State.put_mem ..) (length_peResult ..) hlen

end Sys2Proof

/-! ## Candidates checked and costed (R160 to R197) -/

namespace Sys2Proof.Machine
open Sys2Proof

/-! ### What a command of the collision or cost engine leaves -/

/-- The state with these flags behind its own. -/
def State.sendFlags (s : State) (fl : List EngFlag) : State := { s with eng := { s.eng with flags := s.eng.flags ++ fl } }

theorem State.sendFlags_sendFlags (s : State) (fl gl : List EngFlag) : (s.sendFlags fl).sendFlags gl = s.sendFlags (fl ++ gl) := by
  simp only [State.sendFlags, List.append_assoc]

/-- A flag sent where a condition holds. -/
theorem State.flag_if_eq_sendFlags (s : State) (b : Bool) (q : QCmd) (code lane cand : Nat) :
    (if b then s.flag q code lane cand else s) = s.sendFlags (if b then [q.flagOf code lane cand] else []) :=
  State.flag_if ..

/-- Flags sent in a row. -/
theorem State.foldl_sendFlags {α : Type} (g : α → List EngFlag) (xs : List α) (s : State) :
    xs.foldl (fun (u : State) x => u.sendFlags (g x)) s = s.sendFlags (xs.map g).flatten := by
  induction xs generalizing s with
  | nil => simp [State.sendFlags]
  | cons x r ih => simp only [List.foldl_cons, ih, State.sendFlags_sendFlags, List.map_cons, List.flatten_cons]

/-- The state with the memory, cycle, trajectories' verdicts and flags that a command leaves. -/
def State.conclude (s : State) (m : Memory) (y : CycSt) (js : List (Nat × VRec)) (fl : List EngFlag) : State :=
  { s with mem := m, cyc := y, eng := { s.eng with trajs := js, flags := s.eng.flags ++ fl } }

section
variable (s : State) (u : Nat) (e : Engine) (rest : List QCmd) (q : QCmd) (m : Memory) (y : CycSt) (js : List (Nat × VRec))
  (fl : List EngFlag)

theorem State.conclude_taken : Taken s ((s.taking u e rest q).conclude m y js fl) u e q rest :=
  State.taken_of_queues rfl rfl

theorem State.conclude_frame :
    { (s.taking u e rest q).conclude m y js fl with mem := s.mem, eng := s.eng, du := s.du, cyc := s.cyc } = s := by
  simp only [State.conclude, State.taking, State.commandDone, State.mapDu, State.setQueue]

@[simp] theorem State.conclude_mem : ((s.taking u e rest q).conclude m y js fl).mem = m := rfl
@[simp] theorem State.conclude_flags : ((s.taking u e rest q).conclude m y js fl).eng.flags = s.eng.flags ++ fl := rfl

/-- A command that leaves the cycle as it was. -/
theorem State.conclude_frame_cyc :
    { (s.taking u e rest q).conclude m s.cyc js fl with mem := s.mem, eng := s.eng, du := s.du } = s := by
  simp only [State.conclude, State.taking, State.commandDone, State.mapDu, State.setQueue]

theorem State.conclude_engines :
    { ((s.taking u e rest q).conclude m y js fl).eng with queues := s.eng.queues, flags := s.eng.flags, trajs := s.eng.trajs }
      = s.eng := by
  simp only [State.conclude, State.taking, State.commandDone, State.mapDu, State.setQueue]

end

/-! ### Verdicts: records, flags and counts -/

/-- The flags of a lane's verdict (R177): SAT where it arose before, then the one that decides. -/
def QCmd.verdictFlags (q : QCmd) (lane cand : Nat) (r : VRec) (early : Bool) : List EngFlag :=
  (if early then [q.flagOf 5 lane cand] else [])
  ++ [{ q.flagOf (if r.verdict.isLethal then 2 else if r.trunc then 3 else 4) lane cand with
        also := if r.sat = true ∧ early = false then [5] else [] }]

theorem State.verdictFlags_eq (s : State) (q : QCmd) (lane cand : Nat) (r : VRec) (early : Bool) :
    s.verdictFlags q lane cand r early = s.sendFlags (q.verdictFlags lane cand r early) := by
  rw [State.verdictFlags, State.flag_if_eq_sendFlags]
  simp only [QCmd.verdictFlags, ← State.sendFlags_sendFlags, Bool.not_eq_true']
  rfl

theorem QCmd.verdictFlags_late (q : QCmd) (lane cand : Nat) (r : VRec) : q.verdictFlags lane cand r false
    = [{ q.flagOf (if r.verdict.isLethal then 2 else if r.trunc then 3 else 4) lane cand with also := if r.sat then [5] else [] }] := by
  simp only [QCmd.verdictFlags, Bool.false_eq_true, if_false, List.nil_append, and_true]

/-- A candidate's verdict record stands at its place among those of its command (R176). -/
theorem State.putVerdict_first_add (s : State) (core : Nat) (d : KeCmd) (i : Nat) (r : VRec) : s.putVerdict core d (d.first + i) r
    = s.poke (scratchBase core + d.outOff * 64 + i * 64) (r.bytes (d.first + i)) := by
  rw [State.putVerdict, Nat.add_sub_cancel_left]

/-- Whether the issuing step goes on is read from the step's tables, none of which an engine's state holds. -/
theorem State.goesOn_of_mem (s : State) (m : Memory) (g : EngSt) (q : QCmd) :
    State.goesOn { s with mem := m, eng := g } q = State.goesOn { s with mem := m } q := rfl

/-! ### CHECK_TRAJ and CHECK_POSES -/

/-- A memory with the verdict records of candidates from `first` on (R176). -/
def Memory.putVerdicts (m : Memory) (a first : Nat) (rs : List VRec) : Memory :=
  rs.zipIdx.foldl (fun m x => m.write (a + x.2 * 64) (x.1.bytes (first + x.2))) m

/-- The sample that decides the verdict on a trajectory of `n` samples (R180). -/
def VRec.decides (r : VRec) (n : Nat) : Nat := if r.verdict.isLethal then r.sample else if r.trunc then r.tsample else n - 1

section
variable {s : State} {e : EngEnv} {core : Nat} {d : KeCmd} {q : QCmd}

/-- What CHECK_TRAJ writes and reports (R176, R180, R182, R261). -/
theorem State.checkTrajBody_eq {ps : List Sample} {r : VRec} {m : Memory} (he : s.engEnv (core / 16) = some e)
    (hps : ps = s.samplesAt (scratchBase core + d.inOff * 64) d.count)
    (hr : r = (s.chiselEnv e (core / 4)).verdictOf d.flag d.bmask ps)
    (hm : m = s.mem.putVerdicts (scratchBase core + d.outOff * 64) d.first [r]) :
    s.checkTrajBody core d q = s.conclude
      (m.write (dualBase (core / 4) + d.resultOff * 16) (chiselResult [r] (State.goesOn { s with mem := m } q) false))
      (s.checkCounts [r]).cyc (insertKey (trajKey core d.first) r s.eng.trajs)
      (q.verdictFlags (r.decides d.count % d.lanes) d.first r ((s.chiselEnv e (core / 4)).satBefore d.flag d.bmask ps r)) := by
  have hput : s.putVerdict core d d.first r = { s with mem := m } := by
    subst hm
    simp only [State.putVerdict, Nat.sub_self, Memory.putVerdicts, List.zipIdx_cons, List.zipIdx_nil, List.foldl_cons,
      List.foldl_nil, Nat.add_zero, State.poke]
  subst hps
  simp only [State.checkTrajBody, he, ← hr, hput, State.verdictFlags_eq, State.conclude, State.sendFlags, State.checkCounts, State.tally,
    State.result, State.poke, State.goesOn_of_mem, VRec.decides]

/-- What CHECK_POSES writes and reports (R165, R176, R180, R182). -/
theorem State.checkPosesBody_eq {rs : List VRec} {m : Memory} (he : s.engEnv (core / 16) = some e)
    (hrs : rs = (s.posesOf e core d).map ((s.chiselEnv e (core / 4)).verdictPose d.flag d.bmask e.img.misc.dts e.img.misc.nsamp))
    (hm : m = s.mem.putVerdicts (scratchBase core + d.outOff * 64) d.first rs) :
    s.checkPosesBody core d q = s.conclude
      (m.write (dualBase (core / 4) + d.resultOff * 16) (chiselResult rs (State.goesOn { s with mem := m } q) false))
      (s.checkCounts rs).cyc s.eng.trajs
      (rs.zipIdx.map (fun x => q.verdictFlags (x.2 % d.lanes) (d.first + x.2) x.1 false)).flatten := by
  have hput : rs.zipIdx.foldl (fun (u : State) x => u.putVerdict core d (d.first + x.2) x.1) s = { s with mem := m } := by
    simp only [State.putVerdict_first_add]
    exact hm ▸ State.foldl_poke ..
  simp only [State.checkPosesBody, he, ← hrs, hput, State.verdictFlags_eq]
  rw [State.foldl_sendFlags]
  simp only [State.conclude, State.sendFlags, State.checkCounts, State.tally, State.result, State.poke]

end

/-! ### COST_TRAJ and COST_FINAL -/

/-- The flags of a candidate's costing (R196). -/
def QCmd.costFlags (q : QCmd) (cand : Nat) (p : Partial) : List EngFlag :=
  (if p.sat then [q.flagOf 5 0xFFFFFFFF cand] else []) ++ (if p.clay then [q.flagOf 8 0xFFFFFFFF cand] else [])
  ++ (if p.clim then [q.flagOf 9 0xFFFFFFFF cand] else [])

theorem State.costFlags_eq (s : State) (q : QCmd) (cand : Nat) (p : Partial) :
    s.costFlags q cand p = s.sendFlags (q.costFlags cand p) := by
  simp only [State.costFlags, State.flag_if_eq_sendFlags, State.sendFlags_sendFlags, QCmd.costFlags]

section
variable {s : State} {e : EngEnv} {core : Nat} {d : KeCmd} {q : QCmd}

/-- What COST_TRAJ writes and reports (R189, R193 to R196). -/
theorem State.costTrajBody_eq {p : Partial} (he : s.engEnv (core / 16) = some e)
    (hp : p = (s.costEnv e (core / 16)).costSamples true (s.samplesAt (scratchBase core + d.inOff * 64) d.count)) :
    s.costTrajBody core d q = s.conclude
      ((s.mem.write (scratchBase core + d.outOff * 64) (p.bytes d.first)).write (dualBase (core / 4) + d.resultOff * 16)
        (keResult 1 0 0 p.sat p.clay p.clim false))
      s.cyc s.eng.trajs (q.costFlags d.first p) := by
  simp only [State.costTrajBody, he, ← hp, State.costFlags_eq, State.putRecs, List.flatten_singleton, State.conclude,
    State.sendFlags, State.result, State.poke]

/-- What COST_FINAL writes and reports, and what it keeps for the contact sheet (R190, R192 to R196, R290). -/
theorem State.costFinalBody_eq {rs : List CostRec} (he : s.engEnv (core / 16) = some e)
    (hrs : rs = (((s.recordsAt (scratchBase core + d.inOff * 64) 64 d.count).map VRec.ofBytes).zip
        ((s.recordsAt (scratchBase core + d.outOff * 64) 16 d.count).map Partial.ofBytes)).zipIdx.map (fun x =>
          (s.costEnv e (core / 16)).costFinal s.probAt d.flag (d.first + x.2) x.1.1 x.1.2)) :
    s.costFinalBody core d q = s.conclude
      ((s.mem.write (scratchBase core + d.outOff * 64) (rs.map CostRec.bytes).flatten).write
        (dualBase (core / 4) + d.resultOff * 16)
        (keResult rs.length (rs.filter (fun r => r.verdict == .free && (r.clay || r.clim))).length (ksumOf rs)
          (rs.any (fun r => r.sat)) false false false))
      (if s.phase ≤ 4 ∧ d.flag = false then (s.mapCycle (fun k => { k with costs := k.costs ++ rs })).cyc else s.cyc) s.eng.trajs
      (rs.map (fun r => if r.sat then [q.flagOf 5 0xFFFFFFFF r.cand] else [])).flatten := by
  simp only [State.costFinalBody, he, ← hrs, State.flag_if_eq_sendFlags, State.foldl_sendFlags, Bool.not_eq_true']
  have hphase : ∀ bs, (State.result (s.putRecs core d (rs.map CostRec.bytes)) (core / 4) d.resultOff bs).phase = s.phase :=
    fun _ => rfl
  rw [hphase]
  split <;> simp only [State.conclude, State.sendFlags, State.mapCycle, State.putRecs, State.result, State.poke]

end

/-! ### The commands without a stream as the head of their queue -/

section
variable {core : Nat} {w : BitVec 128} {d : KeCmd} {q : QCmd} {rest : List QCmd} {s : State} {op : Nat}
  (body : KeCmd → QCmd → State → State)

/-- A command of the collision engine, as the head of its queue, is its body. -/
theorem State.ceRun_clean (hq : s.queueOf core .ce = q :: rest) (hw : q.word = w.toNat) (hd : d = ceOfWord w.toNat) (hop : d.op = op) :
    s.ceRun core w .clean op body = .next (body d q (s.taking core .ce rest q)) := by
  subst hd
  simp only [State.ceRun, if_neg (not_not.2 hop)]
  rw [State.engineRun_clean hq hw (by decide)]
  rfl

/-- A command of the cost engine, as the head of its queue, is its body. -/
theorem State.keRun_clean (hq : s.queueOf core .ke = q :: rest) (hw : q.word = w.toNat) (hd : d = KeCmd.ofWord w.toNat) (hop : d.op = op) :
    s.keRun core w .clean op body = .next (body d q (s.taking core .ke rest q)) := by
  subst hd
  simp only [State.keRun, if_neg (not_not.2 hop)]
  rw [State.engineRun_clean hq hw (by decide)]
  rfl

end

section
variable {c : Core} {w : BitVec 128} {d : KeCmd} {q : QCmd} {rest : List QCmd} {s : State} {e : EngEnv}

/-- What CHECK_TRAJ leaves as the head of its queue. -/
theorem exec_checkTraj_clean {ps : List Sample} {r : VRec} {m : Memory} (hq : s.queueOf c .ce = q :: rest) (hw : q.word = w.toNat)
    (hd : d = ceOfWord w.toNat) (hop : d.op = 2) (he : s.engEnv (c.val / 16) = some e)
    (hps : ps = s.samplesAt (scratchBase c + d.inOff * 64) d.count)
    (hr : r = (s.chiselEnv e (c.val / 4)).verdictOf d.flag d.bmask ps)
    (hm : m = s.mem.putVerdicts (scratchBase c + d.outOff * 64) d.first [r]) :
    exec (.checkTraj c w .clean) s = .next ((s.taking c .ce rest q).conclude
      (m.write (dualBase (c.val / 4) + d.resultOff * 16) (chiselResult [r] (State.goesOn { s with mem := m } q) false))
      (s.checkCounts [r]).cyc (insertKey (trajKey c d.first) r s.eng.trajs)
      (q.verdictFlags (r.decides d.count % d.lanes) d.first r ((s.chiselEnv e (c.val / 4)).satBefore d.flag d.bmask ps r))) :=
  (State.ceRun_clean (fun d q s => s.checkTrajBody c d q) hq hw hd hop).trans
    (congrArg _ (State.checkTrajBody_eq (s := s.taking c .ce rest q) he hps hr hm))

/-- What CHECK_POSES leaves as the head of its queue. -/
theorem exec_checkPoses_clean {rs : List VRec} {m : Memory} (hq : s.queueOf c .ce = q :: rest) (hw : q.word = w.toNat)
    (hd : d = ceOfWord w.toNat) (hop : d.op = 3) (he : s.engEnv (c.val / 16) = some e)
    (hrs : rs = (s.posesOf e c d).map ((s.chiselEnv e (c.val / 4)).verdictPose d.flag d.bmask e.img.misc.dts e.img.misc.nsamp))
    (hm : m = s.mem.putVerdicts (scratchBase c + d.outOff * 64) d.first rs) :
    exec (.checkPoses c w .clean) s = .next ((s.taking c .ce rest q).conclude
      (m.write (dualBase (c.val / 4) + d.resultOff * 16) (chiselResult rs (State.goesOn { s with mem := m } q) false))
      (s.checkCounts rs).cyc s.eng.trajs
      (rs.zipIdx.map (fun x => q.verdictFlags (x.2 % d.lanes) (d.first + x.2) x.1 false)).flatten) :=
  (State.ceRun_clean (fun d q s => s.checkPosesBody c d q) hq hw hd hop).trans
    (congrArg _ (State.checkPosesBody_eq (s := s.taking c .ce rest q) he hrs hm))

/-- What COST_TRAJ leaves as the head of its queue. -/
theorem exec_costTraj_clean {p : Partial} (hq : s.queueOf c .ke = q :: rest) (hw : q.word = w.toNat) (hd : d = KeCmd.ofWord w.toNat)
    (hop : d.op = 2) (he : s.engEnv (c.val / 16) = some e)
    (hp : p = (s.costEnv e (c.val / 16)).costSamples true (s.samplesAt (scratchBase c + d.inOff * 64) d.count)) :
    exec (.costTraj c w .clean) s = .next ((s.taking c .ke rest q).conclude
      ((s.mem.write (scratchBase c + d.outOff * 64) (p.bytes d.first)).write (dualBase (c.val / 4) + d.resultOff * 16)
        (keResult 1 0 0 p.sat p.clay p.clim false))
      s.cyc s.eng.trajs (q.costFlags d.first p)) :=
  (State.keRun_clean (fun d q s => s.costTrajBody c d q) hq hw hd hop).trans
    (congrArg _ (State.costTrajBody_eq (s := s.taking c .ke rest q) he hp))

/-- What COST_FINAL leaves as the head of its queue. -/
theorem exec_costFinal_clean {rs : List CostRec} (hq : s.queueOf c .ke = q :: rest) (hw : q.word = w.toNat) (hd : d = KeCmd.ofWord w.toNat)
    (hop : d.op = 3) (he : s.engEnv (c.val / 16) = some e)
    (hrs : rs = (((s.recordsAt (scratchBase c + d.inOff * 64) 64 d.count).map VRec.ofBytes).zip
        ((s.recordsAt (scratchBase c + d.outOff * 64) 16 d.count).map Partial.ofBytes)).zipIdx.map (fun x =>
          (s.costEnv e (c.val / 16)).costFinal s.probAt d.flag (d.first + x.2) x.1.1 x.1.2)) :
    exec (.costFinal c w .clean) s = .next ((s.taking c .ke rest q).conclude
      ((s.mem.write (scratchBase c + d.outOff * 64) (rs.map CostRec.bytes).flatten).write
        (dualBase (c.val / 4) + d.resultOff * 16)
        (keResult rs.length (rs.filter (fun r => r.verdict == .free && (r.clay || r.clim))).length (ksumOf rs)
          (rs.any (fun r => r.sat)) false false false))
      (if s.phase ≤ 4 ∧ d.flag = false then (s.mapCycle (fun k => { k with costs := k.costs ++ rs })).cyc else s.cyc) s.eng.trajs
      (rs.map (fun r => if r.sat then [q.flagOf 5 0xFFFFFFFF r.cand] else [])).flatten) :=
  (State.keRun_clean (fun d q s => s.costFinalBody c d q) hq hw hd hop).trans
    (congrArg _ (State.costFinalBody_eq (s := s.taking c .ke rest q) he hrs))

end

/-! ### Candidates of a stream, whatever other engine's stream is under way -/

/-- What takes the place of all that a search looks for is what it finds. -/
theorem find_filter_not_append {α : Type} {p : α → Bool} {x : α} (xs : List α) (hx : p x = true) :
    (xs.filter (fun y => !p y) ++ [x]).find? p = some x := by
  have hnone : (xs.filter (fun y => !p y)).find? p = none :=
    List.find?_eq_none.2 fun y hy => by simpa using (List.mem_filter.1 hy).2
  rw [List.find?_append, hnone, Option.none_or, List.find?_singleton, if_pos hx]

section
variable {s u : State} {core : Nat} {e f : Engine}

/-- Stream commands of other engines do not tell how far an engine's own is. -/
theorem State.runOf_of_filter (h : u.eng.runs.filter (fun x => !(x.core == core && x.engine == e)) = s.eng.runs) (hne : f ≠ e)
    (k : Nat) : u.runOf k f = s.runOf k f := by
  have hkeep : ∀ x : StreamRun, (x.core == k && x.engine == f) = true → (!(x.core == core && x.engine == e)) = true := by
    intro x hx
    obtain ⟨-, rfl⟩ : x.core = k ∧ x.engine = f := by simpa using hx
    simp [hne]
  rw [State.runOf, State.runOf, ← h, find_filter_of_imp hkeep]

/-- Without its own, the stream commands under way are those before its own was noted. -/
theorem State.setRun_filter {r : StreamRun} (h : s.runs core e = false) {v : State}
    (hv : v.eng.runs.filter (fun x => !(x.core == core && x.engine == e)) = s.eng.runs) (hcore : r.core = core) (he : r.engine = e) :
    (v.setRun r).eng.runs.filter (fun x => !(x.core == core && x.engine == e)) = s.eng.runs := by
  subst hcore he
  rw [State.setRun_eng]
  dsimp only
  rw [hv, List.filter_append, State.runs_filter h]
  simp

theorem State.runOf_setRun {v : State} {r : StreamRun} (hcore : r.core = core) (he : r.engine = e) : (v.setRun r).runOf core e = r := by
  subst hcore he
  have hfound := find_filter_not_append (p := fun x => x.core == r.core && x.engine == r.engine) (x := r) v.eng.runs (by simp)
  simp only [State.runOf, State.setRun_eng, hfound, Option.getD_some]

theorem State.written_congr (hqueues : u.eng.queues = s.eng.queues) (hstream : u.eng.stream = s.eng.stream)
    (hrun : u.runOf core .pe = s.runOf core .pe) (ring cand : Nat) : u.written core ring cand = s.written core ring cand := by
  simp only [State.written, State.ringCand, State.toExpand, State.queueOf, hqueues, hstream, hrun]

theorem State.toCost_congr (hqueues : u.eng.queues = s.eng.queues) (hrun : u.runOf core .ke = s.runOf core .ke) (ring cand : Nat) :
    u.toCost core ring cand = s.toCost core ring cand := by
  simp only [State.toCost, State.queueOf, hqueues, hrun]

/-- A candidate written stands in its own core's ring of that number. -/
theorem State.written_ring {ring cand : Nat} {r : RingCand} (h : s.written core ring cand = some r) : r.core = core ∧ r.ring = ring := by
  obtain ⟨hfound, hring⟩ := Option.filter_eq_some_iff.1 h
  have hcore := List.find?_some hfound
  simp only [Bool.and_eq_true, beq_iff_eq] at hcore hring
  exact ⟨hcore.1, hring.1⟩

end

/-! ### Lanes -/

section
variable (s : State) (core j : Nat)

theorem State.laneOf_setLane_same {l : Lane} (hcore : l.core = core) (hlane : l.lane = j) :
    (s.setLane core j (some l)).laneOf core j = some l := by
  subst hcore hlane
  exact find_filter_not_append (p := fun x => x.core == l.core && x.lane == l.lane) (x := l) s.eng.lanes (by simp)

theorem State.laneOf_setLane_other {l : Lane} (hcore : l.core = core) (hlane : l.lane = j) {k i : Nat} (h : (k, i) ≠ (core, j)) :
    (s.setLane core j (some l)).laneOf k i = s.laneOf k i := by
  have hother : ¬ (core = k ∧ j = i) := fun hki => h (by rw [hki.1, hki.2])
  have hkeep : ∀ x : Lane, (x.core == k && x.lane == i) = true → (!(x.core == core && x.lane == j)) = true := by
    intro x hx
    obtain ⟨rfl, rfl⟩ : x.core = k ∧ x.lane = i := by simpa using hx
    rw [Bool.not_eq_true', ← Bool.not_eq_true, Bool.and_eq_true, beq_iff_eq, beq_iff_eq]
    exact fun hx => hother ⟨hx.1.symm, hx.2.symm⟩
  have hnew : [l].find? (fun x => x.core == k && x.lane == i) = none := by simpa [hcore, hlane] using hother
  simp only [State.laneOf, State.setLane_eng, List.find?_append, find_filter_of_imp hkeep, Option.toList_some, hnew, Option.or_none]

end

/-! ### CHECK_STREAM: lane after lane -/

section
variable {s : State} {e : EngEnv} {core j : Nat} {d : KeCmd} {q : QCmd}

/-- A lane stands still that has its verdict, or whose candidate is not yet written or has yet to be costed (R178, R197). -/
theorem State.laneStep_waits (h : ∀ l, s.laneOf core j = some l →
    l.verdict.isSome = true ∨ s.toCost core d.inOff l.cand = true ∨ s.written core d.inOff l.cand = none) :
    s.laneStep e core d q none j = s := by
  unfold State.laneStep
  cases hl : s.laneOf core j with
  | none => rfl
  | some l =>
    have hno : (if l.verdict.isSome || s.toCost core d.inOff l.cand then none else s.written core d.inOff l.cand) = none := by
      split
      · rfl
      · next hbusy =>
        rw [Bool.or_eq_true, not_or] at hbusy
        exact ((h l hl).resolve_left hbusy.1).resolve_left hbusy.2
    simp only [hno]

/-- A lane whose candidate is written and costed reaches its verdict (R177, R178). -/
theorem State.laneStep_judges {l : Lane} {r : RingCand} {o : VRec × Option (List Byte)} (hl : s.laneOf core j = some l)
    (hfresh : l.verdict = none) (hcost : s.toCost core d.inOff l.cand = false) (hr : s.written core d.inOff l.cand = some r)
    (ho : o = s.laneVerdict e core d l.cand false (s.ringSamples e.img.misc.nsamp r)) :
    s.laneStep e core d q none j = (s.setLane core j (some { l with verdict := some o.1, entry := o.2 })).sendFlags
      (q.verdictFlags j l.cand o.1
        ((s.chiselEnv e (core / 4)).satBefore d.flag d.bmask (s.ringSamples e.img.misc.nsamp r) o.1)) := by
  subst ho
  simp only [State.laneStep, hl, hfresh, hcost, Option.isSome_none, Bool.or_self, Bool.false_eq_true, if_false, hr, State.verdictFlags_eq]
  rfl

/-- A stream under way of which no lane can go on stands still. -/
theorem State.checkStreamBody_waits (he : s.engEnv (core / 16) = some e) (hruns : s.runs core .ce = true)
    (h : ∀ l ∈ s.eng.lanes, l.core = core →
      l.verdict.isSome = true ∨ s.toCost core d.inOff l.cand = true ∨ s.written core d.inOff l.cand = none) :
    s.checkStreamBody core d none q = s := by
  simp only [State.checkStreamBody, he, State.startLanes, hruns, if_true]
  refine List.foldl_fixed' (fun j => State.laneStep_waits fun l hl => h l (List.mem_of_find?_eq_some hl) ?_) _
  have hown := List.find?_some hl
  simp only [Bool.and_eq_true, beq_iff_eq] at hown
  exact hown.1

end

/-- The lanes that a stream starts with. -/
def KeCmd.nlanes (d : KeCmd) : Nat := min d.lanes d.count

/-- The stream command noted when its lanes have their first candidates (R178). -/
def KeCmd.checkStart (d : KeCmd) (core : Nat) : StreamRun := { StreamRun.start core .ce with next := d.nlanes }

/-- The flags of lane `j`'s verdict on its first candidate. -/
def State.laneFlags (s : State) (e : EngEnv) (core : Nat) (d : KeCmd) (q : QCmd) (rc : Nat → RingCand)
    (vs : Nat → VRec × Option (List Byte)) (j : Nat) : List EngFlag :=
  q.verdictFlags j (d.first + j) (vs j).1
    ((s.chiselEnv e (core / 4)).satBefore d.flag d.bmask (s.ringSamples e.img.misc.nsamp (rc j)) (vs j).1)

/-- `u` is `s` with a stream begun, its first `k` lanes having reached the verdicts `vs` on the candidates `rc`. -/
structure Checking (s u : State) (e : EngEnv) (core : Nat) (d : KeCmd) (q : QCmd) (rc : Nat → RingCand)
    (vs : Nat → VRec × Option (List Byte)) (k : Nat) : Prop where
  frame : { u with eng := s.eng } = s
  engines : { u.eng with flags := s.eng.flags, lanes := s.eng.lanes, runs := s.eng.runs } = s.eng
  judged : ∀ j, j < k → u.laneOf core j = some ⟨core, j, d.first + j, some (vs j).1, (vs j).2⟩
  fresh : ∀ j, k ≤ j → u.laneOf core j = if j < d.nlanes then some ⟨core, j, d.first + j, none, none⟩ else none
  others : ∀ c j, c ≠ core → u.laneOf c j = s.laneOf c j
  runs : u.eng.runs.filter (fun x => !(x.core == core && x.engine == .ce)) = s.eng.runs
  run : u.runOf core .ce = d.checkStart core
  flags : u.eng.flags = s.eng.flags ++ ((List.range k).map (s.laneFlags e core d q rc vs)).flatten

section
variable {s u : State} {e : EngEnv} {core : Nat} {d : KeCmd} {q : QCmd} {rc : Nat → RingCand}
  {vs : Nat → VRec × Option (List Byte)} {k : Nat}

/-- The first of the new lanes with a number is the lane of that number. -/
theorem find_newLanes (core first n j : Nat) :
    ((List.range n).map (fun i => (⟨core, i, first + i, none, none⟩ : Lane))).find? (fun l => l.core == core && l.lane == j)
      = if j < n then some ⟨core, j, first + j, none, none⟩ else none := by
  induction n with
  | zero => rfl
  | succ n ih =>
    rw [List.range_succ, List.map_append, List.find?_append, ih]
    rcases Nat.lt_trichotomy j n with h | rfl | h
    · simp [h, Nat.lt_succ_of_lt h]
    · simp
    · simp [Nat.not_lt.2 h.le, h.ne, Nat.not_lt.2 (Nat.succ_le_of_lt h)]

/-- The start of a stream (R178). -/
theorem Checking.start (hs : s.runs core .ce = false) : Checking s (s.startLanes core d) e core d q rc vs 0 := by
  have hstart : s.startLanes core d = { s.setRun (d.checkStart core) with eng := { (s.setRun (d.checkStart core)).eng with
      lanes := s.eng.lanes.filter (fun l => l.core != core)
        ++ (List.range d.nlanes).map (fun i => (⟨core, i, d.first + i, none, none⟩ : Lane)) } } := by
    simp only [State.startLanes, hs, Bool.false_eq_true, if_false, State.runOf_start hs]
    rfl
  rw [hstart]
  refine ⟨rfl, rfl, fun j hj => absurd hj (Nat.not_lt_zero j), fun j _ => ?_, fun c j hc => ?_,
    State.setRun_filter hs (State.runs_filter hs) rfl rfl, State.runOf_setRun rfl rfl, (List.append_nil _).symm⟩
  · have hnone : (s.eng.lanes.filter (fun l => l.core != core)).find? (fun l => l.core == core && l.lane == j) = none := by
      refine List.find?_eq_none.2 fun l hl => ?_
      have hout := (List.mem_filter.1 hl).2
      simp_all
    simp only [State.laneOf, List.find?_append, hnone, Option.none_or, find_newLanes]
  · have hkeep : ∀ l : Lane, (l.core == c && l.lane == j) = true → (l.core != core) = true := by
      intro l hl
      obtain ⟨rfl, -⟩ : l.core = c ∧ l.lane = j := by simpa using hl
      simpa using hc
    have hnew : ((List.range d.nlanes).map (fun i => (⟨core, i, d.first + i, none, none⟩ : Lane))).find?
        (fun l => l.core == c && l.lane == j) = none := by
      simp [Ne.symm hc]
    simp only [State.laneOf, List.find?_append, find_filter_of_imp hkeep, hnew, Option.or_none]

/-- One more lane. -/
theorem Checking.step (h : Checking s u e core d q rc vs k) (hk : k < d.nlanes) (hcost : s.toCost core d.inOff (d.first + k) = false)
    (hr : s.written core d.inOff (d.first + k) = some (rc k))
    (hv : vs k = s.laneVerdict e core d (d.first + k) false (s.ringSamples e.img.misc.nsamp (rc k))) :
    Checking s (u.laneStep e core d q none k) e core d q rc vs (k + 1) := by
  have hqueues : u.eng.queues = s.eng.queues := (congrArg EngSt.queues h.engines :)
  have hstream : u.eng.stream = s.eng.stream := (congrArg EngSt.stream h.engines :)
  have hsame : ∀ {α : Type} (g : State → α), g { u with eng := s.eng } = g s := fun g => congrArg g h.frame
  have hps : u.ringSamples e.img.misc.nsamp (rc k) = s.ringSamples e.img.misc.nsamp (rc k) :=
    hsame fun v => v.ringSamples e.img.misc.nsamp (rc k)
  have hlane : u.laneOf core k = some ⟨core, k, d.first + k, none, none⟩ := by rw [h.fresh k le_rfl, if_pos hk]
  have hcost' : u.toCost core d.inOff (d.first + k) = false := by
    rw [State.toCost_congr hqueues (State.runOf_of_filter h.runs (by decide) core), hcost]
  have hr' : u.written core d.inOff (d.first + k) = some (rc k) := by
    rw [State.written_congr hqueues hstream (State.runOf_of_filter h.runs (by decide) core), hr]
  have hv' : vs k = u.laneVerdict e core d (d.first + k) false (u.ringSamples e.img.misc.nsamp (rc k)) := by
    rw [hv, hps]
    exact (hsame fun v => v.laneVerdict e core d (d.first + k) false (s.ringSamples e.img.misc.nsamp (rc k))).symm
  have hchisel : u.chiselEnv e (core / 4) = s.chiselEnv e (core / 4) := hsame fun v => v.chiselEnv e (core / 4)
  rw [State.laneStep_judges hlane rfl hcost' hr' hv', hchisel, hps]
  refine ⟨h.frame, h.engines, fun j hj => ?_, fun j hj => ?_, fun c j hc => ?_, h.runs, h.run, ?_⟩
  · rcases Nat.lt_succ_iff_lt_or_eq.1 hj with hlt | rfl
    · exact (State.laneOf_setLane_other u core k rfl rfl (by simp [hlt.ne])).trans (h.judged j hlt)
    · exact State.laneOf_setLane_same u core j rfl rfl
  · exact (State.laneOf_setLane_other u core k rfl rfl (by simp; omega)).trans (h.fresh j (by omega))
  · exact (State.laneOf_setLane_other u core k rfl rfl (by simp [hc])).trans (h.others c j hc)
  · simp only [State.sendFlags, State.setLane_eng, h.flags, List.range_succ, List.map_append, List.map_cons, List.map_nil,
      List.flatten_append, List.flatten_singleton, List.append_assoc]
    rfl

/-- All lanes of a stream that begins, those past its candidates having none (R177, R178). -/
theorem Checking.all (hs : s.runs core .ce = false)
    (h : ∀ j, j < d.nlanes → s.toCost core d.inOff (d.first + j) = false ∧ s.written core d.inOff (d.first + j) = some (rc j)
      ∧ vs j = s.laneVerdict e core d (d.first + j) false (s.ringSamples e.img.misc.nsamp (rc j))) :
    Checking s ((List.range d.lanes).foldl (fun (u : State) j => u.laneStep e core d q none j) (s.startLanes core d))
      e core d q rc vs d.nlanes := by
  have hsplit : d.lanes = d.nlanes + (d.lanes - d.nlanes) := (Nat.add_sub_of_le (Nat.min_le_left ..)).symm
  have hall : ∀ k, k ≤ d.nlanes → Checking s
      ((List.range k).foldl (fun (u : State) j => u.laneStep e core d q none j) (s.startLanes core d)) e core d q rc vs k := by
    intro k hk
    induction k with
    | zero => exact Checking.start hs
    | succ k ih =>
      obtain ⟨hcost, hr, hv⟩ := h k hk
      rw [List.range_succ, List.foldl_append]
      exact (ih (by omega)).step hk hcost hr hv
  have hjudged := hall d.nlanes le_rfl
  rw [hsplit, List.range_add, List.foldl_append, List.foldl_map, List.foldl_fixed' fun j => ?_]
  · exact hjudged
  · refine State.laneStep_waits fun l hl => ?_
    rw [hjudged.fresh _ (Nat.le_add_right ..), if_neg (by omega)] at hl
    cases hl

end

/-! ### CHECK_STREAM as the head of its queue -/

section
variable {c : Core} {w : BitVec 128} {d : KeCmd} {q : QCmd} {rest : List QCmd} {s u : State} {e : EngEnv}

/-- The state in which a CHECK_STREAM leaves its queue. -/
def State.checkingEnd (u : State) (core : Nat) (d : KeCmd) (rest : List QCmd) (q : QCmd) : State :=
  (((u.checkStreamEnd core d q).setQueue core .ce rest).commandDone q).endRun core .ce

/-- CHECK_STREAM ends once every candidate has retired (R178, R182). -/
theorem exec_checkStream_clean (hq : s.queueOf c .ce = q :: rest) (hw : q.word = w.toNat) (hd : d = ceOfWord w.toNat) (hop : d.op = 1)
    (hu : s.checkStreamBody c d none q = u) (he : u.engEnv (c.val / 16) = some e) :
    exec (.checkStream c w .clean) s
      = .next (if d.count ≤ (u.runOf c .ce).done then u.checkingEnd c d rest q else u) := by
  subst hd
  change execCheckStream c w .clean s = _
  simp only [execCheckStream, if_neg (not_not.2 hop), State.checkStream, State.streamRun_clean hq hw, hu, he, Option.isNone_some,
    Bool.false_or, decide_eq_true_eq, State.checkingEnd]

/-- A stream that begins (R177, R178). -/
theorem exec_checkStream_begins {rc : Nat → RingCand} {vs : Nat → VRec × Option (List Byte)} (hq : s.queueOf c .ce = q :: rest)
    (hw : q.word = w.toNat) (hd : d = ceOfWord w.toNat) (hop : d.op = 1) (he : s.engEnv (c.val / 16) = some e)
    (hruns : s.runs c .ce = false) (hcount : 0 < d.count)
    (h : ∀ j, j < d.nlanes → s.toCost c d.inOff (d.first + j) = false ∧ s.written c d.inOff (d.first + j) = some (rc j)
      ∧ vs j = s.laneVerdict e c d (d.first + j) false (s.ringSamples e.img.misc.nsamp (rc j))) :
    ∃ u, exec (.checkStream c w .clean) s = .next u ∧ Checking s u e c d q rc vs d.nlanes := by
  have hall := Checking.all (q := q) hruns h
  generalize hu : (List.range d.lanes).foldl (fun (u : State) j => u.laneStep e c d q none j) (s.startLanes c d) = u at hall
  have hbody : s.checkStreamBody c d none q = u := by simpa only [State.checkStreamBody, he] using hu
  have he' : u.engEnv (c.val / 16) = some e := (congrArg (fun v : State => v.engEnv (c.val / 16)) hall.frame).trans he
  have hdone : ¬ d.count ≤ (u.runOf c .ce).done := by
    rw [hall.run]
    exact Nat.not_le.2 hcount
  exact ⟨u, (exec_checkStream_clean hq hw hd hop hbody he').trans (by rw [if_neg hdone]), hall⟩

section
variable (u : State) (core : Nat) (d : KeCmd) (rest : List QCmd) (q : QCmd)

/-- What a CHECK_STREAM whose candidates have retired leaves (R182). -/
theorem State.checkingEnd_eq : u.checkingEnd core d rest q = { u with
      mem := u.mem.write (dualBase (core / 4) + d.resultOff * 16) (chiselResult (u.runOf core .ce).verdicts (u.goesOn q) false)
      cyc := (u.checkCounts (u.runOf core .ce).verdicts).cyc
      eng := { u.eng with queues := (u.setQueue core .ce rest).eng.queues
                          runs := u.eng.runs.filter (fun x => !(x.core == core && x.engine == .ce))
                          lanes := u.eng.lanes.filter (fun x => x.core != core) }
      du := (u.commandDone q).du } := by
  simp only [State.checkingEnd, State.endRun, State.commandDone, State.mapDu, State.setQueue, State.checkStreamEnd, State.result,
    State.poke, State.checkCounts, State.tally, if_true]

theorem State.checkingEnd_taken : Taken u (u.checkingEnd core d rest q) core .ce q rest := by
  rw [State.checkingEnd_eq]
  exact State.taken_of_queues rfl rfl

theorem State.checkingEnd_frame : { u.checkingEnd core d rest q with mem := u.mem, eng := u.eng, du := u.du, cyc := u.cyc } = u := by
  rw [State.checkingEnd_eq]

/-- With no lane left, the end of a stream leaves the queues and the stream commands under way changed. -/
theorem State.checkingEnd_engines (h : ∀ l ∈ u.eng.lanes, l.core ≠ core) :
    { (u.checkingEnd core d rest q).eng with queues := u.eng.queues, runs := u.eng.runs } = u.eng := by
  have hlanes : u.eng.lanes.filter (fun x => x.core != core) = u.eng.lanes :=
    List.filter_eq_self.2 fun l hl => bne_iff_ne.2 (h l hl)
  rw [State.checkingEnd_eq, hlanes]

theorem State.checkingEnd_runs : (u.checkingEnd core d rest q).runs core .ce = false := by
  rw [State.checkingEnd_eq, State.runs, List.any_eq_false]
  refine fun r hr => ?_
  have hout := (List.mem_filter.1 hr).2
  rwa [Bool.not_eq_true', ← Bool.not_eq_true] at hout

end
end

/-! ### COST_STREAM: candidate after candidate -/

@[simp] theorem Partial.length_bytes (cand : Nat) (p : Partial) : (p.bytes cand).length = 16 := by
  simp only [Partial.bytes, zeroBytes, List.length_append, length_leBytes, List.length_replicate]

/-- A memory with partial records written from an address on (R193). -/
def Memory.putPartials (m : Memory) (a : Nat) (f : Nat → Nat × Partial) (k : Nat) : Memory :=
  (List.range k).foldl (fun m i => m.write (a + i * 16) ((f i).2.bytes (f i).1)) m

/-- Partial records leave what is outside of theirs alone. -/
theorem get_putPartials_other (m : Memory) {a k y : Nat} (f : Nat → Nat × Partial) (h : y < a ∨ a + k * 16 ≤ y) :
    (m.putPartials a f k).get y = m.get y := by
  refine get_writes_other (fun i => a + i * 16) (fun i => (f i).2.bytes (f i).1) (fun i hi => ?_) m
  have hlt := List.mem_range.1 hi
  rw [Partial.length_bytes]
  omega

theorem zipIdx_map_range {α : Type} (f : Nat → α) (n : Nat) :
    ((List.range n).map f).zipIdx = (List.range n).map (fun i => (f i, i)) := by
  refine List.ext_getElem (by simp) fun i h1 h2 => by simp

/-- The partial records of a list of candidates, one behind another. -/
theorem Memory.putPartials_eq (m : Memory) (a : Nat) (f : Nat → Nat × Partial) (n : Nat) : m.putPartials a f n
    = ((List.range n).map f).zipIdx.foldl (fun m x => m.write (a + x.2 * 16) (x.1.2.bytes x.1.1)) m := by
  rw [zipIdx_map_range, List.foldl_map]
  rfl

/-- The stream command with one more candidate costed (R195). -/
def StreamRun.costed (r : StreamRun) (p : Partial) : StreamRun :=
  { r with next := r.next + 1, sat := r.sat || p.sat, clay := r.clay || p.clay, clim := r.clim || p.clim }

/-- The flags of a stream's result are those of its candidates (R195). -/
theorem foldl_costed (r : StreamRun) (ps : List (Nat × Partial)) : ps.foldl (fun r x => r.costed x.2) r
    = { r with next := r.next + ps.length, sat := r.sat || ps.any (fun x => x.2.sat)
               clay := r.clay || ps.any (fun x => x.2.clay), clim := r.clim || ps.any (fun x => x.2.clim) } := by
  induction ps generalizing r with
  | nil => simp
  | cons p ps ih =>
    rw [List.foldl_cons, ih]
    simp [StreamRun.costed, Nat.add_right_comm, ← Nat.add_assoc, Bool.or_assoc]

section
variable {s u : State} {e : EngEnv} {core : Nat} {d : KeCmd} {q : QCmd}

/-- A COST_STREAM stands still that has no candidate left or whose next one is not yet written (R178). -/
theorem State.costNext_waits (h : s.written core d.inOff (d.first + (s.runOf core .ke).next) = none) : s.costNext e core d q = s := by
  simp only [State.costNext, h, ite_self]

/-- A COST_STREAM whose next candidate is written costs it (R189, R193 to R196). -/
theorem State.costNext_costs {i : Nat} {r : RingCand} {p : Partial} (hrun : (s.runOf core .ke).next = i) (hi : i < d.count)
    (hr : s.written core d.inOff (d.first + i) = some r)
    (hp : p = (s.costEnv e (core / 16)).costRing (s.ringSamples e.img.misc.nsamp r)) :
    s.costNext e core d q = (State.setRun
      { s with mem := s.mem.write (scratchBase core + d.outOff * 64 + i * 16) (p.bytes (d.first + i)) }
      ((s.runOf core .ke).costed p)).sendFlags (q.costFlags (d.first + i) p) := by
  subst hp
  simp only [State.costNext, hrun, if_pos hi, hr, State.costFlags_eq, StreamRun.costed, State.poke]

/-- The cost environment of a die reads nothing below the configuration space of the die's world store (R103). -/
theorem State.costEnv_eq {die : Nat} {v : State} (hworld : v.world = s.world)
    (h : ∀ y, worldBase die ≤ y → v.mem.get y = s.mem.get y) :
    v.costEnv e die = s.costEnv e die := by
  have hcs : v.csAt e.img.world die = s.csAt e.img.world die := by
    funext b x i j
    have hlow : worldBase die ≤ csAddr die ((b * 16 + x) * 256 + (e.img.world.tileOf i j).1) + (e.img.world.tileOf i j).2 := by
      unfold csAddr
      omega
    simp only [State.csAt, h _ hlow]
  simp only [State.costEnv, hcs, hworld]

end

/-- `u` is `s` with the first `k` candidates of a stream costed, `f` giving their numbers and partial records. -/
structure Costing (s u : State) (core : Nat) (d : KeCmd) (q : QCmd) (f : Nat → Nat × Partial) (k : Nat) : Prop where
  frame : { u with mem := s.mem, eng := s.eng } = s
  engines : { u.eng with flags := s.eng.flags, runs := s.eng.runs } = s.eng
  mem : u.mem = s.mem.putPartials (scratchBase core + d.outOff * 64) f k
  flags : u.eng.flags = s.eng.flags ++ (((List.range k).map f).map (fun x => q.costFlags x.1 x.2)).flatten
  runs : u.eng.runs.filter (fun x => !(x.core == core && x.engine == .ke)) = s.eng.runs
  run : u.runOf core .ke = ((List.range k).map f).foldl (fun r x => r.costed x.2) (.start core .ke)

section
variable {s u : State} {e : EngEnv} {core : Nat} {d : KeCmd} {q : QCmd} {f : Nat → Nat × Partial} {k : Nat}

theorem Costing.start (hs : s.runs core .ke = false) : Costing s s core d q f 0 :=
  ⟨rfl, rfl, rfl, (List.append_nil _).symm, State.runs_filter hs, State.runOf_start hs⟩

theorem Costing.run_eq (h : Costing s u core d q f k) : u.runOf core .ke = ⟨core, .ke, k, 0, [], 0, 0,
    ((List.range k).map f).any (fun x => x.2.sat), ((List.range k).map f).any (fun x => x.2.clay),
    ((List.range k).map f).any (fun x => x.2.clim)⟩ := by
  rw [h.run, foldl_costed]
  simp only [StreamRun.start, List.length_map, List.length_range, Nat.zero_add, Bool.false_or]

/-- Until its records reach past its scratchpad, a stream leaves what the die's cost environment reads alone. -/
theorem Costing.costEnv (h : Costing s u core d q f k) (hk : k < d.count) (hfit : d.outOff * 64 + d.count * 16 ≤ 0x80000) :
    u.costEnv e (core / 16) = s.costEnv e (core / 16) := by
  refine State.costEnv_eq (congrArg State.world h.frame :) fun y hy => ?_
  rw [h.mem]
  refine get_putPartials_other s.mem f (.inr ?_)
  simp only [worldBase, scratchBase] at hy ⊢
  omega

/-- A slot of the ring apart from the records holds the samples that it had before the stream. -/
theorem Costing.ringSamples (h : Costing s u core d q f k) (hk : k < d.count) {r : RingCand} {n : Nat} (hcore : r.core = core)
    (hring : r.ring = d.inOff)
    (hapart : d.outOff * 64 + d.count * 16 ≤ d.inOff * 64 + r.slot * (n * 64) ∨ d.inOff * 64 + (r.slot + 1) * (n * 64) ≤ d.outOff * 64) :
    u.ringSamples n r = s.ringSamples n r := by
  have hpeek : u.peek (scratchBase r.core + r.ring * 64 + r.slot * (n * 64)) (64 * n)
      = s.peek (scratchBase r.core + r.ring * 64 + r.slot * (n * 64)) (64 * n) := by
    rw [Nat.succ_mul] at hapart
    rw [State.peek, State.peek, h.mem, hcore, hring]
    refine List.map_congr_left fun i hi => get_putPartials_other s.mem f ?_
    have hlt := List.mem_range.1 hi
    omega
  simp only [State.ringSamples, hpeek]

/-- One more candidate. -/
theorem Costing.step (h : Costing s u core d q f k) (hs : s.runs core .ke = false) (hk : k < d.count)
    (hfit : d.outOff * 64 + d.count * 16 ≤ 0x80000) {r : RingCand} (hr : s.written core d.inOff (d.first + k) = some r)
    (hapart : d.outOff * 64 + d.count * 16 ≤ d.inOff * 64 + r.slot * (e.img.misc.nsamp * 64)
      ∨ d.inOff * 64 + (r.slot + 1) * (e.img.misc.nsamp * 64) ≤ d.outOff * 64)
    (hf : f k = (d.first + k, (s.costEnv e (core / 16)).costRing (s.ringSamples e.img.misc.nsamp r))) :
    Costing s (u.costNext e core d q) core d q f (k + 1) := by
  have hqueues : u.eng.queues = s.eng.queues := (congrArg EngSt.queues h.engines :)
  have hstream : u.eng.stream = s.eng.stream := (congrArg EngSt.stream h.engines :)
  have hnext : (u.runOf core .ke).next = k := by rw [h.run_eq]
  have hr' : u.written core d.inOff (d.first + k) = some r := by
    rw [State.written_congr hqueues hstream (State.runOf_of_filter h.runs (by decide) core), hr]
  obtain ⟨hcore, hring⟩ := State.written_ring hr
  have hp : (f k).2 = (u.costEnv e (core / 16)).costRing (u.ringSamples e.img.misc.nsamp r) := by
    rw [h.costEnv hk hfit, h.ringSamples hk hcore hring hapart, hf]
  have hcand : d.first + k = (f k).1 := by rw [hf]
  rw [State.costNext_costs hnext hk hr' hp, hcand]
  refine ⟨?_, ?_, ?_, ?_, State.setRun_filter hs h.runs (State.runOf_core ..) (State.runOf_engine ..), ?_⟩
  · simp only [State.sendFlags, State.setRun]
    exact h.frame
  · simp only [State.sendFlags, State.setRun]
    exact h.engines
  · simp only [State.sendFlags, State.setRun_mem, h.mem, Memory.putPartials, List.range_succ, List.foldl_append, List.foldl_cons,
      List.foldl_nil]
  · simp only [State.sendFlags, State.setRun_eng, h.flags, List.range_succ, List.map_append, List.map_cons, List.map_nil,
      List.flatten_append, List.flatten_singleton, List.append_assoc]
  · refine (State.runOf_setRun (r := (u.runOf core .ke).costed (f k).2) (u.runOf_core core .ke) (u.runOf_engine core .ke)).trans ?_
    simp only [h.run, List.range_succ, List.map_append, List.map_cons, List.map_nil, List.foldl_append, List.foldl_cons, List.foldl_nil]

/-- All candidates of a stream, one after another. -/
theorem Costing.all {rc : Nat → RingCand} (hs : s.runs core .ke = false) (hfit : d.outOff * 64 + d.count * 16 ≤ 0x80000)
    (hrc : ∀ i, i < d.count → s.written core d.inOff (d.first + i) = some (rc i)
      ∧ (d.outOff * 64 + d.count * 16 ≤ d.inOff * 64 + (rc i).slot * (e.img.misc.nsamp * 64)
          ∨ d.inOff * 64 + ((rc i).slot + 1) * (e.img.misc.nsamp * 64) ≤ d.outOff * 64))
    (hf : f = fun i => (d.first + i, (s.costEnv e (core / 16)).costRing (s.ringSamples e.img.misc.nsamp (rc i)))) :
    Costing s ((List.range d.count).foldl (fun (u : State) _ => u.costNext e core d q) s) core d q f d.count := by
  suffices hall : ∀ k, k ≤ d.count →
      Costing s ((List.range k).foldl (fun (u : State) _ => u.costNext e core d q) s) core d q f k from hall d.count le_rfl
  intro k hk
  induction k with
  | zero => exact Costing.start hs
  | succ k ih =>
    obtain ⟨hr, hapart⟩ := hrc k hk
    rw [List.range_succ, List.foldl_append]
    exact (ih (by omega)).step hs hk hfit hr hapart (congrFun hf k)

end

/-! ### COST_STREAM as the head of its queue -/

/-- The state in which a COST_STREAM leaves its queue. -/
def State.costingEnd (u : State) (core : Nat) (d : KeCmd) (rest : List QCmd) (q : QCmd) : State :=
  (((u.costStreamEnd core d q).setQueue core .ke rest).commandDone q).endRun core .ke

theorem State.costingEnd_eq (u : State) (core : Nat) (d : KeCmd) (rest : List QCmd) (q : QCmd) : u.costingEnd core d rest q = { u with
      mem := u.mem.write (dualBase (core / 4) + d.resultOff * 16) (keResult (u.runOf core .ke).next 0 0 (u.runOf core .ke).sat
        (u.runOf core .ke).clay (u.runOf core .ke).clim false)
      eng := { u.eng with queues := (u.setQueue core .ke rest).eng.queues
                          runs := u.eng.runs.filter (fun x => !(x.core == core && x.engine == .ke)) }
      du := (u.commandDone q).du } := by
  simp only [State.costingEnd, State.endRun, State.commandDone, State.mapDu, State.setQueue, State.costStreamEnd, State.result,
    State.poke, reduceCtorEq, if_false]

section
variable {c : Core} {w : BitVec 128} {d : KeCmd} {q : QCmd} {rest : List QCmd} {s u : State} {e : EngEnv}

/-- COST_STREAM ends once every candidate has been costed (R193, R195). -/
theorem exec_costStream_clean (hq : s.queueOf c .ke = q :: rest) (hw : q.word = w.toNat) (hd : d = KeCmd.ofWord w.toNat)
    (hop : d.op = 1) (hu : s.costStreamBody c d q = u) : exec (.costStream c w .clean) s
      = .next (if (u.engEnv (c.val / 16)).isNone || decide (d.count ≤ (u.runOf c .ke).next) then u.costingEnd c d rest q else u) := by
  subst hd
  change execCostStream c w .clean s = _
  simp only [execCostStream, if_neg (not_not.2 hop), State.streamRun_clean hq hw, hu, State.costingEnd]

/-- A COST_STREAM whose next candidate is not yet written waits (R178). -/
theorem exec_costStream_waits (hq : s.queueOf c .ke = q :: rest) (hw : q.word = w.toNat) (hd : d = KeCmd.ofWord w.toNat)
    (hop : d.op = 1) (he : s.engEnv (c.val / 16) = some e) (hnext : (s.runOf c .ke).next < d.count)
    (hr : s.written c d.inOff (d.first + (s.runOf c .ke).next) = none) : exec (.costStream c w .clean) s = .next s := by
  have hbody : s.costStreamBody c d q = s := by
    simp only [State.costStreamBody, he]
    exact List.foldl_fixed' (fun _ => State.costNext_waits hr) _
  rw [exec_costStream_clean hq hw hd hop hbody, he]
  simp [Nat.not_le.2 hnext]

/-- A COST_STREAM whose candidates are all written runs through them and leaves its queue (R193). -/
theorem exec_costStream_runs {rc : Nat → RingCand} {f : Nat → Nat × Partial} (hq : s.queueOf c .ke = q :: rest) (hw : q.word = w.toNat)
    (hd : d = KeCmd.ofWord w.toNat) (hop : d.op = 1) (he : s.engEnv (c.val / 16) = some e) (hs : s.runs c .ke = false)
    (hfit : d.outOff * 64 + d.count * 16 ≤ 0x80000)
    (hrc : ∀ i, i < d.count → s.written c d.inOff (d.first + i) = some (rc i)
      ∧ (d.outOff * 64 + d.count * 16 ≤ d.inOff * 64 + (rc i).slot * (e.img.misc.nsamp * 64)
          ∨ d.inOff * 64 + ((rc i).slot + 1) * (e.img.misc.nsamp * 64) ≤ d.outOff * 64))
    (hf : f = fun i => (d.first + i, (s.costEnv e (c.val / 16)).costRing (s.ringSamples e.img.misc.nsamp (rc i)))) :
    ∃ u, Costing s u c d q f d.count ∧ exec (.costStream c w .clean) s = .next (u.costingEnd c d rest q) := by
  have hall := Costing.all (q := q) hs hfit hrc hf
  have hbody : s.costStreamBody c d q = (List.range d.count).foldl (fun (u : State) _ => u.costNext e c d q) s := by
    simp only [State.costStreamBody, he]
  refine ⟨_, hall, ?_⟩
  rw [exec_costStream_clean hq hw hd hop hbody, hall.run_eq, decide_eq_true le_rfl, Bool.or_true, if_pos rfl]

end

section
variable {s u : State} {core : Nat} {d : KeCmd} {q : QCmd} {rest : List QCmd} {f : Nat → Nat × Partial} {k : Nat}

theorem Costing.end_taken (h : Costing s u core d q f k) : Taken s (u.costingEnd core d rest q) core .ke q rest := by
  have hdu : u.du = s.du := (congrArg State.du h.frame :)
  have hqueues : u.eng.queues = s.eng.queues := (congrArg EngSt.queues h.engines :)
  rw [State.costingEnd_eq]
  refine State.taken_of_queues ?_ ?_
  · simp only [State.setQueue, hqueues]
  · simp only [State.commandDone, State.mapDu, hdu]

theorem Costing.end_frame (h : Costing s u core d q f k) :
    { u.costingEnd core d rest q with mem := s.mem, eng := s.eng, du := s.du } = s := by
  have hframe := congrArg (fun v : State => { v with du := s.du }) h.frame
  rw [State.costingEnd_eq]
  dsimp only at hframe ⊢
  exact hframe

theorem Costing.end_engines (h : Costing s u core d q f k) :
    { (u.costingEnd core d rest q).eng with queues := s.eng.queues, flags := s.eng.flags } = s.eng := by
  have hengines := congrArg (fun v : EngSt => { v with queues := s.eng.queues }) h.engines
  simp only [State.costingEnd_eq, h.runs] at hengines ⊢
  exact hengines

theorem Costing.end_mem (h : Costing s u core d q f k) : (u.costingEnd core d rest q).mem
    = (s.mem.putPartials (scratchBase core + d.outOff * 64) f k).write (dualBase (core / 4) + d.resultOff * 16)
        (keResult k 0 0 (((List.range k).map f).any (fun x => x.2.sat)) (((List.range k).map f).any (fun x => x.2.clay))
          (((List.range k).map f).any (fun x => x.2.clim)) false) := by
  rw [State.costingEnd_eq, h.mem, h.run_eq]

theorem Costing.end_flags (h : Costing s u core d q f k) : (u.costingEnd core d rest q).eng.flags
    = s.eng.flags ++ (((List.range k).map f).map (fun x => q.costFlags x.1 x.2)).flatten := by
  rw [State.costingEnd_eq, h.flags]

end

end Sys2Proof.Machine

namespace Sys2Proof
open Sys2Proof.Machine

/-- Settles O49: what a command without a stream leaves is an update of memory, cycle, verdicts and flags (`State.conclude`); a
stream's lanes keep the invariant `Checking`, a costed stream's candidates the invariant `Costing`, whose records stand apart
from the ring and below what the cost environment reads. -/
theorem candidatesAreCheckedAndCosted : Obligations.CandidatesAreCheckedAndCosted := by
  refine ⟨fun c w d q rest e s _ hq hw he hd => ⟨fun rc vs hop hruns hcount h => ?_, fun hop hruns hdone hlanes => ?_,
      fun hop hruns hdone hlanes => ?_, fun cmd rs m hcmd hm => ?_⟩,
    fun c w d q rest e s _ hq hw he hd => ⟨fun hop hnext hr => exec_costStream_waits hq hw hd hop he hnext hr,
      fun rc qs hop hs hfit hrc hqs => ?_, fun p hop hp => ?_, fun rs hop hrs => ?_⟩⟩
  · obtain ⟨u, hexec, hu⟩ := exec_checkStream_begins hq hw hd hop he hruns hcount h
    exact ⟨u, hexec, hu.frame, hu.engines, hu.judged, fun k j hk => hu.others k j hk, hu.run, hu.flags⟩
  · have hbody : s.checkStreamBody c d none q = s := State.checkStreamBody_waits he hruns hlanes
    rw [exec_checkStream_clean hq hw hd hop hbody he, if_neg (Nat.not_le.2 hdone)]
  · have hbody : s.checkStreamBody c d none q = s := State.checkStreamBody_waits he hruns fun l hl hcore => absurd hcore (hlanes l hl)
    refine ⟨_, (exec_checkStream_clean hq hw hd hop hbody he).trans (by rw [if_pos hdone]), State.checkingEnd_taken ..,
      State.checkingEnd_frame .., State.checkingEnd_engines _ _ _ _ _ hlanes, State.checkingEnd_runs .., ?_, ?_⟩
    · rw [State.checkingEnd_eq]
    · rw [State.checkingEnd_eq]
      rfl
  · rcases hcmd with ⟨hop, rfl, rfl⟩ | ⟨hop, rfl, hrs⟩
    · refine ⟨_, exec_checkTraj_clean hq hw hd hop he rfl rfl hm, State.conclude_taken .., State.conclude_frame ..,
        State.conclude_engines .., State.conclude_mem .., fun hop' => by omega, fun r _ hr => ?_, fun hop' => by omega,
        fun r k early _ hr hk hearly => ?_, rfl⟩
      · rw [← List.singleton_inj.1 hr]
        rfl
      · rw [hearly, hk, ← List.singleton_inj.1 hr, State.conclude_flags, QCmd.verdictFlags, ← List.append_assoc]
        rfl
    · have hexec := exec_checkPoses_clean hq hw hd hop he hrs hm
      simp only [QCmd.verdictFlags_late, ← List.flatMap_def, ← List.map_eq_flatMap] at hexec
      refine ⟨_, hexec, State.conclude_taken .., State.conclude_frame .., State.conclude_engines .., State.conclude_mem ..,
        fun _ => rfl, fun r hop' => by omega, fun _ => rfl, fun r k early hop' => by omega, rfl⟩
  · obtain ⟨u, hu, hexec⟩ := exec_costStream_runs hq hw hd hop he hs hfit hrc rfl
    subst hqs
    refine ⟨_, hexec, hu.end_taken, hu.end_frame, hu.end_engines, ?_, hu.end_flags⟩
    rw [hu.end_mem, Memory.putPartials_eq, List.length_map, List.length_range]
  · exact ⟨_, exec_costTraj_clean hq hw hd hop he hp, State.conclude_taken .., State.conclude_frame_cyc .., State.conclude_engines ..,
      State.conclude_mem .., by rw [State.conclude_flags, QCmd.costFlags, ← List.append_assoc, ← List.append_assoc]⟩
  · exact ⟨_, exec_costFinal_clean hq hw hd hop he hrs, State.conclude_taken .., State.conclude_frame .., State.conclude_engines ..,
      State.conclude_mem .., rfl, rfl⟩

end Sys2Proof

/-! ## Selections and solves (R211 to R265) -/

namespace Sys2Proof.Machine
open Sys2Proof

/-! ### Flags and updates of the cycle -/

/-- The flags of those codes whose condition holds, without lane and candidate. -/
def QCmd.codeFlags (q : QCmd) (fs : List (Nat × Bool)) : List EngFlag :=
  (fs.map (fun f => if f.2 then [q.flagOf f.1 0xFFFFFFFF 0xFFFFFFFF] else [])).flatten

theorem State.flagsWhere_eq (s : State) (q : QCmd) (fs : List (Nat × Bool)) : s.flagsWhere q fs = s.sendFlags (q.codeFlags fs) := by
  simp only [State.flagsWhere, State.flag_if_eq_sendFlags, State.foldl_sendFlags, QCmd.codeFlags]

theorem State.mapCycle_mapCycle (s : State) (f g : Cycle → Cycle) : (s.mapCycle f).mapCycle g = s.mapCycle (fun k => g (f k)) := by
  simp only [State.mapCycle, Option.map_map, Function.comp_def]

theorem State.mapCycle_self (s : State) : s.mapCycle (fun k => k) = s := by
  simp only [State.mapCycle, Option.map_id']

theorem State.mapCycle_of_cur {s : State} {c : Cycle} (h : s.cyc.cur = some c) (f : Cycle → Cycle) :
    s.mapCycle f = { s with cyc := { s.cyc with cur := some (f c) } } := by
  rw [State.mapCycle, h]
  rfl

theorem State.mapCycle_cur (s : State) (f : Cycle → Cycle) : (s.mapCycle f).cyc.cur = s.cyc.cur.map f := rfl

/-- A change of the cycle where a condition holds. -/
theorem State.mapCycle_if (s : State) (p : Prop) [Decidable p] (f : Cycle → Cycle) :
    (if p then s.mapCycle f else s) = s.mapCycle (fun k => if p then f k else k) := by
  split
  · rfl
  · exact s.mapCycle_self.symm

theorem State.flagsWhere_false (s : State) (q : QCmd) (code : Nat) : s.flagsWhere q [(code, false)] = s := rfl

/-! ### SELECT and MERGE -/

/-- What an SE command with its list leaves (R217, R229). -/
theorem State.seFinish_eq (s : State) (core : Nat) (d : SeCmd) (q : QCmd) (l : SList) : s.seFinish core d q l false = s.conclude
    ((s.mem.write (sharedBase (core / 4) + d.outOff * 64) l.bytes).write (dualBase (core / 4) + d.resultOff * 16)
      (seResult l (decide (l.entries.length < d.k)) false false false false))
    s.cyc s.eng.trajs (if l.entries.length < d.k then [q.flagOf 0xA 0xFFFFFFFF 0xFFFFFFFF] else []) := by
  have hflags : q.codeFlags [(0xA, decide (l.entries.length < d.k)), (0xB, false)]
      = if l.entries.length < d.k then [q.flagOf 0xA 0xFFFFFFFF 0xFFFFFFFF] else [] := by
    simp [QCmd.codeFlags]
  simp only [State.seFinish, State.flagsWhere_eq, hflags, State.result, State.poke, State.sendFlags, State.conclude]

section
variable {core : Nat} {w : BitVec 128} {d : SeCmd} {q : QCmd} {rest : List QCmd} {s : State} {op : Nat} {e : EngEnv} {l : SList}

/-- A command of the select engine, as the head of its queue, is its body. -/
theorem State.seRun_clean (body : SeCmd → Bool → QCmd → State → State) (hq : s.queueOf core .se = q :: rest) (hw : q.word = w.toNat)
    (hd : d = SeCmd.ofWord w.toNat) (hop : d.op = op) :
    s.seRun core w .clean op body = .next (body d false q (s.taking core .se rest q)) := by
  subst hd
  simp only [State.seRun, if_neg (not_not.2 hop)]
  rw [State.engineRun_clean hq hw (by decide)]
  rfl

/-- A SELECT whose checks pass gives the list of its row (R214, R227). -/
theorem State.selectBody_eq (he : s.engEnv (core / 16) = some e)
    (hl : l = selectRow ⟨d.keyT, d.k, d.inclZero, d.bounded, (s.seBound core d).2, s.sePass e d⟩ (s.seElig core d)
      (s.seBound core d).1 core (s.seTotal core d (s.selRow core d)) (s.selRow core d))
    (hcheck : selectCheck (s.selRow core d) l = 0) : s.selectBody core d false q = s.seFinish core d q l false := by
  simp only [State.selectBody, he, ← hl, if_pos hcheck]

/-- A MERGE whose checks pass gives the list of its input lists (R218, R227). -/
theorem State.mergeBody_eq {ls : List SList} {sp : SelSpec} (hls : ls = (s.recordsAt (d.inBase core) 1280 d.count).map SList.ofBytes)
    (hsp : sp = ⟨d.keyT, d.k, d.inclZero, d.bounded, (s.seBound core d).2, (ls.head?.map (fun x => x.pass)).getD 0⟩)
    (hl : l = mergeLists sp ls) (hcheck : mergeCheck sp ls l = 0) : s.mergeBody core d false q = s.seFinish core d q l false := by
  subst hls hsp hl
  simp only [State.mergeBody, if_pos hcheck]

end

/-! ### The solver's grant -/

/-- The state once the head of a core's QE queue has left it, the grant with it, and its slot of the issuing step has ended
(R252, R371). -/
def State.takingQe (s : State) (core : Nat) (rest : List QCmd) (q : QCmd) : State := (s.dequeue core .qe rest).commandDone q

section
variable (s : State) (core : Nat) (rest : List QCmd) (q : QCmd)

/-- But for its queue, the grant and the issuing slot the state stays. -/
theorem State.takingQe_eq : ∃ owners, s.takingQe core rest q = { s with
    eng := { s.eng with queues := (s.setQueue core .qe rest).eng.queues, qeOwners := owners }, du := (s.commandDone q).du } :=
  ⟨(s.takingQe core rest q).eng.qeOwners, rfl⟩

theorem State.takingQe_cyc : (s.takingQe core rest q).cyc = s.cyc := rfl

theorem State.takingQe_engEnv (die : Nat) : (s.takingQe core rest q).engEnv die = s.engEnv die := rfl

theorem State.takingQe_geoAt (cl a : Nat) : (s.takingQe core rest q).geoAt cl a = s.geoAt cl a := rfl

theorem State.takingQe_tsAt (cl a : Nat) : (s.takingQe core rest q).tsAt cl a = s.tsAt cl a := rfl

end

section
variable {core : Nat} {w : BitVec 128} {d : QeCmd} {q : QCmd} {rest : List QCmd} {s : State} {op : Nat}

/-- A command of the solver engine, as the head of the queue of the core that wins it, is its body. -/
theorem State.qeRun_clean (body : QeCmd → QCmd → State → State) (hq : s.queueOf core .qe = q :: rest) (hw : q.word = w.toNat)
    (hd : d = QeCmd.ofWord w.toNat) (hop : d.op = op) (hwin : s.qeWinner (core / 4) = some (core % 4)) :
    s.qeRun core w .clean op body = .next (body d q (s.takingQe core rest q)) := by
  subst hd
  simp only [State.qeRun, if_neg (not_not.2 hop), if_neg (not_not.2 hwin), State.engineRun, hq, if_neg (not_not.2 hw)]
  rfl

/-- A command of the solver engine whose core does not win it waits. -/
theorem State.qeRun_waits (body : QeCmd → QCmd → State → State) (hw : HwEvent) (hd : d = QeCmd.ofWord w.toNat) (hop : d.op = op)
    (hwin : s.qeWinner (core / 4) ≠ some (core % 4)) : s.qeRun core w hw op body = .next s := by
  subst hd
  simp only [State.qeRun, if_neg (not_not.2 hop), if_pos hwin]

end

/-! ### The end of a solve -/

/-- The state with this memory and cycle. -/
def State.leave (s : State) (m : Memory) (y : CycSt) : State := { s with mem := m, cyc := y }

theorem State.leave_mem (s : State) (m : Memory) (y : CycSt) : (s.leave m y).mem = m := rfl

theorem State.leave_cyc (s : State) (m : Memory) (y : CycSt) : (s.leave m y).cyc = y := rfl

theorem State.sendFlags_leave_mem (s : State) (m : Memory) (y : CycSt) (fl : List EngFlag) : ((s.leave m y).sendFlags fl).mem = m := rfl

/-- A solve's status counted (R293). -/
def Cycle.countSolve (k : Cycle) (st : QStatus) : Cycle :=
  { k with counts := { k.counts with solveSt := modAt (fun v => v + 1) k.counts.solveSt st.code } }

/-- A candidate of an order of that KIND dropped (R37, R286). -/
def Cycle.drop (k : Cycle) (kind : Nat) : Cycle :=
  { k with drops := if kind = 1 then (k.drops.1, k.drops.2 + 1) else (k.drops.1 + 1, k.drops.2) }

theorem Cycle.drop_drops (k : Cycle) (kind : Nat) :
    (k.drop kind).drops = if kind = 1 then (k.drops.1, k.drops.2 + 1) else (k.drops.1 + 1, k.drops.2) := rfl

/-- A candidate of OPT void (R152). -/
def Cycle.voidOpt (k : Cycle) (cand : Nat) : Cycle := { k with optVoid := k.optVoid ++ [cand] }

/-- A solve ended with non-finite values (R37, R264). -/
def Cycle.noteNonfinite (k : Cycle) : Cycle := { k with nonfinite := true }

/-- The cycle once a solve of order `o` has given `r` (R152, R264, R286). -/
def Cycle.solved (k : Cycle) (o : SolveOrder) (r : QResult) : Cycle :=
  let k := k.countSolve r.status
  let k := if r.kind ≠ 2 ∧ !r.status.keeps then k.drop o.kind else k
  let k := if r.kind = 2 ∧ !r.status.keeps then k.voidOpt o.cand else k
  if r.kind ≠ 2 ∧ r.status = .nonfinite then k.noteNonfinite else k

section
variable (k : Cycle) (o : SolveOrder) (r : QResult)

theorem Cycle.solved_solveSt : (k.solved o r).counts.solveSt = modAt (fun v => v + 1) k.counts.solveSt r.status.code := by
  unfold Cycle.solved
  split_ifs <;> rfl

theorem Cycle.solved_optVoid :
    (k.solved o r).optVoid = if r.kind = 2 ∧ r.status.keeps = false then k.optVoid ++ [o.cand] else k.optVoid := by
  simp only [Cycle.solved, Bool.not_eq_true']
  split_ifs <;> rfl

theorem Cycle.solved_drops : (k.solved o r).drops
    = if r.kind ≠ 2 ∧ r.status.keeps = false then (k.drop o.kind).drops else k.drops := by
  simp only [Cycle.solved, Bool.not_eq_true']
  split_ifs <;> rfl

end

theorem State.tally_eq (s : State) (f : CycleCounts → CycleCounts) :
    s.tally f = s.mapCycle (fun k => { k with counts := f k.counts }) := rfl

theorem State.dropCand_eq (s : State) (kind : Nat) : s.dropCand kind = s.mapCycle (fun k => k.drop kind) := rfl

/-- The flags of a solve's result (R265). -/
def QResult.flags (r : QResult) (q : QCmd) : List EngFlag :=
  q.codeFlags [(0xB, r.retried), (0xE, r.pivot.isSome), (0xF, r.status.code == 2)]
  ++ (if r.status.code = 3 ∨ r.status.code = 4 ∨ r.status.code = 6 ∨ r.status.code = 7 then
      [{ q.flagOf 0x10 0xFFFFFFFF 0xFFFFFFFF with also := if r.status.code = 3 then [0xF] else [] }] else [])
  ++ q.codeFlags [(0x11, r.status.code == 5)]

/-- What the end of a solve leaves (R152, R252, R264, R265). -/
theorem State.solveEnd_eq (s : State) (core : Nat) (d : QeCmd) (q : QCmd) (o : SolveOrder) (r : QResult) :
    s.solveEnd core d q o r = (s.leave (s.mem.write (dualBase (core / 4) + d.resultOff * 16) r.bytes)
      { s.cyc with cur := s.cyc.cur.map (fun k => k.solved o r) }).sendFlags (r.flags q) := by
  have hcycle : (let u := s.mapCycle (fun k => k.countSolve r.status)
      let u := if r.kind ≠ 2 ∧ !r.status.keeps then u.mapCycle (fun k => k.drop o.kind) else u
      let u := if r.kind = 2 ∧ !r.status.keeps then u.mapCycle (fun k => k.voidOpt o.cand) else u
      if r.kind ≠ 2 ∧ r.status = .nonfinite then u.mapCycle (fun k => k.noteNonfinite) else u)
      = s.mapCycle (fun k => k.solved o r) := by
    simp only [State.mapCycle_if]
    simp only [State.mapCycle_mapCycle]
    rfl
  have hfinish (u : State) : (let v := u.flagsWhere q [(0xB, r.retried), (0xE, r.pivot.isSome), (0xF, r.status.code == 2)]
      let v := if r.status.code = 3 ∨ r.status.code = 4 ∨ r.status.code = 6 ∨ r.status.code = 7 then
        v.flag q 0x10 0xFFFFFFFF 0xFFFFFFFF none (if r.status.code = 3 then [0xF] else []) else v
      v.flagsWhere q [(0x11, r.status.code == 5)]) = u.sendFlags (r.flags q) := by
    simp only [State.flagsWhere_eq, QResult.flags, ← State.sendFlags_sendFlags]
    split
    · rfl
    · simp only [State.sendFlags, List.append_nil]
  exact (hfinish (State.result _ (core / 4) d.resultOff r.bytes)).trans
    (congrArg (fun u => State.sendFlags (State.result u (core / 4) d.resultOff r.bytes) (r.flags q)) hcycle)

/-! ### What a solve does before its end -/

/-- A fault of class INFO is recorded, and nothing else follows (R477, R479). -/
theorem State.fault_info (s : State) {f : Fault0} (h : f.cls = .info) : s.fault f = s.record f := by
  rw [State.fault, h]

/-- A record changes the AON domain, the host interface and the safety manager alone (R477). -/
theorem State.record_only (s : State) (f : Fault0) :
    { s.record f with aon := s.aon, host := s.host, saf := s.saf } = s := by
  simp

/-- `u` differs from `s` only where a solve may before its end (R250, R263): in memory, the solutions and saturated paths kept,
and what the record of a numeric end takes. -/
structure Solving (s u : State) : Prop where
  frame : { u with mem := s.mem, eng := s.eng, free := s.free, aon := s.aon, host := s.host, saf := s.saf } = s
  engines : { u.eng with solved := s.eng.solved, pathSat := s.eng.pathSat } = s.eng
  mem : s.mem.wf = true → u.mem.wf = true

theorem Solving.refl (s : State) : Solving s s := ⟨rfl, rfl, id⟩

section
variable {s u : State}

theorem Solving.keepSolved (h : Solving s u) (cl : Nat) (d : QeCmd) (x : Solved) (bs : List Byte) :
    Solving s (u.keepSolved cl d x bs) := ⟨h.frame, h.engines, fun hs => wf_write (h.mem hs) _ _⟩

theorem Solving.keepPathSat (h : Solving s u) (core cand : Nat) (sat : Bool) : Solving s (u.keepPathSat core cand sat) := by
  rw [State.keepPathSat_eq]
  exact ⟨h.frame, h.engines, h.mem⟩

end

/-- A numeric end is recorded before the result is written (R250). -/
def State.iterated (s : State) (core : Nat) (fin : Option QEnd) : State :=
  match fin with
  | some x => s.abftNumeric core x
  | none => s

theorem Solving.iterated (s : State) (core : Nat) (fin : Option QEnd) : Solving s (s.iterated core fin) := by
  unfold State.iterated State.abftNumeric
  split
  · split
    · rw [State.fault_info _ rfl]
      constructor <;> simp
    · exact .refl s
  · exact .refl s

/-- `t` is the end of a solve of order `o` in `s` with a result of that KIND. -/
def SolveEnds (s t : State) (core : Nat) (d : QeCmd) (q : QCmd) (o : SolveOrder) (kind : Nat) : Prop :=
  ∃ u r, t = u.solveEnd core d q o r ∧ Solving s u ∧ r.cand = o.cand ∧ r.kind = kind

/-- A formed problem's result names its candidate and template (R264). -/
theorem solveReady_names (t : Template) (key : List Byte) (cand : Nat) (ev : SolveEv) (q : QSt) (nst : Nat) (pv : List (List F32))
    (pinit : List F32) : (solveReady t key cand ev q nst pv pinit).res.cand = cand
      ∧ (solveReady t key cand ev q nst pv pinit).res.kind = t.kind.code := by
  unfold solveReady
  dsimp only
  split <;> exact ⟨rfl, rfl⟩

section
variable (s : State) (e : EngEnv) (t : Template) (core : Nat) (d : QeCmd) (ev : SolveEv) (late : Option Nat) (q : QCmd) {o : SolveOrder}

/-- SOLVE with a GEO or OPT template comes to its end. -/
theorem State.solveGeo_ends (ho : o = SolveOrder.ofBytes (s.peek (dualBase (core / 4) + d.orderOff * 16) 32)) :
    SolveEnds s (s.solveGeo e t core d ev late q) core d q o t.kind.code := by
  subst ho
  unfold State.solveGeo
  dsimp only
  split
  · -- the problem ends while it is formed
    exact ⟨s, _, rfl, .refl s, rfl, rfl⟩
  · -- no corridor
    exact ⟨s, _, rfl, .refl s, rfl, rfl⟩
  · -- a vehicle that does not move
    split
    · exact ⟨s, _, rfl, .refl s, rfl, rfl⟩
    · exact ⟨_, _, rfl, (Solving.refl s).keepSolved .., rfl, rfl⟩
  · -- a formed problem: dropped, an OPT candidate built, or a GEO solution kept
    next kept refs sv ds pv pinit _ =>
    generalize hout : solveReady t _ _ _ _ kept.length pv pinit = out
    obtain ⟨hcand, hkind⟩ := hout ▸ solveReady_names t _ _ _ _ kept.length pv pinit
    have hu := Solving.iterated s core out.fin
    split
    · exact ⟨_, _, rfl, hu, hcand, hkind⟩
    · split
      · split
        · exact ⟨_, _, rfl, (hu.keepPathSat ..).keepSolved .., hcand, hkind⟩
        · exact ⟨_, _, rfl, hu, hcand, hkind⟩
      · exact ⟨_, _, rfl, hu.keepSolved .., hcand, hkind⟩

/-- SOLVE with a TS template comes to its end where a GEO solution stands at its input. -/
theorem State.solveTs_ends (ho : o = SolveOrder.ofBytes (s.peek (dualBase (core / 4) + d.orderOff * 16) 32)) (hts : t.kind = .ts)
    (hg : (s.geoAt (core / 4) (d.base core + d.inOff * 64)).isSome = true) :
    SolveEnds s (s.solveTs e t core d ev late q) core d q o t.kind.code := by
  obtain ⟨g, hg⟩ := Option.isSome_iff_exists.1 hg
  have hcode : t.kind.code = 1 := by rw [hts]; rfl
  subst ho
  simp only [State.solveTs, hg]
  split
  · -- one stage: no solve runs
    exact ⟨_, _, rfl, (Solving.refl s).keepSolved .., rfl, hcode.symm⟩
  · split
    · -- the problem ends while it is formed
      exact ⟨s, _, rfl, .refl s, rfl, hcode.symm⟩
    · -- a formed problem: dropped, or its solution kept
      next pv pinit _ =>
      generalize hout : solveReady t _ _ _ _ g.nst pv pinit = out
      obtain ⟨hcand, hkind⟩ := hout ▸ solveReady_names t _ _ _ _ g.nst pv pinit
      have hu := Solving.iterated s core out.fin
      split
      · exact ⟨_, _, rfl, hu, hcand, hkind⟩
      · exact ⟨_, _, rfl, hu.keepSolved .., hcand, hkind⟩

/-- SOLVE comes to its end (R237 to R254). -/
theorem State.solveBody_ends {e : EngEnv} {t : Template} (he : s.engEnv (core / 16) = some e) (ht : e.tmpl d.tmpl = some t)
    (ho : o = SolveOrder.ofBytes (s.peek (dualBase (core / 4) + d.orderOff * 16) 32))
    (hg : t.kind = .ts → (s.geoAt (core / 4) (d.base core + d.inOff * 64)).isSome = true) :
    SolveEnds s (s.solveBody core d ev late q) core d q o t.kind.code := by
  simp only [State.solveBody, he, ht]
  split
  · next hts => exact s.solveTs_ends e t core d ev late q ho hts (hg hts)
  · exact s.solveGeo_ends e t core d ev late q ho

end

/-! ### The commands as the head of their queue -/

/-- What SOLVE leaves as the head of its queue: whatever it does before its end, the end of its solve. -/
theorem SolveEnds.leaves {s t : State} {core : Nat} {d : QeCmd} {q : QCmd} {rest : List QCmd} {o : SolveOrder} {kind : Nat}
    (h : SolveEnds (s.takingQe core rest q) t core d q o kind) (hs : s.mem.wf = true) :
    ∃ r, Taken s t core .qe q rest
      ∧ { t with mem := s.mem, eng := s.eng, du := s.du, cyc := s.cyc, free := s.free, aon := s.aon, host := s.host, saf := s.saf } = s
      ∧ { t.eng with queues := s.eng.queues, qeOwners := s.eng.qeOwners, flags := s.eng.flags, solved := s.eng.solved
                     pathSat := s.eng.pathSat } = s.eng
      ∧ Holds t (dualBase (core / 4) + d.resultOff * 16) (QResult.bytes r) ∧ r.cand = o.cand ∧ r.kind = kind
      ∧ t.cyc = { s.cyc with cur := s.cyc.cur.map (fun k => k.solved o r) } := by
  obtain ⟨u, r, rfl, hu, hcand, hkind⟩ := h
  obtain ⟨owners, htaking⟩ := s.takingQe_eq core rest q
  rw [htaking] at hu
  rw [State.solveEnd_eq]
  refine ⟨r, State.taken_of_queues (congrArg EngSt.queues hu.engines :) (congrArg State.du hu.frame :), ?_, ?_,
    holds_write (hu.mem hs) (State.sendFlags_leave_mem ..), hcand, hkind, ?_⟩
  · exact (congrArg (fun v : State => { v with
      mem := s.mem, eng := s.eng, du := s.du, cyc := s.cyc, free := s.free, aon := s.aon, host := s.host, saf := s.saf }) hu.frame :)
  · exact (congrArg (fun v : EngSt => { v with
      queues := s.eng.queues, qeOwners := s.eng.qeOwners, flags := s.eng.flags, solved := s.eng.solved
      pathSat := s.eng.pathSat }) hu.engines :)
  · exact (congrArg (fun v : State => { v.cyc with cur := v.cyc.cur.map (fun k : Cycle => k.solved o r) }) hu.frame :)

section
variable (s : State) (core : Nat) (rest : List QCmd) (q : QCmd) (m : Memory) (y : CycSt)

theorem State.leave_taken : Taken s ((s.takingQe core rest q).leave m y) core .qe q rest := by
  obtain ⟨owners, h⟩ := s.takingQe_eq core rest q
  rw [h]
  exact State.taken_of_queues rfl rfl

theorem State.leave_frame :
    { (s.takingQe core rest q).leave m y with mem := s.mem, eng := s.eng, du := s.du, cyc := s.cyc } = s := by
  obtain ⟨owners, h⟩ := s.takingQe_eq core rest q
  rw [h]
  rfl

/-- A command that leaves the cycle as it was. -/
theorem State.leave_frame_cyc : { (s.takingQe core rest q).leave m s.cyc with mem := s.mem, eng := s.eng, du := s.du } = s := by
  obtain ⟨owners, h⟩ := s.takingQe_eq core rest q
  rw [h]
  rfl

theorem State.leave_engines :
    { ((s.takingQe core rest q).leave m y).eng with queues := s.eng.queues, qeOwners := s.eng.qeOwners } = s.eng := by
  obtain ⟨owners, h⟩ := s.takingQe_eq core rest q
  rw [h]
  rfl

end

section
variable {c : Core} {w : BitVec 128} {d : QeCmd} {q : QCmd} {rest : List QCmd} {s : State} {e : EngEnv} {o : SolveOrder}

/-- What EMIT leaves as the head of its queue: the trajectory, its re-check samples and the result (R256 to R260, R264). -/
theorem State.emitBody_eq {core : Nat} {g : GeoSol} {ts : TsSol} (he : s.engEnv (core / 16) = some e)
    (hg : s.geoAt (core / 4) (d.base core + d.inOff * 64) = some g) (hts : s.tsAt (core / 4) (d.base core + d.auxOff * 64) = some ts)
    (ho : o = SolveOrder.ofBytes (s.peek (dualBase (core / 4) + d.orderOff * 16) 32)) :
    ∃ r x, ((ExceptT.run (emitTraj e.img.ego e.anchor e.img.misc.vstop (hmaxOf e.img.misc.nsamp e.img.misc.dts) g
          (ts.z.map (mapped ts.map 0)))).run { whole := true }).1 = .ok x
      ∧ s.emitBody core d false q = s.leave
        (((s.mem.write (sharedBase (core / 4) + d.outOff * 64)
              (Traj.bytes ⟨o.cand, o.kind, e.anchor, s.world.worldTime, x.tend, g.res.obj, ts.res.obj, g.res.status.code,
                ts.res.status.code, g.res.iter, ts.res.iter, g.res.pivot.isSome || ts.res.pivot.isSome, x.stopj, x.samples⟩)).write
            (sharedBase (core / 4) + d.workOff * 64) (x.recheck.map Sample.bytes).flatten).write
          (dualBase (core / 4) + d.resultOff * 16) (QResult.bytes r)) s.cyc
      ∧ r.cand = o.cand ∧ r.status = .converged ∧ r.nt = x.samples.length ∧ r.stopj = x.stopj.getD 0xFFFF := by
  subst ho
  obtain ⟨x, hx⟩ := emitTraj_ends e.img.ego e.anchor e.img.misc.vstop (hmaxOf e.img.misc.nsamp e.img.misc.dts) g
    (ts.z.map (mapped ts.map 0))
  simp only [State.emitBody, he, hg, hts, hx, State.flagsWhere_false, State.result, State.poke]
  exact ⟨_, x, rfl, rfl, rfl, rfl, rfl, rfl⟩

/-- KEY of a candidate without trajectory stores the entry with no key (R262). -/
theorem State.keyBody_notraj {core : Nat} (he : s.engEnv (core / 16) = some e) (hno : d.notraj = true)
    (ho : o = SolveOrder.ofBytes (s.peek (dualBase (core / 4) + d.orderOff * 16) 32)) :
    ∃ r, s.keyBody core d false q = s.leave ((s.mem.write (sharedBase (core / 4) + d.outOff * 64)
        (leBytes 4 o.cand ++ leBytes 4 fNaN.toNat)).write (dualBase (core / 4) + d.resultOff * 16) (QResult.bytes r)) s.cyc
      ∧ r.cand = o.cand := by
  subst ho
  simp only [State.keyBody, he, hno, if_true, true_or, State.flagsWhere_false, State.result, State.poke]
  exact ⟨_, rfl, rfl⟩

/-- The cycle once KEY has stored the entry of a candidate (R261, R262, R286): a trajectory that fails its re-check is counted
and dropped. -/
def Cycle.keyed (k : Cycle) (x : Emitted) (kind : Nat) (pass : Bool) : Cycle :=
  let k := { k with emits := k.emits ++ [x] }
  if pass then k else ({ k with counts := { k.counts with recheckFail := k.counts.recheckFail + 1 } } : Cycle).drop kind

section
variable (k : Cycle) (x : Emitted) (kind : Nat) (pass : Bool)

theorem Cycle.keyed_emits : (k.keyed x kind pass).emits = k.emits ++ [x] := by cases pass <;> rfl

theorem Cycle.keyed_recheckFail :
    (k.keyed x kind pass).counts.recheckFail = k.counts.recheckFail + (if pass then 0 else 1) := by cases pass <;> rfl

theorem Cycle.keyed_drops : (k.keyed x kind pass).drops = if pass then k.drops else (k.drop kind).drops := by cases pass <;> rfl

end

/-- KEY of a trajectory stores its entry and keeps it for phase 6 (R261, R262). -/
theorem State.keyBody_traj {core a raw : Nat} {tr : Traj} {cost : CostRec} {v : VRec} {pass : Bool} (he : s.engEnv (core / 16) = some e)
    (htraj : d.notraj = false) (ho : o = SolveOrder.ofBytes (s.peek (dualBase (core / 4) + d.orderOff * 16) 32))
    (ha : a = d.base core + d.inOff * 64) (htr : tr = Traj.ofBytes (s.peek a (64 + 40 * getLe (s.peek a 64) 6 2)))
    (hcost : cost = CostRec.ofBytes (s.peek (scratchBase core + d.auxOff * 64) 16))
    (hv : v = (lookupKey (trajKey core o.cand) s.eng.trajs).getD VRec.init) (hpass : pass = recheckPasses e.img.misc.truncMinMs v cost)
    (hraw : raw = (keyValue pass tr.objGeo tr.objTs (BitVec.ofNat 32 (paramVal e.ps 0x50 0)) cost.cost).val.toNat) :
    ∃ r, s.keyBody core d false q = s.leave ((s.mem.write (sharedBase (core / 4) + d.outOff * 64)
        (leBytes 4 o.cand ++ leBytes 4 raw)).write (dualBase (core / 4) + d.resultOff * 16) (QResult.bytes r))
        (s.mapCycle (fun k => k.keyed ⟨core, o.cand, o.kind, o.ord, tr, v.tsample, cost, raw⟩ o.kind pass)).cyc
      ∧ r.cand = o.cand := by
  subst ho ha htr hcost hv
  simp only [State.keyBody, he, htraj, Bool.false_eq_true, if_false, false_or, Bool.not_false, Bool.true_and, ← hpass, ← hraw,
    State.flagsWhere_false, State.result, State.poke]
  cases pass
  · simp only [Bool.false_eq_true, if_false, State.dropCand_eq, State.tally_eq, State.mapCycle_mapCycle]
    exact ⟨_, rfl, rfl⟩
  · exact ⟨_, rfl, rfl⟩

/-- A SOLVE whose core does not win the solver waits, whatever its checkers find. -/
theorem exec_solve_waits (hw : HwEvent) (late : Option Nat) (hd : d = QeCmd.ofWord w.toNat) (hop : d.op = 1)
    (hwin : s.qeWinner (c.val / 4) ≠ some (c.val % 4)) : exec (.solve c w hw late) s = .next s := by
  change execSolve c w hw late s = .next s
  unfold execSolve
  dsimp only
  split
  · exact State.qeRun_waits _ _ hd hop hwin
  · exact State.qeRun_waits _ _ hd hop hwin

end

end Sys2Proof.Machine

namespace Sys2Proof
open Sys2Proof.Machine

/-- Settles O50: a select command whose checks pass ends with its list (`State.seFinish_eq`); SOLVE, whichever of its ends it
comes to, is `State.solveEnd` behind a frame (`SolveEnds`); EMIT comes to its end with any values (`emitTraj_ends`). -/
theorem selectionsAndSolves : Obligations.SelectionsAndSolves := by
  refine ⟨fun c w d q rest l n cmd s _ hq hw hd hcmd hn => ?_, fun c w late d q rest e o s hs hq hw hd he ho =>
    ⟨fun hwin => ?_, fun hwin hw cmd hcmd => ?_⟩⟩
  · have hexec : exec cmd s = .next ((s.taking c .se rest q).seFinish c d q l false) := by
      subst hn
      rcases hcmd with ⟨hop, rfl, ⟨e, he, hl⟩, hcheck⟩ | ⟨hop, rfl, ls, sp, hls, hsp, hl, hcheck⟩
      · exact (State.seRun_clean (fun d b q s => s.selectBody c d b q) hq hw hd hop).trans
          (congrArg _ (State.selectBody_eq (s := s.taking c .se rest q) he hl hcheck.symm))
      · exact (State.seRun_clean (fun d b q s => s.mergeBody c d b q) hq hw hd hop).trans
          (congrArg _ (State.mergeBody_eq (s := s.taking c .se rest q) hls hsp hl hcheck.symm))
    rw [State.seFinish_eq] at hexec
    exact ⟨_, hexec, State.conclude_taken .., State.conclude_frame_cyc .., State.conclude_engines .., State.conclude_mem ..,
      State.conclude_flags ..⟩
  · have he' := (s.takingQe_engEnv c rest q (c / 16)).trans he
    refine ⟨fun tm hop ht hg => ?_, fun g ts hop hg hts => ?_, fun hop hno => ?_,
      fun a tr cost v pass raw hop htraj ha htr hcost hv hpass hraw => ?_⟩
    · rw [← s.takingQe_geoAt c rest q] at hg
      obtain ⟨r, htaken, hframe, heng, hholds, hcand, hkind, hcyc⟩ :=
        (State.solveBody_ends (s.takingQe c rest q) c d ⟨false, none, none⟩ late q he' ht ho hg).leaves hs.1
      refine ⟨_, r, State.qeRun_clean (fun d q s => s.solveBody c d ⟨false, none, none⟩ late q) hq hw hd hop hwin, htaken, hframe,
        heng, hholds, hcand, hkind, ?_, ?_, ?_, ?_⟩
      · rw [hcyc]
      all_goals simp only [hcyc, Option.map_map, Function.comp_def, Cycle.solved_solveSt, Cycle.solved_optVoid, Cycle.solved_drops,
        Cycle.drop_drops]
    · rw [← s.takingQe_geoAt c rest q] at hg
      rw [← s.takingQe_tsAt c rest q] at hts
      obtain ⟨r, x, hx, hbody, hcand, hst, hnt, hstop⟩ := State.emitBody_eq (q := q) he' hg hts ho
      exact ⟨_, r, x, (State.qeRun_clean (fun d q s => s.emitBody c d false q) hq hw hd hop hwin).trans (congrArg _ hbody),
        State.leave_taken .., State.leave_frame_cyc .., State.leave_engines .., hx, State.leave_mem .., hcand, hst, hnt, hstop⟩
    · obtain ⟨r, hbody, hcand⟩ := State.keyBody_notraj (q := q) he' hno ho
      exact ⟨_, r, (State.qeRun_clean (fun d q s => s.keyBody c d false q) hq hw hd hop hwin).trans (congrArg _ hbody),
        State.leave_taken .., State.leave_frame_cyc .., State.leave_engines .., State.leave_mem .., hcand⟩
    · obtain ⟨r, hbody, hcand⟩ := State.keyBody_traj (q := q) he' htraj ho ha htr hcost hv hpass hraw
      refine ⟨_, r, (State.qeRun_clean (fun d q s => s.keyBody c d false q) hq hw hd hop hwin).trans (congrArg _ hbody),
        State.leave_taken .., State.leave_frame .., State.leave_engines .., rfl, State.leave_mem .., hcand, ?_, ?_, ?_⟩
      all_goals
        rw [State.leave_cyc, State.mapCycle_cur, State.takingQe_cyc, Option.map_map]
        simp only [Function.comp_def, Cycle.keyed_emits, Cycle.keyed_recheckFail, Cycle.keyed_drops, Cycle.drop_drops]
  · rcases hcmd with ⟨hop, rfl⟩ | ⟨hop, rfl⟩ | ⟨hop, rfl⟩
    · exact exec_solve_waits hw late hd hop hwin
    · exact State.qeRun_waits (fun d q s => s.emitBody c d (hw == .checker) q) _ hd hop hwin
    · exact State.qeRun_waits (fun d q s => s.keyBody c d (hw == .checker) q) _ hd hop hwin

end Sys2Proof

/-! ## Packets that arrive (R220, R230, R358, R477) -/

namespace Sys2Proof.Machine
open Sys2Proof

/-! ### The merge unit and its lists -/

/-- The lists that have arrived for a pass of an entry. -/
def Cycle.passLists (c : Cycle) (entry pass : Nat) : List HubList := c.lists.filter (fun l => l.entry == entry && l.pass == pass)

theorem Cycle.mem_passLists {c : Cycle} {entry pass : Nat} {l : HubList} :
    l ∈ c.passLists entry pass ↔ l ∈ c.lists ∧ l.entry = entry ∧ l.pass = pass := by
  simp [Cycle.passLists]

section
variable {s : State} {c : Cycle} {a : Armature} {e : SelEntry}

/-- MU_MERGE of lists whose checks pass keeps their merge (R218, R227). -/
theorem State.muRun_clean {entry pass : Nat} {ls : List HubList} {sp : SelSpec} (hcur : s.cyc.cur = some c)
    (hsp : sp = c.passSpec e entry pass)
    (hcheck : mergeCheck sp (ls.map (fun l => l.list)) (mergeLists sp (ls.map (fun l => l.list))) = 0) :
    s.muRun c e entry pass .clean ls = { s with cyc := { s.cyc with
      cur := some { c with lists := c.lists ++ [⟨entry, pass, 8, mergeLists sp (ls.map (fun l => l.list))⟩] } } } := by
  subst hsp
  simp only [State.muRun, hcheck, ne_eq, not_true_eq_false, if_false, State.mapCycle_of_cur hcur]

/-- MU_MERGE, once every die's list of the pass has arrived and none is merged, merges them (R230). -/
theorem exec_muMerge_runs {entry : Fin 8} {pass : Fin 16} (hcur : s.cyc.cur = some c) (ha : s.armature = some a)
    (he : a.sel[entry.val]? = some e) (hphase : e.phase = c.phase) (hnew : ∀ l ∈ c.passLists entry pass, l.die ≠ 8)
    (hall : ∀ k ∈ c.dies, ∃ l ∈ c.passLists entry pass, l.die = k) :
    exec (.muMerge entry pass .clean) s = .next (s.muRun c e entry pass .clean (c.passLists entry pass)) := by
  have hls : (c.passLists entry pass).filter (fun l => l.die != 8) = c.passLists entry pass :=
    List.filter_eq_self.2 fun l hl => by simpa using hnew l hl
  have hno : ¬ ((c.passLists entry pass).any (fun l => l.die == 8) = true) := by simpa using hnew
  have hdies : ¬ ((!c.dies.all (fun d => (c.passLists entry pass).any (fun l => l.die == d))) = true) := by simpa using hall
  change execMuMerge entry pass .clean s = _
  simp only [execMuMerge, hcur, ha, Option.bind_some, he]
  rw [← Cycle.passLists, hls, if_neg (by simp [hphase, hno, hdies])]

/-- A list of the cycle's own epoch, of a die of the cycle, that stands for its entry and pass neither of the die nor merged, is
kept (R230). -/
theorem State.listIn_keeps {src entry pass : Nat} {bytes : List Byte} (hcur : s.cyc.cur = some c) (ha : s.armature = some a)
    (he : a.sel[entry]? = some e) (hsrc : src ∈ c.dies) (hphase : e.phase = c.phase) (hpass : pass < e.passes)
    (hnew : ∀ l ∈ c.lists, l.entry = entry → l.pass = pass → l.die ≠ src ∧ l.die ≠ 8) :
    s.listIn src s.cyc.epoch entry pass bytes = { s with cyc := { s.cyc with
      cur := some { c with lists := c.lists ++ [⟨entry, pass, src, SList.ofBytes bytes⟩] } } } := by
  have hown : ¬ (c.lists.any (fun l => l.entry == entry && l.pass == pass && (l.die == src || l.die == 8)) = true) := by
    simpa using hnew
  simp only [State.listIn, hcur, ha, Option.bind_some, he]
  rw [if_neg (by simpa using hsrc), if_neg (by simp [hphase, hpass, hown]), State.mapCycle_of_cur hcur]

/-- A list of another epoch is counted as stale (R230, R344). -/
theorem State.listIn_stale {src epoch entry pass : Nat} {bytes : List Byte} (hcur : s.cyc.cur = some c) (ha : s.armature = some a)
    (he : a.sel[entry]? = some e) (hepoch : epoch ≠ s.cyc.epoch) : s.listIn src epoch entry pass bytes = s.hubStale epoch := by
  simp only [State.listIn, hcur, ha, Option.bind_some, he, if_pos (Or.inl hepoch)]

/-- A die's list of its full length reaches the MU. -/
theorem exec_list_merge {src : Fin 9} {epoch entry pass : Nat} {bytes : List Byte} (hsrc : src.val ≠ 8) (hlen : bytes.length = 1280) :
    exec (.list src epoch (.merge entry pass bytes)) s = .next (s.listIn src epoch entry pass bytes) := by
  change execList src epoch (.merge entry pass bytes) s = _
  simp only [execList, hlen, hsrc, ne_eq, not_true_eq_false, if_false]

end

/-! ### Bulk data -/

section
variable {s : State}

/-- Bulk data stand coherently in LPDDR (R380). -/
theorem State.holds_cohWrite (hs : s.mem.wf = true) (a : Nat) (bs : List Byte) : Holds (s.cohWrite a bs) a bs := by
  refine read_write_same (wf_foldl _ (fun m l hm => ?_) _ hs) a bs
  split
  · exact wf_write hm _ _
  · exact hm

theorem State.cohWrite_only (s : State) (a : Nat) (bs : List Byte) : { s.cohWrite a bs with mem := s.mem, coh := s.coh } = s := rfl

/-- Bytes written into SRAM stand in memory and, in a world store, in what is laid over the world (R103). -/
theorem State.sramWrite_only (s : State) (a : Nat) (bs : List Byte) :
    { s.sramWrite a bs with mem := s.mem, world := s.world } = s
      ∧ { (s.sramWrite a bs).world with laid := s.world.laid } = s.world := by
  unfold State.sramWrite
  split <;> exact ⟨rfl, rfl⟩

theorem State.sramWrite_untouched (s : State) (a : Nat) (bs : List Byte) : Untouched s (s.sramWrite a bs) [(a, bs.length)] := by
  intro x hx
  rw [State.sramWrite_mem]
  exact get_write_other _ _ _ _ (hx _ (List.mem_singleton.2 rfl))

variable {src : Fin 9} {da : Nat} {bytes : List Byte}

/-- A bulk packet that its source may send there is written (R358). -/
theorem exec_bulk_writes (h1 : 1 ≤ bytes.length) (h256 : bytes.length ≤ 256) (hsends : s.sends src = true)
    (hreach : s.bulkReach src da bytes.length = true) (hup : s.bulkUp da = true) :
    exec (.bulk src da bytes) s = .next (if da < 0x10000000000 then s.bulkWrite src da bytes else s.sramWrite da bytes) := by
  have hlen : ¬ (bytes.length = 0 ∨ 256 < bytes.length) := by omega
  change execBulk src da bytes s = _
  simp only [execBulk, if_neg hlen, hsends, hreach, hup, Bool.not_true, Bool.false_eq_true, if_false, if_true]

/-- A bulk packet of the hub to an address that the hub does not reach raises FLT_ADDR (R358). -/
theorem exec_bulk_hub_outside (h1 : 1 ≤ bytes.length) (h256 : bytes.length ≤ 256) (hsends : s.sends src = true)
    (hreach : s.bulkReach src da bytes.length = false) (hsrc : src.val = 8) :
    exec (.bulk src da bytes) s = .next (s.fault ⟨.addr, .restartHub, Loc.hub 0, 0, da / 64 % 2 ^ 32⟩) := by
  have hlen : ¬ (bytes.length = 0 ∨ 256 < bytes.length) := by omega
  change execBulk src da bytes s = _
  simp only [execBulk, if_neg hlen, hsends, hreach, Bool.not_true, Bool.false_eq_true, if_false]
  rw [if_pos hsrc]

end

/-! ### Fault records -/

/-- The record that the hub makes of a fault (R476, R477). -/
def Aon.recordOf (a : Aon) (f : Fault0) (merged time : Nat) : FaultRec :=
  ⟨f.code, f.cls, f.loc, f.d0 % 2 ^ 32, f.d1 % 2 ^ 32, merged, time, (a.ctr.frTotal + 1) % 2 ^ 32⟩

/-- A fault of class INFO is counted and closes the AON ring (R476, R477). -/
theorem Aon.enter_info (a : Aon) {f : Fault0} (h : f.cls = .info) (merged time : Nat) :
    (a.enter f merged time).1.ctr.frTotal = satInc 64 a.ctr.frTotal
      ∧ (a.enter f merged time).1.ring.getLast? = some (a.recordOf f merged time) := by
  have hcls : ¬ 2 ≤ f.cls.code := by rw [h]; decide
  constructor
  · simp only [Aon.enter, if_neg hcls]
  · simp only [Aon.enter, if_neg hcls]
    rw [List.getLast?_drop, if_neg (by simp), List.getLast?_concat]
    rfl

/-- What the record of a fault of class INFO outside every merge window leaves (R477). -/
theorem State.record_info {s : State} {f : Fault0} (h : f.cls = .info)
    (hwin : ∀ w ∈ s.saf.windows, ¬(w.first.code = f.code ∧ w.first.loc = f.loc)) :
    (s.record f).aon = (s.aon.enter f 0 s.time.now).1 ∧ (s.record f).saf.unacked = s.saf.unacked := by
  have hcls : ¬ 2 ≤ f.cls.code := by rw [h]; decide
  have hopen : ¬ (s.saf.windows.any (fun w => w.first.code == f.code && w.first.loc == f.loc) = true) := by simpa using hwin
  have hsend : (s.send f 0).aon = (s.aon.enter f 0 s.time.now).1 ∧ (s.send f 0).saf = s.saf := by
    simp [State.send, if_neg hcls]
  simp only [State.record, h, ne_eq, not_true_eq_false, if_false, if_neg hopen]
  split
  · exact ⟨hsend.1, (congrArg Safety.unacked hsend.2 :)⟩
  · exact ⟨hsend.1, (congrArg Safety.unacked hsend.2 :)⟩

/-- A die's own record of class INFO is raised at the hub (R477). -/
theorem exec_faultRec_info {src : Die} {rec : List Byte} {f : Fault0} {s : State} (hlen : rec.length = 32) (hcrc : crcOk 32 rec = true)
    (hf : Fault0.ofBytes rec = some f) (hdie : f.loc.die = src.val) (hsends : s.sends src = true) (hinfo : f.cls = .info) :
    exec (.faultRec src rec) s = .next (s.record f) := by
  have hgood : ¬ ((!crcOk 32 rec) = true ∨ f.loc.die ≠ src.val ∨ (!s.sends src) = true) := by simp [hcrc, hdie, hsends]
  have hfence : ¬ f.cls = .fence := by rw [hinfo]; decide
  change execFaultRec src rec s = _
  simp only [execFaultRec, hlen, ne_eq, not_true_eq_false, if_false, hf, if_neg hgood, if_neg hfence, State.fault_info s hinfo]

end Sys2Proof.Machine

namespace Sys2Proof
open Sys2Proof.Machine

/-- Settles O39: each packet by the lemma of its own case; bulk data are written coherently below the SRAM (`State.cohWrite`),
within it as they come (`State.sramWrite`). -/
theorem packetsArrive : Obligations.PacketsArrive := by
  refine ⟨fun entry pass c a e s hcur ha he hphase hnew hall ls sp hls hsp hcheck => ?_,
    fun src epoch entry pass bytes c a e s hsrc hlen hcur ha he => ⟨fun hepoch hdie hphase hpass hnew => ?_, fun hepoch => ?_⟩,
    fun src da bytes s hs h1 h256 hsends => ⟨fun hreach hup hbusy => ?_, fun hreach hsrc =>
      exec_bulk_hub_outside h1 h256 hsends hreach hsrc⟩,
    fun src rec f s hlen hcrc hf hdie hsends hinfo hwin => ?_⟩
  · subst hls
    rw [exec_muMerge_runs hcur ha he hphase (fun l hl => ?_) (fun k hk => ?_)]
    · exact congrArg _ (State.muRun_clean hcur hsp hcheck)
    · obtain ⟨hl, hentry, hpass⟩ := Cycle.mem_passLists.1 hl
      exact hnew l hl hentry hpass
    · obtain ⟨l, hl, hentry, hpass, hdie, -⟩ := hall k hk
      exact ⟨l, Cycle.mem_passLists.2 ⟨hl, hentry, hpass⟩, hdie⟩
  · subst hepoch
    exact (exec_list_merge hsrc hlen).trans (congrArg _ (State.listIn_keeps hcur ha he hdie hphase hpass hnew))
  · exact (exec_list_merge hsrc hlen).trans (congrArg _ (State.listIn_stale hcur ha he hepoch))
  · refine ⟨_, exec_bulk_writes h1 h256 hsends hreach hup, ?_⟩
    split
    · next hda =>
      simp only [State.bulkWrite, hbusy, Bool.not_false, if_true]
      exact ⟨State.holds_cohWrite hs.1 .., State.cohWrite_only .., rfl, fun h => absurd hda (not_lt.2 h)⟩
    · obtain ⟨hframe, hworld⟩ := s.sramWrite_only da bytes
      exact ⟨holds_write hs.1 (s.sramWrite_mem da bytes), congrArg (fun v : State => { v with coh := s.coh }) hframe, hworld,
        fun _ => ⟨(congrArg State.coh hframe :), s.sramWrite_untouched da bytes⟩⟩
  · obtain ⟨haon, hunacked⟩ := State.record_info hinfo hwin
    obtain ⟨htotal, hring⟩ := s.aon.enter_info hinfo 0 s.time.now
    refine ⟨_, exec_faultRec_info hlen hcrc hf hdie hsends hinfo, haon ▸ htotal, ?_, s.record_only f, hunacked⟩
    rw [haon, hring, Aon.recordOf, hinfo]

end Sys2Proof

/-! ## COMMIT_COUNT: no operation lowers it (R278, R283, R512) -/

namespace Sys2Proof.Machine
open Sys2Proof

/-- COMMIT_COUNT of the two states is the same. -/
@[simp] abbrev SameCommits (t s : State) : Prop := t.aon.ctr.commits = s.aon.ctr.commits

theorem SameCommits.trans {t u s : State} (h : SameCommits t u) (g : SameCommits u s) : SameCommits t s := Eq.trans h g

@[simp] theorem ite_commits (c : Prop) [Decidable c] (t u : State) :
    (if c then t else u).aon.ctr.commits = (if c then t.aon.ctr.commits else u.aon.ctr.commits) :=
  apply_ite (fun v : State => v.aon.ctr.commits) c t u

/-! ### Folds -/

@[simp] theorem foldl_commits {α : Type} {g : State → α → State} (h : ∀ u x, SameCommits (g u x) u) (xs : List α)
    (s : State) : SameCommits (xs.foldl g s) s :=
  foldl_same (fun u => u.aon.ctr.commits) h xs s

section
variable {α : Type} (xs : List α) (s : State)

/-! Folds whose turn keeps the AON domain by computation: `simp` cannot discharge the hypothesis of `foldl_commits` there. -/

@[simp] theorem foldl_poke_commits (a : State → α → Nat) (bs : State → α → List Byte) :
    SameCommits (xs.foldl (fun s x => s.poke (a s x) (bs s x)) s) s :=
  foldl_commits (fun _ _ => by rfl) _ _

@[simp] theorem foldl_mapDie_commits (d : State → α → Nat) (f : State → α → DieSt → DieSt) :
    SameCommits (xs.foldl (fun s x => s.mapDie (d s x) (f s x)) s) s :=
  foldl_commits (fun _ _ => by rfl) _ _

@[simp] theorem foldl_withCoh_commits (o : State → α → CohOut) :
    SameCommits (xs.foldl (fun s x => s.withCoh (o s x)) s) s :=
  foldl_commits (fun _ _ => by rfl) _ _

end

theorem Aon.foldl_commits {α : Type} {g : Aon → α → Aon} (h : ∀ a x, (g a x).ctr.commits = a.ctr.commits) (xs : List α)
    (a : Aon) : (xs.foldl g a).ctr.commits = a.ctr.commits :=
  (List.foldl_hom (fun b : Aon => b.ctr.commits) (g₂ := fun n _ => n) (fun a x => (h a x).symm)).symm.trans
    (List.foldl_fixed _)

/-! ### The AON domain -/

@[simp] theorem Aon.logOne_commits (a : Aon) (r : FaultRec) : (a.logOne r).ctr.commits = a.ctr.commits := by
  unfold Aon.logOne
  extract_lets win n p
  split <;> rfl

/-- A checkpoint logs the waiting records, marks the slots that fail and writes one (R511): of the counters, FR_DROPPED alone
can rise (R515). -/
@[simp] theorem Aon.checkpoint_commits (a : Aon) (why : CkReason) (fails : Nat) :
    (a.checkpoint why fails).ctr.commits = a.ctr.commits :=
  (Aon.foldl_commits (fun _ _ => by rfl) _ _).trans (Aon.foldl_commits Aon.logOne_commits _ _)

@[simp] theorem Aon.faultCheckpoint_commits (a : Aon) : a.faultCheckpoint.ctr.commits = a.ctr.commits := by
  unfold Aon.faultCheckpoint
  split <;> simp

@[simp] theorem Aon.enter_commits (a : Aon) (f : Fault0) (merged time : Nat) :
    (a.enter f merged time).1.ctr.commits = a.ctr.commits := by
  unfold Aon.enter
  dsimp only
  split <;> simp

@[simp] theorem Aon.thermSample_commits (a : Aon) (t : Int) : (a.thermSample t).ctr.commits = a.ctr.commits := by
  unfold Aon.thermSample
  dsimp only
  split <;> split <;> rfl

@[simp] theorem Aon.calTick_commits (a : Aon) : a.calTick.ctr.commits = a.ctr.commits := by
  unfold Aon.calTick
  dsimp only
  repeat' split
  all_goals rfl

@[simp] theorem Aon.calSet_commits (a : Aon) (sec sub : Nat) (late : Int) :
    (a.calSet sec sub late).ctr.commits = a.ctr.commits := rfl

@[simp] theorem Aon.arbCommit_commits (a : Aon) (h : ImgHeader) : (a.arbCommit h).ctr.commits = a.ctr.commits := by
  unfold Aon.arbCommit
  split <;> rfl

@[simp] theorem Aon.winWrite_commits (a : Aon) (v : Nat) : (a.winWrite v).ctr.commits = a.ctr.commits := rfl

/-- An intact retention RAM keeps its counters (R512). -/
theorem Aon.powerUp_commits {a : Aon} (h : a.lost = false) : a.powerUp.ctr.commits = a.ctr.commits := by
  simp [Aon.powerUp, h]

@[simp] theorem Aon.foldl_sample_commits (xs : List (Fin 9 × Int)) (a : Aon) :
    (xs.foldl Aon.sample a).ctr.commits = a.ctr.commits :=
  Aon.foldl_commits (fun _ _ => by rfl) _ _

/-! ### The operations of the machine, in the order of their files -/

/-! #### Machine/Ops -/

section
variable (s : State) (old : List LongOp) (f : Fault0) (st : Status) (u : RUnit)

@[simp] theorem State.begin_commits (o : LongOp) : SameCommits (s.begin_ o) s := by
  unfold State.begin_
  repeat' split
  all_goals simp

@[simp] theorem State.opsRun_commits : SameCommits (s.opsRun old) s := by simp [State.opsRun]
@[simp] theorem State.send_commits (merged : Nat) : SameCommits (s.send f merged) s := by simp [State.send]

@[simp] theorem State.record_commits : SameCommits (s.record f) s := by
  unfold State.record
  dsimp only
  repeat' split
  all_goals simp

@[simp] theorem State.staleReports_commits : SameCommits s.staleReports s := by simp [State.staleReports]
@[simp] theorem State.runEnds_commits : SameCommits (s.runEnds old) s := by simp [State.runEnds]
@[simp] theorem State.withOps_commits (r : OpsOut) : SameCommits (s.withOps r) s := by simp [State.withOps]

@[simp] theorem State.endCycle_commits (r0 r1 : Nat) (committed : Bool) : SameCommits (s.endCycle st r0 r1 committed) s := by
  unfold State.endCycle
  split <;> simp

@[simp] theorem State.abandon_commits : SameCommits (s.abandon st) s := by
  unfold State.abandon
  split <;> simp

@[simp] theorem State.fenceDie_commits (d : Nat) (cause : FenceCause) (abandonAs : Status) :
    SameCommits (s.fenceDie d cause abandonAs) s := by
  simp [State.fenceDie]

@[simp] theorem State.fatal_commits (alive : Bool) : SameCommits (s.fatal alive) s := by simp [State.fatal]
@[simp] theorem State.restartDue_commits : SameCommits (s.restartDue u) s := by simp [State.restartDue]

@[simp] theorem State.restartFault_commits : SameCommits (s.restartFault u) s := by
  unfold State.restartFault
  split <;> simp

@[simp] theorem State.fault_commits : SameCommits (s.fault f) s := by
  unfold State.fault
  repeat' split
  all_goals simp

@[simp] theorem State.faults_commits (fs : List Fault0) : SameCommits (s.faults fs) s := by simp [State.faults]

end

/-! #### Machine/EngineOps -/

section
variable (s : State) (unit cl cand : Nat) (e : Engine) (c : QCmd) (cause : Option Fault0) (bs : List Byte)

@[simp] theorem State.setQueue_commits (cs : List QCmd) : SameCommits (s.setQueue unit e cs) s := by simp [State.setQueue]
@[simp] theorem State.qeDecide_commits : SameCommits (s.qeDecide cl) s := by simp [State.qeDecide]
@[simp] theorem State.qeDrop_commits : SameCommits (s.qeDrop cl) s := by simp [State.qeDrop]
@[simp] theorem State.enqueue_commits : SameCommits (s.enqueue unit e c) s := by simp [State.enqueue]
@[simp] theorem State.dequeue_commits (rest : List QCmd) : SameCommits (s.dequeue unit e rest) s := by simp [State.dequeue]
@[simp] theorem State.commandDone_commits : SameCommits (s.commandDone c) s := by simp [State.commandDone]

@[simp] theorem State.flag_commits (code lane : Nat) (also : List Nat) :
    SameCommits (s.flag c code lane cand cause also) s := by
  simp [State.flag]

@[simp] theorem State.flagFault_commits : SameCommits (s.flagFault c cause cand) s := by simp [State.flagFault]

@[simp] theorem State.flagsWhere_commits (fs : List (Nat × Bool)) : SameCommits (s.flagsWhere c fs) s := by
  simp [State.flagsWhere]

@[simp] theorem State.result_commits (off : Nat) : SameCommits (s.result cl off bs) s := by simp [State.result]

@[simp] theorem State.corrected_commits (die m : Nat) : SameCommits (s.corrected die m) s := by
  unfold State.corrected
  repeat' split
  all_goals simp

@[simp] theorem State.cacheWord_commits (loc : Loc) (bank line : Nat) : SameCommits (s.cacheWord cl loc bank line).1 s := by
  unfold State.cacheWord
  dsimp only
  repeat' split
  all_goals simp

/-- A body and a failure that keep COMMIT_COUNT do so behind an engine's checks. -/
theorem State.checked_commits (hw : HwEvent) (op first count : Nat)
    {body : State → State} {failed : Fault0 → State → State} (adjust : Fault0 → Fault0)
    (hb : ∀ u, SameCommits (body u) u) (hf : ∀ f u, SameCommits (failed f u) u) :
    SameCommits (s.checked c e hw op first count body failed adjust) s := by
  unfold State.checked
  split
  · dsimp only
    split <;> simp [hb, hf]
  · dsimp only
    repeat' split
    all_goals simp [hb, hf]

theorem State.engineRun_commits (w : BitVec 128) (hw : HwEvent) (op first count : Nat)
    {body : QCmd → State → State} {failed : QCmd → Fault0 → State → State} (adjust : Fault0 → Fault0)
    (hb : ∀ c u, SameCommits (body c u) u) (hf : ∀ c f u, SameCommits (failed c f u) u) :
    SameCommits (s.engineRun unit e w hw op first count body failed adjust) s := by
  unfold State.engineRun
  split
  · simp
  · split
    · simp
    · exact (State.checked_commits _ e _ hw op first count adjust (hb _) (hf _)).trans (by simp)

theorem State.streamRun_commits (core : Nat) (w : BitVec 128) (hw : HwEvent) (op first count : Nat)
    {body : QCmd → State → State} (ended : State → Bool) {finish failed : QCmd → State → State}
    (hb : ∀ c u, SameCommits (body c u) u) (hn : ∀ c u, SameCommits (finish c u) u)
    (hf : ∀ c u, SameCommits (failed c u) u) :
    SameCommits (s.streamRun core e w hw op first count body ended finish failed) s := by
  unfold State.streamRun
  split
  · simp
  · split
    · simp
    · exact State.checked_commits _ e _ hw op first count id (fun u => by simp [hb, hn]) (fun f u => by simp [hf])

@[simp] theorem State.cohWrite_commits (a : Nat) : SameCommits (s.cohWrite a bs) s := by simp [State.cohWrite]

end

/-! #### Machine/EngineEnv -/

section
variable (s : State) (p : Nat → Bool)

@[simp] theorem State.clearCaches_commits : SameCommits (s.clearCaches p) s := by simp [State.clearCaches]
@[simp] theorem State.dropStream_commits (core : Nat) : SameCommits (s.dropStream core p) s := by simp [State.dropStream]
@[simp] theorem State.tally_commits (f : CycleCounts → CycleCounts) : SameCommits (s.tally f) s := by simp [State.tally]

@[simp] theorem State.countVoid_commits (e : EngEnv) (cand : Nat) : SameCommits (s.countVoid e cand) s := by
  simp [State.countVoid]

end

/-! #### Machine/CeExec -/

section
variable (s : State) (c : QCmd) (cand core : Nat) (r : VRec) (d : KeCmd) (miss : Option Nat)

@[simp] theorem State.verdictFlags_commits (lane : Nat) (early : Bool) :
    SameCommits (s.verdictFlags c lane cand r early) s := by
  simp [State.verdictFlags]

@[simp] theorem State.putVerdict_commits : SameCommits (s.putVerdict core d cand r) s := by simp [State.putVerdict]
@[simp] theorem State.checkCounts_commits (rs : List VRec) : SameCommits (s.checkCounts rs) s := by simp [State.checkCounts]
@[simp] theorem State.startLanes_commits : SameCommits (s.startLanes core d) s := by simp [State.startLanes]

@[simp] theorem State.laneStep_commits (e : EngEnv) (j : Nat) : SameCommits (s.laneStep e core d c miss j) s := by
  unfold State.laneStep
  repeat' split
  all_goals simp

@[simp] theorem State.checkStreamBody_commits : SameCommits (s.checkStreamBody core d miss c) s := by
  unfold State.checkStreamBody
  split <;> simp

@[simp] theorem State.retireLane_commits : SameCommits (s.retireLane core cand) s := by
  unfold State.retireLane
  dsimp only
  repeat' split
  all_goals simp

@[simp] theorem State.checkStreamEnd_commits : SameCommits (s.checkStreamEnd core d c) s := by simp [State.checkStreamEnd]
@[simp] theorem State.checkFailed_commits : SameCommits (s.checkFailed core d c) s := by simp [State.checkFailed]

@[simp] theorem State.checkTrajBody_commits : SameCommits (s.checkTrajBody core d c) s := by
  unfold State.checkTrajBody
  split <;> simp

@[simp] theorem State.checkPosesBody_commits : SameCommits (s.checkPosesBody core d c) s := by
  unfold State.checkPosesBody
  split <;> simp

@[simp] theorem State.checkStream_commits (w : BitVec 128) (hw : HwEvent) :
    SameCommits (s.checkStream core w hw d miss) s :=
  State.streamRun_commits _ _ _ _ _ _ _ _ _ (by simp) (by simp) (by simp)

end

/-! #### Machine/KeExec -/

section
variable (s : State) (core : Nat) (d : KeCmd) (_c c : QCmd)

@[simp] theorem State.costFailed_commits : SameCommits (s.costFailed core d _c) s := by simp [State.costFailed]
@[simp] theorem State.putRecs_commits (rs : List (List Byte)) : SameCommits (s.putRecs core d rs) s := by simp [State.putRecs]

@[simp] theorem State.costFlags_commits (cand : Nat) (q : Partial) : SameCommits (s.costFlags c cand q) s := by
  simp [State.costFlags]

@[simp] theorem State.costNext_commits (e : EngEnv) : SameCommits (s.costNext e core d c) s := by
  unfold State.costNext
  dsimp only
  split <;> simp

@[simp] theorem State.costStreamBody_commits : SameCommits (s.costStreamBody core d c) s := by
  unfold State.costStreamBody
  split <;> simp

@[simp] theorem State.costStreamEnd_commits : SameCommits (s.costStreamEnd core d _c) s := by simp [State.costStreamEnd]

@[simp] theorem State.costTrajBody_commits : SameCommits (s.costTrajBody core d c) s := by
  unfold State.costTrajBody
  split <;> simp

@[simp] theorem State.costFinalBody_commits : SameCommits (s.costFinalBody core d c) s := by
  unfold State.costFinalBody
  split <;> simp

end

/-! #### Machine/PeExec -/

section
variable (s : State) (core cand : Nat) (d : PeCmd) (c : QCmd)

@[simp] theorem State.putSlot_commits (nsamp slot : Nat) (ps : List Sample) :
    SameCommits (s.putSlot core d nsamp cand slot ps) s := by
  simp [State.putSlot]

@[simp] theorem State.expandNext_commits (e : EngEnv) (gen : State → Nat → List Sample) :
    SameCommits (s.expandNext e core d c gen) s := by
  simp [State.expandNext]

@[simp] theorem State.expandBody_commits (gen : EngEnv → State → Nat → List Sample) :
    SameCommits (s.expandBody core d gen c) s := by
  unfold State.expandBody
  split <;> simp

@[simp] theorem State.expandEnd_commits (fault : Bool) (_c : QCmd) : SameCommits (s.expandEnd core d fault _c) s := by
  simp [State.expandEnd]

@[simp] theorem State.keepPathSat_commits (sat : Bool) : SameCommits (s.keepPathSat core cand sat) s := by
  simp [State.keepPathSat]

@[simp] theorem State.buildPathBody_commits : SameCommits (s.buildPathBody core d c) s := by
  unfold State.buildPathBody
  split <;> simp

@[simp] theorem State.rmSearchBody_commits : SameCommits (s.rmSearchBody core d c) s := by
  unfold State.rmSearchBody
  split <;> simp

end

/-! #### Machine/QeExec -/

section
variable (s : State) (core : Nat) (d : QeCmd) (c : QCmd) (e : EngEnv) (t : Template) (ev : SolveEv) (late : Option Nat)
    (retried : Bool)

@[simp] theorem State.dropCand_commits (kind : Nat) : SameCommits (s.dropCand kind) s := by simp [State.dropCand]

@[simp] theorem State.solveEnd_commits (o : SolveOrder) (r : QResult) : SameCommits (s.solveEnd core d c o r) s := by
  simp [State.solveEnd]

@[simp] theorem State.keepSolved_commits (cl : Nat) (x : Solved) (bytes : List Byte) :
    SameCommits (s.keepSolved cl d x bytes) s := by
  simp [State.keepSolved]

@[simp] theorem State.abftNumeric_commits (e : QEnd) : SameCommits (s.abftNumeric core e) s := by simp [State.abftNumeric]

@[simp] theorem State.solveGeo_commits : SameCommits (s.solveGeo e t core d ev late c) s := by
  unfold State.solveGeo
  dsimp only
  repeat' split
  all_goals simp

@[simp] theorem State.solveTs_commits : SameCommits (s.solveTs e t core d ev late c) s := by
  unfold State.solveTs
  dsimp only
  repeat' split
  all_goals simp

@[simp] theorem State.solveBody_commits : SameCommits (s.solveBody core d ev late c) s := by
  unfold State.solveBody
  repeat' split
  all_goals simp

@[simp] theorem State.emitBody_commits : SameCommits (s.emitBody core d retried c) s := by
  unfold State.emitBody
  dsimp only
  repeat' split
  all_goals simp

@[simp] theorem State.keyBody_commits : SameCommits (s.keyBody core d retried c) s := by
  unfold State.keyBody
  split <;> simp

end

/-! #### Machine/SeExec -/

section
variable (s : State) (core n : Nat) (d : SeCmd) (c : QCmd) (retried : Bool)

@[simp] theorem State.seFinish_commits (l : SList) : SameCommits (s.seFinish core d c l retried) s := by simp [State.seFinish]
@[simp] theorem State.seFailed_commits : SameCommits (s.seFailed core d c n) s := by simp [State.seFailed]
@[simp] theorem State.seFault_commits : SameCommits (s.seFault core d c n) s := by simp [State.seFault]

@[simp] theorem State.selectBody_commits : SameCommits (s.selectBody core d retried c) s := by
  unfold State.selectBody
  split <;> simp

@[simp] theorem State.mergeBody_commits : SameCommits (s.mergeBody core d retried c) s := by simp [State.mergeBody]

end

/-! #### Machine/SeqOps -/

section
variable (s : State) (c t code step cand : Nat) (st : SeqStep) (cause : Option Fault0)

@[simp] theorem State.mapThr_commits (f : Thread → Thread) : SameCommits (s.mapThr c t f) s := by simp [State.mapThr]
@[simp] theorem State.report_commits : SameCommits (s.report c st) s := by simp [State.report]
@[simp] theorem State.goStep_commits (n : Nat) : SameCommits (s.goStep c t n) s := by simp [State.goStep]
@[simp] theorem State.endStep_commits : SameCommits (s.endStep c t st) s := by simp [State.endStep]
@[simp] theorem State.hubStale_commits (epoch : Nat) : SameCommits (s.hubStale epoch) s := by simp [State.hubStale]

@[simp] theorem State.contextLost_commits (x : Thread) (phase : Nat) : SameCommits (s.contextLost c t x phase) s := by
  simp [State.contextLost]

theorem State.pushFrame_commits {s u : State} {c t reason : Nat} {x : Thread} (h : s.pushFrame c t reason x = some u) :
    SameCommits u s := by
  unfold State.pushFrame at h
  split at h
  · cases h
  · split at h
    · cases h
      simp
    · cases h

@[simp] theorem State.endThread_commits : SameCommits (s.endThread c t) s := by
  unfold State.endThread
  split
  · simp
  · split
    · simp
    · split
      · simp
      · next h => simp [State.pushFrame_commits h]

@[simp] theorem State.stepFault_commits : SameCommits (s.stepFault c t code step cause) s := by simp [State.stepFault]

@[simp] theorem State.divert_commits (dest : Nat) : SameCommits (s.divert c t step dest) s := by
  unfold State.divert
  split <;> simp

@[simp] theorem State.retireVoid_commits (core : Nat) : SameCommits (s.retireVoid core cand) s := by simp [State.retireVoid]

@[simp] theorem State.react_commits (slot lane : Nat) : SameCommits (s.react c t step slot code lane cand cause) s := by
  unfold State.react
  repeat' split
  all_goals simp

@[simp] theorem State.raise_commits : SameCommits (s.raise c t step code) s := by simp [State.raise]

end

/-! #### Machine/CycleOps -/

section
variable (s : State) (d : Nat)

@[simp] theorem State.rejoinDies_commits : SameCommits s.rejoinDies s := by simp [State.rejoinDies]
@[simp] theorem State.thermHold_commits : SameCommits s.thermHold s := by simp [State.thermHold]
@[simp] theorem State.newFloor_commits : SameCommits s.newFloor s := by simp [State.newFloor]

@[simp] theorem State.placeCopies_commits : SameCommits (s.placeCopies d) s := by
  unfold State.placeCopies
  dsimp only
  repeat' split
  all_goals simp

@[simp] theorem State.loadCore_commits (c : Nat) (e : CoreEntry) : SameCommits (s.loadCore d c e) s := by simp [State.loadCore]
@[simp] theorem State.loadDie_commits : SameCommits (s.loadDie d) s := by simp [State.loadDie]
@[simp] theorem State.loadTables_commits : SameCommits s.loadTables s := by simp [State.loadTables]
@[simp] theorem State.takeUp_commits (ds : List Nat) : SameCommits (s.takeUp ds) s := by simp [State.takeUp]

@[simp] theorem State.chooseArmature_commits : SameCommits s.chooseArmature s := by
  unfold State.chooseArmature
  split <;> simp

@[simp] theorem State.boundary_commits : SameCommits s.boundary s := by simp [State.boundary]
@[simp] theorem State.applyPatches_commits : SameCommits s.applyPatches s := by simp [State.applyPatches]
@[simp] theorem State.wrapEpoch_commits : SameCommits s.wrapEpoch s := by simp [State.wrapEpoch]

end

section
variable (s : State) (i : Image) (e : Ego) (d : Desc) (a : Armature) (c : Cycle)

@[simp] theorem State.snap_commits (w : Nat) : SameCommits (s.snap i w e) s := by simp [State.snap]

@[simp] theorem State.saveThreads_commits (d : Nat) : SameCommits (s.saveThreads d) s := by
  unfold State.saveThreads
  refine foldl_commits (fun u k => ?_) _ _
  dsimp only
  split
  · split
    · split
      · next h => simp [State.pushFrame_commits h]
      · simp
    · simp
  · simp

@[simp] theorem State.releaseDus_commits (ds : List Nat) : SameCommits (s.releaseDus ds) s := by
  unfold State.releaseDus
  refine foldl_commits (fun u d => ?_) _ _
  dsimp only
  split <;> simp

@[simp] theorem State.beginCycle_commits : SameCommits (s.beginCycle d i a e) s := by simp [State.beginCycle]

@[simp] theorem State.releaseCycle_commits : SameCommits (s.releaseCycle d) s := by
  unfold State.releaseCycle
  repeat' split
  all_goals simp

@[simp] theorem State.refreshEdges_commits : SameCommits (s.refreshEdges c) s := by
  unfold State.refreshEdges
  split <;> simp

@[simp] theorem State.placeSplice_commits : SameCommits (s.placeSplice c) s := by
  unfold State.placeSplice
  repeat' split
  all_goals simp

@[simp] theorem State.writeSheet_commits : SameCommits (s.writeSheet c i a) s := by simp [State.writeSheet]
@[simp] theorem State.verifyFault_commits : SameCommits s.verifyFault s := by simp [State.verifyFault]
@[simp] theorem State.endEmpty_commits : SameCommits (s.endEmpty c) s := by simp [State.endEmpty]

/-- The Fix phase raises COMMIT_COUNT by one (R278, R283). -/
theorem State.fix_commits (p q : Emitted) :
    (s.fix c i a e p q).aon.ctr.commits = s.aon.ctr.commits + 1 := by
  simp [State.fix, State.committed]

end

/-! #### Machine/RingOps -/

section
variable (s : State) (r : Ring) (e : RingError) (n off be : Nat) (c : Compl)

@[simp] theorem State.ringFailed_commits : SameCommits (s.ringFailed r e) s := by simp [State.ringFailed]

@[simp] theorem State.ringError_commits : SameCommits (s.ringError n e) s := by
  unfold State.ringError
  split <;> simp

@[simp] theorem State.readDoorbell_commits : SameCommits (s.readDoorbell n).1 s := by
  unfold State.readDoorbell
  dsimp only
  repeat' split
  all_goals simp

@[simp] theorem State.readDoorbells_commits (s : State) (ns : List Nat) : SameCommits (s.readDoorbells ns).1 s := by
  unfold State.readDoorbells
  generalize false = b
  induction ns generalizing s b with
  | nil => simp
  | cons n r ih => exact (ih (s.readDoorbell n).1 _).trans (State.readDoorbell_commits s n)

@[simp] theorem State.pollPeriod_commits (find : Bool) : SameCommits (s.pollPeriod find) s := by simp [State.pollPeriod]

@[simp] theorem State.poll_commits (lo hi : Nat) : SameCommits (s.poll lo hi) s := by
  unfold State.poll
  dsimp only
  split <;> simp

@[simp] theorem State.startDesc_commits (d : Desc) : SameCommits (s.startDesc d) s := by simp [State.startDesc]

@[simp] theorem State.fetchFrom_commits : SameCommits (s.fetchFrom r) s := by
  unfold State.fetchFrom
  dsimp only
  repeat' split
  all_goals simp

theorem State.take_commits {s u : State} {op : Nat} {d : Desc} (h : s.take op = some (d, u)) : SameCommits u s := by
  unfold State.take at h
  obtain ⟨x, -, hx⟩ := Option.map_eq_some_iff.1 h
  cases hx
  simp

@[simp] theorem State.retire_commits : SameCommits (s.retire c) s := by simp [State.retire]

@[simp] theorem State.writeCompl_commits : SameCommits (s.writeCompl c) s := by
  unfold State.writeCompl
  split <;> simp

@[simp] theorem State.loadFailed_commits (ring : Nat) (c : LoadCause) : SameCommits (s.loadFailed ring c) s := by
  simp [State.loadFailed]

@[simp] theorem State.regFault_commits (cause : Nat) : SameCommits (s.regFault off be cause) s := by simp [State.regFault]
@[simp] theorem State.holdWrite_commits (v : Nat) : SameCommits (s.holdWrite off be v) s := by simp [State.holdWrite]

end

/-! #### Machine/DescExec -/

section
variable (d : Desc) (s : State)

@[simp] theorem State.worldUpdate_commits : SameCommits (State.worldUpdate d s) s := by
  unfold State.worldUpdate
  repeat' split
  all_goals simp

@[simp] theorem State.queueCycle_commits : SameCommits (s.queueCycle d) s := by simp [State.queueCycle]

end

/-! #### Machine/LoadOps -/

section
variable (s : State)

@[simp] theorem State.mapStaged_commits (d : Desc) (f : Staged → Staged) : SameCommits (s.mapStaged d f) s := by
  simp [State.mapStaged]

@[simp] theorem State.loadFail_commits (o : LongOp) (r : Option Refused) : SameCommits (s.loadFail o r) s := by
  unfold State.loadFail
  split <;> simp

/-- The number of units and the read stand for opaque functions while the unit's branches are taken apart: their chunk of
16 MiB is a numeral that the kernel would count down in unary. -/
theorem State.fetchUnit_commits {s u : State} {o : LongOp} (h : s.fetchUnit o = .next u) : SameCommits u s := by
  obtain ⟨unit, hunit⟩ : ∃ f, f = State.fetchUnit := ⟨_, rfl⟩
  obtain ⟨units, hunits⟩ : ∃ f, f = loadUnits := ⟨_, rfl⟩
  obtain ⟨read, hread⟩ : ∃ f, f = State.hostReadN := ⟨_, rfl⟩
  rw [← hunit] at h
  delta State.fetchUnit at hunit
  rw [← hunits, ← hread] at hunit
  subst hunit
  dsimp only at h
  split at h
  · cases h
  · split at h <;> cases h
    simp

theorem State.unpackUnit_commits {s u : State} {o : LongOp} (h : s.unpackUnit o = .next u) : SameCommits u s := by
  unfold State.unpackUnit at h
  dsimp only at h
  split at h
  · cases h
    simp
  · split at h <;> cases h
    simp

theorem State.checkUnit_commits {s u : State} {o : LongOp} (h : s.checkUnit o = .next u) : SameCommits u s := by
  unfold State.checkUnit at h
  dsimp only at h
  split at h
  · cases h
  · split at h
    · cases h
      simp
    · split at h <;> cases h
      simp

@[simp] theorem State.loadUnit_commits (o : LongOp) : SameCommits (s.loadUnit o) s := by
  unfold State.loadUnit
  dsimp only
  split
  · simp
  · simp
  · next u h =>
    have hu : SameCommits u s := by
      split at h
      · exact State.fetchUnit_commits h
      · exact State.fetchUnit_commits h
      · exact State.unpackUnit_commits h
      · exact State.checkUnit_commits h
      · cases h
        simp
    simp [hu]

@[simp] theorem State.cancelGrowth_commits : SameCommits s.cancelGrowth s := by simp [State.cancelGrowth]

end

/-! #### Machine/LongExec -/

section
variable (s : State) (o : LongOp) (d : Nat)

@[simp] theorem State.startLong_commits : SameCommits (s.startLong o) s := by simp [State.startLong]

@[simp] theorem State.stopOp_commits (d : Desc) : SameCommits (s.stopOp d) s := by
  unfold State.stopOp
  repeat' split
  all_goals simp

@[simp] theorem State.scrubFound_commits (cls : OpClass) : SameCommits (s.scrubFound cls d) s := by
  unfold State.scrubFound
  split <;> simp

@[simp] theorem State.ledgerUnit_commits : SameCommits (s.ledgerUnit o) s := by simp [State.ledgerUnit]

@[simp] theorem State.afterUnit_commits (d : Desc) : SameCommits (s.afterUnit d) s := by
  unfold State.afterUnit
  split <;> simp

@[simp] theorem State.countUnit_commits (good : Bool) : SameCommits (s.countUnit o good) s := by
  unfold State.countUnit
  repeat' split
  all_goals simp

@[simp] theorem State.checkpointOp_commits (ev : CkEvent) : SameCommits (s.checkpointOp o ev) s := by
  unfold State.checkpointOp
  split <;> simp

@[simp] theorem State.takeDie_commits (why : OutOf) : SameCommits (s.takeDie o d why) s := by simp [State.takeDie]

@[simp] theorem State.flushDie_commits : SameCommits (s.flushDie d) s :=
  foldl_commits (fun _ _ => by rfl) _ _

@[simp] theorem State.wipeDie_commits : SameCommits (s.wipeDie d) s := by simp [State.wipeDie]

@[simp] theorem State.dieReady_commits : SameCommits (s.dieReady d) s := by
  unfold State.dieReady
  dsimp only
  split <;> simp

end

/-! #### Machine/StartOps -/

section
variable (s : State) (d : Nat) (c : FenceCause)

@[simp] theorem State.fatalStart_commits (f : Fault0) : SameCommits (s.fatalStart f) s := by simp [State.fatalStart]
@[simp] theorem State.dieServe_commits (v : DieServe) : SameCommits (s.dieServe d v) s := by simp [State.dieServe]

@[simp] theorem State.checkReports_commits : SameCommits s.checkReports s := by
  unfold State.checkReports
  refine foldl_commits (fun u x => ?_) _ _
  split <;> simp

@[simp] theorem State.decideCapacity_commits : SameCommits s.decideCapacity s := by simp [State.decideCapacity]
@[simp] theorem State.decideLinks_commits : SameCommits s.decideLinks s := by simp [State.decideLinks]
@[simp] theorem State.enterService_commits : SameCommits s.enterService s := by simp [State.enterService]
@[simp] theorem State.ready_commits : SameCommits s.ready s := by simp [State.ready]
@[simp] theorem State.settle_commits : SameCommits s.settle s := by simp [State.settle]
@[simp] theorem State.fenceStart_commits : SameCommits (s.fenceStart d c) s := by simp [State.fenceStart]
@[simp] theorem State.latentFence_commits (row : Nat) : SameCommits (s.latentFence d row) s := by simp [State.latentFence]
@[simp] theorem State.presenceFail_commits (p : Presence) : SameCommits (s.presenceFail d p c) s := by simp [State.presenceFail]

end

/-! #### Machine/PowerOps -/

section
variable (s : State)

@[simp] theorem State.suspendAll_commits : SameCommits s.suspendAll s := by
  unfold State.suspendAll
  refine foldl_commits (fun u x => ?_) _ _
  split <;> simp

@[simp] theorem State.suspendAllN_commits (s : State) (n : Nat) : SameCommits (s.suspendAllN n) s := by
  induction n generalizing s with
  | zero => simp [State.suspendAllN]
  | succ n ih => exact (ih s.suspendAll).trans s.suspendAll_commits

@[simp] theorem State.askIdle_commits : SameCommits s.askIdle s := by simp [State.askIdle]
@[simp] theorem State.flushAll_commits : SameCommits s.flushAll s := by simp [State.flushAll]
@[simp] theorem State.wake_commits : SameCommits s.wake s := by simp [State.wake]

@[simp] theorem State.powerDone_commits (p : PState) : SameCommits (s.powerDone p) s := by
  unfold State.powerDone
  split <;> simp

end

/-! #### Machine/ClockExec -/

section
variable (s : State)

@[simp] theorem State.thermFatal_commits : SameCommits s.thermFatal s := by simp [State.thermFatal]
@[simp] theorem State.evalHot_commits : SameCommits s.evalHot s := by simp [State.evalHot]
@[simp] theorem State.evalCool_commits : SameCommits s.evalCool s := by simp [State.evalCool]

@[simp] theorem State.pmbTarget_commits (t : Nat) (r : Option PmbRead) : SameCommits (s.pmbTarget t r) s := by
  unfold State.pmbTarget
  split <;> simp

end

/-! #### Machine/CoherenceExec -/

section
variable (s : State) (req line : Nat)

@[simp] theorem State.homeRequest_commits (k : HomeReqKind) : SameCommits (s.homeRequest req line k) s := by
  unfold State.homeRequest
  split <;> simp

@[simp] theorem State.poisonIn_commits (cl : Nat) (m : CohMsg) : SameCommits (s.poisonIn cl line m) s := by
  simp [State.poisonIn]

@[simp] theorem State.accessError_commits : SameCommits (s.accessError req line) s := by simp [State.accessError]

end

/-! #### Machine/Movers -/

section
variable (s : State) (a cl : Nat) (c : QCmd) (m : MvCmd) (e : Engine)

@[simp] theorem State.moverWrite_commits (bs : List Byte) : SameCommits (s.moverWrite a bs) s := by simp [State.moverWrite]

@[simp] theorem State.moverFails_commits (cause : Option Fault0) : SameCommits (s.moverFails c cl m cause) s := by
  simp [State.moverFails]

@[simp] theorem State.moverFault_commits : SameCommits (s.moverFault c cl e m a) s := by simp [State.moverFault]
@[simp] theorem State.moverPoison_commits (n : Nat) : SameCommits (s.moverPoison c cl e m a n) s := by simp [State.moverPoison]
@[simp] theorem State.moverError_commits : SameCommits (s.moverError c cl m) s := by simp [State.moverError]
@[simp] theorem State.copyBody_commits : SameCommits (s.copyBody c cl e m) s := by simp [State.copyBody]
@[simp] theorem State.fillBody_commits : SameCommits (s.fillBody c cl e m) s := by simp [State.fillBody]

@[simp] theorem State.atomicBody_commits (bytes : Nat) (add : Bool) : SameCommits (s.atomicBody c cl e m bytes add) s := by
  simp [State.atomicBody]

end

/-! #### Machine/CycleExec -/

section
variable (s : State) (c : Cycle) (i : Image) (a : Armature) (hw : HwEvent) (ls : List HubList) (entry pass src epoch : Nat)
    (bytes : List Byte)

@[simp] theorem State.nextPhase_commits : SameCommits (s.nextPhase c) s := by simp [State.nextPhase]
@[simp] theorem State.endSnapshot_commits : SameCommits (s.endSnapshot c) s := by simp [State.endSnapshot]
@[simp] theorem State.endEnlarge_commits : SameCommits (s.endEnlarge c) s := by simp [State.endEnlarge]

@[simp] theorem State.endGenerate_commits : SameCommits (s.endGenerate c) s := by
  unfold State.endGenerate
  dsimp only
  repeat' split
  all_goals simp

@[simp] theorem State.endSelect_commits : SameCommits (s.endSelect c i a) s := by
  unfold State.endSelect
  dsimp only
  split <;> simp

@[simp] theorem State.endRecheck_commits : SameCommits (s.endRecheck c a) s := by simp [State.endRecheck]
@[simp] theorem State.endProof_commits (e : Ego) : SameCommits (s.endProof c i a e) s := by simp [State.endProof]

@[simp] theorem State.le_endFix_commits (e : Ego) {n : Nat} (h : n ≤ s.aon.ctr.commits) :
    n ≤ (s.endFix c i a e).aon.ctr.commits := by
  unfold State.endFix
  split
  · exact h.trans (by simp [State.fix_commits])
  · simpa using h

@[simp] theorem State.lockstep_commits (phase : Nat) : SameCommits (s.lockstep phase hw) s := by
  unfold State.lockstep
  dsimp only
  split <;> simp

@[simp] theorem State.muFail_commits (sp : SelSpec) (n : Nat) : SameCommits (s.muFail sp n ls) s := by simp [State.muFail]

@[simp] theorem State.muRun_commits (e : SelEntry) : SameCommits (s.muRun c e entry pass hw ls) s := by
  unfold State.muRun
  split <;> simp

@[simp] theorem State.listIn_commits : SameCommits (s.listIn src epoch entry pass bytes) s := by
  unfold State.listIn
  split <;> simp

@[simp] theorem State.dualIn_commits (cl off : Nat) : SameCommits (s.dualIn epoch cl off bytes) s := by
  unfold State.dualIn
  split <;> simp

@[simp] theorem State.bulkWrite_commits (da : Nat) : SameCommits (s.bulkWrite src da bytes) s := by simp [State.bulkWrite]

end

/-! #### Machine/DeExec -/

section
variable (s : State) (die satrec satstat big cl : Nat) (d : DeCmd) (c : QCmd)

@[simp] theorem State.broadcast_commits (off : Nat) (bs : List Byte) : SameCommits (s.broadcast die off bs) s := by
  simp [State.broadcast]

@[simp] theorem State.deCounts_commits : SameCommits (s.deCounts die satrec satstat big) s := by simp [State.deCounts]

@[simp] theorem State.deFinish_commits (tiles : Nat) (sat : Bool) :
    SameCommits (s.deFinish cl d c tiles satrec satstat big sat) s := by
  simp [State.deFinish]

@[simp] theorem State.cspaceBody_commits : SameCommits (s.cspaceBody cl d c) s := by
  unfold State.cspaceBody
  split <;> simp

@[simp] theorem State.occBody_commits : SameCommits (s.occBody cl d c) s := by
  unfold State.occBody
  split <;> simp

@[simp] theorem State.staticBody_commits : SameCommits (s.staticBody cl d c) s := by
  unfold State.staticBody
  split <;> simp

end

/-! #### Machine/SeqExec -/

section
variable (s : State) (c t : Nat) (st : SeqStep)

@[simp] theorem State.tryEnd_commits (x : Thread) : SameCommits (s.tryEnd c t x st) s := by simp [State.tryEnd]
@[simp] theorem State.markStarted_commits : SameCommits (s.markStarted c t) s := by simp [State.markStarted]

@[simp] theorem State.issueSlot_commits (n : Nat) (i : Nat) : SameCommits (s.issueSlot c t n st i).1 s := by
  unfold State.issueSlot
  dsimp only
  repeat' split
  all_goals simp

@[simp] theorem State.issueAll_commits (s : State) (c t n : Nat) (st : SeqStep) :
    SameCommits (s.issueAll c t n st).1 s := by
  unfold State.issueAll
  generalize (false, false) = b
  induction List.range 4 generalizing s b with
  | nil => simp
  | cons i r ih =>
    rw [List.foldl_cons]
    split
    · exact ih s b
    · exact (ih _ _).trans (State.issueSlot_commits ..)

end

/-! #### Machine/DuExec -/

section
variable (s : State) (d : Nat) (g : DuCfg) (m : Msg) (k : GrantCand)

@[simp] theorem State.grantRec_commits (core thread item : Nat) (dyn : Bool) (arg : Nat) (m : Option (Nat × Nat)) :
    SameCommits (s.grantRec d g core thread item dyn arg m) s := by
  simp [State.grantRec]

@[simp] theorem State.grantItem_commits (h : Held) : SameCommits (s.grantItem d g k h) s := by
  unfold State.grantItem
  dsimp only
  repeat' split
  all_goals simp

@[simp] theorem State.preempt_commits (core : Nat) : SameCommits (s.preempt core) s := by
  unfold State.preempt
  split
  · simp
  · split
    · simp
    · next h => simp [State.pushFrame_commits h]

@[simp] theorem State.grantThread_commits : SameCommits (s.grantThread d g k) s := by
  unfold State.grantThread
  dsimp only
  split <;> simp

@[simp] theorem State.outcome_commits (flag : Option Nat) : SameCommits (s.outcome m flag) s := by
  unfold State.outcome
  repeat' split
  all_goals simp

@[simp] theorem State.traceMsg_commits (c : Cycle) : SameCommits (s.traceMsg c m) s := by
  unfold State.traceMsg
  split <;> simp

@[simp] theorem State.deliverHub_commits : SameCommits (s.deliverHub m) s := by
  unfold State.deliverHub
  repeat' split
  all_goals simp

@[simp] theorem State.deliverDie_commits : SameCommits (s.deliverDie d m) s := by
  unfold State.deliverDie
  dsimp only
  repeat' split
  all_goals simp

end

/-! #### Machine/LinkExec -/

section
variable (s : State) (l e : Nat) (f : Flit)

@[simp] theorem State.linkLoss_commits : SameCommits (s.linkLoss l) s := by simp [State.linkLoss]
@[simp] theorem State.linkRecovery_commits : SameCommits (s.linkRecovery l) s := by simp [State.linkRecovery]
@[simp] theorem State.replayFrom_commits : SameCommits (s.replayFrom l e) s := by simp [State.replayFrom]

@[simp] theorem State.packetFlit_commits : SameCommits (s.packetFlit l e f) s := by
  unfold State.packetFlit
  repeat' split
  all_goals simp

@[simp] theorem State.flitTaken_commits : SameCommits (s.flitTaken l e f) s := by simp [State.flitTaken]

end

/-! #### Machine/RegOps -/

section
variable (s : State) (off : Nat)

@[simp] theorem State.readReg_commits : SameCommits (s.readReg off) s := by
  unfold State.readReg
  split <;> simp

@[simp] theorem State.busRead_commits : SameCommits (s.busRead off) s := by simp [State.busRead]

end

/-! #### Machine/RestartOps -/

section
variable (s : State) (cl d : Nat)

@[simp] theorem State.restartBegin_commits (u : RUnit) : SameCommits (s.restartBegin u) s := by
  unfold State.restartBegin
  split <;> simp

@[simp] theorem State.clearCluster_commits : SameCommits (s.clearCluster cl) s := by simp [State.clearCluster]
@[simp] theorem State.resetCluster_commits : SameCommits (s.resetCluster cl) s := by simp [State.resetCluster]
@[simp] theorem State.dropHomed_commits : SameCommits (s.dropHomed d) s := by simp [State.dropHomed]
@[simp] theorem State.retrainLinks_commits : SameCommits (s.retrainLinks d) s := by simp [State.retrainLinks]

/-- The outer updates are taken off by name: unfolded together with them, the wiped regions' sizes are numerals that the
kernel would count down in unary. -/
@[simp] theorem State.resetDie_commits : SameCommits (s.resetDie d) s := by
  rw [SameCommits, State.resetDie, State.mapDie_aon, State.mapDu_aon]
  simp

@[simp] theorem State.dropDescs_commits : SameCommits s.dropDescs s := by simp [State.dropDescs]

@[simp] theorem State.resetHub_commits (held : Bool) (lost : List Nat) : SameCommits (s.resetHub held lost) s := by
  simp [State.resetHub]

@[simp] theorem State.rereadContexts_commits : SameCommits s.rereadContexts s := by simp [State.rereadContexts]
@[simp] theorem State.dieBack_commits : SameCommits (s.dieBack d) s := by simp [State.dieBack]

end

/-! #### Machine/SafetyExec -/

section
variable (s : State) (cl k len d vc : Nat)

@[simp] theorem State.cutOp_commits (p : LongOp → Bool) : SameCommits (s.cutOp p) s := by
  unfold State.cutOp
  split <;> simp

@[simp] theorem State.cutQe_commits (core : Nat) : SameCommits (s.cutQe core) s := by
  unfold State.cutQe
  split <;> simp

@[simp] theorem State.cutMover_commits (mv : Nat) : SameCommits (s.cutMover cl mv) s := by
  unfold State.cutMover
  split <;> simp

@[simp] theorem State.holdQe_commits : SameCommits (s.holdQe cl k len) s := by simp [State.holdQe]

@[simp] theorem State.fillFails_commits (f : Fault0) : SameCommits (s.fillFails cl f) s := by
  unfold State.fillFails
  dsimp only
  split <;> simp

@[simp] theorem State.holdLpddr_commits : SameCommits (s.holdLpddr d k len) s := by
  unfold State.holdLpddr
  dsimp only
  repeat' split
  all_goals simp

@[simp] theorem State.loseMsg_commits (sender : Nat) : SameCommits (s.loseMsg sender) s := by
  unfold State.loseMsg
  split <;> simp

@[simp] theorem State.loseCoh_commits (x : Nat) (f : FClass → Loc → Fault0) (loc : Loc) :
    SameCommits (s.loseCoh x d vc f loc) s := by
  unfold State.loseCoh
  dsimp only
  split <;> simp

@[simp] theorem State.holdUtx_commits (inst : Nat) : SameCommits (s.holdUtx inst vc len) s := by simp [State.holdUtx]
@[simp] theorem State.holdPcie_commits : SameCommits (s.holdPcie k len) s := by simp [State.holdPcie]
@[simp] theorem State.holdLed_commits : SameCommits (s.holdLed k len) s := by simp [State.holdLed]

end

/-! #### Machine/SmiExec -/

section
variable (s : State) (rstat addr data : Nat)

@[simp] theorem State.smiAnswer_commits : SameCommits (s.smiAnswer rstat addr data) s := by simp [State.smiAnswer]
@[simp] theorem State.smiLatch_commits : SameCommits (s.smiLatch addr) s := by simp [State.smiLatch]

end

/-! #### Machine/StartExec -/

@[simp] theorem State.trained_commits (s : State) (d : Nat) (rec : List Byte) : SameCommits (s.trained d rec) s := by
  simp [State.trained]

/-! #### Machine/Tick -/

section
variable (s : State)

@[simp] theorem State.moveDeadlines_commits (delta : Int) : SameCommits (s.moveDeadlines delta) s := by
  simp [State.moveDeadlines]

@[simp] theorem State.slewMoves_commits : SameCommits s.slewMoves s := by
  unfold State.slewMoves
  split <;> simp

end

/-! #### Machine/TimeExec -/

section
variable (s : State) (delta : Int) (d : Desc)

@[simp] theorem State.stepTime_commits : SameCommits (s.stepTime delta) s := by simp [State.stepTime]
@[simp] theorem State.setCalendar_commits : SameCommits (s.setCalendar d) s := by simp [State.setCalendar]

end

/-! #### Resets, the ring table, activation, power states -/

section
variable (s : State) (p : PState)

@[simp] theorem State.powerOn_commits (low : Bool) : SameCommits (s.powerOn low) s := rfl

@[simp] theorem State.functionReset_commits : SameCommits s.functionReset s := by simp [State.functionReset]

@[simp] theorem State.loadTable_commits : SameCommits s.loadTable s := by
  unfold State.loadTable
  dsimp only
  repeat' split
  all_goals simp

@[simp] theorem State.clearPlanning_commits : SameCommits s.clearPlanning.1 s := rfl

@[simp] theorem State.activate_commits (o : LongOp) (i : Image) : SameCommits (s.activate o i) s := by
  unfold State.activate
  split <;> simp

@[simp] theorem State.unload_commits : SameCommits s.unload s := by simp [State.unload]
@[simp] theorem State.diesOff_commits : SameCommits s.diesOff s := by simp [State.diesOff]

@[simp] theorem State.powerAct_commits : SameCommits (s.powerAct p) s := by
  unfold State.powerAct
  split <;> simp

@[simp] theorem State.powerBegin_commits : SameCommits (s.powerBegin p) s := by simp [State.powerBegin]
@[simp] theorem State.powerTo_commits : SameCommits (s.powerTo p) s := by simp [State.powerTo]
@[simp] theorem State.powerReq_commits : SameCommits (s.powerReq p) s := by simp [State.powerReq]

@[simp] theorem State.powerNext_commits : SameCommits s.powerNext s := by
  unfold State.powerNext
  repeat' split
  all_goals simp

end

/-! #### Register writes -/

section
variable (s : State) (off v be : Nat)

@[simp] theorem State.regPut_commits : SameCommits (s.regPut off v) s := by
  unfold State.regPut
  split <;> simp

@[simp] theorem State.regApply_commits : SameCommits (s.regApply off be v) s := s.regPut_commits _ _

@[simp] theorem State.dwordWrite_commits : SameCommits (s.dwordWrite off be v) s := by simp [State.dwordWrite]
@[simp] theorem State.busWrite_commits (dwords : Nat) : SameCommits (s.busWrite off dwords be v) s := by simp [State.busWrite]
@[simp] theorem State.applyHeld_commits : SameCommits s.applyHeld s := by simp [State.applyHeld]

@[simp] theorem State.restartEnd_commits (u : RUnit) : SameCommits (s.restartEnd u) s := by
  unfold State.restartEnd
  split <;> simp

theorem State.forceSafe_commits {s t : State} {v : Nat} (ht : s.forceSafe v = some t) : SameCommits t s := by
  unfold State.forceSafe at ht
  split at ht
  · cases ht
    rfl
  · split at ht <;> cases ht
    rfl

theorem State.smiPut_commits {s t : State} {addr v : Nat} (ht : s.smiPut addr v = some t) : SameCommits t s := by
  unfold State.smiPut State.lockSafety at ht
  split at ht
  · exact State.forceSafe_commits ht
  · obtain ⟨x, -, hx⟩ := Option.map_eq_some_iff.1 ht
    exact hx ▸ rfl
  · split at ht <;> cases ht
    rfl
  · split at ht <;> cases ht
    simp
  · split at ht <;> cases ht
    simp
  · cases ht

@[simp] theorem State.smiWriteTo_commits (addr : Nat) : SameCommits (s.smiWriteTo addr v) s := by
  unfold State.smiWriteTo
  repeat' split
  · rfl
  · simp
  · next ht => simp [State.smiPut_commits ht]
  · simp

end

end Sys2Proof.Machine

namespace Sys2Proof
open Sys2Proof.Machine

/-- Wherever the outcome `o` of a command in `s` leads, COMMIT_COUNT has not fallen. -/
def KeepsCommits (s : State) (o : Out) : Prop := ∀ t, o = .next t → s.aon.ctr.commits ≤ t.aon.ctr.commits

@[simp] theorem keepsCommits_next {s t : State} : KeepsCommits s (.next t) ↔ s.aon.ctr.commits ≤ t.aon.ctr.commits := by
  simp [KeepsCommits]

@[simp] theorem keepsCommits_fault {s : State} {f : Fault} : KeepsCommits s (.fault f) := by simp [KeepsCommits]

@[simp] theorem keepsCommits_ite {s : State} {c : Prop} [Decidable c] {o p : Out} :
    KeepsCommits s (if c then o else p) ↔ (c → KeepsCommits s o) ∧ (¬c → KeepsCommits s p) := by
  split <;> simp [*]

theorem serve_commits {s : State} {op : Nat} {f : Desc → State → State} (hf : ∀ d u, SameCommits (f d u) u) :
    KeepsCommits s (s.serve op f) := by
  unfold State.serve
  split
  · simp
  · next x hx => simp [hf, State.take_commits hx]

/-! ### Commands of the engines -/

section
variable {s : State} {core op : Nat} {w : BitVec 128} {hw : HwEvent}

@[simp] theorem State.ceRun_commits {body : KeCmd → QCmd → State → State} (hb : ∀ d c u, SameCommits (body d c u) u) :
    KeepsCommits s (s.ceRun core w hw op body) := by
  simp [State.ceRun, State.engineRun_commits, hb]

@[simp] theorem State.keRun_commits {body : KeCmd → QCmd → State → State} (hb : ∀ d c u, SameCommits (body d c u) u) :
    KeepsCommits s (s.keRun core w hw op body) := by
  simp [State.keRun, State.engineRun_commits, hb]

@[simp] theorem State.peRun_commits {body : PeCmd → QCmd → State → State} (hb : ∀ d c u, SameCommits (body d c u) u) :
    KeepsCommits s (s.peRun core w hw op body) := by
  simp [State.peRun, State.engineRun_commits, hb]

@[simp] theorem State.qeRun_commits {body : QeCmd → QCmd → State → State} (hb : ∀ d c u, SameCommits (body d c u) u) :
    KeepsCommits s (s.qeRun core w hw op body) := by
  simp [State.qeRun, State.engineRun_commits, hb]

@[simp] theorem State.seRun_commits {body : SeCmd → Bool → QCmd → State → State}
    (hb : ∀ d r c u, SameCommits (body d r c u) u) : KeepsCommits s (s.seRun core w hw op body) := by
  simp [State.seRun, State.engineRun_commits, hb]

@[simp] theorem State.deRun_commits {body : DeCmd → QCmd → State → State} (hb : ∀ d c u, SameCommits (body d c u) u) :
    KeepsCommits s (s.deRun core w hw op body) := by
  unfold State.deRun
  dsimp only
  split
  · simp
  · exact keepsCommits_next.2 (State.engineRun_commits _ _ _ _ _ _ _ _ id (hb _) fun _ _ _ => by rfl).ge

@[simp] theorem State.expandRun_commits {gen : PeCmd → EngEnv → State → Nat → List Sample} :
    KeepsCommits s (s.expandRun core w hw op gen) := by
  simp [State.expandRun, State.streamRun_commits]

@[simp] theorem State.moverRun_commits {cl : Cluster} {mv : Fin 2} {body : QCmd → MvCmd → State → State}
    (hb : ∀ c m u, SameCommits (body c m u) u) : KeepsCommits s (s.moverRun cl mv w hw op body) := by
  simp [State.moverRun, State.engineRun_commits, hb]

end

/-! ### The rows, in the order of their files -/

/-! #### Machine/CeExec, KeExec, PeExec, QeExec, SeExec -/

section
variable (core : Core) (w : BitVec 128) (hw : HwEvent) (s : State)

@[simp] theorem execCheckStream_commits : KeepsCommits s (execCheckStream core w hw s) := by
  unfold execCheckStream
  split <;> simp

@[simp] theorem execCheckTraj_commits : KeepsCommits s (execCheckTraj core w hw s) := by simp [execCheckTraj]
@[simp] theorem execCheckPoses_commits : KeepsCommits s (execCheckPoses core w hw s) := by simp [execCheckPoses]

@[simp] theorem execCostStream_commits : KeepsCommits s (execCostStream core w hw s) := by
  simp [execCostStream, State.streamRun_commits]

@[simp] theorem execCostTraj_commits : KeepsCommits s (execCostTraj core w hw s) := by simp [execCostTraj]
@[simp] theorem execCostFinal_commits : KeepsCommits s (execCostFinal core w hw s) := by simp [execCostFinal]

@[simp] theorem execExpandLib_commits : KeepsCommits s (execExpandLib core w hw s) := by simp [execExpandLib]
@[simp] theorem execExpandSeq_commits : KeepsCommits s (execExpandSeq core w hw s) := by simp [execExpandSeq]
@[simp] theorem execBuildPath_commits : KeepsCommits s (execBuildPath core w hw s) := by simp [execBuildPath]
@[simp] theorem execRmSearch_commits : KeepsCommits s (execRmSearch core w hw s) := by simp [execRmSearch]

@[simp] theorem execSolve_commits (late : Option Nat) : KeepsCommits s (execSolve core w hw late s) := by simp [execSolve]
@[simp] theorem execEmit_commits : KeepsCommits s (execEmit core w hw s) := by simp [execEmit]
@[simp] theorem execKey_commits : KeepsCommits s (execKey core w hw s) := by simp [execKey]

@[simp] theorem execSelect_commits : KeepsCommits s (execSelect core w hw s) := by simp [execSelect]
@[simp] theorem execMerge_commits : KeepsCommits s (execMerge core w hw s) := by simp [execMerge]

end

/-! #### Machine/SeqOps -/

@[simp] theorem execEngineFlag_commits (c : Core) (s : State) : KeepsCommits s (execEngineFlag c s) := by
  unfold execEngineFlag
  split <;> simp

/-! #### Machine/DescExec -/

section
variable (s : State)

@[simp] theorem execNop_commits : KeepsCommits s (execNop s) := serve_commits fun d u => by simp
@[simp] theorem execWorldLayerPatch_commits : KeepsCommits s (execWorldLayerPatch s) := serve_commits fun d u => by simp
@[simp] theorem execWorldObjects_commits : KeepsCommits s (execWorldObjects s) := serve_commits fun d u => by simp
@[simp] theorem execWorldStatic_commits : KeepsCommits s (execWorldStatic s) := serve_commits fun d u => by simp

@[simp] theorem execEgoState_commits : KeepsCommits s (execEgoState s) := by
  refine serve_commits fun d u => ?_
  repeat' split
  all_goals simp

@[simp] theorem execPlanCycle_commits : KeepsCommits s (execPlanCycle s) := serve_commits fun d u => by simp
@[simp] theorem execRetouchPlan_commits : KeepsCommits s (execRetouchPlan s) := serve_commits fun d u => by simp

@[simp] theorem execSuspend_commits : KeepsCommits s (execSuspend s) := by
  refine serve_commits fun d u => ?_
  split <;> simp

@[simp] theorem execResume_commits : KeepsCommits s (execResume s) := by
  refine serve_commits fun d u => ?_
  split <;> simp

@[simp] theorem execCancel_commits : KeepsCommits s (execCancel s) := by
  refine serve_commits fun d u => ?_
  split <;> simp

@[simp] theorem execQueryOp_commits : KeepsCommits s (execQueryOp s) := by
  refine serve_commits fun d u => ?_
  split <;> simp

end

/-! #### Machine/LongExec -/

section
variable (s : State) (d : Die)

@[simp] theorem execLoadImage_commits : KeepsCommits s (execLoadImage s) := serve_commits fun d u => by simp

@[simp] theorem execMaintStart_commits : KeepsCommits s (execMaintStart s) := by
  refine serve_commits fun d u => ?_
  split <;> simp

@[simp] theorem execRoadmapGrow_commits : KeepsCommits s (execRoadmapGrow s) := serve_commits fun d u => by simp
@[simp] theorem execLedgerRead_commits : KeepsCommits s (execLedgerRead s) := serve_commits fun d u => by simp

@[simp] theorem execLongopCheckpoint_commits (tag : Word64) (ev : CkEvent) :
    KeepsCommits s (execLongopCheckpoint tag ev s) := by
  unfold execLongopCheckpoint
  split <;> simp

@[simp] theorem execLongopDequeue_commits : KeepsCommits s (execLongopDequeue s) := by simp [execLongopDequeue]

@[simp] theorem execSelftestDie_commits : KeepsCommits s (execSelftestDie d s) := by
  unfold execSelftestDie
  dsimp only
  split <;> simp

@[simp] theorem execRetrainDie_commits : KeepsCommits s (execRetrainDie d s) := by
  unfold execRetrainDie
  dsimp only
  split <;> simp

@[simp] theorem execRetrainComplete_commits (ok : Bool) : KeepsCommits s (execRetrainComplete d ok s) := by
  simp [execRetrainComplete]

@[simp] theorem execImageActivation_commits : KeepsCommits s (execImageActivation s) := by
  unfold execImageActivation
  repeat' split
  all_goals simp

@[simp] theorem execUnloadImage_commits : KeepsCommits s (execUnloadImage s) := serve_commits fun d u => by simp

@[simp] theorem execPatchParams_commits : KeepsCommits s (execPatchParams s) := by
  refine serve_commits fun d u => ?_
  repeat' split
  all_goals simp

end

/-! #### Machine/ClockExec -/

section
variable (s : State)

@[simp] theorem execClockFault_commits (clk : Fin 8) (loc : Fin 9) : KeepsCommits s (execClockFault clk loc s) := by
  unfold execClockFault
  split <;> simp

@[simp] theorem execSupplyExcursion_commits (rail : Fin 24) (belowFloor full : Bool) :
    KeepsCommits s (execSupplyExcursion rail belowFloor full s) := by
  simp [execSupplyExcursion]

@[simp] theorem execThermalEvaluation_commits (sites : List (Fin 9 × Fin 16 × Int)) :
    KeepsCommits s (execThermalEvaluation sites s) := by
  unfold execThermalEvaluation
  repeat' split
  all_goals simp

@[simp] theorem execEclkStepChange_commits : KeepsCommits s (execEclkStepChange s) := by simp [execEclkStepChange]

@[simp] theorem execThermAlertChange_commits (level : Bool) : KeepsCommits s (execThermAlertChange level s) := by
  simp [execThermAlertChange]

@[simp] theorem execPmbusPollRound_commits (reads : List (Option PmbRead)) : KeepsCommits s (execPmbusPollRound reads s) := by
  simp [execPmbusPollRound]

end

/-! #### Machine/CoherenceExec -/

section
variable (cl : Cluster) (line off : Nat) (s : State) (bytes : List Byte) (req : Fin 98)

@[simp] theorem execGets_commits : KeepsCommits s (execGets cl line s) := by simp [execGets]
@[simp] theorem execGetm_commits : KeepsCommits s (execGetm cl line off bytes s) := by simp [execGetm]
@[simp] theorem execPutm_commits : KeepsCommits s (execPutm cl line s) := by simp [execPutm]

@[simp] theorem execData_commits : KeepsCommits s (execData cl line s) := by
  unfold execData
  split <;> simp

@[simp] theorem execInv_commits : KeepsCommits s (execInv cl line s) := by simp [execInv]
@[simp] theorem execInvAck_commits : KeepsCommits s (execInvAck cl line s) := by simp [execInvAck]

@[simp] theorem execRecall_commits : KeepsCommits s (execRecall cl line s) := by
  unfold execRecall
  split <;> simp

@[simp] theorem execWbAck_commits : KeepsCommits s (execWbAck cl line s) := by simp [execWbAck]
@[simp] theorem execUcRead_commits : KeepsCommits s (execUcRead req line s) := by simp [execUcRead]
@[simp] theorem execUcWrite_commits : KeepsCommits s (execUcWrite req line off bytes s) := by simp [execUcWrite]
@[simp] theorem execRespErr_commits : KeepsCommits s (execRespErr req line s) := by simp [execRespErr]

end

/-! #### Machine/Movers -/

section
variable (cl : Cluster) (mv : Fin 2) (w : BitVec 128) (hw : HwEvent) (s : State)

@[simp] theorem execCopy_commits : KeepsCommits s (execCopy cl mv w hw s) := by simp [execCopy]
@[simp] theorem execFill_commits : KeepsCommits s (execFill cl mv w hw s) := by simp [execFill]
@[simp] theorem execAdd32_commits : KeepsCommits s (execAdd32 cl mv w hw s) := by simp [execAdd32]
@[simp] theorem execAdd64_commits : KeepsCommits s (execAdd64 cl mv w hw s) := by simp [execAdd64]
@[simp] theorem execSwap32_commits : KeepsCommits s (execSwap32 cl mv w hw s) := by simp [execSwap32]
@[simp] theorem execSwap64_commits : KeepsCommits s (execSwap64 cl mv w hw s) := by simp [execSwap64]

end

/-! #### Machine/CycleExec -/

section
variable (s : State) (src : Fin 9)

@[simp] theorem execCycleRelease_commits : KeepsCommits s (execCycleRelease s) := by
  unfold execCycleRelease
  split <;> simp

/-- The boundary of phase 8 commits; that of every other phase leaves COMMIT_COUNT (R27, R283). -/
@[simp] theorem execPhaseBoundary_commits (lockstep : HwEvent) : KeepsCommits s (execPhaseBoundary lockstep s) := by
  unfold execPhaseBoundary
  split
  · split
    · simp
    · split
      -- the hub's control path agrees: the phase's own end
      · dsimp only
        split <;> simp
      · dsimp only
        split <;> simp
      -- a lockstep finding
      all_goals simp
  · simp

@[simp] theorem execMuMerge_commits (entry : Fin 8) (pass : Fin 16) (hw : HwEvent) :
    KeepsCommits s (execMuMerge entry pass hw s) := by
  unfold execMuMerge
  split <;> simp

@[simp] theorem execList_commits (epoch : Nat) (pkt : ListPkt) : KeepsCommits s (execList src epoch pkt s) := by
  unfold execList
  split <;> simp

@[simp] theorem execBulk_commits (da : Nat) (bytes : List Byte) : KeepsCommits s (execBulk src da bytes s) := by simp [execBulk]

@[simp] theorem execFaultRec_commits (src : Die) (rec : List Byte) : KeepsCommits s (execFaultRec src rec s) := by
  unfold execFaultRec
  repeat' split
  all_goals simp

end

/-! #### Machine/DeExec -/

section
variable (cl : Cluster) (w : BitVec 128) (hw : HwEvent) (s : State)

@[simp] theorem execBuildCspace_commits : KeepsCommits s (execBuildCspace cl w hw s) := by simp [execBuildCspace]
@[simp] theorem execBuildOcc_commits : KeepsCommits s (execBuildOcc cl w hw s) := by simp [execBuildOcc]
@[simp] theorem execBuildStatic_commits : KeepsCommits s (execBuildStatic cl w hw s) := by simp [execBuildStatic]

end

/-! #### Machine/SeqExec -/

section
variable (c : Core) (t : ThreadNo) (s : State)

@[simp] theorem execIssue_commits : KeepsCommits s (execIssue c t s) := by
  unfold execIssue
  split <;> simp

@[simp] theorem execGet_commits : KeepsCommits s (execGet c t s) := by
  unfold execGet
  split <;> simp

@[simp] theorem execWaitEvent_commits : KeepsCommits s (execWaitEvent c t s) := by
  unfold execWaitEvent
  split <;> simp

@[simp] theorem execSignal_commits : KeepsCommits s (execSignal c t s) := by
  unfold execSignal
  dsimp only
  repeat' split
  all_goals simp

@[simp] theorem execTimedWait_commits : KeepsCommits s (execTimedWait c t s) := by
  unfold execTimedWait
  repeat' split
  all_goals simp

@[simp] theorem execTimedWaitExpiry_commits : KeepsCommits s (execTimedWaitExpiry c t s) := by
  unfold execTimedWaitExpiry
  repeat' split
  all_goals simp

@[simp] theorem execMsg_commits : KeepsCommits s (execMsg c t s) := by
  unfold execMsg
  split <;> simp

@[simp] theorem execHalt_commits : KeepsCommits s (execHalt c t s) := by
  unfold execHalt
  split <;> simp

end

/-! #### Machine/DuExec -/

section
variable (d : Die) (s : State)

@[simp] theorem execDuGrant_commits : KeepsCommits s (execDuGrant d s) := by
  unfold execDuGrant
  repeat' split
  all_goals simp

@[simp] theorem execMessageDelivery_commits (dst : Fin 9) : KeepsCommits s (execMessageDelivery dst s) := by
  unfold execMessageDelivery
  split <;> simp

@[simp] theorem execPhaseEpochAdvance_commits : KeepsCommits s (execPhaseEpochAdvance d s) := by simp [execPhaseEpochAdvance]

@[simp] theorem execBoundSourceFire_commits : KeepsCommits s (execBoundSourceFire d s) := by
  unfold execBoundSourceFire
  dsimp only
  repeat' split
  all_goals simp

@[simp] theorem execQuiescenceExpiry_commits : KeepsCommits s (execQuiescenceExpiry d s) := by
  unfold execQuiescenceExpiry
  split <;> simp

end

/-! #### Machine/LinkExec -/

section
variable (link : Fin 16) (end_ : Fin 2) (s : State)

@[simp] theorem execFlitReceived_commits (sent err : BitVec 320) : KeepsCommits s (execFlitReceived link end_ sent err s) := by
  unfold execFlitReceived
  dsimp only
  repeat' split
  all_goals simp

@[simp] theorem execReplayTimeout_commits : KeepsCommits s (execReplayTimeout link end_ s) := by simp [execReplayTimeout]

@[simp] theorem execLinkRecoveryDone_commits (ok : Bool) : KeepsCommits s (execLinkRecoveryDone link ok s) := by
  simp [execLinkRecoveryDone]

end

/-! #### Machine/PatinaExec -/

section
variable (s : State)

@[simp] theorem execPatinaSample_commits (readings : List (Fin 9 × Int)) : KeepsCommits s (execPatinaSample readings s) := by
  unfold execPatinaSample
  dsimp only
  repeat' split
  all_goals simp

@[simp] theorem execCheckpointTimer_commits (badSlots : Fin 128) : KeepsCommits s (execCheckpointTimer badSlots s) := by
  unfold execCheckpointTimer
  repeat' split
  all_goals simp

@[simp] theorem execIdentityRefresh_commits : KeepsCommits s (execIdentityRefresh s) := by simp [execIdentityRefresh]

end

/-! #### Machine/PowerExec -/

section
variable (s : State)

@[simp] theorem execFunctionLevelReset_commits : KeepsCommits s (execFunctionLevelReset s) := by simp [execFunctionLevelReset]
@[simp] theorem execHotReset_commits : KeepsCommits s (execHotReset s) := by simp [execHotReset]
@[simp] theorem execLinkDownReset_commits : KeepsCommits s (execLinkDownReset s) := by simp [execLinkDownReset]
@[simp] theorem execPciePerst_commits : KeepsCommits s (execPciePerst s) := by simp [execPciePerst]
@[simp] theorem execPciePerstRelease_commits : KeepsCommits s (execPciePerstRelease s) := by simp [execPciePerstRelease]
@[simp] theorem execD3hotEntry_commits : KeepsCommits s (execD3hotEntry s) := by simp [execD3hotEntry]
@[simp] theorem execD0Return_commits : KeepsCommits s (execD0Return s) := by simp [execD0Return]
@[simp] theorem execPwrReqActive_commits : KeepsCommits s (execPwrReqActive s) := by simp [execPwrReqActive]
@[simp] theorem execPwrReqIdle_commits : KeepsCommits s (execPwrReqIdle s) := by simp [execPwrReqIdle]
@[simp] theorem execPwrReqStandby_commits : KeepsCommits s (execPwrReqStandby s) := by simp [execPwrReqStandby]
@[simp] theorem execPwrReqOff_commits : KeepsCommits s (execPwrReqOff s) := by simp [execPwrReqOff]

@[simp] theorem execPwrStateReached_commits : KeepsCommits s (execPwrStateReached s) := by
  unfold execPwrStateReached
  split <;> simp

end

/-! #### Machine/RegExec -/

section
variable (s : State) (be : BitVec 4) (v : Word32) (pair : Fin 6)

@[simp] theorem execClrAttn_commits : KeepsCommits s (execClrAttn s) := by simp [execClrAttn]

@[simp] theorem execArbRankWrite_commits (reg : Fin 6) : KeepsCommits s (execArbRankWrite reg be v s) := by
  simp [execArbRankWrite]

@[simp] theorem execArbHoldWrite_commits (reg : Fin 5) : KeepsCommits s (execArbHoldWrite reg be v s) := by
  simp [execArbHoldWrite]

@[simp] theorem execPairLoRead_commits : KeepsCommits s (execPairLoRead pair s) := by simp [execPairLoRead]
@[simp] theorem execPairHiWrite_commits : KeepsCommits s (execPairHiWrite pair be v s) := by simp [execPairHiWrite]
@[simp] theorem execLedWinAddrWrite_commits : KeepsCommits s (execLedWinAddrWrite be v s) := by simp [execLedWinAddrWrite]
@[simp] theorem execLedWinDataRead_commits : KeepsCommits s (execLedWinDataRead s) := by simp [execLedWinDataRead]

@[simp] theorem execRegisterWrite_commits (off : BitVec 16) (dwords : Nat) (be : BitVec 8) (v : Word64) :
    KeepsCommits s (execRegisterWrite off dwords be v s) := by
  simp [execRegisterWrite]

end

/-! #### Machine/RestartExec -/

section
variable (s : State)

@[simp] theorem execClusterRestart_commits (cl : Cluster) : KeepsCommits s (execClusterRestart cl s) := by
  simp [execClusterRestart]

@[simp] theorem execDieWarmRestart_commits (d : Die) : KeepsCommits s (execDieWarmRestart d s) := by simp [execDieWarmRestart]

@[simp] theorem execHubCoreRestart_commits (held digest : Bool) (lost : List (Fin 16)) :
    KeepsCommits s (execHubCoreRestart held digest lost s) := by
  simp [execHubCoreRestart]

@[simp] theorem execRestartComplete_commits (u : RUnit) : KeepsCommits s (execRestartComplete u s) := by
  simp [execRestartComplete]

end

/-! #### Machine/RingExec -/

section
variable (host : HostView) (s : State)

@[simp] theorem execAttentionPoll_commits : KeepsCommits s (execAttentionPoll host s) := by
  unfold execAttentionPoll
  dsimp only
  repeat' split
  all_goals simp

@[simp] theorem execDescriptorFetch_commits : KeepsCommits s (execDescriptorFetch s) := by
  unfold execDescriptorFetch
  repeat' split
  all_goals simp

@[simp] theorem execCompletionWrite_commits : KeepsCommits s (execCompletionWrite s) := by
  unfold execCompletionWrite
  repeat' split
  all_goals simp

@[simp] theorem execCoalescingTimer_commits (ring : Fin 16384) : KeepsCommits s (execCoalescingTimer ring s) := by
  unfold execCoalescingTimer
  split <;> simp

@[simp] theorem execMsixVectorUnmask_commits (v : Fin 2048) : KeepsCommits s (execMsixVectorUnmask v s) := by
  simp [execMsixVectorUnmask]

@[simp] theorem execRingTblLoad_commits : KeepsCommits s (execRingTblLoad host s) := by simp [execRingTblLoad]

end

/-! #### Machine/SafetyExec -/

section
variable (s : State)

@[simp] theorem execFaultInAssert_commits : KeepsCommits s (execFaultInAssert s) := by simp [execFaultInAssert]
@[simp] theorem execFaultInDeassert_commits : KeepsCommits s (execFaultInDeassert s) := by simp [execFaultInDeassert]
@[simp] theorem execStaleTimerExpiry_commits : KeepsCommits s (execStaleTimerExpiry s) := by simp [execStaleTimerExpiry]

@[simp] theorem execMergeWindowEnd_commits : KeepsCommits s (execMergeWindowEnd s) := by
  unfold execMergeWindowEnd
  split <;> simp

@[simp] theorem execPhaseWatchdogExpiry_commits (late : List Die) (hubLate : Bool) :
    KeepsCommits s (execPhaseWatchdogExpiry late hubLate s) := by
  unfold execPhaseWatchdogExpiry
  split <;> simp

@[simp] theorem execHoldLimitExpiry_commits (cls : ArbClass) (inst : Fin 32) (owner : Fin 16) (len : Nat) :
    KeepsCommits s (execHoldLimitExpiry cls inst owner len s) := by
  unfold execHoldLimitExpiry
  split <;> simp

end

/-! #### Machine/SmiExec -/

section
variable (s : State) (addr : BitVec 16)

@[simp] theorem execSmiNop_commits : KeepsCommits s (execSmiNop s) := by simp [execSmiNop]

@[simp] theorem execSmiRead_commits : KeepsCommits s (execSmiRead addr s) := by
  unfold execSmiRead
  repeat' split
  all_goals simp

@[simp] theorem execSmiWrite_commits (v : Word32) : KeepsCommits s (execSmiWrite addr v s) := by simp [execSmiWrite]
@[simp] theorem execCmdForceSafeSet_commits : KeepsCommits s (execCmdForceSafeSet s) := by simp [execCmdForceSafeSet]

@[simp] theorem execCmdForceSafeRelease_commits : KeepsCommits s (execCmdForceSafeRelease s) := by
  simp [execCmdForceSafeRelease]

@[simp] theorem execCmdAck_commits (rseq : Word32) : KeepsCommits s (execCmdAck rseq s) := by simp [execCmdAck]
@[simp] theorem execCmdLock_commits : KeepsCommits s (execCmdLock s) := by simp [execCmdLock]

@[simp] theorem execSmiBadFrame_commits (why : BadFrame) : KeepsCommits s (execSmiBadFrame why addr s) := by
  simp [execSmiBadFrame]

end

/-! #### Machine/StartExec -/

section
variable (s : State) (d : Die) (rec : List Byte)

@[simp] theorem execPowerOnReset_commits (pwrgdLow : Bool) : KeepsCommits s (execPowerOnReset pwrgdLow s) := by
  simp [execPowerOnReset]

@[simp] theorem execPwrgdInFall_commits : KeepsCommits s (execPwrgdInFall s) := by simp [execPwrgdInFall]

@[simp] theorem execStartup_commits (blockA blockB : List Byte) (fwA fwB sris hubBist : Bool) (hubInj : Nat) :
    KeepsCommits s (execStartup blockA blockB fwA fwB sris hubBist hubInj s) := by
  unfold execStartup
  repeat' split
  all_goals simp

/-- The counters of an AON domain that comes up with its retention RAM go on (R512). -/
theorem execAonPowerUp_commits (h : s.aon.lost = false) : KeepsCommits s (execAonPowerUp s) := by
  simp [execAonPowerUp, Aon.powerUp_commits h]

@[simp] theorem execAonPowerLoss_commits : KeepsCommits s (execAonPowerLoss s) := by simp [execAonPowerLoss]
@[simp] theorem execPdPwrEn_commits : KeepsCommits s (execPdPwrEn d s) := by simp [execPdPwrEn]
@[simp] theorem execPdRailCheck_commits (good : Bool) : KeepsCommits s (execPdRailCheck d good s) := by simp [execPdRailCheck]

@[simp] theorem execPresence_commits (link : Die) : KeepsCommits s (execPresence link rec s) := by
  unfold execPresence
  dsimp only
  repeat' split
  all_goals simp

@[simp] theorem execAnnounceDeadline_commits : KeepsCommits s (execAnnounceDeadline d s) := by simp [execAnnounceDeadline]
@[simp] theorem execTrainingReport_commits : KeepsCommits s (execTrainingReport d rec s) := by simp [execTrainingReport]

@[simp] theorem execRingProbeRetry_commits (report : Option (List Byte)) : KeepsCommits s (execRingProbeRetry d report s) := by
  unfold execRingProbeRetry
  split <;> simp

@[simp] theorem execTrainingDeadline_commits : KeepsCommits s (execTrainingDeadline d s) := by simp [execTrainingDeadline]
@[simp] theorem execDieFence_commits (cause : FenceCause) : KeepsCommits s (execDieFence d cause s) := by simp [execDieFence]

@[simp] theorem execFenceRailCheck_commits (fell : Bool) : KeepsCommits s (execFenceRailCheck d fell s) := by
  simp [execFenceRailCheck]

@[simp] theorem execFence_commits : KeepsCommits s (execFence s) := serve_commits fun d u => by simp

end

/-! #### Machine/TimeExec -/

section
variable (s : State)

@[simp] theorem execSetTime_commits : KeepsCommits s (execSetTime s) := serve_commits fun d u => by simp

@[simp] theorem execTimeStep_commits : KeepsCommits s (execTimeStep s) := by
  unfold execTimeStep
  split <;> simp

@[simp] theorem execTimeSlewStep_commits : KeepsCommits s (execTimeSlewStep s) := by simp [execTimeSlewStep]
@[simp] theorem execSyncEdge_commits (lag : Fin 4096) : KeepsCommits s (execSyncEdge lag s) := by simp [execSyncEdge]
@[simp] theorem execSyncStuck_commits : KeepsCommits s (execSyncStuck s) := by simp [execSyncStuck]
@[simp] theorem execSyncStuckEnd_commits : KeepsCommits s (execSyncStuckEnd s) := by simp [execSyncStuckEnd]

end

/-! ### All commands -/

/-- Every command keeps COMMIT_COUNT from falling, AON_POWER_UP where the retention RAM is intact. -/
theorem exec_commits (c : Instr) (s : State) (h : c = .aonPowerUp → s.aon.lost = false) : KeepsCommits s (exec c s) := by
  cases c
  case aonPowerUp => exact execAonPowerUp_commits s (h rfl)
  all_goals simp [exec]

/-- Settles O10: no operation touches COMMIT_COUNT but the Fix phase, which raises it by one (`State.fix_commits`), and the
power-up of an AON domain whose retention RAM is lost. -/
theorem commitsNeverFall : Obligations.CommitsNeverFall := fun c s t ht h => exec_commits c s h t ht

end Sys2Proof

/-! ## Sequencer steps and flags (R313 to R319) -/

namespace Sys2Proof.Machine
open Sys2Proof

/-! ### Threads -/

theorem DuState.thread_mapThread_same {d : DuState} {c t : Nat} {x : Thread} (f : Thread → Thread) (h : d.thread c t = some x) :
    (d.mapThread c t f).thread c t = some (f x) := by
  obtain ⟨ts, hts, ht⟩ := Option.bind_eq_some_iff.1 h
  simp [DuState.thread, DuState.mapThread, get_modAt, hts, ht]

theorem DuState.thread_mapThread_other (d : DuState) {c t k m : Nat} (f : Thread → Thread) (h : (k, m) ≠ (c, t)) :
    (d.mapThread c t f).thread k m = d.thread k m := by
  simp only [DuState.thread, DuState.mapThread, get_modAt]
  split
  · next hk =>
    have hm : m ≠ t := fun hm => h (by rw [hk, hm])
    cases d.threads[k]? <;> simp [get_modAt, hm]
  · rfl

/-- A thread that is there is one of a die that is there. -/
theorem State.die_of_thr {s : State} {c t : Nat} {x : Thread} (h : s.thr c t = some x) : c / 16 < s.du.length := by
  by_contra hlen
  have hempty : s.duOf (c / 16) = DuState.empty := by
    simp only [State.duOf, nth, List.getElem?_eq_none (Nat.not_lt.1 hlen), Option.getD_none]
  rw [State.thr, hempty] at h
  obtain ⟨ts, hts, ht⟩ := Option.bind_eq_some_iff.1 h
  obtain rfl : ts = [] := List.eq_of_mem_replicate (n := 16) (List.mem_of_getElem? hts)
  cases ht

/-- A change of one die's dispatch unit shows in the threads of that die alone. -/
theorem State.thr_mapDu {s : State} {d c t : Nat} (f : DuState → DuState) (h : c / 16 ≠ d) : (s.mapDu d f).thr c t = s.thr c t := by
  rw [State.thr, State.duOf_mapDu_other s d _ f h, State.thr]

/-- A dispatch unit's change, and the threads of its die. -/
theorem State.thr_mapDu_own {s : State} {c k t : Nat} (f : DuState → DuState) (hd : c / 16 < s.du.length) (h : k / 16 = c / 16) :
    (s.mapDu (c / 16) f).thr k t = (f (s.duOf (c / 16))).thread (k % 16) t := by
  rw [State.thr, h, State.duOf_mapDu_same s _ f hd]

section
variable {s : State} {c t : Nat} {x : Thread} (f : Thread → Thread)

theorem State.thr_mapThr_same (h : s.thr c t = some x) : (s.mapThr c t f).thr c t = some (f x) := by
  rw [State.mapThr, State.thr_mapDu_own _ (State.die_of_thr h) rfl]
  exact DuState.thread_mapThread_same f h

theorem State.thr_mapThr_other (s : State) {k m : Nat} (hne : (k, m) ≠ (c, t)) : (s.mapThr c t f).thr k m = s.thr k m := by
  by_cases hd : k / 16 = c / 16
  · have hcore : (k % 16, m) ≠ (c % 16, t) := fun e => hne (by
      obtain ⟨hk, rfl⟩ := Prod.mk.inj e
      have : k = c := by omega
      rw [this])
    by_cases hlen : c / 16 < s.du.length
    · rw [State.mapThr, State.thr_mapDu_own _ hlen hd, DuState.thread_mapThread_other _ f hcore, State.thr, hd]
    · have hnone : ∀ u : State, u.du.length = s.du.length → u.thr k m = none := fun u hu => by
        by_contra hsome
        obtain ⟨y, hy⟩ := Option.ne_none_iff_exists'.1 hsome
        have := State.die_of_thr hy
        omega
      rw [hnone s rfl, hnone _ (length_modAt _ _ _)]
  · exact State.thr_mapDu _ hd

/-- A thread changed is the only one that changes. -/
theorem State.onlyThread_mapThr (h : s.thr c t = some x) : OnlyThread s (s.mapThr c t f) c t (f x) where
  here := State.thr_mapThr_same f h
  others _ _ := State.thr_mapThr_other f s
  rest := by
    rw [State.mapThr, State.duOf_mapDu_same s _ _ (State.die_of_thr h)]
    rfl
  dies d hd := State.duOf_mapDu_other s _ d _ hd

end

end Sys2Proof.Machine

namespace Sys2Proof
open Sys2Proof.Machine

/-- Only the dispatch units say which thread differs. -/
theorem OnlyThread.congr {s t u v : State} {c n : Nat} {x : Thread} (h : OnlyThread s t c n x) (hs : u.du = s.du) (ht : v.du = t.du) :
    OnlyThread u v c n x := by
  have hof : ∀ {a b : State}, a.du = b.du → ∀ d, a.duOf d = b.duOf d := fun hab d => congrArg (nth DuState.empty · d) hab
  have hthr : ∀ {a b : State}, a.du = b.du → ∀ k m, a.thr k m = b.thr k m := fun hab k m => congrArg (DuState.thread · _ m) (hof hab _)
  constructor
  · rw [hthr ht]; exact h.here
  · intro k m hne
    rw [hthr ht, hthr hs]
    exact h.others k m hne
  · rw [hof ht, hof hs]
    exact h.rest
  · intro d hd
    rw [hof ht, hof hs]
    exact h.dies d hd

/-- Two changes of one thread are one change. -/
theorem OnlyThread.trans {s t u : State} {c n : Nat} {x y : Thread} (h : OnlyThread s t c n x) (g : OnlyThread t u c n y) :
    OnlyThread s u c n y where
  here := g.here
  others k m hne := (g.others k m hne).trans (h.others k m hne)
  rest := by
    have hg := congrArg (fun d : DuState => { d with threads := (s.duOf (c / 16)).threads }) g.rest
    exact hg.trans h.rest
  dies d hd := (g.dies d hd).trans (h.dies d hd)

end Sys2Proof

namespace Sys2Proof.Machine
open Sys2Proof

/-! ### Steps -/

/-- A step that takes the sequencer's event is its thread's present one (R314). -/
theorem State.atStep_some {s : State} {c t : Nat} {k : StepKind} {x : Thread} {st : SeqStep} (h : s.atStep c t k = some (x, st)) :
    s.thr c t = some x ∧ s.stepAt c x.step = some st := by
  simp only [State.atStep, Option.bind_eq_bind, Option.bind_eq_some_iff, Option.pure_def, Option.some.injEq, Prod.mk.injEq] at h
  obtain ⟨y, hy, st', hst, -, -, rfl, rfl⟩ := h
  exact ⟨hy, hst⟩

/-- A die that has steps has a dispatch unit's configuration (R318, R348). -/
theorem State.duCfg_of_stepAt {s : State} {c n : Nat} {st : SeqStep} (h : s.stepAt c n = some st) : ∃ g, s.duCfg (c / 16) = some g := by
  cases hd : s.dieSlot (c / 16) with
  | none => simp [State.stepAt, stepOf, State.cores, hd] at h
  | some d => exact ⟨d.du, by rw [State.duCfg, hd]; rfl⟩

/-- A step whose action has been taken ends where its waits are met, and stands still else (R314). -/
theorem exec_of_started {c : Core} {n : ThreadNo} {cmd : Instr} {k : StepKind} {x : Thread} {st : SeqStep} {s : State}
    (hcmd : (cmd, k) ∈ [(Instr.issue c n, StepKind.issue), (.waitEvent c n, .waitEvent), (.signal c n, .signal),
      (.timedWait c n, .timedWait), (.msg c n, .msg)])
    (hat : s.atStep c n k = some (x, st)) (hstarted : x.started = true) (hwait : k = .msg ∨ k = .signal → x.wait ≠ .msg) :
    exec cmd s = .next (s.tryEnd c n x st) := by
  obtain ⟨g, hg⟩ := State.duCfg_of_stepAt (State.atStep_some hat).2
  simp only [List.mem_cons, Prod.mk.injEq, List.not_mem_nil, or_false] at hcmd
  obtain ⟨rfl, rfl⟩ | ⟨rfl, rfl⟩ | ⟨rfl, rfl⟩ | ⟨rfl, rfl⟩ | ⟨rfl, rfl⟩ := hcmd
  · simp [exec, execIssue, hat, hstarted]
  · simp [exec, execWaitEvent, hat, hstarted]
  · simp [exec, execSignal, hat, hg, hstarted, hwait]
  · simp [exec, execTimedWait, hat, hstarted]
  · simp [exec, execMsg, hat, hstarted, hwait]

/-- PEND reported leaves all but the cycle as it was. -/
theorem State.report_frame (s : State) (c : Nat) (st : SeqStep) : { s.report c st with cyc := s.cyc } = s := by
  unfold State.report
  split <;> rfl

theorem State.report_cyc (s : State) (c : Nat) (st : SeqStep) :
    (s.report c st).cyc = if st.pend = true ∧ st.phase = s.phase then { s.cyc with cur := s.cyc.cur.map (fun y =>
      { y with passed := if y.passed.contains c then y.passed else y.passed ++ [c] }) } else s.cyc :=
  apply_ite State.cyc _ _ _

end Sys2Proof.Machine

namespace Sys2Proof
open Sys2Proof.Machine

/-- Settles O40: a started step that takes the sequencer's event is ended by `State.endStep`, which reports PEND and moves its
own thread alone. -/
theorem stepsEnd : Obligations.StepsEnd := by
  intro c n cmd k x st s hcmd hat hstarted hwait
  have hexec := exec_of_started hcmd hat hstarted hwait
  refine ⟨fun hidle => hexec.trans (by rw [State.tryEnd, hidle]; rfl), fun hidle => ?_⟩
  have hframe := s.report_frame c st
  have hdu : (s.report c st).du = s.du := (congrArg State.du hframe :)
  have hthr : (s.report c st).thr c n = some x := by
    rw [State.thr, State.duOf, hdu]
    exact (State.atStep_some hat).1
  refine ⟨s.endStep c n st, hexec.trans (by rw [State.tryEnd, if_pos hidle]), ?_, ?_, s.report_cyc c st⟩
  · exact (State.onlyThread_mapThr _ hthr).congr hdu.symm rfl
  · exact congrArg (fun u : State => { u with du := s.du }) hframe

end Sys2Proof

/-! ## Commands issued (R308, R314, R315) -/

namespace Sys2Proof.Machine
open Sys2Proof

/-! ### Bits -/

theorem bitAt_eq_testBit (v i : Nat) : bitAt v i = v.testBit i := by
  rw [Nat.testBit_eq_decide_div_mod_eq, bitAt]
  rfl

theorem bitAt_setBit_same (v i : Nat) : bitAt (setBit v i) i = true := by
  simp [bitAt_eq_testBit, setBit]

theorem bitAt_setBit_other (v : Nat) {i j : Nat} (h : i ≠ j) : bitAt (setBit v i) j = bitAt v j := by
  simp [bitAt_eq_testBit, setBit, Nat.testBit_two_pow_of_ne h]

/-! ### A command placed in a queue -/

section
variable (s : State) (u : Nat) (e : Engine) (q : QCmd)

theorem State.enqueue_queueOf (v : Nat) (f : Engine) :
    (s.enqueue u e q).queueOf v f = s.queueOf v f ++ if e == f && u == v then [q] else [] := by
  have hset : (s.enqueue u e q).queueOf v f = (s.setQueue u e (s.queueOf u e ++ [q])).queueOf v f := by
    unfold State.enqueue
    dsimp only
    split <;> rfl
  rw [hset]
  by_cases h : e = f ∧ u = v
  · obtain ⟨rfl, rfl⟩ := h
    simp
  · have hne : (v, f) ≠ (u, e) := fun heq => h ⟨(Prod.mk.inj heq).2.symm, (Prod.mk.inj heq).1.symm⟩
    rw [State.queueOf_setQueue_other s _ hne, if_neg (by simpa using h), List.append_nil]

theorem State.enqueue_frame : { s.enqueue u e q with eng := s.eng } = s := by
  unfold State.enqueue
  dsimp only
  split <;> rfl

theorem State.enqueue_engines : { (s.enqueue u e q).eng with queues := s.eng.queues, qeOwners := s.eng.qeOwners } = s.eng := by
  unfold State.enqueue
  dsimp only
  split <;> rfl

end

/-! ### An ISSUE step -/

/-- An ISSUE step as it takes the sequencer's event: its core and thread, the core's tables, the solve order of its cluster
and the dies of the armature's slots. -/
structure Issue where
  core : Nat
  thread : Nat
  x : Thread
  st : SeqStep
  entry : CoreEntry
  order : SolveOrder
  dies : List Nat

namespace Issue

variable (a : Issue)

/-- Slot `i` holds a command that has not been placed. -/
def pends (i : Nat) : Bool := nth 0xFFF a.st.cmds i != 0xFFF && !bitAt a.x.placed i

/-- The engine of slot `i`. -/
def engine (i : Nat) : Engine := Config.slotEngine (nth 0 a.entry.steps a.x.step) i

/-- Slot `i` goes to this queue. -/
def goesTo (u : Nat) (e : Engine) (i : Nat) : Bool := a.engine i == e && unitOf a.core e == u

/-- The command word of slot `i`, an indirect one through the solve order (R315). -/
def word (e : Engine) (i : Nat) : Nat :=
  if bitAt a.st.ind i then withOrder e (nth 0 a.entry.pool (nth 0xFFF a.st.cmds i + a.order.family)) a.order
  else nth 0 a.entry.pool (nth 0xFFF a.st.cmds i)

/-- The command of slot `i` as an engine takes it. -/
def cmd (e : Engine) (i : Nat) : QCmd := ⟨slotWord a.dies e (a.word e i), a.core, a.thread, a.x.step, i⟩

/-- The step stands so in the state. -/
structure Of (s : State) : Prop where
  thr : s.thr a.core a.thread = some a.x
  entry : (s.cores (a.core / 16))[a.core % 16]? = some a.entry
  order : SolveOrder.ofBytes (s.peek (dualBase (a.core / 4) + (s.armature.map (fun a => a.orderOff)).getD 0) 32) = a.order
  dies : s.slotDies = a.dies

/-- An indirect slot meets a stale order (R315). -/
def stale (s : State) (i : Nat) : Bool := bitAt a.st.ind i && a.order.phaseEpoch != (s.duOf (a.core / 16)).epoch

/-- The slots that the step queues. -/
def queued (s : State) (i : Nat) : Bool := a.pends i && !a.stale s i

/-- `u` is `s` with the slots below `i` handled: those that a state queues are in their queues. -/
structure Upto (s u : State) (i : Nat) : Prop where
  thread : ∃ y, OnlyThread s u a.core a.thread y
    ∧ { y with placed := a.x.placed } = { a.x with issued := ((List.range i).filter (a.queued s)).foldl setBit a.x.issued }
    ∧ ∀ j, i ≤ j → bitAt y.placed j = bitAt a.x.placed j
  queues : ∀ v e, u.queueOf v e = s.queueOf v e ++ (((List.range i).filter (a.queued s)).filter (a.goesTo v e)).map (a.cmd e)
  engines : { u.eng with queues := s.eng.queues, qeOwners := s.eng.qeOwners } = s.eng
  frame : { u with eng := s.eng, du := s.du } = s

/-- Every queue has room for the step's commands (R314). -/
def Room (s : State) : Prop :=
  ∀ e, (s.queueOf (unitOf a.core e) e).length + ((List.range 4).filter (a.queued s)).length ≤ Config.queueDepth + 1

end Issue

/-! ### The slots of the step -/

section
variable {a : Issue} {s u : State} {i : Nat}

theorem Issue.Of.upto_zero (h : a.Of s) : a.Upto s s 0 where
  thread := ⟨a.x, ⟨h.thr, fun _ _ _ => rfl, rfl, fun _ _ => rfl⟩, rfl, fun _ _ => rfl⟩
  queues _ _ := (List.append_nil _).symm
  engines := rfl
  frame := rfl

/-- What the slots read stands as it stood before them. -/
theorem Issue.Upto.reads (h : a.Upto s u i) : u.cores = s.cores ∧ u.armature = s.armature ∧ u.slotDies = s.slotDies
    ∧ u.mem = s.mem ∧ (u.duOf (a.core / 16)).epoch = (s.duOf (a.core / 16)).epoch := by
  obtain ⟨y, hy, -⟩ := h.thread
  exact ⟨(congrArg State.cores h.frame :), (congrArg State.armature h.frame :), (congrArg State.slotDies h.frame :),
    (congrArg State.mem h.frame :), (congrArg DuState.epoch hy.rest :)⟩

/-- One slot: nothing is to be done, the order is stale, or the command goes to its engine's queue. -/
theorem Issue.Of.issueSlot_eq (ha : a.Of s) (h : a.Upto s u i) : u.issueSlot a.core a.thread a.x.step a.st i =
    if a.pends i then
      if a.stale s i then (u.mapThr a.core a.thread (fun x => { x with placed := setBit x.placed i }), .stale)
      else if Config.queueDepth < (u.queueOf (unitOf a.core (a.engine i)) (a.engine i)).length then (u, .full)
      else ((u.enqueue (unitOf a.core (a.engine i)) (a.engine i) (a.cmd (a.engine i) i)).mapThr a.core a.thread (fun x =>
        { x with issued := setBit x.issued i, placed := setBit x.placed i }), .placed)
    else (u, .placed) := by
  obtain ⟨hcores, harm, hdies, hmem, hepoch⟩ := h.reads
  obtain ⟨y, hy, -, hplaced⟩ := h.thread
  have hbit := hplaced i le_rfl
  have horder : SolveOrder.ofBytes (u.peek (dualBase (a.core / 4) + (u.armature.map (fun a => a.orderOff)).getD 0) 32) = a.order := by
    rw [State.peek, harm, hmem]
    exact ha.order
  simp only [State.issueSlot, hcores, ha.entry, hy.here, Option.any_some, hbit, horder, hepoch, hdies, ha.dies]
  by_cases hp : a.pends i = true
  · have hopen : ¬ (nth 0xFFF a.st.cmds i = 0xFFF ∨ bitAt a.x.placed i = true) := by
      simpa [Issue.pends] using hp
    rw [if_neg hopen, if_pos hp]
    by_cases hind : bitAt a.st.ind i = true <;> simp [Issue.stale, Issue.cmd, Issue.word, Issue.engine, hind]
  · have hdone : nth 0xFFF a.st.cmds i = 0xFFF ∨ bitAt a.x.placed i = true := by
      simpa [Issue.pends, or_iff_not_imp_left] using hp
    rw [if_pos hdone, if_neg hp]

theorem filter_range_succ (p : Nat → Bool) (i : Nat) :
    (List.range (i + 1)).filter p = (List.range i).filter p ++ if p i then [i] else [] := by
  rw [List.range_succ, List.filter_append, List.filter_singleton]
  cases p i <;> rfl

/-- A slot that queues nothing and changes at most which slots have been placed. -/
theorem Issue.Upto.skip (h : a.Upto s u i) (hno : a.queued s i = false) {v : State}
    (hv : v = u ∨ v = u.mapThr a.core a.thread (fun x => { x with placed := setBit x.placed i })) : a.Upto s v (i + 1) := by
  have hslots : (List.range (i + 1)).filter (a.queued s) = (List.range i).filter (a.queued s) := by
    rw [filter_range_succ, hno, if_neg Bool.false_ne_true, List.append_nil]
  obtain ⟨y, hy, hissued, hplaced⟩ := h.thread
  obtain rfl | rfl := hv
  · exact ⟨⟨y, hy, hslots ▸ hissued, fun j hj => hplaced j (Nat.le_of_succ_le hj)⟩, hslots ▸ h.queues, h.engines, h.frame⟩
  · refine ⟨⟨{ y with placed := setBit y.placed i }, hy.trans (State.onlyThread_mapThr _ hy.here), hslots ▸ hissued, fun j hj => ?_⟩,
      hslots ▸ h.queues, h.engines, h.frame⟩
    rw [bitAt_setBit_other _ (by omega : i ≠ j), hplaced j (Nat.le_of_succ_le hj)]

/-- A slot whose command goes to its queue. -/
theorem Issue.Upto.put (h : a.Upto s u i) (hq : a.queued s i = true) :
    a.Upto s ((u.enqueue (unitOf a.core (a.engine i)) (a.engine i) (a.cmd (a.engine i) i)).mapThr a.core a.thread (fun x =>
      { x with issued := setBit x.issued i, placed := setBit x.placed i })) (i + 1) := by
  have hslots : (List.range (i + 1)).filter (a.queued s) = (List.range i).filter (a.queued s) ++ [i] := by
    rw [filter_range_succ, hq, if_pos rfl]
  have hframe := u.enqueue_frame (unitOf a.core (a.engine i)) (a.engine i) (a.cmd (a.engine i) i)
  have hengines := u.enqueue_engines (unitOf a.core (a.engine i)) (a.engine i) (a.cmd (a.engine i) i)
  have hqueues := u.enqueue_queueOf (unitOf a.core (a.engine i)) (a.engine i) (a.cmd (a.engine i) i)
  generalize u.enqueue (unitOf a.core (a.engine i)) (a.engine i) (a.cmd (a.engine i) i) = v at *
  have hdu : v.du = u.du := (congrArg State.du hframe :)
  obtain ⟨y, hy, hissued, hplaced⟩ := h.thread
  have hvy : OnlyThread s v a.core a.thread y := hy.congr rfl hdu
  refine ⟨⟨_, hvy.trans (State.onlyThread_mapThr _ hvy.here), ?_, fun j hj => ?_⟩, fun w e => ?_, ?_, ?_⟩
  · rw [hslots, List.foldl_append]
    have hold := congrArg (fun y : Thread => { y with issued := setBit y.issued i }) hissued
    exact hold
  · exact (bitAt_setBit_other _ (by omega : i ≠ j)).trans (hplaced j (Nat.le_of_succ_le hj))
  · refine (hqueues w e).trans ?_
    rw [h.queues, hslots, List.filter_append, List.map_append, List.append_assoc]
    by_cases hgo : a.engine i = e ∧ unitOf a.core e = w
    · obtain ⟨rfl, rfl⟩ := hgo
      simp [Issue.goesTo]
    · have hno : a.goesTo w e i = false := by simpa [Issue.goesTo] using hgo
      have hno' : ¬ ((a.engine i == e && unitOf a.core (a.engine i) == w) = true) := by
        simp only [Bool.and_eq_true, beq_iff_eq]
        exact fun hx => hgo ⟨hx.1, hx.1 ▸ hx.2⟩
      rw [if_neg hno', List.filter_cons_of_neg (by simp [hno]), List.filter_nil, List.map_nil]
  · have hold := congrArg (fun g : EngSt => { g with queues := s.eng.queues, qeOwners := s.eng.qeOwners }) hengines
    exact hold.trans h.engines
  · have hold := congrArg (fun w : State => { w with eng := s.eng, du := s.du }) hframe
    exact hold.trans h.frame

/-- Where every queue has room for the step's commands, none is full when its turn comes. -/
theorem Issue.Upto.room (h : a.Upto s u i) (hroom : a.Room s) (hi : i < 4) (hq : a.queued s i = true) :
    ¬ Config.queueDepth < (u.queueOf (unitOf a.core (a.engine i)) (a.engine i)).length := by
  have hsub : ((List.range (i + 1)).filter (a.queued s)).length ≤ ((List.range 4).filter (a.queued s)).length :=
    ((List.range_sublist.2 hi).filter _).length_le
  have hown : (((List.range i).filter (a.queued s)).filter (a.goesTo (unitOf a.core (a.engine i)) (a.engine i))).length
      ≤ ((List.range i).filter (a.queued s)).length := List.length_filter_le _ _
  have hall := hroom (a.engine i)
  rw [filter_range_succ, hq, if_pos rfl, List.length_append, List.length_singleton] at hsub
  rw [h.queues, List.length_append, List.length_map]
  omega

/-- The slots below `i` in order, none of them meeting a full queue; what is stale is an indirect slot that pends. -/
theorem Issue.Of.issue_upto (ha : a.Of s) (hroom : a.Room s) (hi : i ≤ 4) :
    ∃ u b, (List.range i).foldl (fun (acc : State × Bool × Bool) j =>
        if acc.2.1 then acc
        else
          let r := acc.1.issueSlot a.core a.thread a.x.step a.st j
          (r.1, r.2 == .full, acc.2.2 || r.2 == .stale)) (s, false, false) = (u, false, b)
      ∧ a.Upto s u i ∧ (b = true → ∃ j, j < i ∧ a.pends j = true ∧ a.stale s j = true) := by
  induction i with
  | zero => exact ⟨s, false, rfl, ha.upto_zero, fun h => absurd h Bool.false_ne_true⟩
  | succ i ih =>
    obtain ⟨u, b, hfold, hu, hb⟩ := ih (by omega)
    have hbefore : b = true → ∃ j, j < i + 1 ∧ a.pends j = true ∧ a.stale s j = true := fun h => by
      obtain ⟨j, hj, hstale⟩ := hb h
      exact ⟨j, by omega, hstale⟩
    rw [List.range_succ, List.foldl_append, hfold]
    simp only [List.foldl_cons, List.foldl_nil, Bool.false_eq_true, if_false, ha.issueSlot_eq hu]
    by_cases hp : a.pends i = true
    · by_cases hs : a.stale s i = true
      · rw [if_pos hp, if_pos hs]
        exact ⟨_, _, rfl, hu.skip (by simp [Issue.queued, hs]) (.inr rfl), fun _ => ⟨i, by omega, hp, hs⟩⟩
      · have hq : a.queued s i = true := by simp [Issue.queued, hp, hs]
        rw [if_pos hp, if_neg hs, if_neg (hu.room hroom (by omega) hq)]
        exact ⟨_, _, rfl, hu.put hq, by simpa using hbefore⟩
    · rw [if_neg hp]
      exact ⟨_, _, rfl, hu.skip (by simp [Issue.queued, hp]) (.inl rfl), by simpa using hbefore⟩

end

end Sys2Proof.Machine

namespace Sys2Proof.Machine
open Sys2Proof

/-! ### ISSUE -/

section
variable {a : Issue} {s : State}

/-- Where the first pending slot's queue is full, nothing is placed (R314). -/
theorem Issue.Of.issue_full (ha : a.Of s) {i : Nat} (hi : a.pends i = true) (hbefore : ∀ j, j < i → a.pends j = false)
    (hind : a.st.ind = 0) (hfull : Config.queueDepth < (s.queueOf (unitOf a.core (a.engine i)) (a.engine i)).length) (m : Nat) :
    (List.range m).foldl (fun (acc : State × Bool × Bool) j =>
        if acc.2.1 then acc
        else
          let r := acc.1.issueSlot a.core a.thread a.x.step a.st j
          (r.1, r.2 == .full, acc.2.2 || r.2 == .stale)) (s, false, false) = (s, decide (i < m), false)
      ∧ (m ≤ i → a.Upto s s m) := by
  have hfresh : ∀ j, a.stale s j = false := fun j => by simp [Issue.stale, hind, bitAt]
  induction m with
  | zero => exact ⟨by simp, fun _ => ha.upto_zero⟩
  | succ m ih =>
    obtain ⟨hfold, hupto⟩ := ih
    rw [List.range_succ, List.foldl_append, hfold]
    rcases Nat.lt_trichotomy m i with h | rfl | h
    · have hno := hbefore m h
      refine ⟨?_, fun _ => (hupto h.le).skip (by simp [Issue.queued, hno]) (.inl rfl)⟩
      simp [ha.issueSlot_eq (hupto h.le), hno, Nat.not_lt.2 h.le, Nat.not_lt.2 (Nat.succ_le_of_lt h)]
    · refine ⟨?_, fun h => absurd h (by omega)⟩
      simp [ha.issueSlot_eq (hupto le_rfl), hi, hfresh, hfull]
    · refine ⟨?_, fun h => absurd h (by omega)⟩
      simp [h, Nat.lt_succ_of_lt h]

end

/-- Under CONTINUE a step that raises a flag of its own goes on (R316). -/
theorem State.raise_continue {s : State} {c n : Nat} {st : SeqStep} (t : Nat) {code : Nat} (hst : s.stepAt c n = some st)
    (hcode : code ≠ 2) (h : reactionOf st code = .continue_) : s.raise c t n code = s := by
  simp [State.raise, State.react, hst, h, hcode]

/-- The ISSUE step that takes the sequencer's event. -/
def State.issueOf (s : State) (c t : Nat) (x : Thread) (st : SeqStep) (k : CoreEntry) : Issue where
  core := c
  thread := t
  x := x
  st := st
  entry := k
  order := SolveOrder.ofBytes (s.peek (dualBase (c / 4) + (s.armature.map (fun a => a.orderOff)).getD 0) 32)
  dies := s.slotDies

section
variable {c : Core} {n : ThreadNo} {x : Thread} {st : SeqStep} {k : CoreEntry} {s : State}

theorem State.issueOf_of (hat : s.atStep c n .issue = some (x, st)) (hk : (s.cores (c.val / 16))[c.val % 16]? = some k) :
    (s.issueOf c n x st k).Of s :=
  ⟨(State.atStep_some hat).1, hk, rfl, rfl⟩

/-- While the queue of the next command is full the step waits (R314). -/
theorem execIssue_full (hat : s.atStep c n .issue = some (x, st)) (hnew : x.started = false)
    (hk : (s.cores (c.val / 16))[c.val % 16]? = some k) (hfull : s.queueFull c x.step st x = true) (hind : st.ind = 0) :
    exec (.issue c n) s = .next s := by
  have ha := State.issueOf_of hat hk
  simp only [State.queueFull, hk, Option.map_some, Option.getD_some] at hfull
  split at hfull
  · next i hi =>
    obtain ⟨hpends, -, hbefore⟩ := List.find?_range_eq_some.1 hi
    have hearlier : ∀ j, j < i → (s.issueOf c n x st k).pends j = false := fun j hj => by
      simpa [Issue.pends, State.issueOf, or_iff_not_imp_left] using hbefore j hj
    obtain ⟨hall, -⟩ := ha.issue_full (i := i) hpends hearlier hind (of_decide_eq_true hfull) 4
    have hi4 : i < 4 := List.mem_range.1 (List.mem_of_find?_eq_some hi)
    have hissue : s.issueAll c n x.step st = (s, true, false) := hall.trans (by rw [decide_eq_true hi4])
    simp [exec, execIssue, hat, hnew, hissue]
  · cases hfull

/-- The step with room in the queues: its commands are placed, and its action has been taken (R314, R315). -/
theorem execIssue_room (hat : s.atStep c n .issue = some (x, st)) (hnew : x.started = false)
    (hk : (s.cores (c.val / 16))[c.val % 16]? = some k) (hroom : (s.issueOf c n x st k).Room s)
    (hstale : ∀ i, i < 4 → (s.issueOf c n x st k).pends i = true → (s.issueOf c n x st k).stale s i = true →
      reactionOf st 0x12 = .continue_) :
    ∃ u, exec (.issue c n) s = .next (u.markStarted c n) ∧ (s.issueOf c n x st k).Upto s u 4 := by
  obtain ⟨u, b, hfold, hu, hb⟩ := (State.issueOf_of hat hk).issue_upto hroom le_rfl
  refine ⟨u, ?_, hu⟩
  have hissue : s.issueAll c n x.step st = (u, false, b) := hfold
  have hst : (u.markStarted c n).stepAt c x.step = some st := by
    have hsame : u.cores = s.cores := hu.reads.1
    change stepOf (u.cores _) _ _ = _
    rw [hsame]
    exact (State.atStep_some hat).2
  simp only [exec, execIssue, hat, hnew, hissue, Bool.false_eq_true, if_false]
  split
  · next hraised =>
    obtain ⟨i, hi, hpends, hold⟩ := hb hraised
    rw [State.raise_continue _ hst (by decide) (hstale i hi hpends hold)]
  · rfl

end

end Sys2Proof.Machine

namespace Sys2Proof
open Sys2Proof.Machine

/-- Settles O41: slot after slot, what is queued is `Issue.queued`: the pending slots without the indirect ones that meet a
stale order. -/
theorem commandsAreIssued : Obligations.CommandsAreIssued := by
  intro c n x st k o slots s hat hnew hk
  refine ⟨execIssue_full hat hnew hk, fun ho hslots hroom => ?_⟩
  subst ho
  have hqueued : (List.range 4).filter ((s.issueOf c n x st k).queued s) = slots
      ∧ ∀ i, i < 4 → (s.issueOf c n x st k).pends i = true → (s.issueOf c n x st k).stale s i = true →
        reactionOf st 0x12 = .continue_ := by
    obtain ⟨rfl, hfresh⟩ | ⟨rfl, hold, hgoes⟩ := hslots
    · have hnot : ∀ i, i < 4 → (s.issueOf c n x st k).pends i = true → (s.issueOf c n x st k).stale s i = false := by
        intro i hi hpends
        cases hind : bitAt st.ind i with
        | false => simp [Issue.stale, State.issueOf, hind]
        | true =>
          have := hfresh i (List.mem_filter.2 ⟨List.mem_range.2 hi, hpends⟩) hind
          simp [Issue.stale, State.issueOf, this]
      refine ⟨List.filter_congr fun i hi => ?_, fun i hi hpends hstale => by simp [hnot i hi hpends] at hstale⟩
      cases hpends : (s.issueOf c n x st k).pends i with
      | false => rw [Issue.queued, hpends]; exact hpends.symm
      | true => rw [Issue.queued, hpends, hnot i (List.mem_range.1 hi) hpends]; exact hpends.symm
    · refine ⟨List.filter_congr fun i _ => ?_, fun _ _ _ _ => hgoes⟩
      have hind : (s.issueOf c n x st k).stale s i = bitAt st.ind i := by
        rw [Issue.stale, State.issueOf, bne_iff_ne.2 hold, Bool.and_true]
      rw [Issue.queued, hind]
      rfl
  obtain ⟨hqueued, hstale⟩ := hqueued
  have hfits : (s.issueOf c n x st k).Room s := fun e => hqueued ▸ hroom e
  obtain ⟨u, hexec, hu⟩ := execIssue_room hat hnew hk hfits hstale
  obtain ⟨y, hy, hissued, -⟩ := hu.thread
  rw [hqueued] at hissued
  refine ⟨_, _, hexec, hy.trans (State.onlyThread_mapThr _ hy.here), ?_, fun v e => ?_, hu.engines, ?_⟩
  · exact congrArg (fun y : Thread => { y with started := true }) hissued
  · refine (hu.queues v e).trans ?_
    rw [hqueued]
    rfl
  · exact hu.frame

end Sys2Proof

/-! ## Engine flags (R316, R319) -/

namespace Sys2Proof.Machine
open Sys2Proof

/-! ### Dispatch units whose threads stay -/

/-- A change of a dispatch unit that leaves its threads. -/
theorem State.thr_mapDu_threads (s : State) (d : Nat) {f : DuState → DuState} (hf : ∀ u, (f u).threads = u.threads) (k m : Nat) :
    (s.mapDu d f).thr k m = s.thr k m := by
  have hof : ((s.mapDu d f).duOf (k / 16)).threads = (s.duOf (k / 16)).threads := by
    simp only [State.duOf, State.mapDu, nth, get_modAt]
    split
    · cases s.du[k / 16]? <;> simp [hf]
    · rfl
  simp only [State.thr, DuState.thread, hof]

theorem DuState.thread_mapThread_isSome (d : DuState) (c t k m : Nat) (f : Thread → Thread) :
    ((d.mapThread c t f).thread k m).isSome = (d.thread k m).isSome := by
  by_cases h : (k, m) = (c, t)
  · obtain ⟨rfl, rfl⟩ := Prod.mk.inj h
    cases hx : d.thread k m with
    | none =>
      simp only [DuState.thread, DuState.mapThread, get_modAt, if_true] at hx ⊢
      cases hts : d.threads[k]? with
      | none => rfl
      | some ts => simp_all
    | some x => rw [DuState.thread_mapThread_same f hx]; rfl
  · rw [DuState.thread_mapThread_other d f h]

theorem DuState.freeOf_thread (d : DuState) (o : Option (Nat × Nat)) (k m : Nat) : (d.freeOf o).thread k m = d.thread k m := by
  unfold DuState.freeOf
  split <;> rfl

/-- The end of a service keeps every thread there. -/
theorem DuState.endService_isSome (d : DuState) (c t k m : Nat) : ((d.endService c t).thread k m).isSome = (d.thread k m).isSome := by
  rw [DuState.endService, DuState.freeOf_thread, DuState.thread_mapThread_isSome]

/-- The end of an item's service keeps every thread there. -/
theorem DuState.endItem_isSome (d : DuState) (g : DuCfg) (sclk : Nat) (ok : Bool) (c t k m : Nat) :
    ((d.endItem g sclk ok c t).thread k m).isSome = (d.thread k m).isSome := by
  unfold DuState.endItem
  split
  · rfl
  · dsimp only
    have hkept := DuState.thread_mapThread_isSome d c t k m (fun x => { x with item := none, mslot := none })
    have hfree := DuState.freeOf_thread (d.mapThread c t (fun x => { x with item := none, mslot := none }))
      ((d.thread c t).bind (·.mslot)) k m
    rw [← hkept, ← hfree]
    split <;> rfl

/-! ### Threads moved and ended -/

section
variable {s : State} {c t : Nat} {x : Thread}

/-- SKIP and GOTO leave a thread that has left the issuing step (R316; log entry 29). -/
theorem State.divert_elsewhere {step : Nat} (dest : Nat) (hx : s.thr c t = some x) (h : x.step ≠ step) : s.divert c t step dest = s := by
  simp [State.divert, hx, h]

/-- SKIP and GOTO move a running thread that stands at the issuing step (R316). -/
theorem State.divert_running (dest : Nat) (hx : s.thr c t = some x) (h : x.status = .running) :
    s.divert c t x.step dest = (s.mapDu (c / 16) (fun d => d.leaveFifos (c % 16) t)).goStep c t dest := by
  simp [State.divert, hx, h]

theorem State.pushFrame_some {u : State} {reason : Nat} (h : s.pushFrame c t reason x = some u) :
    ∃ bs, u = (s.poke (scratchBase c + x.ssp) bs).mapThr c t (fun y => { y with ssp := y.ssp + 64 }) := by
  unfold State.pushFrame at h
  split at h
  · cases h
  · split at h
    · exact ⟨_, (Option.some.inj h).symm⟩
    · cases h

/-- Whether a frame can be pushed is a matter of the thread's context. -/
theorem State.pushFrame_isSome_eng (g : EngSt) (reason : Nat) :
    (State.pushFrame { s with eng := g } c t reason x).isSome = (s.pushFrame c t reason x).isSome := by
  unfold State.pushFrame
  have hctx : State.ctxOf { s with eng := g } c t = s.ctxOf c t := rfl
  rw [hctx]
  cases s.ctxOf c t with
  | none => rfl
  | some k => by_cases hok : pushOk k x.ssp = true <;> simp [hok]

theorem State.pushFrame_frame {u : State} {reason : Nat} (h : s.pushFrame c t reason x = some u) :
    { u with du := s.du, mem := s.mem } = s := by
  obtain ⟨bs, rfl⟩ := State.pushFrame_some h
  rfl

/-- A frame pushed leaves its thread there. -/
theorem State.pushFrame_thr {u : State} {reason : Nat} (hx : s.thr c t = some x) (h : s.pushFrame c t reason x = some u) :
    ∃ y, u.thr c t = some y := by
  obtain ⟨bs, rfl⟩ := State.pushFrame_some h
  have hpoked : (s.poke (scratchBase c + x.ssp) bs).thr c t = some x := hx
  exact ⟨_, State.thr_mapThr_same _ hpoked⟩

/-- A thread of a die killed: what it holds and waits for ends with it (R319). -/
def State.kill (s : State) (c t : Nat) : State :=
  (s.mapDu (c / 16) (fun d => match s.duCfg (c / 16) with
    | some g => ((d.endItem g s.time.sclk false (c % 16) t).endService (c % 16) t).leaveFifos (c % 16) t
    | none => d)).mapThr c t (fun x => { x with status := .killed, wait := .none })

theorem State.kill_frame (s : State) (c t : Nat) : { s.kill c t with du := s.du } = s := rfl

theorem State.kill_thr (hx : s.thr c t = some x) : ((s.kill c t).thr c t).map (fun y => y.status) = some .killed := by
  have hended : ((s.mapDu (c / 16) (fun d => match s.duCfg (c / 16) with
      | some g => ((d.endItem g s.time.sclk false (c % 16) t).endService (c % 16) t).leaveFifos (c % 16) t
      | none => d)).thr c t).isSome = (s.thr c t).isSome := by
    rw [State.thr_mapDu_own _ (State.die_of_thr hx) rfl]
    split
    · exact (DuState.endService_isSome ..).trans (DuState.endItem_isSome ..)
    · rfl
  rw [hx] at hended
  obtain ⟨y, hy⟩ := Option.isSome_iff_exists.1 hended
  rw [State.kill, State.thr_mapThr_same _ hy]
  rfl

/-- A thread that has not ended is killed once its frame is pushed (R316, R319). -/
theorem State.endThread_pushed {u : State} (hx : s.thr c t = some x) (hlive : x.status ≠ .killed) (hu : s.pushFrame c t 2 x = some u) :
    s.endThread c t = u.kill c t := by
  simp only [State.endThread, hx, if_neg hlive, hu]
  rfl

/-- A thread ended: memory and the dispatch units change, and the thread is killed (R316, R319). -/
theorem State.endThread_effect (hx : s.thr c t = some x) (hpush : (s.pushFrame c t 2 x).isSome = true) :
    { s.endThread c t with du := s.du, mem := s.mem } = s ∧ ((s.endThread c t).thr c t).map (fun y => y.status) = some .killed := by
  by_cases hkilled : x.status = .killed
  · have hsame : s.endThread c t = s := by simp only [State.endThread, hx, if_pos hkilled]
    rw [hsame, hx]
    exact ⟨rfl, congrArg some hkilled⟩
  · obtain ⟨u, hu⟩ := Option.isSome_iff_exists.1 hpush
    obtain ⟨y, hy⟩ := State.pushFrame_thr hx hu
    rw [State.endThread_pushed hx hkilled hu]
    exact ⟨(congrArg (fun v : State => { v with du := s.du, mem := s.mem }) (u.kill_frame c t)).trans (State.pushFrame_frame hu),
      State.kill_thr hy⟩

end

/-! ### A lane retired and refilled -/

/-- A verdict's cache entry written where the core has a cache region and the verdict an entry (R202). -/
def State.putEntry (s : State) (core cand : Nat) (entry : Option (List Byte)) : State :=
  match s.cacheBase core, entry with
  | some b, some bs => s.cohWrite (cacheAddr b cand) bs
  | _, _ => s

theorem State.putEntry_frame (s : State) (core cand : Nat) (entry : Option (List Byte)) :
    { s.putEntry core cand entry with mem := s.mem, coh := s.coh } = s := by
  unfold State.putEntry
  split <;> rfl

section
variable (s : State) {core b : Nat} (cand : Nat)

theorem State.putEntry_none (h : s.cacheBase core = none) (entry : Option (List Byte)) : s.putEntry core cand entry = s := by
  simp only [State.putEntry, h]

theorem State.putEntry_noEntry : s.putEntry core cand none = s := by
  unfold State.putEntry
  cases s.cacheBase core <;> rfl

theorem State.putEntry_some (h : s.cacheBase core = some b) (bs : List Byte) :
    s.putEntry core cand (some bs) = s.cohWrite (cacheAddr b cand) bs := by
  simp only [State.putEntry, h]

end

/-- The memory that an entry leaves is read from the region's place, the copies of lines and the memory before. -/
theorem State.putEntry_mem {s u : State} {core : Nat} (hbase : u.cacheBase core = s.cacheBase core) (hcoh : u.coh = s.coh)
    (hmem : u.mem = s.mem) (cand : Nat) (entry : Option (List Byte)) :
    (u.putEntry core cand entry).mem = (s.putEntry core cand entry).mem := by
  unfold State.putEntry
  rw [hbase]
  cases s.cacheBase core with
  | none => exact hmem
  | some b =>
    cases entry with
    | none => exact hmem
    | some bs => simp only [State.cohWrite, State.ownerOf, hcoh, hmem]

section
variable {s : State} {core cand : Nat} {l : Lane} {v : VRec} {q : QCmd} {rest : List QCmd}

/-- The lane's next candidate, where one is left (R178). -/
def State.refill (s : State) (core : Nat) (d : KeCmd) (l : Lane) : Option Lane :=
  if (s.runOf core .ce).next < d.count then some ⟨core, l.lane, d.first + (s.runOf core .ce).next, none, none⟩ else none

/-- The stream command under way with one more candidate retired. -/
def State.retiredRun (s : State) (core : Nat) (d : KeCmd) (v : VRec) : StreamRun :=
  { s.runOf core .ce with
      next := (s.runOf core .ce).next + boolNat (decide ((s.runOf core .ce).next < d.count)), done := (s.runOf core .ce).done + 1
      verdicts := (s.runOf core .ce).verdicts ++ [v] }

/-- Retire and refill (R178, R202): record, cache entry, ring slot, lane and stream command, one after the other. -/
theorem State.retireLane_eq (hl : s.eng.lanes.find? (fun l => l.core == core && l.cand == cand) = some l)
    (hv : l.verdict = some v) (hq : s.queueOf core .ce = q :: rest) :
    s.retireLane core cand = (((((s.putVerdict core (ceOfWord q.word) cand v).putEntry core cand l.entry).mapStream core cand
      (fun r => { r with retired := true })).setLane core l.lane (s.refill core (ceOfWord q.word) l)).setRun
      (s.retiredRun core (ceOfWord q.word) v)) := by
  obtain ⟨k, j, i, w, entry⟩ := l
  cases hv
  simp only [State.retireLane, hl, hq, List.head?_cons, State.refill, State.retiredRun, decide_eq_true_eq]
  unfold State.putEntry
  split <;> simp_all

end

theorem State.laneOf_setLane_own (s : State) (core j : Nat) (o : Option Lane) (h : ∀ l ∈ o, l.core = core ∧ l.lane = j) :
    (s.setLane core j o).laneOf core j = o := by
  cases o with
  | some l => exact State.laneOf_setLane_same s core j (h l rfl).1 (h l rfl).2
  | none =>
    refine List.find?_eq_none.2 fun x hx => ?_
    rw [State.setLane_eng, Option.toList_none, List.append_nil] at hx
    have hout := (List.mem_filter.1 hx).2
    rwa [Bool.not_eq_true', ← Bool.not_eq_true] at hout

theorem State.runOf_own (s : State) (core : Nat) (e : Engine) : (s.runOf core e).core = core ∧ (s.runOf core e).engine = e := by
  unfold State.runOf
  cases h : s.eng.runs.find? (fun r => r.core == core && r.engine == e) with
  | none => exact ⟨rfl, rfl⟩
  | some r => simpa using List.find?_some h

/-- What a mark leaves of the entries it names. -/
theorem State.mem_mapStream {s : State} {core cand : Nat} {f : RingCand → RingCand} {p : RingCand → Prop} (hf : ∀ r, p (f r)) :
    ∀ r ∈ (s.mapStream core cand f).eng.stream, r.core = core → r.cand = cand → p r := by
  intro r hr hcore hcand
  obtain ⟨y, -, hy⟩ := List.mem_map.1 hr
  split at hy
  · exact hy ▸ hf y
  · next hno => exact absurd ⟨hy ▸ hcore, hy ▸ hcand⟩ hno

/-! ### A restart falls due -/

/-- What records leave of the safety manager's state: all but the records that wait. -/
def Safety.settled (v : Safety) : Safety := { v with unacked := [], windows := [] }

section
variable (s : State)

theorem State.send_settled (f : Fault0) (n : Nat) : (s.send f n).saf.settled = s.saf.settled := by
  unfold State.send
  dsimp only
  split <;> simp [Safety.settled]

theorem State.record_settled (f : Fault0) : (s.record f).saf.settled = s.saf.settled := by
  have hsent := s.send_settled f 0
  unfold State.record
  dsimp only
  generalize s.send f 0 = u at *
  split
  · exact hsent
  · split
    · rfl
    · split <;> exact hsent

theorem State.staleReports_settled : s.staleReports.saf.settled = s.saf.settled := by
  have reported (u : State) : Safety.settled (State.saf ((List.range 8).foldl (fun (s : State) d =>
      if (s.duOf d).stale = 0 then s
      else (s.record ⟨.staleDrop, .info, ⟨d, 15, 15, 0xA⟩, (s.duOf d).stale, (s.duOf d).staleEpoch⟩).mapDu d
        (fun u => { u with stale := 0, staleEpoch := 0 })) u)) = u.saf.settled :=
    foldl_same (fun u => u.saf.settled) (fun u x => by split; exacts [rfl, u.record_settled _]) _ _
  unfold State.staleReports
  dsimp only
  split
  · exact reported s
  · simp only [State.record_settled]
    exact reported s

theorem State.endCycle_settled (st : Status) (r0 r1 : Nat) (b : Bool) : (s.endCycle st r0 r1 b).saf.settled = s.saf.settled := by
  unfold State.endCycle
  split
  · rfl
  · dsimp only
    simp only [State.opsRun_frame]
    rw [foldl_same State.saf (fun u x => by simp), State.staleReports_settled]
    simp

theorem State.abandon_settled (st : Status) : (s.abandon st).saf.settled = s.saf.settled := by
  unfold State.abandon
  split
  · rfl
  · exact State.endCycle_settled ..

/-- No cycle outlasts its end. -/
theorem State.endCycle_cur (st : Status) (r0 r1 : Nat) (b : Bool) : (s.endCycle st r0 r1 b).cyc.cur = none := by
  unfold State.endCycle
  split
  · assumption
  · dsimp only
    simp only [State.opsRun_frame]

theorem State.abandon_cur (st : Status) : (s.abandon st).cyc.cur = none := by
  unfold State.abandon
  split
  · assumption
  · exact State.endCycle_cur ..

end

/-- A restart that falls due: noted, cause RESTART set, no cycle left (R479, R480, R487). -/
theorem State.restartDue_effect (s : State) (u : RUnit) :
    (s.restartDue u).saf.due = addDue u s.saf.due ∧ bitAt (s.restartDue u).saf.causes 2 = true ∧ (s.restartDue u).cyc.cur = none := by
  have hsettled := State.abandon_settled { s with saf := { s.saf with causes := setBit s.saf.causes 2, due := addDue u s.saf.due } } .faultRestart
  unfold State.restartDue
  simp only [State.recovering_frame, State.abandon_cur, and_true]
  have hcauses := congrArg Safety.causes hsettled
  exact ⟨(congrArg Safety.due hsettled :), hcauses ▸ bitAt_setBit_same _ _⟩

/-- A flag with no cause of its own: FLT_STEP_FAULT, on which the restart of the escalated unit falls due (R316, R478,
R480). -/
theorem State.fault_stepFault {s : State} {c code step : Nat} {u : RUnit} (h : s.saf.escalate (.cluster (c / 4)) = .restart u) :
    s.fault ⟨.stepFault, .restartCluster, ⟨c / 16, c / 4 % 4, c % 4, 1⟩, code, step⟩
      = (s.record ⟨.stepFault, .restartCluster, ⟨c / 16, c / 4 % 4, c % 4, 1⟩, code, step⟩).restartDue u := by
  have hcluster : c / 16 * 4 + c / 4 % 4 = c / 4 := by omega
  have hsettled := s.record_settled ⟨.stepFault, .restartCluster, ⟨c / 16, c / 4 % 4, c % 4, 1⟩, code, step⟩
  have hescalate : ∀ v : Safety, v.settled = s.saf.settled → v.escalate (.cluster (c / 4)) = s.saf.escalate (.cluster (c / 4)) := by
    intro v hv
    have hactive : v.active = s.saf.active := (congrArg Safety.active hv :)
    have hwatch : v.watch = s.saf.watch := (congrArg Safety.watch hv :)
    simp only [Safety.escalate, hactive, hwatch]
  simp only [State.fault, Fault0.unit, hcluster, State.restartFault, hescalate _ hsettled, h]

/-! ### ENGINE_FLAG -/

/-- The state once a flag has been taken from those on their way. -/
def State.handling (s : State) (f : EngFlag) : State := { s with eng := { s.eng with flags := s.eng.flags.erase f } }

/-- The oldest flag of the core takes its step's reaction (R316). -/
theorem execEngineFlag_oldest {c : Core} {f : EngFlag} {s : State} (h : s.eng.flags.find? (fun y => y.core == c.val) = some f) :
    exec (.engineFlag c) s = .next ((s.handling f).react c f.thread f.step f.slot f.code f.lane f.cand f.cause) := by
  have hcore : f.core = c.val := by simpa using List.find?_some h
  simp only [exec, execEngineFlag, h, hcore]
  rfl

/-! ### What a retired lane leaves -/

/-- `t` is `s` with a flag taken and its lane's candidate retired with a verdict, the lane refilled (R178, R202). -/
structure LaneRetired (s t : State) (c : Nat) (f : EngFlag) (l : Lane) (v : VRec) (d : KeCmd) : Prop where
  frame : { t with eng := s.eng, mem := s.mem, coh := s.coh } = s
  engines : { t.eng with flags := s.eng.flags, stream := s.eng.stream, lanes := s.eng.lanes, runs := s.eng.runs } = s.eng
  flags : t.eng.flags = s.eng.flags.erase f
  mem : t.mem = (State.putEntry { s with
    mem := s.mem.write (scratchBase c + d.outOff * 64 + (f.cand - d.first) * 64) (v.bytes f.cand) } c f.cand l.entry).mem
  retired : ∀ r ∈ t.eng.stream, r.core = c → r.cand = f.cand → r.retired = true
  lane : t.laneOf c l.lane = s.refill c d l
  run : t.runOf c .ce = s.retiredRun c d v

theorem State.retireLane_retired {s : State} {c : Nat} {f : EngFlag} {l : Lane} {v : VRec} {q : QCmd} {rest : List QCmd}
    (hl : s.eng.lanes.find? (fun y => y.core == c && y.cand == f.cand) = some l) (hv : l.verdict = some v)
    (hq : s.queueOf c .ce = q :: rest) : LaneRetired s ((s.handling f).retireLane c f.cand) c f l v (ceOfWord q.word) := by
  rw [State.retireLane_eq (s := s.handling f) hl hv hq]
  generalize ceOfWord q.word = d
  have hframe := ((s.handling f).putVerdict c d f.cand v).putEntry_frame c f.cand l.entry
  have hmem : (((s.handling f).putVerdict c d f.cand v).putEntry c f.cand l.entry).mem = (State.putEntry { s with
      mem := s.mem.write (scratchBase c + d.outOff * 64 + (f.cand - d.first) * 64) (v.bytes f.cand) } c f.cand l.entry).mem := by
    refine State.putEntry_mem ?_ ?_ ?_ _ _ <;> rfl
  have hwhole : { ((s.handling f).putVerdict c d f.cand v).putEntry c f.cand l.entry with
      eng := s.eng, mem := s.mem, coh := s.coh } = s := by
    unfold State.putEntry
    split <;> simp only [State.cohWrite, State.putVerdict, State.poke, State.handling]
  generalize ((s.handling f).putVerdict c d f.cand v).putEntry c f.cand l.entry = u at *
  have heng : u.eng = (s.handling f).eng := (congrArg State.eng hframe :)
  constructor
  · simp only [State.setRun, State.setLane, State.mapStream]
    exact hwhole
  · exact congrArg (fun g : EngSt => { g with
      flags := s.eng.flags, stream := s.eng.stream, lanes := s.eng.lanes, runs := s.eng.runs }) heng
  · exact (congrArg EngSt.flags heng :)
  · exact hmem
  · exact State.mem_mapStream (s := u) fun r => rfl
  · refine State.laneOf_setLane_own _ _ _ ((s.handling f).refill c d l) fun k hk => ?_
    unfold State.refill at hk
    split at hk <;> cases hk
    exact ⟨rfl, rfl⟩
  · exact State.runOf_setRun ((s.handling f).runOf_own c .ce).1 ((s.handling f).runOf_own c .ce).2

end Sys2Proof.Machine

namespace Sys2Proof
open Sys2Proof.Machine

/-- Settles O44: the flag is taken from those on their way, and its step's reaction is one operation on threads, lanes, ring
entries or faults. -/
theorem flagsAct : Obligations.FlagsAct := by
  intro c f st s hfind hst
  rw [execEngineFlag_oldest hfind]
  have hstep : (s.handling f).stepAt c f.step = some st := hst
  refine ⟨fun h hcode => ?_, fun h l v q rest d hl hv hq hd => ?_, fun h => ?_, fun h x hx => ?_, fun h x hx hpush => ?_,
    fun h hsum horder hcause u x hescalate hx hlive hpush => ?_⟩
  · simp only [State.react, hstep, h, if_neg hcode]
    rfl
  · have hrefill : (s.handling f).react c f.thread f.step f.slot f.code f.lane f.cand f.cause = (s.handling f).retireLane c f.cand := by
      simp only [State.react, hstep, h]
    have hdone := State.retireLane_retired hl hv hq
    rw [hrefill]
    subst hd
    refine ⟨_, rfl, hdone.frame, hdone.engines, hdone.flags, ?_, hdone.retired, hdone.lane, hdone.run⟩
    rintro m rfl
    rw [hdone.mem]
    have hbase : ∀ m, State.cacheBase { s with mem := m } c = s.cacheBase c := fun _ => rfl
    cases hb : s.cacheBase c with
    | none => rw [State.putEntry_none _ _ ((hbase _).trans hb)]
    | some b =>
      cases l.entry with
      | none => rw [State.putEntry_noEntry]
      | some bs => rw [State.putEntry_some _ _ ((hbase _).trans hb)]
  · simp only [State.react, hstep, h]
    refine ⟨_, rfl, ?_, ?_, ?_, State.mem_mapStream fun r => ⟨rfl, rfl⟩⟩ <;>
      simp only [State.retireVoid, State.mapStream, State.handling]
  · have hmove : (s.handling f).react c f.thread f.step f.slot f.code f.lane f.cand f.cause
        = (s.handling f).divert c f.thread f.step (if reactionOf st f.code = .skip then st.next else st.goto) := by
      obtain h | h := h <;> simp [State.react, hstep, h]
    rw [hmove]
    have hx' : (s.handling f).thr c f.thread = some x := hx
    refine ⟨fun helse => by rw [State.divert_elsewhere _ hx' helse]; rfl, fun hhere hrun => ?_⟩
    rw [← hhere, State.divert_running _ hx' hrun]
    have hleft : ∀ k m, ((s.handling f).mapDu (c / 16) (fun d => d.leaveFifos (c % 16) f.thread)).thr k m = s.thr k m :=
      fun k m => State.thr_mapDu_threads (s.handling f) (c / 16) (f := fun d => d.leaveFifos (c % 16) f.thread) (fun _ => rfl) k m
    refine ⟨_, rfl, ?_, ?_, State.thr_mapThr_same _ ((hleft c f.thread).trans hx),
      fun k m hne => (State.thr_mapThr_other _ _ hne).trans (hleft k m)⟩ <;>
      simp only [State.goStep, State.mapThr, State.mapDu, State.handling]
  · have hend : (s.handling f).react c f.thread f.step f.slot f.code f.lane f.cand f.cause = (s.handling f).endThread c f.thread := by
      have hfault : reactionOf st f.code = .fault := if_pos (by omega)
      simp only [State.react, hstep, hfault, if_pos h]
    have hpush' := (State.pushFrame_isSome_eng (s := s) (s.handling f).eng 2).trans hpush
    obtain ⟨hframe, hkilled⟩ := State.endThread_effect (s := s.handling f) hx hpush'
    rw [hend]
    generalize (s.handling f).endThread c f.thread = e at *
    exact ⟨_, rfl, congrArg (fun v : State => { v with eng := s.eng }) hframe, (congrArg State.eng hframe :), hkilled⟩
  · have hend : (s.handling f).react c f.thread f.step f.slot f.code f.lane f.cand f.cause
        = (s.handling f).stepFault c f.thread f.code f.step none := by
      simp only [State.react, hstep, h, if_neg (not_or.2 ⟨hsum, horder⟩), hcause]
    have hpush' := (State.pushFrame_isSome_eng (s := s) (s.handling f).eng 2).trans hpush
    obtain ⟨hframe, -⟩ := State.endThread_effect (s := s.handling f) hx hpush'
    have hsaf : ((s.handling f).endThread c f.thread).saf = s.saf := (congrArg State.saf hframe :)
    have hworld : ((s.handling f).endThread c f.thread).world = s.world := (congrArg State.world hframe :)
    have hregs : ((s.handling f).endThread c f.thread).regs = s.regs := (congrArg State.regs hframe :)
    rw [hend, State.stepFault, Option.getD_none]
    generalize (s.handling f).endThread c f.thread = e at *
    rw [← hsaf] at hescalate
    rw [State.fault_stepFault hescalate]
    have hrecord := e.record_settled ⟨.stepFault, .restartCluster, ⟨c / 16, c / 4 % 4, c % 4, 1⟩, f.code, f.step⟩
    obtain ⟨hdue, hcauses, hcur⟩ := State.restartDue_effect
      (e.record ⟨.stepFault, .restartCluster, ⟨c / 16, c / 4 % 4, c % 4, 1⟩, f.code, f.step⟩) u
    refine ⟨_, rfl, ?_, hcauses, hcur, by simp [hworld], by simp [hregs]⟩
    have hold : (e.record ⟨.stepFault, .restartCluster, ⟨c / 16, c / 4 % 4, c % 4, 1⟩, f.code, f.step⟩).saf.due = e.saf.due :=
      (congrArg Safety.due hrecord :)
    rw [hdue, hold, hsaf]

end Sys2Proof

/-! ## Long operations that start (R448, R461, R462) -/

namespace Sys2Proof.Machine
open Sys2Proof

/-! ### The list of operations -/

/-- What a start leaves of an operation that is there: its descriptor, whether it is at work, whether it has ended. -/
def LongOp.standing (o : LongOp) : Desc × Bool × Bool := (o.desc, o.atWork, o.st.terminal)

/-- What tells an operation apart: descriptor, class and state. -/
def LongOp.face (o : LongOp) : Desc × OpClass × OpState := (o.desc, o.cls, o.st)

/-- A scrub that a self-test makes suspend is still at work (R462). -/
theorem autoSuspend_standing (ops : List LongOp) (a : LongOp) :
    (autoSuspend ops a).map LongOp.standing = ops.map LongOp.standing := by
  rw [autoSuspend, List.map_map]
  refine List.map_congr_left fun o _ => ?_
  rw [Function.comp_apply]
  split
  · next h =>
    obtain ⟨-, -, -, hrunning⟩ := h
    simp only [LongOp.standing, LongOp.atWork, hrunning]
    rfl
  · rfl

/-- A start puts the operation behind the others, running or queued (R461, R462). -/
theorem startOp_eq (ops : List LongOp) (a : LongOp) : ∃ xs v, startOp ops a = xs ++ [{ a with st := v }]
    ∧ xs.map LongOp.standing = ops.map LongOp.standing ∧ (v = .running ∨ v = .queued) ∧ (ops = [] → v = .running)
    ∧ (a.cls ≠ .selftest → blocked ops a = true → v = .queued) := by
  unfold startOp
  by_cases hscrubs : scrubsBlocking ops a = true
  · rw [if_pos hscrubs]
    have hselftest : a.cls = .selftest := by
      simp only [scrubsBlocking, Bool.and_eq_true, beq_iff_eq] at hscrubs
      exact hscrubs.1.1
    exact ⟨_, _, rfl, autoSuspend_standing ops a, .inl rfl, fun _ => rfl, fun h => absurd hselftest h⟩
  · rw [if_neg hscrubs]
    refine ⟨_, _, rfl, rfl, ?_, ?_, fun _ hblocked => if_pos hblocked⟩
    · split
      · exact .inr rfl
      · exact .inl rfl
    · rintro rfl
      rfl

/-- No operation ends by a start. -/
theorem startOp_ends_none (ops : List LongOp) (a : LongOp) :
    (startOp ops a).filter (fun o => o.st.terminal && !ops.any (fun x => x.desc == o.desc && x.st.terminal)) = [] := by
  obtain ⟨xs, v, heq, hstanding, hv, -⟩ := startOp_eq ops a
  rw [heq, List.filter_eq_nil_iff]
  intro o ho
  obtain hold | hnew := List.mem_append.1 ho
  · obtain ⟨y, hy, hsame⟩ := List.mem_map.1 (hstanding ▸ List.mem_map_of_mem (f := LongOp.standing) hold)
    obtain ⟨hdesc, hrest⟩ := Prod.mk.inj hsame
    obtain ⟨-, hterminal⟩ := Prod.mk.inj hrest
    cases hend : o.st.terminal with
    | false => simp
    | true =>
      have hthere : ops.any (fun x => x.desc == o.desc && x.st.terminal) = true :=
        List.any_eq_true.2 ⟨y, hy, by simp [hdesc, hterminal, hend]⟩
      simp [hthere]
  · obtain rfl := List.mem_singleton.1 hnew
    obtain rfl | rfl := hv <;> simp [OpState.terminal]

/-! ### What operations that begin or resume keep -/

/-- What is the same after each of the changes that make up a run of operations is the same after it. -/
theorem State.opsRun_same {β : Type} (s : State) (f : State → β) (old : List LongOp) (hbegin : ∀ u o, f (State.begin_ u o) = f u)
    (hfire : ∀ u ds b n, f (State.fireOn u ds b n) = f u) (hops : ∀ (u : State) ops, f { u with ops := ops } = f u)
    (hdu : ∀ (u : State) us, f { u with du := us } = f u) : f (s.opsRun old) = f s := by
  have fired (u : State) (xs ys : List LongOp) : f (ys.foldl (fun (s : State) o =>
      s.fireOn ((List.range 8).filter (fun d => bitAt o.dies d)) .longopRun o.cls.code) (xs.foldl State.begin_ u)) = f u :=
    (foldl_same f (fun u _ => hfire u ..) _ _).trans (foldl_same f hbegin _ _)
  unfold State.opsRun
  dsimp only
  split
  · split
    · exact (hdu _ _).trans (fired _ _ _)
    · exact fired _ _ _
  · split
    · exact (hdu _ _).trans ((fired _ _ _).trans (hops _ _))
    · exact (fired _ _ _).trans (hops _ _)

section
variable {β : Type} {g : LongOp → β} (s : State)

theorem State.begin_map (hstart : ∀ (o : LongOp) v, g { o with start := v } = g o) (o : LongOp) :
    (s.begin_ o).ops.map g = s.ops.map g := by
  have hmark : (mapOp (fun x => { x with start := some s.time.now }) o.desc s.ops).map g = s.ops.map g := by
    rw [mapOp, List.map_map]
    refine List.map_congr_left fun x _ => ?_
    rw [Function.comp_apply]
    split
    · exact hstart x _
    · rfl
  unfold State.begin_
  split
  · rfl
  · dsimp only
    repeat' split
    all_goals exact hmark

/-- What neither the date of a first run nor, within a cycle, a yield changes of the operations. -/
theorem State.opsRun_map (old : List LongOp) (hstart : ∀ (o : LongOp) v, g { o with start := v } = g o)
    (hyield : s.cyc.cur ≠ none → ∀ o : LongOp, g { o with yielded := true } = g o) : (s.opsRun old).ops.map g = s.ops.map g := by
  have fired (u : State) (xs ys : List LongOp) : (ys.foldl (fun (s : State) o =>
      s.fireOn ((List.range 8).filter (fun d => bitAt o.dies d)) .longopRun o.cls.code) (xs.foldl State.begin_ u)).ops.map g = u.ops.map g :=
    (foldl_same (fun u => u.ops.map g) (fun _ _ => by simp) _ _).trans
      (foldl_same (fun u => u.ops.map g) (fun u o => u.begin_map hstart o) _ _)
  unfold State.opsRun
  dsimp only
  by_cases hcur : s.cyc.cur.isNone = true
  · rw [if_pos hcur]
    split <;> exact fired _ _ _
  · have hyielded : (s.ops.map (fun o => if (o.runs && !old.any (fun x => x.desc == o.desc && x.runs)) = true
        ∧ o.cls ≠ .selftest ∧ o.cls ≠ .retrain then { o with yielded := true } else o)).map g = s.ops.map g := by
      rw [List.map_map]
      refine List.map_congr_left fun x _ => ?_
      rw [Function.comp_apply]
      split
      · exact hyield (by simpa using hcur) x
      · rfl
    rw [if_neg hcur]
    split <;> exact (fired _ _ _).trans hyielded

end

/-- A state but for the parts that operations, their completions and their threads stand in. -/
def State.besideOps (v s : State) : State := { s with ops := v.ops, host := v.host, du := v.du, img := v.img, aon := v.aon }

section
variable (v s : State)

theorem State.begin_beside (o : LongOp) : v.besideOps (s.begin_ o) = v.besideOps s := by
  unfold State.begin_
  dsimp only
  repeat' split
  all_goals rfl

theorem State.fireOn_beside (ds : List Nat) (b : BindSource) (n : Nat) : v.besideOps (s.fireOn ds b n) = v.besideOps s := by
  unfold State.fireOn
  refine foldl_same v.besideOps (fun u d => ?_) ds s
  repeat' split
  all_goals rfl

theorem State.opsRun_beside (old : List LongOp) : v.besideOps (s.opsRun old) = v.besideOps s :=
  s.opsRun_same v.besideOps old (State.begin_beside v) (State.fireOn_beside v) (fun _ _ => rfl) (fun _ _ => rfl)

end

/-- A run of operations goes on while those at work stay at work (R344). -/
theorem State.runEnds_goesOn {s : State} {old : List LongOp}
    (h : s.cyc.cur = none → ∀ o ∈ old, o.atWork = true → ∃ x ∈ s.ops, x.desc = o.desc ∧ x.atWork = true) : s.runEnds old = s := by
  refine if_neg fun hends => ?_
  simp only [Bool.and_eq_true, List.any_eq_true, Option.isNone_iff_eq_none, Bool.not_eq_true', List.any_eq_false] at hends
  obtain ⟨hcur, o, ho, hwork, hno⟩ := hends
  obtain ⟨x, hx, hdesc, hxwork⟩ := h hcur o ho hwork
  exact hno x hx (by simp [hdesc, hxwork])

/-! ### A long operation started -/

/-- `t` is `s` with the operation `a` started behind the others. -/
structure Begun (s t : State) (a : LongOp) : Prop where
  last : ∃ o, t.ops.getLast? = some o ∧ o.desc = a.desc ∧ o.cls = a.cls ∧ (o.st = .running ∨ o.st = .queued)
    ∧ (s.ops = [] → o.st = .running) ∧ (a.cls ≠ .selftest → blocked s.ops a = true → o.st = .queued)
  descs : t.ops.map (fun y => y.desc) = s.ops.map (fun y => y.desc) ++ [a.desc]
  host : t.host = s.host
  beside : s.besideOps t = s

/-- The table of operations with a new one, before what follows of it. -/
def State.enlist (s : State) (a : LongOp) : State :=
  { s with ops := (startOp s.ops a).map (recheck s.img.staged)
           du := if (startOp s.ops a).any (fun o => o.cls == .grow && !o.st.terminal) then s.du
             else s.du.map (fun u => { u with saved := [] }) }

theorem recheck_standing (gs : List Staged) (o : LongOp) : (recheck gs o).standing = o.standing := by
  unfold recheck
  split <;> rfl

theorem recheck_face (gs : List Staged) (o : LongOp) : (recheck gs o).face = o.face := by
  unfold recheck
  split <;> rfl

theorem State.startLong_eq (s : State) (a : LongOp) : s.startLong a = ((s.enlist a).opsRun s.ops).runEnds s.ops := by
  simp only [State.startLong, State.withOps, startOp_ends_none, List.filter_nil, List.foldl_nil, State.completeAll, List.any_nil,
    Bool.not_false, List.filter_true]
  rfl

theorem State.startLong_begun (s : State) (a : LongOp) : Begun s (s.startLong a) a := by
  obtain ⟨xs, v, heq, hstanding, hv, halone, hqueued⟩ := startOp_eq s.ops a
  have hkeys : ((s.enlist a).opsRun s.ops).ops.map LongOp.face = (xs ++ [{ a with st := v }]).map LongOp.face := by
    rw [State.opsRun_map _ _ (g := LongOp.face) (fun _ _ => rfl) (fun _ _ => rfl), State.enlist, List.map_map, heq]
    exact List.map_congr_left fun o _ => recheck_face _ o
  have hstands : (s.enlist a).cyc.cur = none → ((s.enlist a).opsRun s.ops).ops.map LongOp.standing
      = s.ops.map LongOp.standing ++ [LongOp.standing { a with st := v }] := by
    intro hcur
    rw [State.opsRun_map _ _ (g := LongOp.standing) (fun _ _ => rfl) (fun h => absurd hcur h), State.enlist, List.map_map, heq]
    refine (List.map_congr_left fun o _ => recheck_standing _ o).trans ?_
    rw [List.map_append, hstanding, List.map_singleton]
  have hgoes : s.startLong a = (s.enlist a).opsRun s.ops := by
    rw [State.startLong_eq]
    refine State.runEnds_goesOn fun hcur o ho hwork => ?_
    have hcur' : (s.enlist a).cyc.cur = none := by simpa using hcur
    have hin := List.mem_append_left [LongOp.standing { a with st := v }] (List.mem_map_of_mem (f := LongOp.standing) ho)
    rw [← hstands hcur'] at hin
    obtain ⟨x, hx, hsame⟩ := List.mem_map.1 hin
    obtain ⟨hdesc, hrest⟩ := Prod.mk.inj hsame
    obtain ⟨hatWork, -⟩ := Prod.mk.inj hrest
    exact ⟨x, hx, hdesc, hatWork.trans hwork⟩
  rw [hgoes]
  constructor
  · have hlast := congrArg List.getLast? hkeys
    rw [List.getLast?_map, List.map_append, List.map_singleton, List.getLast?_concat] at hlast
    obtain ⟨o, ho, hkey⟩ := Option.map_eq_some_iff.1 hlast
    obtain ⟨hdesc, hrest⟩ := Prod.mk.inj hkey
    obtain ⟨hcls, hst⟩ := Prod.mk.inj hrest
    exact ⟨o, ho, hdesc, hcls, hst ▸ hv, fun h => hst.trans (halone h), fun h g => hst.trans (hqueued h g)⟩
  · have hdescs := congrArg (List.map Prod.fst) hkeys
    have hsame := congrArg (List.map Prod.fst) hstanding
    rw [List.map_map, List.map_append, List.map_append, List.map_map] at hdescs
    rw [List.map_map, List.map_map] at hsame
    exact hdescs.trans (congrArg (· ++ [a.desc]) hsame)
  · simp [State.enlist]
  · exact (State.opsRun_beside s (s.enlist a) s.ops).trans rfl

/-- A load behind another that is active is kept back by it (R460). -/
theorem blocked_load {ops : List LongOp} {a y : LongOp} (ha : a.cls = .load) (hy : y ∈ ops) (hcls : y.cls = .load)
    (hactive : y.st.active = true) (hne : y.desc ≠ a.desc) : blocked ops a = true := by
  have hclash : a.conflicts y = true := by simp [LongOp.conflicts, ha, hcls, clash]
  exact List.any_eq_true.2 ⟨y, hy, by simp [hactive, hne, hclash]⟩

/-! ### The descriptors that start one -/

section
variable {s s1 : State} {x : Desc}

theorem execLoadImage_starts (h : s.take 0x0010 = some (x, s1)) (himage : addrOk x.imageAddr 64 = true)
    (hrefusal : addrOk x.refusalAddr 64 = true) : ∃ a, exec .loadImage s
      = .next (State.startLong { s1 with img := { s1.img with staged := s1.img.staged ++ [⟨x, [], none, false⟩] } } a)
      ∧ a.desc = x ∧ a.cls = .load := by
  refine ⟨{ LongOp.new x .load with
    left := loadUnits x.imageLen, dies := maskOf ((List.range 8).map (fun k => s1.healthy.contains k)) }, ?_, rfl, rfl⟩
  simp only [exec, execLoadImage, State.serve_of_take h, himage, hrefusal, Bool.not_true, Bool.false_eq_true, or_self, if_false]
  rfl

theorem execMaintStart_starts {cls : OpClass} (h : s.take 0x0050 = some (x, s1)) (hcls : OpClass.ofMaint (getLe x.bytes 16 1) = some cls)
    (hok : s1.maintOk cls (getLe x.bytes 17 1) (bitAt (getLe x.bytes 18 1) 0) (bitAt (getLe x.bytes 19 1) 0) (getLe x.bytes 20 4) = true)
    (hunits : s1.maintUnits cls ((List.range 8).filter (bitAt (getLe x.bytes 17 1))) (bitAt (getLe x.bytes 18 1) 0) (getLe x.bytes 20 4) ≠ []) :
    ∃ a, exec .maintStart s = .next (s1.startLong a) ∧ a.desc = x ∧ a.cls = cls := by
  refine ⟨{ LongOp.new x cls with
    dies := getLe x.bytes 17 1, hub := bitAt (getLe x.bytes 18 1) 0, waitIdle := bitAt (getLe x.bytes 19 1) 0
    todo := s1.maintUnits cls ((List.range 8).filter (bitAt (getLe x.bytes 17 1))) (bitAt (getLe x.bytes 18 1) 0)
      (getLe x.bytes 20 4) }, ?_, rfl, rfl⟩
  simp only [exec, execMaintStart, State.serve_of_take h, hcls, hok, Bool.not_true, Bool.false_eq_true, if_false, List.isEmpty_iff, hunits]

theorem execRoadmapGrow_starts (h : s.take 0x0051 = some (x, s1)) (harm : s1.armature.isSome = true) (hok : s1.growOk x = true)
    (huses : s1.usesRoadmap = true) (hserve : ∀ d ∈ s1.img.used, (s1.duOf d).serve = .serving)
    (hgrows : bitAt (getLe x.bytes 16 1) 0 = true ∨ s1.img.nodes < getLe x.bytes 20 4) :
    ∃ a, exec .roadmapGrow s = .next (s1.startLong a) ∧ a.desc = x ∧ a.cls = .grow := by
  refine ⟨{ LongOp.new x .grow with dies := maskOf ((List.range 8).map (fun k => s1.serving.contains k)) }, ?_, rfl, rfl⟩
  have hnone : ¬ s1.armature.isNone = true := by simpa [Option.isSome_iff_ne_none] using harm
  have hroom : ¬ s1.img.used.any s1.growRefused = true := by
    simp only [List.any_eq_true, not_exists, not_and]
    exact fun d hd => by simp [State.growRefused, hserve d hd]
  have hleft : ¬ ((!bitAt (getLe x.bytes 16 1) 0) = true ∧ getLe x.bytes 20 4 ≤ s1.img.nodes) := by
    rintro ⟨hreset, hle⟩
    obtain hr | hlt := hgrows
    · simp [hr] at hreset
    · omega
  simp only [exec, execRoadmapGrow, State.serve_of_take h, if_neg hnone, hok, huses, if_neg hroom, if_neg hleft, Bool.not_true,
    Bool.false_eq_true, if_false]

theorem execLedgerRead_starts (h : s.take 0x0060 = some (x, s1)) (hpart : getLe x.bytes 16 1 ≤ 2)
    (haddr : addrOk (getLe x.bytes 24 8) 64 = true) (hroom : ledLength (getLe x.bytes 16 1) ≤ getLe x.bytes 32 4) :
    exec .ledgerRead s = .next (s1.startLong (LongOp.new x .ledger)) := by
  have hform : ¬ (2 < getLe x.bytes 16 1 ∨ (!addrOk (getLe x.bytes 24 8) 64) = true) := by simp [haddr, hpart]
  simp only [exec, execLedgerRead, State.serve_of_take h, if_neg hform, if_neg (Nat.not_lt.2 hroom)]

end

end Sys2Proof.Machine

namespace Sys2Proof
open Sys2Proof.Machine

/-- Settles O30: each of the four descriptors ends in `State.startLong`, which puts its operation behind the others and changes
nothing beside operations, dispatch units, the image's state and the ledger's reading. -/
theorem longOperationsStart : Obligations.LongOperationsStart := by
  intro c op cls x s s1 htake hwhich
  obtain ⟨host, rfl⟩ := State.take_frame htake
  have hstart : ∃ u a, exec c s = .next (u.startLong a) ∧ a.desc = x ∧ a.cls = cls ∧ u.ops = s.ops ∧ u.host = host
      ∧ s.besideOps u = s := by
    obtain ⟨rfl, rfl, rfl, himage, hrefusal⟩ | ⟨rfl, rfl, hcls, hok, hunits⟩ | ⟨rfl, rfl, rfl, harm, hok, huses, hserve, hgrows⟩
      | ⟨rfl, rfl, rfl, hpart, haddr, hroom⟩ := hwhich
    · obtain ⟨a, hexec, hdesc, hcls⟩ := execLoadImage_starts htake himage hrefusal
      exact ⟨_, a, hexec, hdesc, hcls, rfl, rfl, rfl⟩
    · obtain ⟨a, hexec, hdesc, hcls⟩ := execMaintStart_starts htake hcls hok hunits
      exact ⟨_, a, hexec, hdesc, hcls, rfl, rfl, rfl⟩
    · obtain ⟨a, hexec, hdesc, hcls⟩ := execRoadmapGrow_starts htake harm hok huses hserve hgrows
      exact ⟨_, a, hexec, hdesc, hcls, rfl, rfl, rfl⟩
    · exact ⟨_, _, execLedgerRead_starts htake hpart haddr hroom, rfl, rfl, rfl, rfl, rfl⟩
  obtain ⟨u, a, hexec, rfl, rfl, hops, rfl, hbeside⟩ := hstart
  obtain ⟨⟨o, hlast, hdesc, hcls, hst, halone, hqueued⟩, hdescs, hhost, hrest⟩ := u.startLong_begun a
  rw [hops] at hdescs halone hqueued
  refine ⟨_, o, hexec, hlast, hdesc, hcls, hdescs, hst, halone, ?_, hhost, ?_⟩
  · rintro hload ⟨y, hy, hycls, hactive, hne⟩
    exact hqueued (by simp [hload]) (blocked_load hload hy hycls hactive hne)
  · have hsame := congrArg s.besideOps hrest
    simp only [State.besideOps] at hsame hbeside
    exact hsame.trans hbeside

end Sys2Proof

/-! ## Images unloaded and patched (R304, R322) -/

namespace Sys2Proof.Machine
open Sys2Proof

/-! ### UNLOAD_IMAGE -/

section
variable {s s1 : State} {x : Desc} (h : s.take 0x0011 = some (x, s1))
include h

theorem execUnloadImage_waits (hcur : s1.cyc.cur.isSome = true) :
    exec .unloadImage s = .next { s1 with host := { s1.host with started := x :: s1.host.started } } := by
  simp only [exec, execUnloadImage, State.serve_of_take h, hcur, if_true]

theorem execUnloadImage_stale (hcur : s1.cyc.cur = none) (hid : getLe x.bytes 16 8 ≠ 0)
    (hother : s1.img.active.map (fun i => i.hdr.id) ≠ some (getLe x.bytes 16 8)) :
    exec .unloadImage s = .next (s1.complete x .stale 0 0) := by
  simp only [exec, execUnloadImage, State.serve_of_take h, hcur, Option.isSome_none, Bool.false_eq_true, if_false,
    if_pos (And.intro hid hother)]

theorem execUnloadImage_unloads (hcur : s1.cyc.cur = none)
    (hid : getLe x.bytes 16 8 = 0 ∨ s1.img.active.map (fun i => i.hdr.id) = some (getLe x.bytes 16 8)) :
    exec .unloadImage s = .next (s1.unload.complete x .ok 0 0) := by
  have hgoes : ¬ (getLe x.bytes 16 8 ≠ 0 ∧ s1.img.active.map (fun i => i.hdr.id) ≠ some (getLe x.bytes 16 8)) :=
    fun hboth => hid.elim hboth.1 hboth.2
  simp only [exec, execUnloadImage, State.serve_of_take h, hcur, Option.isSome_none, Bool.false_eq_true, if_false, if_neg hgoes]

end

/-- An image unloaded (R304): gone with its armature and patches, the world cleared, no plan held, cause NO_IMAGE set; the memories
and registers stay. -/
theorem State.unload_effect (s : State) : s.unload.img.active = none ∧ s.unload.img.arm = none ∧ s.unload.img.patches = []
    ∧ s.unload.world = s.world.clear.1 ∧ s.unload.cyc.held = none ∧ bitAt s.unload.saf.causes 6 = true ∧ s.unload.mem = s.mem
    ∧ s.unload.regs = s.regs := by
  have hbit (v : Safety) : bitAt (v.set 6).causes 6 = true := bitAt_setBit_same _ _
  simp [State.unload, State.clearPlanning, State.cancelGrowth, hbit]

/-- The completion made due last is the descriptor's. -/
theorem State.complete_due_getLast (s : State) (d : Desc) (st : Status) (r0 r1 : Nat) :
    (s.complete d st r0 r1).host.due.getLast? = some ⟨d.ring, d.head.tag, st, d.head.opcode, d.head.seq, r0 % 2 ^ 32, r1 % 2 ^ 32,
      d.head.opcode == 0x0030 || d.head.opcode == 0x0031 || d.head.irq, false⟩ := by
  simp only [State.complete, List.getLast?_concat]

/-! ### PATCH_PARAMS -/

/-- A patch whose entries keep the image valid waits for the next snapshot (R322). -/
theorem execPatchParams_waits {s s1 : State} {x : Desc} {i : Image} {p : List Byte} {es : List PatchEntry}
    (h : s.take 0x0012 = some (x, s1)) (hi : s1.img.active = some i) (hid : getLe x.bytes 16 8 = i.hdr.id)
    (haddr : getLe x.bytes 24 8 % 64 = 0) (hp : s1.payload x = .ok p) (hes : patchEntries i.params p.length p = some es)
    (hok : patchOk i (applyPatch (s1.img.patches.foldl (fun ps y => applyPatch ps y.entries) s1.img.params) es) = true) :
    exec .patchParams s = .next (State.complete { s1 with img := { s1.img with
      patches := s1.img.patches ++ [⟨es, s1.img.gen + 1⟩], gen := s1.img.gen + 1 } } x .ok (s1.img.gen + 1) s1.world.nextEpoch) := by
  simp only [exec, execPatchParams, State.serve_of_take h, hi, hid, haddr, hp, hes, hok, ne_eq, not_true_eq_false, if_false,
    Bool.not_true, Bool.false_eq_true]

end Sys2Proof.Machine

namespace Sys2Proof
open Sys2Proof.Machine

/-- Settles O34: the descriptor taken up changes the host's books alone, so each row is judged on the state as it stood. -/
theorem imagesUnloadAndPatch : Obligations.ImagesUnloadAndPatch := by
  intro x s s1
  refine ⟨fun htake => ?_, fun htake i p es hi hid haddr hp hes hok => ?_⟩
  · obtain ⟨host, rfl⟩ := State.take_frame htake
    refine ⟨fun hcur hid => ?_, fun hcur hid hother => execUnloadImage_stale htake hcur hid hother, fun hcur =>
      execUnloadImage_waits htake hcur⟩
    obtain ⟨hactive, harm, hpatches, hworld, hheld, hcause, hmem, hregs⟩ := State.unload_effect { s with host := host }
    exact ⟨_, execUnloadImage_unloads htake hcur hid, hactive, harm, hpatches, hworld, hheld, hcause,
      (State.complete_due_getLast ..).trans (State.complete_due_getLast ..).symm, hmem, hregs⟩
  · obtain ⟨host, rfl⟩ := State.take_frame htake
    exact execPatchParams_waits htake hi hid haddr hp hes hok

end Sys2Proof

/-! ## Images activated (R303, R309, R310, R317) -/

namespace Sys2Proof.Machine
open Sys2Proof

/-! ### IMAGES_ACTIVATED -/

theorem Aon.foldl_images {α : Type} {g : Aon → α → Aon} (h : ∀ a x, (g a x).ctr.images = a.ctr.images) (xs : List α) (a : Aon) :
    (xs.foldl g a).ctr.images = a.ctr.images := by
  induction xs generalizing a with
  | nil => rfl
  | cons x r ih => exact (ih _).trans (h a x)

theorem Aon.logOne_images (a : Aon) (r : FaultRec) : (a.logOne r).ctr.images = a.ctr.images := by
  unfold Aon.logOne
  extract_lets win n p
  split <;> rfl

theorem Aon.checkpoint_images (a : Aon) (why : CkReason) (fails : Nat) : (a.checkpoint why fails).ctr.images = a.ctr.images :=
  (Aon.foldl_images (fun _ _ => by rfl) _ _).trans (Aon.foldl_images Aon.logOne_images _ _)

theorem Aon.faultCheckpoint_images (a : Aon) : a.faultCheckpoint.ctr.images = a.ctr.images := by
  unfold Aon.faultCheckpoint
  split
  · exact a.checkpoint_images _ _
  · rfl

theorem Aon.enter_images (a : Aon) (f : Fault0) (merged time : Nat) : (a.enter f merged time).1.ctr.images = a.ctr.images := by
  unfold Aon.enter
  dsimp only
  split
  · exact (Aon.faultCheckpoint_images _).trans (Aon.logOne_images _ _)
  · rfl

theorem Aon.arbCommit_images (a : Aon) (h : ImgHeader) : (a.arbCommit h).ctr.images = a.ctr.images := by
  unfold Aon.arbCommit
  split <;> rfl

/-- IMAGES_ACTIVATED of a state (R506). -/
def State.activations (s : State) : Nat := s.aon.ctr.images

section
variable (s : State)

theorem State.send_activations (f : Fault0) (n : Nat) : (s.send f n).activations = s.activations := by
  unfold State.send State.activations
  dsimp only
  split <;> simp [Aon.enter_images]

theorem State.record_activations (f : Fault0) : (s.record f).activations = s.activations := by
  have hsent := s.send_activations f 0
  unfold State.record
  dsimp only
  generalize s.send f 0 = u at *
  split
  · exact hsent
  · split
    · rfl
    · split <;> exact hsent

theorem State.staleReports_activations : s.staleReports.activations = s.activations := by
  have reported (u : State) : State.activations ((List.range 8).foldl (fun (s : State) d =>
      if (s.duOf d).stale = 0 then s
      else (s.record ⟨.staleDrop, .info, ⟨d, 15, 15, 0xA⟩, (s.duOf d).stale, (s.duOf d).staleEpoch⟩).mapDu d
        (fun u => { u with stale := 0, staleEpoch := 0 })) u) = u.activations :=
    foldl_same State.activations (fun u x => by split; exacts [rfl, u.record_activations _]) _ _
  have cleared (u : State) : State.activations { u with cyc := { u.cyc with stale := (0, 0) } } = u.activations := rfl
  unfold State.staleReports
  dsimp only
  split
  · exact reported s
  · exact (cleared _).trans ((State.record_activations _ _).trans (reported s))

theorem State.begin_activations (o : LongOp) : (s.begin_ o).activations = s.activations := by
  unfold State.begin_
  dsimp only
  repeat' split
  all_goals rfl

theorem State.opsRun_activations (old : List LongOp) : (s.opsRun old).activations = s.activations :=
  s.opsRun_same State.activations old State.begin_activations (fun _ _ _ _ => by simp [State.activations]) (fun _ _ => rfl) (fun _ _ => rfl)

theorem State.withOps_activations (r : OpsOut) : (s.withOps r).activations = s.activations := by
  have hends (u : State) (old : List LongOp) : (u.runEnds old).activations = u.activations := by
    unfold State.runEnds
    split
    · exact u.staleReports_activations
    · rfl
  have hall (u : State) (xs : List (Desc × Status)) : (u.completeAll xs).activations = u.activations := by simp [State.activations]
  unfold State.withOps
  dsimp only
  rw [hends, State.opsRun_activations, hall]
  exact foldl_same State.activations (fun _ _ => by simp [State.activations]) _ _

end

/-! ### What long operations leave of the image's state -/

/-- The image's state without the staging areas and the roadmap. -/
def ImgState.inForce (v : ImgState) : ImgState := { v with staged := [], region := none, nodes := 0, estat := [] }

section
variable (s : State)

theorem State.begin_inForce (o : LongOp) : (s.begin_ o).img.inForce = s.img.inForce := by
  unfold State.begin_
  dsimp only
  repeat' split
  all_goals rfl

/-- A roadmap without nodes stays so when an operation begins (R143). -/
theorem State.begin_nodes {s : State} (h : s.img.nodes = 0) (o : LongOp) : (s.begin_ o).img.nodes = 0 := by
  unfold State.begin_
  split
  · exact h
  · dsimp only
    split
    · split
      · rfl
      · exact h
    · exact h
    · exact h

theorem State.opsRun_inForce (old : List LongOp) : (s.opsRun old).img.inForce = s.img.inForce :=
  s.opsRun_same (fun u => u.img.inForce) old State.begin_inForce (fun _ _ _ _ => by simp) (fun _ _ => rfl) (fun _ _ => rfl)

theorem State.opsRun_nodes {s : State} (h : s.img.nodes = 0) (old : List LongOp) : (s.opsRun old).img.nodes = 0 := by
  have fired (u : State) (xs ys : List LongOp) (hu : u.img.nodes = 0) : ImgState.nodes (State.img (ys.foldl (fun (s : State) o =>
      s.fireOn ((List.range 8).filter (fun d => bitAt o.dies d)) .longopRun o.cls.code) (xs.foldl State.begin_ u))) = 0 := by
    rw [foldl_same State.img (fun _ _ => by simp)]
    exact List.foldlRecOn (motive := fun u : State => u.img.nodes = 0) xs State.begin_ hu fun u hu o _ => State.begin_nodes hu o
  unfold State.opsRun
  dsimp only
  split <;> split <;> exact fired _ _ _ h

theorem State.runEnds_img (old : List LongOp) : (s.runEnds old).img = s.img := by
  unfold State.runEnds
  split <;> simp

theorem State.withOps_inForce (r : OpsOut) : (s.withOps r).img.inForce = s.img.inForce := by
  unfold State.withOps
  dsimp only
  rw [State.runEnds_img, State.opsRun_inForce]
  simp only [State.completeAll_frame]
  rw [foldl_same State.img (fun _ _ => by simp)]
  rfl

theorem State.withOps_nodes {s : State} (h : s.img.nodes = 0) (r : OpsOut) : (s.withOps r).img.nodes = 0 := by
  unfold State.withOps
  dsimp only
  rw [State.runEnds_img]
  refine State.opsRun_nodes ?_ _
  simp only [State.completeAll_frame]
  rw [foldl_same State.img (fun _ _ => by simp)]
  exact h

end

/-! ### Tables and copies placed -/

/-- A section placed in a die's LPDDR, where the die has a region for it (R309). -/
def State.putCopy (s : State) (d kind : Nat) (bs : List Byte) : State :=
  match s.placeOf d kind bs.length with
  | some a => s.cohWrite a bs
  | none => s

section
variable (s : State)

theorem State.putCopy_frame (d kind : Nat) (bs : List Byte) : { s.putCopy d kind bs with mem := s.mem, coh := s.coh } = s := by
  unfold State.putCopy
  split
  · exact s.cohWrite_only _ bs
  · rfl

theorem State.putCopy_some {s : State} {d kind a : Nat} {bs : List Byte} (h : s.placeOf d kind bs.length = some a) :
    s.putCopy d kind bs = s.cohWrite a bs := by
  simp only [State.putCopy, h]

theorem State.putCopy_none {s : State} {d kind : Nat} {bs : List Byte} (h : s.placeOf d kind bs.length = none) :
    s.putCopy d kind bs = s := by
  simp only [State.putCopy, h]

/-- The copies of a die: the library and the armature, where an image is in force. -/
theorem State.placeCopies_eq (d : Nat) : s.placeCopies d = s
    ∨ ∃ lib raw, s.placeCopies d = (s.putCopy d 0x0C lib).putCopy d 0x0E raw := by
  unfold State.placeCopies
  split
  · next i a _ _ =>
    refine .inr ⟨i.lib, a.raw, ?_⟩
    dsimp only
    cases hlib : s.placeOf d 0x0C i.lib.length with
    | none =>
      rw [State.putCopy_none hlib]
      cases hraw : s.placeOf d 0x0E a.raw.length with
      | none => rw [State.putCopy_none hraw]
      | some y => rw [State.putCopy_some hraw]
    | some x =>
      rw [State.putCopy_some hlib]
      dsimp only
      cases hraw : (s.cohWrite x i.lib).placeOf d 0x0E a.raw.length with
      | none => rw [State.putCopy_none hraw]
      | some y => rw [State.putCopy_some hraw]
  · exact .inl rfl

theorem State.placeCopies_frame (d : Nat) : (s.placeCopies d).img = s.img ∧ (s.placeCopies d).activations = s.activations := by
  have hput (u : State) (kind : Nat) (bs : List Byte) : (u.putCopy d kind bs).img = u.img ∧ (u.putCopy d kind bs).activations = u.activations :=
    ⟨(congrArg State.img (u.putCopy_frame d kind bs) :), (congrArg State.activations (u.putCopy_frame d kind bs) :)⟩
  obtain h | ⟨lib, raw, h⟩ := s.placeCopies_eq d
  · rw [h]
    exact ⟨rfl, rfl⟩
  · rw [h]
    exact ⟨(hput _ _ _).1.trans (hput _ _ _).1, (hput _ _ _).2.trans (hput _ _ _).2⟩

theorem State.takeUp_frame (ds : List Nat) :
    (s.takeUp ds).img = { s.img with used := ds } ∧ (s.takeUp ds).activations = s.activations := by
  unfold State.takeUp
  dsimp only
  refine ⟨(foldl_same State.img (fun u d => (u.placeCopies_frame d).1) _ _).trans ?_,
    (foldl_same State.activations (fun u d => (u.placeCopies_frame d).2) _ _).trans ?_⟩
  · rw [foldl_same State.img (fun _ _ => by simp)]
  · exact foldl_same State.activations (fun _ _ => by simp [State.activations]) _ _

theorem State.loadCore_frame (d c : Nat) (e : CoreEntry) :
    (s.loadCore d c e).img = s.img ∧ (s.loadCore d c e).activations = s.activations := ⟨rfl, rfl⟩

theorem State.loadDie_frame (d : Nat) : (s.loadDie d).img = s.img ∧ (s.loadDie d).activations = s.activations := by
  have hfresh (u : State) : (u.freshDu d).img = u.img ∧ (u.freshDu d).activations = u.activations := by simp [State.activations]
  refine ⟨(hfresh _).1.trans (foldl_same State.img (fun u e => ?_) _ s),
    (hfresh _).2.trans (foldl_same State.activations (fun u e => ?_) _ s)⟩
  · exact (u.loadCore_frame d e.2 e.1).1
  · exact (u.loadCore_frame d e.2 e.1).2

theorem State.loadTables_frame : s.loadTables.img = s.img ∧ s.loadTables.activations = s.activations :=
  ⟨foldl_same State.img (fun u d => (u.loadDie_frame d).1) _ _, foldl_same State.activations (fun u d => (u.loadDie_frame d).2) _ _⟩

theorem State.newFloor_frame : s.newFloor.img = s.img ∧ s.newFloor.activations = s.activations ∧ s.newFloor.mem = s.mem := by
  have hheld : s.thermHold.img = s.img ∧ s.thermHold.activations = s.activations ∧ s.thermHold.mem = s.mem := by
    have hrecorded := State.record_activations { s with saf := { s.saf with hold := true } }
      ⟨.therm, .hold, if s.clk.tDie = 8 then Loc.hub 5 else Loc.ofDie s.clk.tDie, s.clk.tSite, code 32 s.clk.tNow⟩
    refine ⟨?_, hrecorded, ?_⟩ <;> simp [State.thermHold, State.fault]
  unfold State.newFloor
  split
  · exact ⟨rfl, rfl, rfl⟩
  · split
    · exact hheld
    · exact ⟨rfl, rfl, rfl⟩

end

end Sys2Proof.Machine

namespace Sys2Proof.Machine
open Sys2Proof

/-! ### What an activation leaves of device memory -/

/-- An address past the LPDDR of the dies and outside every scratchpad (R356, R357). -/
def OffTables (b : Nat) : Prop := 0x10000000000 ≤ b ∧ ∀ k, k < 128 → b < scratchBase k ∨ scratchBase k + 0x80000 ≤ b

/-- No table's address holds anything else than before. -/
def KeepsOffTables (s t : State) : Prop := ∀ b, OffTables b → t.mem.get b = s.mem.get b

theorem KeepsOffTables.trans {s t u : State} (h : KeepsOffTables s t) (g : KeepsOffTables t u) : KeepsOffTables s u :=
  fun b hb => (g b hb).trans (h b hb)

/-- Copies of lines are no longer than a line. -/
def LinesShort (s : State) : Prop := ∀ x ∈ s.coh.caches, x.data.length ≤ 64

/-- The regions and tables of a die slot lie within their memories (R308, R309). -/
structure DieSlot.Fits (d : DieSlot) : Prop where
  regions : ∀ r ∈ d.regions, r.off + r.size ≤ 0x200000000
  cores : d.cores.length ≤ 16
  tables : ∀ c ∈ d.cores, c.stepsOff + 16 * c.steps.length ≤ 0x80000 ∧ c.poolOff + 16 * c.pool.length ≤ 0x80000

/-- The image in force fits. -/
def State.Fitting (s : State) : Prop := ∃ i, s.img.active = some i ∧ i.tablesFit = true

theorem State.Fitting.slot {s : State} (h : s.Fitting) {d : Nat} {k : DieSlot} (hk : s.dieSlot d = some k) : k.Fits := by
  obtain ⟨i, hi, hfit⟩ := h
  simp only [State.dieSlot, State.armature, hi, Option.bind_eq_bind, Option.bind_eq_some_iff, Option.some.injEq] at hk
  obtain ⟨a, ⟨_, rfl, n, -, ha⟩, m, -, hslot⟩ := hk
  simp only [Image.tablesFit, List.all_eq_true, Bool.and_eq_true, decide_eq_true_eq] at hfit
  obtain ⟨⟨hregions, hcores⟩, htables⟩ := hfit a (List.mem_of_getElem? ha) k (List.mem_of_getElem? hslot)
  exact ⟨hregions, hcores, htables⟩

/-- Addresses that a test does not name keep their bytes. -/
theorem get_clearWhere_other (m : Memory) (p : Nat → Bool) (b : Nat) (h : p b = false) : (m.clearWhere p).get b = m.get b := by
  unfold Memory.clearWhere
  induction m with
  | nil => rfl
  | cons c r ih =>
    obtain ⟨a, v⟩ := c
    by_cases hab : a = b
    · subst hab
      rw [List.filter_cons_of_pos (by simp [h])]
      simp only [Memory.get, if_true]
    · by_cases hp : p a = true
      · rw [List.filter_cons_of_neg (by simp [hp]), ih]
        simp only [Memory.get, if_neg hab]
      · rw [List.filter_cons_of_pos (by simp [hp])]
        simp only [Memory.get, if_neg hab, ih]

/-- Cache regions are of LPDDR (R200, R309). -/
theorem State.clearCaches_keeps {s : State} (h : s.Fitting) (p : Nat → Bool) : KeepsOffTables s (s.clearCaches p) := by
  intro b hb
  unfold State.clearCaches
  dsimp only
  refine get_clearWhere_other _ _ _ (Bool.eq_false_iff.2 fun hany => ?_)
  obtain ⟨base, hbase, hin⟩ := List.any_eq_true.1 hany
  obtain ⟨core, hcore, hplace⟩ := List.mem_filterMap.1 hbase
  have hlt : core < 128 := List.mem_range.1 (List.mem_filter.1 hcore).1
  obtain ⟨r, hr, rfl⟩ := Option.map_eq_some_iff.1 hplace
  obtain ⟨k, hk, hregion⟩ := Option.bind_eq_some_iff.1 hr
  have hoff := (h.slot hk).regions r (List.mem_of_find?_eq_some hregion)
  have hpast := hb.1
  have hle := of_decide_eq_true (Bool.and_eq_true_iff.1 hin).1
  rw [lpddrBase] at hle
  omega

/-- A coherent write into LPDDR, the cached lines of its range written back before it (R380). -/
theorem State.cohWrite_keeps {s : State} (hlines : LinesShort s) {a : Nat} {bs : List Byte} (ha : a + bs.length ≤ 0x1000000000) :
    KeepsOffTables s (s.cohWrite a bs) ∧ LinesShort (s.cohWrite a bs) := by
  refine ⟨fun b hb => ?_, fun x hx => hlines x (List.mem_filter.1 hx).1⟩
  have hpast := hb.1
  refine (get_write_other _ a bs b (.inr (by omega))).trans ?_
  refine List.foldlRecOn (motive := fun m : Memory => m.get b = s.mem.get b) (linesOf a bs.length) _ rfl fun m hm l hl => ?_
  cases ho : s.ownerOf l with
  | none => exact hm
  | some x =>
    refine (get_write_other m _ x.data b (.inr ?_)).trans hm
    have hshort := hlines x (List.mem_of_find?_eq_some ho)
    obtain ⟨j, hj, rfl⟩ := List.mem_map.1 hl
    have hlt := List.mem_range.1 hj
    omega

/-- A region's place lies in the LPDDR of its die. -/
theorem State.placeOf_le {s : State} (h : s.Fitting) {d kind n a : Nat} (hd : d < 8) (ha : s.placeOf d kind n = some a) :
    a + n ≤ 0x1000000000 := by
  simp only [State.placeOf, Option.bind_eq_bind, Option.bind_eq_some_iff, Option.pure_def, Option.some.injEq] at ha
  obtain ⟨k, hk, r, hr, rfl⟩ := ha
  have hoff := (h.slot hk).regions r (List.mem_of_find?_eq_some hr)
  have hsize := List.find?_some hr
  simp only [Bool.and_eq_true, decide_eq_true_eq] at hsize
  rw [lpddrBase]
  omega

/-- What placing and loading keep: the image's state, short lines, and what lies off the tables. -/
structure Laying (s t : State) : Prop where
  active : t.img.active = s.img.active
  short : LinesShort t
  mem : KeepsOffTables s t

theorem Laying.trans {s t u : State} (h : Laying s t) (g : Laying t u) : Laying s u :=
  ⟨g.active.trans h.active, g.short, h.mem.trans g.mem⟩

theorem Laying.fitting {s t : State} (h : Laying s t) (hs : s.Fitting) : t.Fitting := by
  obtain ⟨i, hi, hfit⟩ := hs
  exact ⟨i, h.active.trans hi, hfit⟩

/-- A fold whose turns lay tables lays tables. -/
theorem Laying.foldl {α : Type} {g : State → α → State} {xs : List α} {s : State} (hs : s.Fitting) (hlines : LinesShort s)
    (h : ∀ u x, x ∈ xs → u.Fitting → LinesShort u → Laying u (g u x)) : Laying s (xs.foldl g s) :=
  List.foldlRecOn (motive := Laying s) xs g ⟨rfl, hlines, fun _ _ => rfl⟩ fun u hu x hx =>
    hu.trans (h u x hx (hu.fitting hs) hu.short)

section
variable {s : State} (hs : s.Fitting) (hlines : LinesShort s)
include hs hlines

theorem State.putCopy_laying {d : Nat} (hd : d < 8) (kind : Nat) (bs : List Byte) : Laying s (s.putCopy d kind bs) := by
  cases ha : s.placeOf d kind bs.length with
  | none =>
    rw [State.putCopy_none ha]
    exact ⟨rfl, hlines, fun _ _ => rfl⟩
  | some a =>
    rw [State.putCopy_some ha]
    obtain ⟨hmem, hshort⟩ := State.cohWrite_keeps hlines (State.placeOf_le hs hd ha)
    exact ⟨rfl, hshort, hmem⟩

theorem State.placeCopies_laying {d : Nat} (hd : d < 8) : Laying s (s.placeCopies d) := by
  obtain h | ⟨lib, raw, h⟩ := s.placeCopies_eq d
  · rw [h]
    exact ⟨rfl, hlines, fun _ _ => rfl⟩
  · rw [h]
    have hlib := State.putCopy_laying hs hlines hd 0x0C lib
    exact hlib.trans (State.putCopy_laying (hlib.fitting hs) hlib.short hd 0x0E raw)

theorem State.takeUp_laying {ds : List Nat} (hds : ∀ d ∈ ds, d < 8) : Laying s (s.takeUp ds) := by
  unfold State.takeUp
  dsimp only
  have hmarked : Laying s ((ds.filter (fun d => !s.img.used.contains d)).foldl (fun (s : State) d =>
      s.mapDie d (fun x => { x with allTiles := true })) s) :=
    Laying.foldl hs hlines fun u d _ _ hu => ⟨rfl, hu, fun _ _ => rfl⟩
  generalize (ds.filter (fun d => !s.img.used.contains d)).foldl (fun (s : State) d =>
    s.mapDie d (fun x => { x with allTiles := true })) s = u at *
  have hused : Laying s { u with img := { u.img with used := ds } } := ⟨hmarked.active, hmarked.short, hmarked.mem⟩
  exact hused.trans (Laying.foldl (hused.fitting hs) hused.short fun v d hd hv hshort => State.placeCopies_laying hv hshort (hds d hd))

end

theorem length_cohRead_le (s : State) (a n : Nat) : (s.cohRead a n).length ≤ n := by
  rw [State.cohRead, List.length_take]
  exact Nat.min_le_left ..

theorem length_words (ws : List Nat) : (ws.flatMap (leBytes 16)).length = 16 * ws.length := by
  induction ws with
  | nil => rfl
  | cons w r ih => rw [List.flatMap_cons, List.length_append, length_leBytes, ih, List.length_cons]; omega

/-- A core's tables go to its scratchpad, however their bytes come (R303, R317). -/
theorem State.loadCore_eq (s : State) (d c : Nat) (e : CoreEntry) : ∃ steps pool : List Byte,
    s.loadCore d c e = (s.poke (scratchBase (d * 16 + c) + e.stepsOff) steps).poke (scratchBase (d * 16 + c) + e.poolOff) pool
    ∧ steps.length ≤ 16 * e.steps.length ∧ pool.length ≤ 16 * e.pool.length := by
  refine ⟨_, _, rfl, ?_, ?_⟩ <;>
  · dsimp only
    split
    · split
      · exact (length_words _).le
      · exact length_cohRead_le ..
    · exact (length_words _).le

section
variable {s : State}

theorem State.loadCore_laying (hlines : LinesShort s) {d c : Nat} {e : CoreEntry} (hd : d < 8) (hc : c < 16)
    (he : e.stepsOff + 16 * e.steps.length ≤ 0x80000 ∧ e.poolOff + 16 * e.pool.length ≤ 0x80000) : Laying s (s.loadCore d c e) := by
  obtain ⟨steps, pool, heq, hsteps, hpool⟩ := s.loadCore_eq d c e
  refine ⟨(congrArg ImgState.active (s.loadCore_frame d c e).1 :), ?_, fun b hb => ?_⟩
  · rw [heq]
    exact hlines
  · have hout := hb.2 (d * 16 + c) (by omega)
    rw [heq]
    refine (get_write_other _ _ pool b ?_).trans (get_write_other _ _ steps b ?_)
    · omega
    · omega

theorem State.loadDie_laying (hs : s.Fitting) (hlines : LinesShort s) {d : Nat} (hd : d < 8) : Laying s (s.loadDie d) := by
  unfold State.loadDie
  have hcores : Laying s ((((s.dieSlot d).map (·.cores)).getD []).zipIdx.foldl (fun (s : State) e => s.loadCore d e.2 e.1) s) := by
    refine Laying.foldl hs hlines fun u e he _ hshort => ?_
    obtain ⟨e, c⟩ := e
    cases hk : s.dieSlot d with
    | none => simp [hk] at he
    | some k =>
      rw [hk, Option.map_some, Option.getD_some] at he
      have hfits := hs.slot hk
      have hc := List.snd_lt_of_mem_zipIdx he
      exact State.loadCore_laying hshort hd (by have := hfits.cores; omega) (hfits.tables e (List.fst_mem_of_mem_zipIdx he))
  refine hcores.trans ⟨by simp, ?_, fun b _ => by simp⟩
  intro x hx
  simp only [State.freshDu_frame] at hx
  exact hcores.short x hx

theorem State.loadTables_laying (hs : s.Fitting) (hlines : LinesShort s) : Laying s s.loadTables :=
  Laying.foldl hs hlines fun _ _ hd hu hshort => State.loadDie_laying hu hshort (List.mem_range.1 hd)

end

end Sys2Proof.Machine

namespace Sys2Proof.Machine
open Sys2Proof

/-! ### The activation -/

/-- Steps 3 and 4 of R303 before the tables: growth cancelled, the plan cleared, the image in force with its armature. -/
def State.putInForce (s : State) (i : Image) : State :=
  let s := s.cancelGrowth.clearPlanning.1
  { s with
    img := { s.img with active := some i, params := i.params, patches := [], gen := 0, arm := chooseArm i.arms s.serving.length }
    aon := ({ s.aon with ctr := { s.aon.ctr with images := satInc 32 s.aon.ctr.images } } : Aon).arbCommit i.hdr
    cyc := { s.cyc with epoch := (s.cyc.epoch + 1) % 2 ^ 32 } }

/-- The image in force with its caches cleared and its tables in the memories of the dies. -/
def State.placed (s : State) (i : Image) : State :=
  let u := s.putInForce i
  ((u.clearCaches (fun _ => true)).takeUp (u.usedBy i u.img.arm)).loadTables.newFloor

section
variable (s : State) (i : Image)

/-- An activation that the dies permit: the image placed, then the long operations changed. -/
theorem State.activate_eq {s : State} {i : Image} (h : diesCheck i s.healthy.length s.clk.step = none) (o : LongOp) :
    ∃ u ops r, u = s.placed i ∧ s.activate o i = State.withOps { u with ops := ops } r := by
  unfold State.activate
  rw [h]
  exact ⟨s.placed i, _, _, rfl, rfl⟩

theorem State.cancelGrowth_serving : s.cancelGrowth.serving = s.serving := by
  have hpkg : s.cancelGrowth.pkg = s.pkg := by simp [State.cancelGrowth]
  simp only [State.serving, State.die, hpkg]

theorem State.putInForce_img : (s.putInForce i).img.active = some i ∧ (s.putInForce i).img.params = i.params
    ∧ (s.putInForce i).img.patches = [] ∧ (s.putInForce i).img.gen = 0
    ∧ (s.putInForce i).img.arm = chooseArm i.arms s.serving.length ∧ (s.putInForce i).img.nodes = 0 :=
  ⟨rfl, rfl, rfl, rfl, congrArg (fun ds : List Nat => chooseArm i.arms ds.length) s.cancelGrowth_serving, rfl⟩

theorem State.putInForce_activations : (s.putInForce i).activations = min (s.activations + 1) (2 ^ 32 - 1) := by
  refine (Aon.arbCommit_images _ _).trans ?_
  exact congrArg (fun n => min (n + 1) (2 ^ 32 - 1)) (s.withOps_activations _)

theorem State.putInForce_steady : (s.putInForce i).steady = { s.steady with
    world := s.world.clear.1, eng := EngSt.reset, params := i.params, patches := []
    cyc := { s.steady.cyc with held := none, history := [], lost := [], epoch := (s.cyc.epoch + 1) % 2 ^ 32 } } := by
  have hcancel : s.cancelGrowth.steady = s.steady := s.withOps_steady _
  have hput (u : State) : State.steady { u.clearPlanning.1 with
      img := { u.clearPlanning.1.img with active := some i, params := i.params, patches := [], gen := 0, arm := chooseArm i.arms u.serving.length }
      aon := ({ u.aon with ctr := { u.aon.ctr with images := satInc 32 u.aon.ctr.images } } : Aon).arbCommit i.hdr
      cyc := { u.clearPlanning.1.cyc with epoch := (u.cyc.epoch + 1) % 2 ^ 32 } }
      = { u.steady with world := u.steady.world.clear.1, eng := EngSt.reset, params := i.params, patches := []
                        cyc := { u.steady.cyc with held := none, history := [], lost := [], epoch := (u.steady.cyc.epoch + 1) % 2 ^ 32 } } := rfl
  refine (hput s.cancelGrowth).trans ?_
  rw [hcancel]
  rfl

theorem State.putInForce_memory : (s.putInForce i).mem = s.mem ∧ (s.putInForce i).coh = s.coh := by
  simp [State.putInForce, State.clearPlanning, State.cancelGrowth]

theorem State.placed_img : (s.placed i).img = { (s.putInForce i).img with used := (s.putInForce i).usedBy i (s.putInForce i).img.arm } :=
  (State.newFloor_frame _).1.trans ((State.loadTables_frame _).1.trans (State.takeUp_frame _ _).1)

theorem State.placed_activations : (s.placed i).activations = (s.putInForce i).activations :=
  (State.newFloor_frame _).2.1.trans ((State.loadTables_frame _).2.trans (State.takeUp_frame _ _).2)

theorem State.placed_steady : (s.placed i).steady = (s.putInForce i).steady :=
  (State.newFloor_steady _).trans ((State.loadTables_steady _).trans ((State.takeUp_steady _ _).trans (State.clearCaches_steady _ _)))

theorem State.usedBy_lt {s : State} {i : Image} {k : Option Nat} {d : Nat} (h : d ∈ s.usedBy i k) : d < 8 := by
  unfold State.usedBy at h
  split at h
  · exact List.mem_range.1 (List.mem_filter.1 (List.mem_of_mem_take h)).1
  · exact absurd h List.not_mem_nil

/-- An image that fits its memories is placed within them. -/
theorem State.placed_keeps {s : State} {i : Image} (hfit : i.tablesFit = true) (hlines : LinesShort s) : KeepsOffTables s (s.placed i) := by
  obtain ⟨hmem, hcoh⟩ := s.putInForce_memory i
  have hforce : (s.putInForce i).Fitting := ⟨i, rfl, hfit⟩
  have hshort : LinesShort (s.putInForce i) := fun x hx => hlines x (by rwa [hcoh] at hx)
  have hclear : Laying (s.putInForce i) ((s.putInForce i).clearCaches (fun _ => true)) := ⟨rfl, hshort, State.clearCaches_keeps hforce _⟩
  have htake := hclear.trans (State.takeUp_laying (hclear.fitting hforce) hclear.short
    (ds := (s.putInForce i).usedBy i (s.putInForce i).img.arm) fun _ => State.usedBy_lt)
  have hload := htake.trans (State.loadTables_laying (htake.fitting hforce) htake.short)
  intro b hb
  calc (s.placed i).mem.get b = (s.putInForce i).mem.get b := (congrArg (Memory.get · b) (State.newFloor_frame _).2.2).trans (hload.mem b hb)
    _ = s.mem.get b := by rw [hmem]

/-- The image's state in force names the image, its parameters and its armature, whatever dies it runs on. -/
theorem ImgState.of_inForce {v w : ImgState} {ds : List Nat} (h : v.inForce = ({ w with used := ds } : ImgState).inForce) :
    v.active = w.active ∧ v.params = w.params ∧ v.patches = w.patches ∧ v.gen = w.gen ∧ v.arm = w.arm :=
  ⟨(congrArg ImgState.active h :), (congrArg ImgState.params h :), (congrArg ImgState.patches h :), (congrArg ImgState.gen h :),
    (congrArg ImgState.arm h :)⟩

/-- What a change of the long operations leaves of a state, the list of them replaced before it. -/
theorem State.withOps_replaced {s : State} (hnodes : s.img.nodes = 0) (ops : List LongOp) (r : OpsOut) :
    (State.withOps { s with ops := ops } r).img.inForce = s.img.inForce
    ∧ (State.withOps { s with ops := ops } r).img.nodes = 0
    ∧ (State.withOps { s with ops := ops } r).activations = s.activations
    ∧ (State.withOps { s with ops := ops } r).steady = s.steady
    ∧ (State.withOps { s with ops := ops } r).mem = s.mem :=
  ⟨State.withOps_inForce _ r, State.withOps_nodes (s := { s with ops := ops }) hnodes r, State.withOps_activations _ r,
    State.withOps_steady _ r, by simp⟩

theorem execImageActivation_activates {s : State} {i : Image} {o : LongOp}
    (ho : s.ops.find? (fun o => o.cls == .load && o.stage == .activate && o.st == .running) = some o) (hcur : s.cyc.cur = none)
    (hup : s.hubDown = false) (hidle : o.desc.idleAct = true → s.cyc.queue = []) (hi : (s.stagedOf o.desc).img = some i) :
    exec .imageActivation s = .next (s.activate o i) := by
  have hfree : ¬ (s.cyc.cur.isSome = true ∨ s.hubDown = true ∨ (o.desc.idleAct = true ∧ (!s.cyc.queue.isEmpty) = true)) := by
    rintro (h | h | ⟨h, hq⟩)
    · simp [hcur] at h
    · simp [hup] at h
    · simp [hidle h] at hq
  simp only [exec, execImageActivation, ho, if_neg hfree, hi]

end

end Sys2Proof.Machine

namespace Sys2Proof
open Sys2Proof.Machine

/-- Settles O33: the image in force is what the activation puts there; the tables placed, the floor and the long operations
changed after it leave that, and what they write lies in LPDDR and the scratchpads where the image fits. -/
theorem imagesActivate : Obligations.ImagesActivate := by
  intro o i s ho hcur hup hidle hi hdies
  obtain ⟨u, ops, r, hu, hact⟩ := State.activate_eq hdies o
  refine ⟨_, execImageActivation_activates ho hcur hup hidle hi, ?_⟩
  rw [hact]
  obtain ⟨hactive, hparams, hpatches, hgen, harm, hnodes⟩ := s.putInForce_img i
  have himg : u.img = _ := (congrArg State.img hu).trans (s.placed_img i)
  obtain ⟨hforce, hzero, hcount, hsteady, hmem⟩ :=
    State.withOps_replaced ((congrArg ImgState.nodes himg).trans hnodes) ops r
  obtain ⟨hactive', hparams', hpatches', hgen', harm'⟩ := ImgState.of_inForce (hforce.trans (congrArg ImgState.inForce himg))
  have hkept := hsteady.trans ((congrArg State.steady hu).trans ((s.placed_steady i).trans (s.putInForce_steady i)))
  have hactivated := hcount.trans ((congrArg State.activations hu).trans ((s.placed_activations i).trans (s.putInForce_activations i)))
  refine ⟨hactive'.trans hactive, hparams'.trans hparams, hpatches'.trans hpatches, hgen'.trans hgen, harm'.trans harm, hzero,
    (congrArg Steady.world hkept :), (congrArg (fun v => v.cyc.held) hkept :), (congrArg (fun v => v.cyc.history) hkept :),
    (congrArg (fun v => v.cyc.epoch) hkept :), hactivated, (congrArg Steady.regs hkept :), (congrArg Steady.boot hkept :),
    fun hfit hlines b hlow hscratch => ?_⟩
  rw [hmem, hu]
  exact State.placed_keeps hfit hlines b ⟨hlow, hscratch⟩

end Sys2Proof

/-! ## Events (R335, R337, R346) -/

namespace Sys2Proof.Machine
open Sys2Proof

/-! ### One thread changed -/

/-- Of the threads, that of core `c` and number `t` is now `y`, and no other differs. -/
structure DuState.ThreadBecomes (u v : DuState) (c t : Nat) (y : Thread) : Prop where
  here : v.thread c t = some y
  others : ∀ k m, (k, m) ≠ (c, t) → v.thread k m = u.thread k m

/-- Of all threads, that of global core `c` and number `t` is now `y`, and no other differs. -/
structure State.ThreadBecomes (s t : State) (c n : Nat) (y : Thread) : Prop where
  here : t.thr c n = some y
  others : ∀ k m, (k, m) ≠ (c, n) → t.thr k m = s.thr k m

section
variable {u v w : DuState} {c t : Nat} {x y : Thread}

theorem DuState.ThreadBecomes.refl (h : u.thread c t = some x) : u.ThreadBecomes u c t x := ⟨h, fun _ _ _ => rfl⟩

theorem DuState.ThreadBecomes.trans (h : u.ThreadBecomes v c t x) (g : v.ThreadBecomes w c t y) : u.ThreadBecomes w c t y :=
  ⟨g.here, fun k m hne => (g.others k m hne).trans (h.others k m hne)⟩

/-- Only the tables of threads say which thread differs. -/
theorem DuState.ThreadBecomes.congr {u' v' : DuState} (h : u.ThreadBecomes v c t x) (hu : u'.threads = u.threads)
    (hv : v'.threads = v.threads) : u'.ThreadBecomes v' c t x := by
  refine ⟨?_, fun k m hne => ?_⟩
  · simpa only [DuState.thread, hv] using h.here
  · simpa only [DuState.thread, hu, hv] using h.others k m hne

theorem DuState.threadBecomes_mapThread (f : Thread → Thread) (h : u.thread c t = some x) :
    u.ThreadBecomes (u.mapThread c t f) c t (f x) :=
  ⟨DuState.thread_mapThread_same f h, fun _ _ hne => DuState.thread_mapThread_other u f hne⟩

theorem DuState.freeOf_threads (u : DuState) (o : Option (Nat × Nat)) : (u.freeOf o).threads = u.threads := by
  cases o <;> rfl

theorem DuState.freeOf_events (u : DuState) (o : Option (Nat × Nat)) : (u.freeOf o).events = u.events := by
  cases o <;> rfl

/-- The end of a service is its thread's alone (R335). -/
theorem DuState.threadBecomes_endService (h : u.thread c t = some x) :
    u.ThreadBecomes (u.endService c t) c t { x with service := false, mslot := none } :=
  (DuState.threadBecomes_mapThread (fun x => { x with service := false, mslot := none }) h).congr rfl (DuState.freeOf_threads _ _)

theorem DuState.endService_events (u : DuState) (c t : Nat) : (u.endService c t).events = u.events := DuState.freeOf_events _ _

/-- A thread whose wait is over as it starts (R335; log entry 101). -/
theorem DuState.threadBecomes_readied (sclk : Nat) (slot : Option (Nat × Nat)) (h : u.thread c t = some x) :
    u.ThreadBecomes (u.readied sclk c t slot) c t
      { x with status := .ready, ready := sclk, service := false, started := true, mslot := slot } :=
  have hended := DuState.threadBecomes_endService h
  hended.trans (DuState.threadBecomes_mapThread _ hended.here)

theorem DuState.readied_events (u : DuState) (sclk c t : Nat) (slot : Option (Nat × Nat)) :
    (u.readied sclk c t slot).events = u.events := u.endService_events c t

/-! ### WAIT_EVENT and SIGNAL at an event -/

/-- A dispatch unit with an event as given. -/
def DuState.withEvent (u : DuState) (ev : Nat) (e : EventSt) : DuState := { u with events := setAt u.events ev e }

theorem DuState.threadBecomes_withEvent (ev : Nat) (e : EventSt) (h : u.thread c t = some x) :
    u.ThreadBecomes (u.withEvent ev e) c t x := (DuState.ThreadBecomes.refl h).congr rfl rfl

variable {ev : Nat} {e : EventSt} {sclk : Nat}

/-- WAIT_EVENT at an event with a count takes it, and its thread is ready (R337; log entry 101). -/
theorem DuState.waitEvent_counted (b : Bool) (hx : u.thread c t = some x) (he : u.events[ev]? = some e) (hcount : 0 < e.count) :
    u.ThreadBecomes (u.waitEvent sclk c t ev b) c t
      { x with status := .ready, ready := sclk, service := false, started := true, mslot := e.slots.head?.join }
    ∧ (u.waitEvent sclk c t ev b).events = setAt u.events ev { e with count := e.count - 1, slots := e.slots.drop 1 } := by
  have htaken := DuState.threadBecomes_withEvent ev { e with count := e.count - 1, slots := e.slots.drop 1 } hx
  have hready := htaken.trans (DuState.threadBecomes_readied sclk e.slots.head?.join htaken.here)
  simp only [DuState.waitEvent, he, if_pos hcount]
  exact ⟨hready, DuState.readied_events ..⟩

/-- WAIT_EVENT at an event without a count: its thread joins the FIFO and waits (R335, R337). -/
theorem DuState.waitEvent_waits (b : Bool) (hx : u.thread c t = some x) (he : u.events[ev]? = some e) (hcount : e.count = 0) :
    u.ThreadBecomes (u.waitEvent sclk c t ev b) c t
      { x with status := .waiting, wait := .event ev b, service := false, mslot := none }
    ∧ (u.waitEvent sclk c t ev b).events = setAt u.events ev { e with fifo := e.fifo ++ [(c, t)] } := by
  have hqueued := DuState.threadBecomes_withEvent ev { e with fifo := e.fifo ++ [(c, t)] } hx
  have hended := hqueued.trans (DuState.threadBecomes_endService hqueued.here)
  have hwaits := hended.trans (DuState.threadBecomes_mapThread (fun x => { x with status := .waiting, wait := .event ev b }) hended.here)
  have hstep : u.waitEvent sclk c t ev b = ((u.withEvent ev { e with fifo := e.fifo ++ [(c, t)] }).endService c t).mapThread c t
      (fun x => { x with status := .waiting, wait := .event ev b }) := by
    have hzero : ¬ 0 < e.count := by omega
    simp only [DuState.waitEvent, he, if_neg hzero]
    rfl
  rw [hstep]
  exact ⟨hwaits, DuState.endService_events _ c t⟩

variable (g : DuCfg) (slot : Option (Nat × Nat))

/-- SIGNAL at an event that no thread waits for counts (R337). -/
theorem DuState.signal_counts (he : u.events[ev]? = some e) (hfifo : e.fifo = []) (hroom : e.count < 255) :
    u.signal g sclk ev slot = some (u.withEvent ev { e with count := e.count + 1, slots := e.slots ++ [slot] }) := by
  simp only [DuState.signal, he, hfifo, if_neg (Nat.not_le.2 hroom), DuState.withEvent]

/-- SIGNAL at a full event finds no room (R346). -/
theorem DuState.signal_full (he : u.events[ev]? = some e) (hfifo : e.fifo = []) (hfull : 255 ≤ e.count) :
    u.signal g sclk ev slot = none := by
  simp only [DuState.signal, he, hfifo, if_pos hfull]

/-- SIGNAL wakes the first waiting thread, where no frame of a suspended operation is kept (R337). -/
theorem DuState.signal_wakes {ct : Nat × Nat} {rest : List (Nat × Nat)} (he : u.events[ev]? = some e) (hfifo : e.fifo = ct :: rest)
    (hsaved : u.saved = []) : u.signal g sclk ev slot
      = some ((u.withEvent ev { e with fifo := rest }).mapThread ct.1 ct.2 (Thread.woken g sclk ev slot)) := by
  simp only [DuState.signal, he, hfifo, DuState.wake, hsaved, List.any_nil, Bool.false_eq_true, if_false, DuState.withEvent]

end

section
variable {s t u : State} {c n : Nat} {x y : Thread}

theorem State.ThreadBecomes.trans (h : s.ThreadBecomes t c n x) (g : t.ThreadBecomes u c n y) : s.ThreadBecomes u c n y :=
  ⟨g.here, fun k m hne => (g.others k m hne).trans (h.others k m hne)⟩

theorem State.thr_congr {s t : State} (h : t.du = s.du) (k m : Nat) : t.thr k m = s.thr k m := by
  simp only [State.thr, State.duOf, h]

/-- Only the dispatch units say which thread differs. -/
theorem State.ThreadBecomes.congr {s' t' : State} (h : s.ThreadBecomes t c n x) (hs : s'.du = s.du) (ht : t'.du = t.du) :
    s'.ThreadBecomes t' c n x :=
  ⟨(State.thr_congr ht c n).trans h.here, fun k m hne =>
    (State.thr_congr ht k m).trans ((h.others k m hne).trans (State.thr_congr hs k m).symm)⟩

theorem State.threadBecomes_mapThr (f : Thread → Thread) (h : s.thr c n = some x) : s.ThreadBecomes (s.mapThr c n f) c n (f x) :=
  ⟨State.thr_mapThr_same f h, fun _ _ hne => State.thr_mapThr_other f s hne⟩

/-- Two threads of one die that are not the same differ in their core within it or in their number. -/
theorem core_of_die {k c m n : Nat} (hd : k / 16 = c / 16) (h : (k, m) ≠ (c, n)) : (k % 16, m) ≠ (c % 16, n) := by
  intro e
  obtain ⟨hk, rfl⟩ := Prod.mk.inj e
  have : k = c := by omega
  exact h (by rw [this])

/-- A change of one dispatch unit that changes one of its threads. -/
theorem State.threadBecomes_mapDu {d i : Nat} {f : DuState → DuState} (hd : c / 16 = d) (hi : c % 16 = i) (hx : s.thr c n = some x)
    (h : (s.duOf d).ThreadBecomes (f (s.duOf d)) i n y) : s.ThreadBecomes (s.mapDu d f) c n y := by
  subst hd hi
  have hlen := State.die_of_thr hx
  refine ⟨(State.thr_mapDu_own f hlen rfl).trans h.here, fun k m hne => ?_⟩
  by_cases hd : k / 16 = c / 16
  · rw [State.thr_mapDu_own f hlen hd, h.others _ _ (core_of_die hd hne), State.thr, hd]
  · exact State.thr_mapDu f hd

/-- The events of a thread's die after a change of its dispatch unit. -/
theorem State.events_mapDu {f : DuState → DuState} (hx : s.thr c n = some x) :
    ((s.mapDu (c / 16) f).duOf (c / 16)).events = (f (s.duOf (c / 16))).events :=
  congrArg DuState.events (State.duOf_mapDu_same s _ f (State.die_of_thr hx))

/-- A thread changed leaves every event. -/
theorem State.events_mapThr (f : Thread → Thread) (hx : s.thr c n = some x) :
    ((s.mapThr c n f).duOf (c / 16)).events = (s.duOf (c / 16)).events := State.events_mapDu hx

end

/-! ### The steps -/

section
variable {c : Core} {n : ThreadNo} {x : Thread} {st : SeqStep} {s : State}

theorem execWaitEvent_starts (hat : s.atStep c n .waitEvent = some (x, st)) (hnew : x.started = false) :
    exec (.waitEvent c n) s = .next (s.mapDu (c.val / 16)
      (DuState.waitEvent s.time.sclk (c.val % 16) n (field st.operand 0 8) (bitAt st.operand 8))) := by
  simp only [exec, execWaitEvent, hat, hnew, Bool.false_eq_true, if_false]

/-- SIGNAL with BCAST = 0 on an event of the own die (R337, R346). -/
theorem execSignal_own (hat : s.atStep c n .signal = some (x, st)) (hnew : x.started = false)
    (hslot : s.dieOfSlot (field st.operand 9 3) = some (c.val / 16)) (hone : bitAt st.operand 8 = false) : ∃ g,
    (∀ u, (s.duOf (c.val / 16)).signal g s.time.sclk (field st.operand 0 8) none = some u →
      exec (.signal c n) s = .next ((s.mapDu (c.val / 16) (fun _ => u)).markStarted c n))
    ∧ ((s.duOf (c.val / 16)).signal g s.time.sclk (field st.operand 0 8) none = none → (s.duOf (c.val / 16)).serve = .serving →
      exec (.signal c n) s = .next s) := by
  obtain ⟨g, hg⟩ := State.duCfg_of_stepAt (State.atStep_some hat).2
  refine ⟨g, fun u hu => ?_, fun hfull hserve => ?_⟩
  · simp only [exec, execSignal, hat, hg, hnew, hslot, hone, hu, Bool.false_eq_true, if_false, ne_eq, not_true_eq_false]
  · simp only [exec, execSignal, hat, hg, hnew, hslot, hone, hfull, hserve, Bool.false_eq_true, if_false, if_true, ne_eq,
      not_true_eq_false]

/-- A thread woken by SIGNAL: but for its SSP it is as it was, and ready (R337). -/
theorem Thread.woken_but_ssp (g : DuCfg) (sclk ev : Nat) (slot : Option (Nat × Nat)) (y : Thread) :
    { y.woken g sclk ev slot with ssp := y.ssp }
      = { y with status := .ready, ready := sclk, wait := .none, started := true, mslot := slot } := rfl

end

end Sys2Proof.Machine

namespace Sys2Proof
open Sys2Proof.Machine

/-- Settles O42: both steps change one event and at most two threads of their die, by `DuState.waitEvent` and
`DuState.signal`. -/
theorem eventsAct : Obligations.EventsAct := by
  intro c n x st v s hnew hv
  refine ⟨fun hat => ?_, fun hat hslot hone => ?_⟩
  · have hx := (State.atStep_some hat).1
    rw [execWaitEvent_starts hat hnew]
    refine ⟨fun hcount => ?_, fun hcount => ?_⟩
    · obtain ⟨hthread, hevents⟩ := DuState.waitEvent_counted (sclk := s.time.sclk) (bitAt st.operand 8) hx hv hcount
      have hown := State.threadBecomes_mapDu rfl rfl hx hthread
      exact ⟨_, _, rfl, rfl, hown.here, rfl, hown.others, (State.events_mapDu hx).trans hevents⟩
    · obtain ⟨hthread, hevents⟩ := DuState.waitEvent_waits (sclk := s.time.sclk) (bitAt st.operand 8) hx hv hcount
      have hown := State.threadBecomes_mapDu rfl rfl hx hthread
      exact ⟨_, rfl, rfl, hown.here, hown.others, (State.events_mapDu hx).trans hevents⟩
  · have hx := (State.atStep_some hat).1
    obtain ⟨g, hgoes, hstalls⟩ := execSignal_own hat hnew hslot hone
    refine ⟨fun hfifo hroom => ?_, fun hfifo hfull hserve => hstalls (DuState.signal_full g none hv hfifo hfull) hserve,
      fun k m y rest hfifo hsaved hk hne hy => ?_⟩
    · rw [hgoes _ (DuState.signal_counts g none hv hfifo hroom)]
      have hcounted := State.threadBecomes_mapDu (f := fun _ => (s.duOf (c.val / 16)).withEvent (field st.operand 0 8)
        { v with count := v.count + 1, slots := v.slots ++ [none] }) rfl rfl hx (DuState.threadBecomes_withEvent _ _ hx)
      have hown := hcounted.trans (State.threadBecomes_mapThr (fun x => { x with started := true }) hcounted.here)
      exact ⟨_, rfl, rfl, hown.here, hown.others, (State.events_mapThr _ hcounted.here).trans (State.events_mapDu hx)⟩
    · rw [hgoes _ (DuState.signal_wakes g none hv hfifo hsaved)]
      obtain ⟨hdie, hcore⟩ : (c.val / 16 * 16 + k) / 16 = c.val / 16 ∧ (c.val / 16 * 16 + k) % 16 = k := by omega
      have hy' : (s.duOf (c.val / 16)).thread k m = some y := by rwa [State.thr, hdie, hcore] at hy
      have hwoken := (DuState.threadBecomes_withEvent (field st.operand 0 8) { v with fifo := rest } hy').trans
        (DuState.threadBecomes_mapThread (Thread.woken g s.time.sclk (field st.operand 0 8) none) hy')
      have hwoke := State.threadBecomes_mapDu (f := fun _ => _) hdie hcore hy hwoken
      have hapart : (c.val, n.val) ≠ (c.val / 16 * 16 + k, m) := fun e => hne (by
        obtain ⟨hc, hm⟩ := Prod.mk.inj e
        rw [hm, hc, hcore])
      have hsignals := (hwoke.others _ _ hapart).trans hx
      have hstarted := State.threadBecomes_mapThr (fun x => { x with started := true }) hsignals
      exact ⟨_, _, rfl, rfl, (hstarted.others _ _ hapart.symm).trans hwoke.here, Thread.woken_but_ssp .., hstarted.here,
        (State.events_mapThr _ hsignals).trans (State.events_mapDu hx)⟩

end Sys2Proof

/-! ## Threads that signal, send, wait, ask and end (R331, R335, R338, R342) -/

namespace Sys2Proof.Machine
open Sys2Proof

/-! ### The service of an item ends -/

section
variable {u : DuState} {c t : Nat} {x : Thread} (g : DuCfg) (sclk : Nat)

/-- The end of an item's service is its thread's alone: the thread holds no item (R331). -/
theorem DuState.threadBecomes_endItem (ok : Bool) (hx : u.thread c t = some x) :
    ∃ m, u.ThreadBecomes (u.endItem g sclk ok c t) c t { x with item := none, mslot := m } := by
  unfold DuState.endItem
  cases hitem : x.item with
  | none =>
    refine ⟨x.mslot, ?_⟩
    simp only [hx, Option.bind_some, hitem]
    rw [← hitem]
    exact DuState.ThreadBecomes.refl hx
  | some h =>
    refine ⟨none, ?_⟩
    have hfreed := (DuState.threadBecomes_mapThread (fun x => { x with item := none, mslot := none }) hx).congr rfl
      (DuState.freeOf_threads _ x.mslot)
    simp only [hx, Option.bind_some, hitem]
    split
    · exact hfreed.congr rfl rfl
    · exact hfreed.congr rfl rfl

theorem DuState.freeOf_serve (u : DuState) (o : Option (Nat × Nat)) : (u.freeOf o).serve = u.serve := by
  cases o <;> rfl

theorem DuState.freeOf_items (u : DuState) (o : Option (Nat × Nat)) : (u.freeOf o).items = u.items := by
  cases o <;> rfl

theorem DuState.endItem_serve (u : DuState) (ok : Bool) (c t : Nat) : (u.endItem g sclk ok c t).serve = u.serve := by
  unfold DuState.endItem
  split
  · rfl
  · dsimp only
    split <;> exact DuState.freeOf_serve _ _

/-- Successors released leave what is done (R330). -/
theorem releaseSucc_done (sclk : Nat) {i : Nat} (ks : List Nat) {xs : List ItemSt} (h : xs[i]? = some .done) :
    (ks.foldl (releaseSucc sclk) xs)[i]? = some .done := by
  refine List.foldlRecOn (motive := fun xs : List ItemSt => xs[i]? = some .done) ks (releaseSucc sclk) h fun ys hys k _ => ?_
  simp only [releaseSucc, get_modAt, hys]
  split <;> rfl

/-- A static item whose service ends is done (R330, R331). -/
theorem DuState.endItem_done {h : Held} (hx : u.thread c t = some x) (hitem : x.item = some h) (hstatic : h.dyn = false)
    (hin : h.item < u.items.length) : (u.endItem g sclk true c t).items[h.item]? = some .done := by
  simp only [DuState.endItem, hx, Option.bind_some, hitem, hstatic, Bool.false_eq_true, if_false, if_true, DuState.freeOf_items]
  refine releaseSucc_done sclk _ ?_
  rw [get_setAt, if_pos rfl]
  exact congrArg (Option.map _) (List.getElem?_eq_getElem hin)

theorem DuState.leaveFifos_absent (u : DuState) (c t : Nat) : ∀ v ∈ (u.leaveFifos c t).events, (c, t) ∉ v.fifo := by
  intro v hv
  obtain ⟨e, -, rfl⟩ := List.mem_map.1 hv
  simp

end

/-! ### The steps -/

/-- A message under way, whose outcome its thread awaits (R342). -/
def State.sending (s : State) (c n : Nat) (m : Msg) : State :=
  { s.mapThr c n (fun y => { y with started := true, wait := .msg }) with msgs := s.msgs ++ [m] }

theorem State.onlyThread_sending {s : State} {c n : Nat} {x : Thread} (m : Msg) (hx : s.thr c n = some x) :
    OnlyThread s (s.sending c n m) c n { x with started := true, wait := .msg } :=
  (State.onlyThread_mapThr (fun y => { y with started := true, wait := .msg }) hx).congr rfl rfl

section
variable {c : Core} {n : ThreadNo} {x : Thread} {st : SeqStep} {s : State}

/-- SIGNAL to another die is a message of role 0xFF, whose delivery the step awaits (R339; log entry 30). -/
theorem execSignal_other {d : Nat} (hat : s.atStep c n .signal = some (x, st)) (hnew : x.started = false)
    (hslot : s.dieOfSlot (field st.operand 9 3) = some d) (hd : d ≠ c.val / 16) :
    exec (.signal c n) s = .next (s.sending c n ⟨some c.val, n.val, some d, 0, 0xFF, field st.operand 0 8,
      (s.duOf (c.val / 16)).epoch, [], some (bitAt st.operand 8), false⟩) := by
  obtain ⟨g, hg⟩ := State.duCfg_of_stepAt (State.atStep_some hat).2
  simp only [exec, execSignal, hat, hg, hnew, hslot, Bool.false_eq_true, if_false, if_pos hd]
  rfl

/-- MSG to a die slot that the armature does not use is stale at once (R342, R344). -/
theorem execMsg_unused (hat : s.atStep c n .msg = some (x, st)) (hnew : x.started = false) (hdie : bitAt st.operand 3 = false)
    (hnone : s.dieOfSlot (field st.operand 0 3) = none) (hreact : reactionOf st 0x12 = .continue_) :
    exec (.msg c n) s = .next ((s.hubStale (s.duOf (c.val / 16)).epoch).markStarted c n) := by
  have hlost : !bitAt st.operand 3 ∧ (s.msgOf c n st).die = none := by simp [State.msgOf, hdie, hnone]
  have hraise := State.raise_continue (s := (s.hubStale (s.duOf (c.val / 16)).epoch).markStarted c n) n
    (State.atStep_some hat).2 (by decide) hreact
  simp only [exec, execMsg, hat, hnew, Bool.false_eq_true, if_false, if_pos hlost]
  exact congrArg Host.Outcome.next hraise

/-- MSG to the hub or to a die: the message is under way, and the step awaits its outcome (R342). -/
theorem execMsg_sends (hat : s.atStep c n .msg = some (x, st)) (hnew : x.started = false)
    (hthere : bitAt st.operand 3 = true ∨ s.dieOfSlot (field st.operand 0 3) ≠ none) :
    exec (.msg c n) s = .next (s.sending c n (s.msgOf c n st)) := by
  have hgoes : ¬ (!bitAt st.operand 3 ∧ (s.msgOf c n st).die = none) := by
    rintro ⟨hno, hnone⟩
    have hhub : bitAt st.operand 3 = false := by simpa using hno
    obtain h | h := hthere
    · simp [hhub] at h
    · exact h (by simpa [State.msgOf, hhub] using hnone)
  simp only [exec, execMsg, hat, hnew, Bool.false_eq_true, if_false, if_neg hgoes]
  rfl

/-- The deadline of a TIMED_WAIT step: ticks from the cycle's release or from now (R338). -/
def State.deadlineOf (s : State) (st : SeqStep) : Nat :=
  (if bitAt st.operand 9 then (s.cyc.cur.map (fun y => y.release)).getD 0 else s.time.now) + field st.operand 16 32

/-- TIMED_WAIT without an event, its deadline ahead (R335, R338). -/
theorem execTimedWait_waits (hat : s.atStep c n .timedWait = some (x, st)) (hnew : x.started = false)
    (hevent : bitAt st.operand 8 = false) (hahead : s.time.now < s.deadlineOf st) :
    exec (.timedWait c n) s = .next ((s.mapDu (c.val / 16) (fun d => d.endService (c.val % 16) n)).mapThr c n (fun y =>
      { y with status := .waiting, wait := .timed (s.deadlineOf st) none })) := by
  have hahead' : ¬ (if bitAt st.operand 9 then s.seqEnv.release else s.time.now) + field st.operand 16 32 ≤ s.time.now :=
    Nat.not_le.2 hahead
  simp only [exec, execTimedWait, hat, hnew, hevent, Bool.false_eq_true, if_false, if_neg hahead']
  rfl

/-- TIMED_WAIT without an event, its deadline passed: ready at once, with TIMEOUT (R338). -/
theorem execTimedWait_over (hat : s.atStep c n .timedWait = some (x, st)) (hnew : x.started = false)
    (hevent : bitAt st.operand 8 = false) (hover : s.deadlineOf st ≤ s.time.now) (hreact : reactionOf st 0x14 = .continue_) :
    exec (.timedWait c n) s = .next (s.mapDu (c.val / 16) (DuState.readied s.time.sclk (c.val % 16) n none)) := by
  have hover' : (if bitAt st.operand 9 then s.seqEnv.release else s.time.now) + field st.operand 16 32 ≤ s.time.now := hover
  have hraise := State.raise_continue (s := s.mapDu (c.val / 16) (DuState.readied s.time.sclk (c.val % 16) n none)) n
    (State.atStep_some hat).2 (by decide) hreact
  simp only [exec, execTimedWait, hat, hnew, hevent, Bool.false_eq_true, if_false, if_pos hover']
  exact congrArg Host.Outcome.next hraise

/-- GET on a die that serves: the held item's service ends, and the thread asks (R331). -/
theorem execGet_asks (hat : s.atStep c n .get = some (x, st)) (hnew : x.started = false)
    (hserve : (s.duOf (c.val / 16)).serve = .serving) : ∃ g, exec (.get c n) s
      = .next ((s.mapDu (c.val / 16) (fun d => d.endItem g s.time.sclk true (c.val % 16) n)).mapThr c n (fun y => { y with
        status := .waiting, wait := .grant (field st.operand 0 16) s.time.sclk, started := true })) := by
  obtain ⟨hx, hst⟩ := State.atStep_some hat
  obtain ⟨g, hg⟩ := State.duCfg_of_stepAt hst
  have hstill : ((s.mapDu (c.val / 16) (fun d => d.endItem g s.time.sclk true (c.val % 16) n)).duOf (c.val / 16)).serve = .serving := by
    rw [State.duOf_mapDu_same _ _ _ (State.die_of_thr hx), DuState.endItem_serve, hserve]
  refine ⟨g, ?_⟩
  simp only [exec, execGet, hat, hg, hnew, hstill, Bool.false_eq_true, if_false, ne_eq, not_true_eq_false, false_and]
  rfl

/-- A change of the cycle that leaves its dies leaves every die's configuration (R308). -/
theorem State.duCfg_mapCycle (s : State) {f : Cycle → Cycle} (hf : ∀ k, (f k).dies = k.dies) (d : Nat) :
    (s.mapCycle f).duCfg d = s.duCfg d := by
  have hslot : (s.mapCycle f).slotOf d = s.slotOf d := by
    unfold State.slotOf State.mapCycle
    cases s.cyc.cur <;> simp [hf]
  have harm : (s.mapCycle f).armature = s.armature := rfl
  simp only [State.duCfg, State.dieSlot, hslot, harm]

/-- PEND reported leaves every die's configuration (R308). -/
theorem State.duCfg_report (s : State) (k : Nat) (st : SeqStep) (d : Nat) : (s.report k st).duCfg d = s.duCfg d := by
  unfold State.report
  split
  · exact s.duCfg_mapCycle (f := fun y => { y with
      passed := if y.passed.contains k then y.passed else y.passed ++ [k] }) (fun _ => rfl) d
  · rfl

theorem execHalt_waits (hat : s.atStep c n .halt = some (x, st)) (hidle : s.idleMet c n st x.step = false) :
    exec (.halt c n) s = .next s := by
  simp only [exec, execHalt, hat, hidle, Bool.not_false, if_true]

/-- HALT: PEND reported, what the thread holds and its service end, and the thread with them (R314, R331, R335). -/
theorem execHalt_ends (hat : s.atStep c n .halt = some (x, st)) (hidle : s.idleMet c n st x.step = true) : ∃ g,
    exec (.halt c n) s = .next (((s.report c st).mapDu (c.val / 16) (fun d =>
      (d.endItem g s.time.sclk true (c.val % 16) n).endService (c.val % 16) n)).mapThr c n (fun y =>
        { y with status := .halted, started := false, wait := .none })) := by
  obtain ⟨g, hg⟩ := State.duCfg_of_stepAt (State.atStep_some hat).2
  have hg' := (s.duCfg_report c st (c.val / 16)).trans hg
  have htime : (s.report c st).time = s.time := (congrArg State.time (s.report_frame c st) :)
  refine ⟨g, ?_⟩
  simp only [exec, execHalt, hat, hidle, Bool.not_true, Bool.false_eq_true, if_false, hg', htime]

/-- A timed wait whose deadline is ahead goes on (R338). -/
theorem execTimedWaitExpiry_ahead {dl : Nat} {ev : Option Nat} (hx : s.thr c n = some x) (hwait : x.wait = .timed dl ev)
    (hahead : s.time.now < dl) : exec (.timedWaitExpiry c n) s = .next s := by
  simp only [exec, execTimedWaitExpiry, hx, hwait, hahead, or_true, if_true]

/-- A timed wait whose deadline is reached leaves the FIFOs, ready with TIMEOUT (R338). -/
theorem execTimedWaitExpiry_reached {dl : Nat} {ev : Option Nat} (hx : s.thr c n = some x) (hwait : x.wait = .timed dl ev)
    (hstatus : x.status = .waiting) (hover : dl ≤ s.time.now) (hst : s.stepAt c x.step = some st)
    (hreact : reactionOf st 0x14 = .continue_) : exec (.timedWaitExpiry c n) s
      = .next ((s.mapDu (c.val / 16) (fun d => d.leaveFifos (c.val % 16) n)).mapThr c n (fun y =>
          { y with status := .ready, ready := s.time.sclk, wait := .none, started := true })) := by
  have hends : ¬ (x.status ≠ .waiting ∨ s.time.now < dl) := by simp [hstatus, hover]
  have hraise := State.raise_continue (s := (s.mapDu (c.val / 16) (fun d => d.leaveFifos (c.val % 16) n)).mapThr c n (fun y =>
    { y with status := .ready, ready := s.time.sclk, wait := .none, started := true })) n hst (by decide) hreact
  simp only [exec, execTimedWaitExpiry, hx, hwait, if_neg hends]
  exact congrArg Host.Outcome.next hraise

end

end Sys2Proof.Machine

namespace Sys2Proof
open Sys2Proof.Machine

/-- Settles O43: each step is one change of its own thread, with a message sent or a service ended beside it. -/
theorem threadsAct : Obligations.ThreadsAct := by
  intro c n x st s
  refine ⟨fun hat hnew d hslot hd => ?_, fun hat hnew hhub hnone hreact => ?_, fun hat hnew hthere => ?_,
    fun hat hnew hevent dl hdl => ?_, fun hat hnew hserve => ?_, fun hat => ?_, fun dl ev hx hwait hstatus => ?_⟩
  · exact ⟨_, execSignal_other hat hnew hslot hd, State.onlyThread_sending _ (State.atStep_some hat).1, rfl, rfl⟩
  · have hx : (s.hubStale (s.duOf (c.val / 16)).epoch).thr c n = some x := (State.atStep_some hat).1
    exact ⟨_, execMsg_unused hat hnew hhub hnone hreact,
      (State.onlyThread_mapThr (fun x => { x with started := true }) hx).congr rfl rfl, rfl, rfl⟩
  · exact ⟨_, s.msgOf c n st, execMsg_sends hat hnew hthere, State.onlyThread_sending _ (State.atStep_some hat).1, rfl,
      rfl, rfl, rfl, rfl, rfl, rfl, rfl, rfl, rfl⟩
  · obtain rfl : dl = s.deadlineOf st := hdl
    have hx := (State.atStep_some hat).1
    refine ⟨fun hahead => ?_, fun hover hreact => ?_⟩
    · have hended := State.threadBecomes_mapDu (f := fun d => d.endService (c.val % 16) n) rfl rfl hx (DuState.threadBecomes_endService hx)
      have hwaits := hended.trans (State.threadBecomes_mapThr
        (fun y => { y with status := .waiting, wait := .timed (s.deadlineOf st) none }) hended.here)
      exact ⟨_, execTimedWait_waits hat hnew hevent hahead, rfl, hwaits.here, hwaits.others⟩
    · have hready := State.threadBecomes_mapDu (f := DuState.readied s.time.sclk (c.val % 16) n none) rfl rfl hx
        (DuState.threadBecomes_readied _ none hx)
      exact ⟨_, execTimedWait_over hat hnew hevent hover hreact, rfl, hready.here, hready.others⟩
  · have hx := (State.atStep_some hat).1
    obtain ⟨g, hexec⟩ := execGet_asks hat hnew hserve
    obtain ⟨m, hended⟩ := DuState.threadBecomes_endItem g s.time.sclk true hx
    have hfree := State.threadBecomes_mapDu (f := fun d => d.endItem g s.time.sclk true (c.val % 16) n) rfl rfl hx hended
    have hasks := hfree.trans (State.threadBecomes_mapThr (fun y => { y with
      status := .waiting, wait := .grant (field st.operand 0 16) s.time.sclk, started := true }) hfree.here)
    refine ⟨_, _, hexec, rfl, hasks.here, hasks.others, rfl, fun h hitem hstatic hin => ?_⟩
    have hitems : ∀ f, ((State.mapThr (s.mapDu (c.val / 16) (fun d => d.endItem g s.time.sclk true (c.val % 16) n)) c n f).duOf
        (c.val / 16)).items = ((s.duOf (c.val / 16)).endItem g s.time.sclk true (c.val % 16) n).items := fun f => by
      rw [State.mapThr, State.duOf_mapDu_same _ _ _ (State.die_of_thr hfree.here), State.duOf_mapDu_same _ _ _ (State.die_of_thr hx)]
      rfl
    rw [hitems]
    exact DuState.endItem_done g _ hx hitem hstatic hin
  · refine ⟨execHalt_waits hat, fun hidle => ?_⟩
    obtain ⟨g, hexec⟩ := execHalt_ends hat hidle
    have hframe := s.report_frame c st
    have hdu : (s.report c st).du = s.du := (congrArg State.du hframe :)
    have hx : (s.report c st).thr c n = some x := (State.thr_congr hdu _ _).trans (State.atStep_some hat).1
    obtain ⟨m, hitem⟩ := DuState.threadBecomes_endItem g s.time.sclk true hx
    have hended := State.threadBecomes_mapDu (f := fun d => (d.endItem g s.time.sclk true (c.val % 16) n).endService (c.val % 16) n)
      rfl rfl hx (hitem.trans (DuState.threadBecomes_endService hitem.here))
    have hhalts := (hended.trans (State.threadBecomes_mapThr
      (fun y => { y with status := .halted, started := false, wait := .none }) hended.here)).congr hdu.symm rfl
    refine ⟨_, hexec, congrArg (fun u : State => { u with du := s.du }) hframe, ?_, hhalts.here, hhalts.others⟩
    have hcyc : (((s.report c st).mapDu (c.val / 16) fun d =>
      (d.endItem g s.time.sclk true (c.val % 16) n).endService (c.val % 16) n).mapThr c n (fun y =>
        { y with status := .halted, started := false, wait := .none })).cyc = (s.report c st).cyc := rfl
    rw [hcyc, s.report_cyc]
    split <;> rfl
  · refine ⟨execTimedWaitExpiry_ahead hx hwait, fun hover hst hreact => ?_⟩
    have hleft := State.threadBecomes_mapDu (f := fun d => d.leaveFifos (c.val % 16) n) rfl rfl hx
      ((DuState.ThreadBecomes.refl hx).congr rfl rfl)
    have hready := hleft.trans (State.threadBecomes_mapThr
      (fun y => { y with status := .ready, ready := s.time.sclk, wait := .none, started := true }) hleft.here)
    refine ⟨_, execTimedWaitExpiry_reached hx hwait hstatus hover hst hreact, rfl, hready.here, hready.others, ?_⟩
    rw [State.events_mapThr _ hleft.here, State.events_mapDu hx]
    exact DuState.leaveFifos_absent _ _ _

end Sys2Proof

/-! ## Messages, bound sources and quiescence (R339 to R354, R434) -/

namespace Sys2Proof.Machine
open Sys2Proof

/-! ### Posts -/

/-- The id of the next dynamic item. -/
def DuState.freshId (u : DuState) : Nat := (u.dyn.map (fun x => x.id + 1)).foldl max 0

section
variable {u : DuState} {g : DuCfg}

theorem DuState.freshId_fresh (u : DuState) : ∀ y ∈ u.dyn, y.id ≠ u.freshId := by
  intro y hy
  have hmem := List.mem_map_of_mem (f := fun x : DynItem => x.id + 1) hy
  have hle : y.id + 1 ≤ u.freshId := by
    rw [DuState.freshId, List.foldl_max]
    exact (List.le_max?_getD_of_mem hmem).trans (le_max_right _ _)
  omega

variable (sclk tmpl arg : Nat) (slot : Option (Nat × Nat))

/-- A post where the pool has room is one more dynamic item (R330). -/
theorem DuState.post_room (h : u.dyn.length < g.ndyn) :
    u.post g sclk tmpl arg slot = some { u with dyn := u.dyn ++ [⟨u.freshId, tmpl, arg, sclk, false, slot⟩] } :=
  if_neg (Nat.not_le.2 h)

/-- A post where the pool is full finds no room (R346). -/
theorem DuState.post_full (h : g.ndyn ≤ u.dyn.length) : u.post g sclk tmpl arg slot = none := if_pos h

end

/-! ### What a delivery does -/

section
variable {g : DuCfg} {phase sclk : Nat} {m : Msg} {u : DuState}

theorem DuState.deliver_stale (h : msgStale (some g) phase u m = true) : u.deliver g phase sclk m = .stale (u.drop m) := if_pos h

section
variable (h : msgStale (some g) phase u m = false)
include h

/-- A message finds no room: no mailbox slot is free, or the pool is full (R346). -/
theorem DuState.deliver_full (hmsg : m.signal = none)
    (hfull : u.slotFor g m.core = none ∨ g.mode = .dataflow ∧ g.ndyn ≤ u.dyn.length) : u.deliver g phase sclk m = .full := by
  simp only [DuState.deliver, h, hmsg, Bool.false_eq_true, if_false]
  cases hslot : u.slotFor g m.core with
  | none => rfl
  | some k =>
    obtain ⟨hmode, hpool⟩ := hfull.resolve_left (by simp [hslot])
    have hpool' : g.ndyn ≤ (u.takeSlot g m.core k).dyn.length := hpool
    simp only [hmode, reduceCtorEq, if_false, DuState.post_full _ _ _ _ hpool']

/-- A message posts its work on a dataflow die (R330, R343). -/
theorem DuState.deliver_posts {k : Nat} (hmsg : m.signal = none) (hmode : g.mode = .dataflow) (hslot : u.slotFor g m.core = some k)
    (hpool : u.dyn.length < g.ndyn) : u.deliver g phase sclk m = .done { u.takeSlot g m.core k with
      dyn := u.dyn ++ [⟨u.freshId, m.target, ((g.tmpls[m.target]?).map (fun e => e.arg)).getD 0, sclk, false, some (m.core, k)⟩] }
      (some k) := by
  have hpool' : (u.takeSlot g m.core k).dyn.length < g.ndyn := hpool
  simp only [DuState.deliver, h, hmsg, hslot, hmode, reduceCtorEq, Bool.false_eq_true, if_false, DuState.post_room _ _ _ _ hpool']
  rfl

/-- A message counts at its event on an RTK die (R337, R343). -/
theorem DuState.deliver_counts {k : Nat} {e : EventSt} (hmsg : m.signal = none) (hmode : g.mode = .rtk)
    (hslot : u.slotFor g m.core = some k) (he : u.events[m.target]? = some e) (hfifo : e.fifo = []) (hroom : e.count < 255) :
    u.deliver g phase sclk m = .done ((u.takeSlot g m.core k).withEvent m.target
      { e with count := e.count + 1, slots := e.slots ++ [some (m.core, k)] }) (some k) := by
  have hcounts := DuState.signal_counts (u := u.takeSlot g m.core k) (sclk := sclk) g (some (m.core, k)) he hfifo hroom
  simp only [DuState.deliver, h, hmsg, hslot, hmode, Bool.false_eq_true, if_false, if_true, hcounts]

/-- A SIGNAL from another die counts at its event (R339). -/
theorem DuState.deliver_signals {e : EventSt} (hmsg : m.signal = some false) (he : u.events[m.target]? = some e) (hfifo : e.fifo = [])
    (hroom : e.count < 255) : u.deliver g phase sclk m
      = .done (u.withEvent m.target { e with count := e.count + 1, slots := e.slots ++ [none] }) none := by
  simp only [DuState.deliver, h, hmsg, Bool.false_eq_true, if_false, DuState.signal_counts g none he hfifo hroom]

end

end

/-! ### The message that is delivered -/

section
variable {s : State} {m : Msg} {g : DuCfg} {d : Nat}

/-- The oldest message to a destination is the next, unless it stalls (R341, R346). -/
theorem State.nextMsg_oldest {dst : Nat} (h : s.msgs.find? (fun y => y.die == if dst = 8 then none else some dst) = some m)
    (hstalls : s.stalls m = false) : s.nextMsg dst = some m := by
  obtain ⟨hdie, as, bs, hmsgs, hbefore⟩ := List.find?_eq_some_iff_append.1 h
  refine List.find?_eq_some_iff_append.2 ⟨by simp [hdie, hstalls], as, bs, hmsgs, fun a ha => ?_⟩
  have := hbefore a ha
  simp_all

/-- At a planning die a message stalls only where the die has no room for it. -/
theorem State.stalls_of_deliver (hdie : m.die = some d) (hg : s.duCfg d = some g)
    (h : (s.duOf d).deliver g s.phase s.time.sclk m ≠ .full) : s.stalls m = false := by
  simp only [State.stalls, hdie, hg]
  cases hdone : (s.duOf d).deliver g s.phase s.time.sclk m with
  | stale v => simp
  | full => exact absurd hdone h
  | done v k => simp

/-- A serving die without room for a message lets it wait (R346). -/
theorem State.stalls_of_full (hdie : m.die = some d) (hg : s.duCfg d = some g) (hserve : (s.duOf d).serve = .serving)
    (h : (s.duOf d).deliver g s.phase s.time.sclk m = .full) : s.stalls m = true := by
  simp [State.stalls, hdie, hg, hserve, h]

end

section
variable {s : State} {m : Msg} {g : DuCfg} {d : Die} {dst : Fin 9} (hdst : dst.val = d.val)
  (hfind : s.msgs.find? (fun y => y.die == some d.val) = some m) (hg : s.duCfg d = some g)
include hdst hfind hg

/-- The oldest message to a die that has room for it, or to which it is stale, is delivered (R341). -/
theorem execMessageDelivery_die (h : (s.duOf d).deliver g s.phase s.time.sclk m ≠ .full) :
    exec (.messageDelivery dst) s = .next (s.deliverDie d m) := by
  have hdie : m.die = some d.val := by simpa using List.find?_some hfind
  have hnot : d.val ≠ 8 := by omega
  have hnext := State.nextMsg_oldest (dst := d.val) (by rwa [if_neg hnot]) (State.stalls_of_deliver hdie hg h)
  simp only [exec, execMessageDelivery, hdst, hnext, if_neg hnot]

/-- Where the only message to a serving die finds no room, nothing is delivered (R346). -/
theorem execMessageDelivery_full (hserve : (s.duOf d).serve = .serving) (h : (s.duOf d).deliver g s.phase s.time.sclk m = .full)
    (honly : ∀ y ∈ s.msgs, y.die = some d.val → y = m) : exec (.messageDelivery dst) s = .next s := by
  have hdie : m.die = some d.val := by simpa using List.find?_some hfind
  have hnot : d.val ≠ 8 := by omega
  have hnext : s.nextMsg d.val = none := by
    refine List.find?_eq_none.2 fun y hy => ?_
    by_cases hyd : y.die = some d.val
    · simp [honly y hy hyd, State.stalls_of_full hdie hg hserve h]
    · simp [if_neg hnot, hyd]
  simp only [exec, execMessageDelivery, hdst, hnext]

end

/-! ### Its effect -/

/-- A message taken from those under way, its die's dispatch unit as given. -/
def State.taken (s : State) (d : Nat) (m : Msg) (v : DuState) : State :=
  State.mapDu { s with msgs := s.msgs.erase m } d (fun _ => v)

section
variable {s : State} {d : Nat} {m : Msg} {v : DuState}

/-- A dispatch unit put in another's place, with its threads. -/
theorem State.thr_taken (h : v.threads = (s.duOf d).threads) (k i : Nat) : (s.taken d m v).thr k i = s.thr k i := by
  have hof : ((s.taken d m v).duOf (k / 16)).threads = (s.duOf (k / 16)).threads := by
    by_cases hd : k / 16 = d
    · by_cases hlen : d < s.du.length
      · rw [hd, ← h]
        exact congrArg DuState.threads (State.duOf_mapDu_same _ _ _ hlen)
      · simp [State.taken, State.duOf, nth, get_modAt, hd, List.getElem?_eq_none (Nat.not_lt.1 hlen)]
    · rw [State.taken, State.duOf_mapDu_other _ _ _ _ hd]
      rfl
  simp only [State.thr, DuState.thread, hof]

theorem State.duOf_taken (h : d < s.du.length) : (s.taken d m v).duOf d = v := State.duOf_mapDu_same _ _ _ h

theorem State.duOf_taken_other {k : Nat} (h : k ≠ d) : (s.taken d m v).duOf k = s.duOf k := State.duOf_mapDu_other _ _ _ _ h

/-- The outcome of a message reaches nobody where its sender does not wait for it (R342). -/
theorem State.outcome_unawaited (h : ∀ c x, m.src = some c → s.thr c m.thread = some x → x.wait ≠ .msg) (flag : Option Nat) :
    s.outcome m flag = s := by
  unfold State.outcome
  split
  · rfl
  · next c hc =>
    split
    · rfl
    · next x hx => exact if_pos (h c x hc hx)

/-- The outcome of a message ends its sender's wait: a delivery, or a stale SIGNAL, which raises no flag (R316, R342). -/
theorem State.outcome_awaited {c : Nat} {x : Thread} {flag : Option Nat} (hsrc : m.src = some c) (hx : s.thr c m.thread = some x)
    (hwait : x.wait = .msg) (hflag : flag = none ∨ flag = some 0x12 ∧ m.signal.isSome = true) :
    s.outcome m flag = s.mapThr c m.thread (fun y => { y with wait := .none }) := by
  simp only [State.outcome, hsrc, hx, hwait, ne_eq, not_true_eq_false, if_false]
  obtain rfl | ⟨rfl, hsignal⟩ := hflag
  · rfl
  · simp only [hsignal, and_self, if_true]

/-- Where one thread alone differs, a dispatch unit differs in its threads alone. -/
theorem State.duOf_of_onlyThread {s t : State} {c n : Nat} {x : Thread} (h : OnlyThread s t c n x) (d : Nat) :
    { t.duOf d with threads := (s.duOf d).threads } = s.duOf d := by
  by_cases hd : d = c / 16
  · subst hd
    exact h.rest
  · rw [h.dies d hd]

variable {c : Nat} {x : Thread}

/-- `t` is `s` with a message delivered to die `d`, whose dispatch unit is then `v`, and the wait of its sender ended. -/
structure Delivery (s t : State) (d : Nat) (m : Msg) (v : DuState) (c : Nat) (x : Thread) : Prop where
  msgs : t.msgs = s.msgs.erase m
  sender : s.ThreadBecomes t c m.thread { x with wait := .none }
  unit : { t.duOf d with threads := v.threads } = v
  frame : { t with msgs := s.msgs, du := s.du, mem := s.mem } = s

/-- A message taken with its dispatch unit, and its sender's wait ended. -/
theorem State.delivery_of_taken {t : State} (hlen : d < s.du.length) (hv : v.threads = (s.duOf d).threads)
    (ht : { t with mem := s.mem } = s.taken d m v) (hx : s.thr c m.thread = some x) :
    Delivery s (t.mapThr c m.thread (fun y => { y with wait := .none })) d m v c x := by
  have hdu : t.du = (s.taken d m v).du := (congrArg State.du ht :)
  have hthr (k i : Nat) : t.thr k i = s.thr k i := (State.thr_congr hdu k i).trans (State.thr_taken hv k i)
  have hone := State.onlyThread_mapThr (fun y => { y with wait := .none }) ((hthr c m.thread).trans hx)
  have hunit : t.duOf d = v := (congrArg (nth DuState.empty · d) hdu).trans (State.duOf_taken hlen)
  refine ⟨(congrArg State.msgs ht :), ⟨hone.here, fun k i hne => (hone.others k i hne).trans (hthr k i)⟩, ?_,
    congrArg (fun u : State => { u with msgs := s.msgs, du := s.du }) ht⟩
  have h := State.duOf_of_onlyThread hone d
  rwa [hunit] at h

end

section
variable {s : State} {d c : Nat} {m : Msg} {v : DuState} {x : Thread} {g : DuCfg} (hlen : d < s.du.length)
  (hg : s.duCfg d = some g)
include hg

/-- A stale message is dropped and counted (R341, R344). -/
theorem State.deliverDie_stale (h : msgStale (some g) s.phase (s.duOf d) m = true) :
    s.deliverDie d m = (s.taken d m ((s.duOf d).drop m)).outcome m (some 0x12) := by
  simp only [State.deliverDie, hg, DuState.deliver_stale h]
  rfl

variable (hsrc : m.src = some c) (hx : s.thr c m.thread = some x) (hwait : x.wait = .msg)
include hlen hsrc hx hwait

/-- A stale SIGNAL is dropped and counted, and its sender goes on (R339, R344; log entry 30). -/
theorem State.deliverDie_staleSignal (h : msgStale (some g) s.phase (s.duOf d) m = true) (hsignal : m.signal.isSome = true) :
    Delivery s (s.deliverDie d m) d m ((s.duOf d).drop m) c x ∧ { s.deliverDie d m with msgs := s.msgs, du := s.du } = s := by
  have hthr : (s.taken d m ((s.duOf d).drop m)).thr c m.thread = some x := (State.thr_taken (v := (s.duOf d).drop m) rfl _ _).trans hx
  rw [State.deliverDie_stale hg h, State.outcome_awaited hsrc hthr hwait (.inr ⟨rfl, hsignal⟩)]
  exact ⟨State.delivery_of_taken hlen rfl rfl hx, rfl⟩

/-- A SIGNAL delivered writes no mailbox slot (R339). -/
theorem State.deliverDie_plain (hdone : (s.duOf d).deliver g s.phase s.time.sclk m = .done v none) (hv : v.threads = (s.duOf d).threads) :
    Delivery s (s.deliverDie d m) d m v c x ∧ { s.deliverDie d m with msgs := s.msgs, du := s.du } = s := by
  have houtcome := State.outcome_awaited (flag := none) hsrc ((State.thr_taken (m := m) hv _ _).trans hx) hwait (.inl rfl)
  have hstep : s.deliverDie d m = (s.taken d m v).mapThr c m.thread (fun y => { y with wait := .none }) := by
    simp only [State.deliverDie, hg, hdone]
    exact houtcome
  rw [hstep]
  exact ⟨State.delivery_of_taken hlen hv rfl hx, rfl⟩

/-- A message delivered stands in its mailbox slot (R343). -/
theorem State.deliverDie_stored {k : Nat} (hdone : (s.duOf d).deliver g s.phase s.time.sclk m = .done v (some k))
    (hv : v.threads = (s.duOf d).threads) : Delivery s (s.deliverDie d m) d m v c x
    ∧ (s.deliverDie d m).mem = s.mem.write (dualBase (d * 4 + m.core / 4) + mboxOffset g m.core k) (mboxBytes m s.time.now) := by
  have hthr : ((s.taken d m v).poke (dualBase (d * 4 + m.core / 4) + mboxOffset g m.core k) (mboxBytes m s.time.now)).thr c m.thread
      = some x := (State.thr_taken (m := m) hv _ _).trans hx
  have houtcome := State.outcome_awaited (flag := none) hsrc hthr hwait (.inl rfl)
  have hstep : s.deliverDie d m = ((s.taken d m v).poke (dualBase (d * 4 + m.core / 4) + mboxOffset g m.core k)
      (mboxBytes m s.time.now)).mapThr c m.thread (fun y => { y with wait := .none }) := by
    simp only [State.deliverDie, hg, hdone]
    exact houtcome
  rw [hstep]
  exact ⟨State.delivery_of_taken hlen hv rfl hx, by simp only [State.mapThr, State.mapDu_mem, State.poke_mem, State.taken]⟩

end

@[simp] theorem length_mboxBytes (m : Msg) (now : Nat) : (mboxBytes m now).length = 32 := by
  simp only [mboxBytes, padTo, zeroBytes, List.length_append, length_leBytes, List.length_replicate, List.length_take]
  omega

/-- Bytes written are held, and the rest of memory is untouched. -/
theorem holds_and_untouched {s t : State} {a : Nat} {bs : List Byte} (hm : s.mem.wf = true) (ht : t.mem = s.mem.write a bs) :
    Holds t a bs ∧ Untouched s t [(a, bs.length)] :=
  ⟨holds_write hm ht, fun b hb => by
    rw [ht]
    exact get_write_other _ _ _ _ (hb _ (List.mem_singleton_self _))⟩

/-! ### Messages at the hub -/

section
variable {s : State} {m : Msg} {dst : Fin 9} (hdst : dst.val = 8) (hfind : s.msgs.find? (fun y => y.die == none) = some m)
  (htold : m.told = false)
include hdst hfind htold

/-- The oldest message to the hub, sent by none of its threads and new there, is delivered (R340). -/
theorem execMessageDelivery_hub : exec (.messageDelivery dst) s = .next (s.deliverHub m) := by
  have hdie : m.die = none := by simpa using List.find?_some hfind
  have hnext := State.nextMsg_oldest (dst := 8) (by rwa [if_pos rfl]) (by simp [State.stalls, hdie, htold])
  simp only [exec, execMessageDelivery, hdst, hnext, if_true]

variable (hsrc : m.src = none)
include hsrc

/-- Outside a cycle a TRACE message waits at the hub (R354). -/
theorem execMessageDelivery_traceWaits (hrole : m.role = 0xFE) (hcur : s.cyc.cur = none) :
    exec (.messageDelivery dst) s = .next { s with msgs := s.msgs.erase m ++ [{ m with told := true }] } := by
  rw [execMessageDelivery_hub hdst hfind htold]
  simp only [State.deliverHub, hrole, hcur, htold, State.outcome, hsrc, if_true, Bool.false_eq_true, if_false]

/-- Another message to the hub is stale there (R340, R344). -/
theorem execMessageDelivery_hubStale (hrole : m.role ≠ 0xFE) :
    exec (.messageDelivery dst) s = .next { s with msgs := s.msgs.erase m, cyc := { s.cyc with
      stale := (s.cyc.stale.1 + 1, if s.cyc.stale.1 = 0 then m.epoch else s.cyc.stale.2) } } := by
  rw [execMessageDelivery_hub hdst hfind htold]
  simp only [State.deliverHub, if_neg hrole, State.outcome, hsrc, State.hubStale]

/-- Within a cycle a TRACE message is a record of the trace area, or one dropped (R354, R434). -/
theorem execMessageDelivery_traces {c : Cycle} {a n : Nat} (hrole : m.role = 0xFE) (hcur : s.cyc.cur = some c)
    (harea : traceArea c.desc s.sheetBankLen = some (a, n)) :
    exec (.messageDelivery dst) s = .next (if 64 + 32 * (c.traced + 1) ≤ n then
        (State.hostWrite { s with msgs := s.msgs.erase m } (a + 64 + 32 * c.traced) (mboxBytes m s.time.now)).mapCycle
          (fun k => { k with traced := k.traced + 1 })
      else State.mapCycle { s with msgs := s.msgs.erase m } (fun k => { k with traceLost := k.traceLost + 1 })) := by
  have harea' : traceArea c.desc (State.sheetBankLen { s with msgs := s.msgs.erase m }) = some (a, n) := harea
  rw [execMessageDelivery_hub hdst hfind htold]
  simp only [State.deliverHub, hrole, hcur, htold, State.outcome, hsrc, if_true, Bool.false_eq_true, if_false, State.traceMsg, harea']

end

/-- A posted write to host memory depends on the host interface alone. -/
theorem State.hostWrite_msgs (s : State) (ms : List Msg) (a : Nat) (bs : List Byte) :
    State.hostWrite { s with msgs := ms } a bs = { s.hostWrite a bs with msgs := ms } := by
  unfold State.hostWrite
  dsimp only
  split <;> rfl

/-- A posted write leaves all but the host interface. -/
theorem State.hostWrite_only (s : State) (a : Nat) (bs : List Byte) : { s.hostWrite a bs with host := s.host } = s := by
  unfold State.hostWrite
  split <;> rfl

/-! ### Bound sources -/

section
variable {s : State} {d : Die} {src : BindSource} {arg : Nat} {rest : List (BindSource × Nat)} {g : DuCfg}
  (hfires : (s.duOf d).fires = (src, arg) :: rest) (hg : s.duCfg d = some g)
include hfires hg

/-- A die that does not serve refuses a source (R347; log entry 121). -/
theorem execBoundSourceFire_refused (hserve : (s.duOf d).serve ≠ .serving) : exec (.boundSourceFire d) s
    = .next (s.mapDu d (fun u => { u with fires := rest, refused := u.refused ++ [(src, arg)] })) := by
  simp only [exec, execBoundSourceFire, hfires, hg, if_pos hserve]

variable (hserve : (s.duOf d).serve = .serving) {b : Binding}
  (hb : g.binds.filter (fun b => b.source == src && (b.arg == arg || src == .cycleEnd || src == .hubBound)) = [b])
include hserve hb

/-- A source whose one binding finds no room stalls (R346, R347). -/
theorem execBoundSourceFire_stalls (h : (s.duOf d).fire g s.time.sclk b = none) : exec (.boundSourceFire d) s = .next s := by
  simp only [exec, execBoundSourceFire, hfires, hg, hserve, hb, ne_eq, not_true_eq_false, if_false, List.foldlM_cons, h]
  rfl

/-- A source fires at its one binding (R347). -/
theorem execBoundSourceFire_fires {v : DuState} (h : (s.duOf d).fire g s.time.sclk b = some v) :
    exec (.boundSourceFire d) s = .next (s.mapDu d (fun _ => { v with fires := rest })) := by
  simp only [exec, execBoundSourceFire, hfires, hg, hserve, hb, ne_eq, not_true_eq_false, if_false, List.foldlM_cons, h]
  rfl

end

theorem DuState.fire_dataflow {u : DuState} {g : DuCfg} (h : g.mode = .dataflow) (sclk : Nat) (b : Binding) :
    u.fire g sclk b = u.post g sclk b.target (((g.tmpls[b.target]?).map (fun e => e.arg)).getD b.arg) none :=
  if_neg (by simp [h])

theorem DuState.fire_rtk {u : DuState} {g : DuCfg} (h : g.mode = .rtk) (sclk : Nat) (b : Binding) :
    u.fire g sclk b = u.signal g sclk b.target none := if_pos h

/-! ### Quiescence -/

section
variable (s : State)

theorem State.runEnds_settled (old : List LongOp) : (s.runEnds old).saf.settled = s.saf.settled := by
  unfold State.runEnds
  split
  · exact s.staleReports_settled
  · rfl

theorem State.withOps_settled (r : OpsOut) : (s.withOps r).saf.settled = s.saf.settled := by
  unfold State.withOps
  dsimp only
  rw [State.runEnds_settled]
  simp only [State.opsRun_frame, State.completeAll_frame]
  rw [foldl_same State.saf (fun _ _ => by simp)]

end

/-- A die that is not quiescent is left alone (R352). -/
theorem execQuiescenceExpiry_busy {s : State} {d : Die} {g : DuCfg} (hg : s.duCfg d = some g)
    (h : (s.duOf d).quiescent g (s.inFlight d || !(s.duOf d).fires.isEmpty) = false) : exec (.quiescenceExpiry d) s = .next s := by
  simp only [exec, execQuiescenceExpiry, hg, h, Bool.not_false, if_true]

/-- A quiescent die: the long operations that run on it end FAILED, and its fault is raised (R352). -/
theorem execQuiescenceExpiry_quiet {s : State} {d : Die} {g : DuCfg} (hg : s.duCfg d = some g)
    (h : (s.duOf d).quiescent g (s.inFlight d || !(s.duOf d).fires.isEmpty) = true) : exec (.quiescenceExpiry d) s
      = .next ((s.withOps (endWhere (LongOp.runsOn d) .failed .faultRestart s.ops)).fault
          ⟨.quiescent, .restartDie, ⟨d, 15, 15, 0xA⟩, (s.duOf d).waitedEvent, 0⟩) := by
  simp only [exec, execQuiescenceExpiry, hg, h, Bool.not_true, Bool.false_eq_true, if_false]

/-- Escalation looks at nothing that records change (R480, R481). -/
theorem Safety.escalate_settled {v w : Safety} (h : v.settled = w.settled) (u : RUnit) : v.escalate u = w.escalate u := by
  have hactive : v.active = w.active := (congrArg Safety.active h :)
  have hwatch : v.watch = w.watch := (congrArg Safety.watch h :)
  simp only [Safety.escalate, hactive, hwatch]

/-- A fault of a restart class is recorded, and the restart of the escalated unit falls due (R479, R480). -/
theorem State.fault_restartDie {s : State} {f : Fault0} {u : RUnit} (hcls : f.cls = .restartDie)
    (h : s.saf.escalate (.die f.loc.die) = .restart u) : s.fault f = (s.record f).restartDue u := by
  have hescalate := (Safety.escalate_settled (s.record_settled f) (.die f.loc.die)).trans h
  simp only [State.fault, hcls, Fault0.unit, State.restartFault, hescalate]

end Sys2Proof.Machine

namespace Sys2Proof
open Sys2Proof.Machine

/-- Settles O46: a message is `State.deliverDie` at a die and `State.deliverHub` at the hub, each a change of one dispatch unit, the
sender's thread and what the delivery stores; a source is one post or signal; a quiescent die is a fault of class
RESTART_DIE. -/
theorem dispatchUnitsAct : Obligations.DispatchUnitsAct := by
  refine ⟨fun d dst m g s hsized hmem hdst hfind hg => ?_, fun dst m s hdst hfind hsrc htold => ?_, fun d s hsized => ?_,
    fun d src arg rest g s hsized hfires hg => ?_, fun d g u s hg => ?_⟩
  · have hlen : d.val < s.du.length := d.isLt.trans_eq hsized.units.symm
    have hdelivers := execMessageDelivery_die hdst hfind hg
    refine ⟨fun hstale hnone => ?_, fun c x hstale hsignal hsrc hc hx hwait => ?_, fun hfresh hmsg hserve hfull honly => ?_,
      fun k c x hfresh hmsg hmode hslot hpool hsrc hx hwait => ?_, fun c x v hfresh hv hfifo hroom hsrc hx hwait => ?_⟩
    · have hdrop := DuState.deliver_stale (sclk := s.time.sclk) hstale
      have hthr := State.thr_taken (s := s) (d := d) (m := m) (v := (s.duOf d).drop m) rfl
      rw [hdelivers (by simp [hdrop]), State.deliverDie_stale hg hstale,
        State.outcome_unawaited fun c x hc hx => hnone c x hc ((hthr c m.thread).symm.trans hx)]
      exact ⟨_, rfl, rfl, rfl, fun k hk => State.duOf_taken_other hk, State.duOf_taken hlen⟩
    · have hdrop := DuState.deliver_stale (sclk := s.time.sclk) hstale
      obtain ⟨hdel, hframe⟩ := State.deliverDie_staleSignal hlen hg hsrc hx hwait hstale hsignal
      exact ⟨_, hdelivers (by simp [hdrop]), hframe, hdel.msgs, (congrArg DuState.stale hdel.unit :),
        hdel.sender.here, hdel.sender.others⟩
    · exact execMessageDelivery_full hdst hfind hg hserve (DuState.deliver_full hfresh hmsg hfull) honly
    · have hdone := DuState.deliver_posts (sclk := s.time.sclk) hfresh hmsg hmode hslot hpool
      obtain ⟨hdel, hwrite⟩ := State.deliverDie_stored hlen hg hsrc hx hwait hdone rfl
      obtain ⟨hholds, huntouched⟩ := holds_and_untouched hmem.1 hwrite
      exact ⟨_, (s.duOf d).freshId, hdelivers (by simp [hdone]), hdel.frame, hdel.msgs, hdel.sender.here, hdel.sender.others,
        (congrArg DuState.dyn hdel.unit :), (s.duOf d).freshId_fresh, hholds, by simpa using huntouched⟩
    · refine ⟨fun k hmsg hmode hslot => ?_, fun hmsg => ?_⟩
      · have hdone := DuState.deliver_counts (sclk := s.time.sclk) hfresh hmsg hmode hslot hv hfifo hroom
        obtain ⟨hdel, hwrite⟩ := State.deliverDie_stored hlen hg hsrc hx hwait hdone rfl
        obtain ⟨hholds, huntouched⟩ := holds_and_untouched hmem.1 hwrite
        exact ⟨_, hdelivers (by simp [hdone]), hdel.frame, hdel.msgs, hdel.sender.here, hdel.sender.others,
          (congrArg DuState.events hdel.unit :), hholds, by simpa using huntouched⟩
      · have hdone := DuState.deliver_signals (sclk := s.time.sclk) hfresh hmsg hv hfifo hroom
        obtain ⟨hdel, hframe⟩ := State.deliverDie_plain hlen hg hsrc hx hwait hdone rfl
        exact ⟨_, hdelivers (by simp [hdone]), hframe, hdel.msgs, hdel.sender.here, hdel.sender.others,
          (congrArg DuState.events hdel.unit :)⟩
  · refine ⟨execMessageDelivery_traceWaits hdst hfind htold hsrc, execMessageDelivery_hubStale hdst hfind htold hsrc,
      fun hrole c a n hcur harea => ?_⟩
    rw [execMessageDelivery_traces hdst hfind htold hsrc hrole hcur harea]
    by_cases hroom : 64 + 32 * (c.traced + 1) ≤ n
    · rw [if_pos hroom, if_pos hroom, if_pos hroom, State.hostWrite_msgs]
      refine ⟨_, rfl, ?_, rfl, ?_, rfl⟩
      · exact congrArg (fun u : State => { u with msgs := s.msgs, cyc := s.cyc, host := s.host }) (s.hostWrite_only _ _)
      · simp only [State.mapCycle, State.hostWrite_frame, hcur, Option.map_some]
    · rw [if_neg hroom, if_neg hroom, if_neg hroom]
      exact ⟨_, rfl, rfl, rfl, by simp only [State.mapCycle, hcur, Option.map_some], rfl⟩
  · have hlen : d.val < s.du.length := d.isLt.trans_eq hsized.units.symm
    exact ⟨_, rfl, rfl, State.duOf_mapDu_same _ _ _ hlen, fun k hk => State.duOf_mapDu_other _ _ _ _ hk⟩
  · have hlen : d.val < s.du.length := d.isLt.trans_eq hsized.units.symm
    have hown (f : DuState → DuState) := State.duOf_mapDu_same s d f hlen
    have hothers (f : DuState → DuState) (k : Nat) (hk : k ≠ d.val) := State.duOf_mapDu_other s d k f hk
    refine ⟨fun hserve => ⟨_, execBoundSourceFire_refused hfires hg hserve, rfl, hown _, hothers _⟩, fun hserve hmode b hb => ?_,
      fun hserve hmode b v hb hv hfifo => ?_⟩
    · have hfire := DuState.fire_dataflow (u := s.duOf d) hmode s.time.sclk b
      refine ⟨fun hfull => execBoundSourceFire_stalls hfires hg hserve hb (hfire.trans (DuState.post_full _ _ _ _ hfull)),
        fun hroom => ?_⟩
      exact ⟨_, _, execBoundSourceFire_fires hfires hg hserve hb (hfire.trans (DuState.post_room _ _ _ _ hroom)), rfl, hown _,
        (s.duOf d).freshId_fresh, hothers _⟩
    · have hfire := DuState.fire_rtk (u := s.duOf d) hmode s.time.sclk b
      refine ⟨fun hfull => execBoundSourceFire_stalls hfires hg hserve hb (hfire.trans (DuState.signal_full g none hv hfifo hfull)),
        fun hroom => ?_⟩
      exact ⟨_, execBoundSourceFire_fires hfires hg hserve hb (hfire.trans (DuState.signal_counts g none hv hfifo hroom)), rfl, hown _,
        hothers _⟩
  · refine ⟨fun hbusy => execQuiescenceExpiry_busy hg hbusy, fun hquiet hescalate => ?_⟩
    have hsettled := s.withOps_settled (endWhere (LongOp.runsOn d) .failed .faultRestart s.ops)
    have hrecord := State.record_settled (s.withOps (endWhere (LongOp.runsOn d) .failed .faultRestart s.ops))
      ⟨.quiescent, .restartDie, ⟨d, 15, 15, 0xA⟩, (s.duOf d).waitedEvent, 0⟩
    have hdue := congrArg Safety.due (hrecord.trans hsettled)
    obtain ⟨hrestart, hcauses, hcur⟩ := State.restartDue_effect (State.record _ _) u
    refine ⟨_, (execQuiescenceExpiry_quiet hg hquiet).trans (congrArg Host.Outcome.next
      (State.fault_restartDie rfl ((Safety.escalate_settled hsettled _).trans hescalate))),
      hrestart.trans (congrArg (addDue u) hdue), hcauses, hcur, by simp, by simp, by simp⟩

end Sys2Proof

/-! ## LONGOP_CHECKPOINT: a growth that ends lets the next one begin (R143, R448, R461) -/

namespace Sys2Proof.Machine
open Sys2Proof

namespace GrowthBehindGrowth

/-- A ROADMAP_GROW descriptor of a tag, its RESET byte and TARGET 1,024. -/
def desc (tag reset : Nat) : Desc :=
  ⟨0, ⟨0x0051, false, false, false, 0, tag⟩, zeroBytes 16 ++ leBytes 4 reset ++ leBytes 4 1024 ++ zeroBytes 104⟩

/-- The growth at work, whose next 1,024 nodes are its last. -/
def running : LongOp := LongOp.new (desc 1 0) .grow

/-- A growth with RESET that conflicts with it and waits. -/
def queued : LongOp := { LongOp.new (desc 2 1) .grow with st := .queued }

def state : State := { State.reset with ops := [running, queued] }

/-- The state after the counted checkpoint. -/
def after : State := (state.countUnit running true).afterUnit running.desc

theorem running_active : state.activeOp (1 : Word64).toNat = some running := by decide +kernel
theorem running_works : state.opWorks running = true := by decide +kernel
theorem running_only : OnlyOp state running := by unfold OnlyOp; decide +kernel
theorem running_unfinished : state.finished running = false := by decide +kernel

theorem counts : exec (.longopCheckpoint 1 .counted) state = .next after := by
  show execLongopCheckpoint 1 .counted state = _
  simp only [execLongopCheckpoint, running_active, running_works, Bool.not_true, Bool.false_eq_true, if_false]
  rfl

theorem after_nodes : after.img.nodes = 0 := by decide +kernel

end GrowthBehindGrowth

end Sys2Proof.Machine

namespace Sys2Proof
open Sys2Proof.Machine

/-- Refutes O31: the last counted unit of a growth ends it DONE, and the queue is examined at once (R461). A growth with RESET that
waited for it then runs for the first time and empties the roadmap (R143), so the nodes are 0 where the statement says 1,024 more
than before. The statement wants the nodes claimed only where no growth with RESET is queued. -/
theorem not_checkpointsAct : ¬ Obligations.CheckpointsAct := by
  rintro ⟨checkpoints, -⟩
  obtain ⟨-, -, -, -, grows, -⟩ := checkpoints 1 _ _ GrowthBehindGrowth.running_active
    GrowthBehindGrowth.running_works GrowthBehindGrowth.running_only
  obtain ⟨t, y, ht, -, -, -, hnodes, -⟩ := grows (.inl rfl) rfl GrowthBehindGrowth.running_unfinished
  cases GrowthBehindGrowth.counts.symm.trans ht
  have hgrown := (hnodes rfl).1
  rw [GrowthBehindGrowth.after_nodes] at hgrown
  omega

end Sys2Proof

/-! ## DU_GRANT: a step table under a grant record (R308, R332) -/

namespace Sys2Proof.Machine
open Sys2Proof

namespace TableUnderGrants

/-- A GET step of PHASE 0 whose NEXT is step 1. -/
def get : Nat := 1 + 2 ^ 72

/-- A core whose one step stands not in its scratchpad but where its thread's grant record goes. -/
def core : CoreEntry := ⟨[get], [], dualBase 0 - scratchBase 0, 0, 0, 0, 0, [], []⟩

/-- A static item of class 0 that begins at its thread's NEXT. -/
def item : ItemEntry := ⟨0, 0, 0, 1, 0xFFF, 0, 0, []⟩

def cfg : DuCfg := ⟨.dataflow, [item], 0, [], 1, 0, [], [], 0, 0, [], true⟩

def arm : Armature := { FencedMidCycle.arm with slots := [⟨[], 0, [core], cfg⟩] }

/-- A thread whose GET asks for items of class 0. -/
def asking : Thread := ⟨.waiting, 0, 0, 0, true, .grant 1 0, 0, 0, none, false, false, none⟩

/-- The item in the thread's service. -/
def held : Held := ⟨0, false, 0, 0⟩

def best : GrantCand := ⟨0, 0, 0, 0, 0, 0, some held⟩

def unit : DuState := { DuState.empty with serve := .serving, items := [.ready 0], threads := [asking] :: List.replicate 15 [] }

/-- Phase 1 of a cycle on die 0, the item ready and the thread waiting for it. -/
def state : State := { State.reset with
  img := { ImgState.reset with active := some { FencedMidCycle.image with arms := [arm] }, arm := some 0 }
  cyc := { CycSt.reset with cur := some FencedMidCycle.cycle }
  mem := Memory.write [] (dualBase 0) (leBytes 16 get)
  du := unit :: List.replicate 7 DuState.empty }

/-- The step as it stands before the grant. -/
def step : SeqStep := (SeqStep.ofWord get).getD ⟨.halt, 0, false, false, [], 0, 0, 0, 0, 0, []⟩

theorem state_cfg : state.duCfg 0 = some cfg := by decide +kernel
theorem state_memories : Memories state := by constructor <;> decide +kernel
theorem state_best : bestGrant (state.grantCands 0) = some best := by decide +kernel
theorem state_thread : state.thr 0 0 = some asking := by decide +kernel
theorem state_step : state.stepAt 0 0 = some step := by decide +kernel

theorem grants : exec (.duGrant 0) state = .next (state.grantItem 0 cfg best held) := by
  show execDuGrant 0 state = _
  simp only [execDuGrant, Fin.val_zero, state_cfg, state_best]
  rfl

/-- The thread goes to the NEXT that the grant record spells, not to the one that the step had. -/
theorem goes_astray : ((state.grantItem 0 cfg best held).thr 0 0).map (fun y => y.step) = some 0 := by decide +kernel

end TableUnderGrants

end Sys2Proof.Machine

namespace Sys2Proof
open Sys2Proof.Machine

/-- Refutes O45: nothing in the statement keeps a core's step table within its scratchpad, and here it stands where the thread's
grant record goes. The record is stored first, and the model reads the GET step, NEXT with it, from what then stands there, so
the thread goes to step 0 where the statement says the NEXT of before, step 1. The statement wants the hypothesis that step
tables lie in their scratchpads (`Image.tablesFit`). -/
theorem not_workIsGranted : ¬ Obligations.WorkIsGranted := by
  intro h
  obtain ⟨-, -, granted⟩ := h 0 TableUnderGrants.cfg TableUnderGrants.best TableUnderGrants.asking TableUnderGrants.state
    TableUnderGrants.state_cfg TableUnderGrants.state_memories
  obtain ⟨hitem, -⟩ := granted TableUnderGrants.state_best (by decide) TableUnderGrants.state_thread
  obtain ⟨t, ht, -, hthread, -⟩ := hitem TableUnderGrants.held TableUnderGrants.step TableUnderGrants.item rfl
    TableUnderGrants.state_step rfl rfl
  cases TableUnderGrants.grants.symm.trans ht
  have hnext := congrArg (Option.map (fun y : Thread => y.step)) hthread
  have hastray := TableUnderGrants.goes_astray.symm.trans hnext
  exact absurd hastray (by decide +kernel)

end Sys2Proof

/-! ## Memories in canonical form: what every operation of the machine keeps (R356, R357, R9) -/

namespace Sys2Proof.Machine
open Sys2Proof

/-- The memories of `t` have their canonical form where those of `s` have it. -/
def Kept (s t : State) : Prop := Memories s → Memories t

/-- One memory has its canonical form where those of `s` have it. -/
def MemKept (s : State) (m : Memory) : Prop := Memories s → Memory.wf m = true

@[simp] theorem Kept.refl (s : State) : Kept s s := id

theorem Kept.trans {s t u : State} (h : Kept s t) (g : Kept t u) : Kept s u := g ∘ h

/-- `Kept`, where no rule of this section rewrites it. -/
def KeptElse (s t : State) : Prop := Kept s t

/-- `MemKept`, where no rule of this section rewrites it. -/
def MemKeptElse (s : State) (m : Memory) : Prop := MemKept s m

/-- An operation that leads from `s` to `t` keeps the canonical form, as a rule for `simp`: whatever is kept up to `s` is kept up
to `t`. It is an equivalence, and its second alternative repeats what it rewrites, because `simp` follows only two rules with
hypotheses in a row, and operations stand in longer rows. -/
abbrev Keeps (s t : State) : Prop := ∀ r, Kept r t ↔ Kept r s ∨ KeptElse r t

theorem keeps {s t : State} (h : Kept s t) : Keeps s t := fun _ => ⟨Or.inr, fun g => g.elim (·.trans h) id⟩

/-- The rule for one memory. -/
theorem memKeeps {r : State} {m : Memory} {p : Prop} (h : p → MemKept r m) : MemKept r m ↔ p ∨ MemKeptElse r m :=
  ⟨Or.inr, fun g => g.elim h id⟩

section
variable (r s : State) (m : Memory) (a n : Nat) (bs : List Byte)

/-- A state written out field by field: what counts are its two memories. -/
@[simp] theorem kept_mk {pending free boot pkg host regs time clk saf aon smi world img cyc ops mem coh eng du msgs} :
    Kept r ⟨pending, free, boot, pkg, host, regs, time, clk, saf, aon, smi, world, img, cyc, ops, mem, coh, eng, du, msgs⟩
      ↔ MemKept r mem ∧ MemKept r host.mem :=
  ⟨fun h => ⟨fun hr => (h hr).1, fun hr => (h hr).2⟩, fun h hr => ⟨h.1 hr, h.2 hr⟩⟩

@[simp] theorem memKept_mem : MemKept r s.mem ↔ Kept r s ∨ MemKeptElse r s.mem := memKeeps fun h hr => (h hr).1
@[simp] theorem memKept_hostMem : MemKept r s.host.mem ↔ Kept r s ∨ MemKeptElse r s.host.mem := memKeeps fun h hr => (h hr).2
@[simp] theorem memKept_nil : MemKept r [] := fun _ => rfl

@[simp] theorem memKept_write : MemKept r (m.write a bs) ↔ MemKept r m ∨ MemKeptElse r (m.write a bs) :=
  memKeeps fun h hr => wf_write (h hr) a bs

@[simp] theorem memKept_clear : MemKept r (m.clear a n) ↔ MemKept r m ∨ MemKeptElse r (m.clear a n) :=
  memKeeps fun h hr => wf_clear (h hr) a n

@[simp] theorem memKept_clearWhere (p : Nat → Bool) :
    MemKept r (m.clearWhere p) ↔ MemKept r m ∨ MemKeptElse r (m.clearWhere p) :=
  memKeeps fun h hr => wfFrom_filter _ (h hr)

@[simp] theorem memKept_ite (c : Prop) [Decidable c] (m n : Memory) :
    MemKept r (if c then m else n) ↔ (c → MemKept r m) ∧ (¬c → MemKept r n) := by
  split <;> simp [*]

@[simp] theorem memKept_foldl_write {α : Type} (k : α → Nat) (v : α → List Byte) (xs : List α) :
    MemKept r (xs.foldl (fun m x => m.write (k x) (v x)) m)
      ↔ MemKept r m ∨ MemKeptElse r (xs.foldl (fun m x => m.write (k x) (v x)) m) :=
  memKeeps fun h hr => wf_foldl _ (fun _ _ hm => wf_write hm _ _) xs (h hr)

@[simp] theorem memKept_foldl_clear {α : Type} (k l : α → Nat) (xs : List α) :
    MemKept r (xs.foldl (fun m x => m.clear (k x) (l x)) m)
      ↔ MemKept r m ∨ MemKeptElse r (xs.foldl (fun m x => m.clear (k x) (l x)) m) :=
  memKeeps fun h hr => wf_foldl _ (fun _ _ hm => wf_clear hm _ _) xs (h hr)

@[simp] theorem kept_ite (c : Prop) [Decidable c] (t u : State) :
    Kept r (if c then t else u) ↔ (c → Kept r t) ∧ (¬c → Kept r u) := by
  split <;> simp [*]

/-- What each turn of a fold keeps the fold keeps. -/
theorem Kept.foldl {α : Type} {g : State → α → State} (h : ∀ u x, Kept u (g u x)) (xs : List α) (s : State) :
    Kept s (xs.foldl g s) :=
  Memories.foldl h xs

@[simp] theorem foldl_kept {α : Type} {g : State → α → State} (h : ∀ u x, Kept u (g u x)) (xs : List α) :
    Keeps s (xs.foldl g s) :=
  keeps (Kept.foldl h xs s)

end

/-! #### Machine/Ops -/

section
variable (s : State) (n d a : Nat) (bs : List Byte) (old : List LongOp) (f : Fault0) (st : Status) (u : RUnit)

@[simp] theorem State.spend_kept : Keeps s (s.spend n) := keeps id
@[simp] theorem State.mapDie_kept (g : DieSt → DieSt) : Keeps s (s.mapDie d g) := keeps id
@[simp] theorem State.mapDu_kept (g : DuState → DuState) : Keeps s (s.mapDu d g) := keeps id
@[simp] theorem State.poke_kept : Keeps s (s.poke a bs) := keeps (·.poke a bs)

@[simp] theorem State.sramWrite_kept : Keeps s (s.sramWrite a bs) := by
  refine keeps ?_
  unfold State.sramWrite
  split <;> simp

@[simp] theorem State.hostWrite_kept : Keeps s (s.hostWrite a bs) := keeps (·.hostWrite a bs)
@[simp] theorem State.look_kept (v : HostView) : Keeps s (s.look v) := keeps (·.look v)
@[simp] theorem State.message_kept : Keeps s (s.message n) := keeps (·.message n)
@[simp] theorem State.mapRing_kept (g : Ring → Ring) : Keeps s (s.mapRing n g) := keeps id
@[simp] theorem State.signalRing_kept : Keeps s (s.signalRing n) := keeps (·.signalRing n)
@[simp] theorem State.wrote_kept (now : Bool) : Keeps s (s.wrote n now) := keeps (·.wrote n now)

@[simp] theorem State.complete_kept (x : Desc) (r0 r1 : Nat) (beat : Bool) : Keeps s (s.complete x st r0 r1 beat) := keeps id
@[simp] theorem State.completeAll_kept (xs : List (Desc × Status)) : Keeps s (s.completeAll xs) := keeps (·.completeAll xs)

@[simp] theorem State.fireOn_kept (ds : List Nat) (b : BindSource) (n : Nat) : Keeps s (s.fireOn ds b n) :=
  keeps (·.fireOn ds b n)

@[simp] theorem State.begin_kept (o : LongOp) : Keeps s (s.begin_ o) := by
  refine keeps ?_
  unfold State.begin_
  repeat' split
  all_goals simp

@[simp] theorem State.opsRun_kept : Keeps s (s.opsRun old) := keeps (·.opsRun old)
@[simp] theorem State.completeOp_kept (o : LongOp) : Keeps s (s.completeOp o) := keeps id
@[simp] theorem State.eventWrite_kept : Keeps s (s.eventWrite bs) := keeps (·.eventWrite bs)
@[simp] theorem State.send_kept : Keeps s (s.send f n) := keeps (·.send f n)
@[simp] theorem State.record_kept : Keeps s (s.record f) := keeps (·.record f)
@[simp] theorem State.count_kept (g : Counters → Counters) : Keeps s (s.count g) := keeps id
@[simp] theorem State.staleReports_kept : Keeps s s.staleReports := keeps (·.staleReports)
@[simp] theorem State.runEnds_kept : Keeps s (s.runEnds old) := keeps (·.runEnds old)
@[simp] theorem State.withOps_kept (r : OpsOut) : Keeps s (s.withOps r) := keeps (·.withOps r)
@[simp] theorem State.traceHeader_kept (c : Cycle) : Keeps s (s.traceHeader c) := keeps (·.traceHeader c)

@[simp] theorem State.endCycle_kept (r0 r1 : Nat) (committed : Bool) : Keeps s (s.endCycle st r0 r1 committed) :=
  keeps (·.endCycle st r0 r1 committed)

@[simp] theorem State.stopEngines_kept : Keeps s s.stopEngines := keeps id
@[simp] theorem State.mapCycle_kept (g : Cycle → Cycle) : Keeps s (s.mapCycle g) := keeps id
@[simp] theorem State.mapLink_kept (g : Link → Link) : Keeps s (s.mapLink n g) := keeps id
@[simp] theorem State.setRun_kept (r : StreamRun) : Keeps s (s.setRun r) := keeps id
@[simp] theorem State.endRun_kept (e : Engine) : Keeps s (s.endRun n e) := keeps id
@[simp] theorem State.mapStream_kept (cand : Nat) (g : RingCand → RingCand) : Keeps s (s.mapStream n cand g) := keeps id
@[simp] theorem State.setLane_kept (j : Nat) (l : Option Lane) : Keeps s (s.setLane n j l) := keeps id
@[simp] theorem State.freshDu_kept : Keeps s (s.freshDu d) := keeps (·.same (by simp) (by simp))
@[simp] theorem State.restoreStore_kept : Keeps s (s.restoreStore d) := keeps (·.same (by simp) (by simp))
@[simp] theorem State.abandon_kept : Keeps s (s.abandon st) := keeps (·.abandon st)
@[simp] theorem State.withCoh_kept (o : CohOut) : Keeps s (s.withCoh o) := keeps (·.withCoh o)
@[simp] theorem State.dropLinks_kept : Keeps s (s.dropLinks d) := keeps id
@[simp] theorem State.endVerify_kept : Keeps s s.endVerify := keeps (·.endVerify)
@[simp] theorem State.fenceData_kept : Keeps s (s.fenceData d) := keeps (·.fenceData d)
@[simp] theorem State.fenceOff_kept : Keeps s (s.fenceOff d) := keeps (·.fenceOff d)

@[simp] theorem State.fenceDie_kept (cause : FenceCause) (abandonAs : Status) : Keeps s (s.fenceDie d cause abandonAs) :=
  keeps (·.fenceDie d cause abandonAs)

@[simp] theorem State.fatalEnds_kept : Keeps s s.fatalEnds := keeps (·.fatalEnds)
@[simp] theorem State.fatalOff_kept : Keeps s s.fatalOff := keeps (·.fatalOff)
@[simp] theorem State.fatal_kept (alive : Bool) : Keeps s (s.fatal alive) := keeps (·.fatal alive)

@[simp] theorem State.recovering_kept : Keeps s (s.recovering u) := by
  refine keeps ?_
  unfold State.recovering
  split <;> simp

@[simp] theorem State.restartDue_kept : Keeps s (s.restartDue u) := keeps (·.restartDue u)
@[simp] theorem State.restartFault_kept : Keeps s (s.restartFault u) := keeps (·.restartFault u)
@[simp] theorem State.fault_kept : Keeps s (s.fault f) := keeps (·.fault f)
@[simp] theorem State.faults_kept (fs : List Fault0) : Keeps s (s.faults fs) := keeps (·.faults fs)

end

/-! #### Machine/EngineOps -/

section
variable (s : State) (unit cl cand : Nat) (e : Engine) (c : QCmd) (cause : Option Fault0) (bs : List Byte)

@[simp] theorem State.setQueue_kept (cs : List QCmd) : Keeps s (s.setQueue unit e cs) := keeps (by simp [State.setQueue])
@[simp] theorem State.qeDecide_kept : Keeps s (s.qeDecide cl) := keeps (by simp [State.qeDecide])
@[simp] theorem State.qeDrop_kept : Keeps s (s.qeDrop cl) := keeps (by simp [State.qeDrop])
@[simp] theorem State.enqueue_kept : Keeps s (s.enqueue unit e c) := keeps (by simp [State.enqueue])
@[simp] theorem State.dequeue_kept (rest : List QCmd) : Keeps s (s.dequeue unit e rest) := keeps (by simp [State.dequeue])
@[simp] theorem State.commandDone_kept : Keeps s (s.commandDone c) := keeps (by simp [State.commandDone])

@[simp] theorem State.flag_kept (code lane : Nat) (also : List Nat) :
    Keeps s (s.flag c code lane cand cause also) :=
  keeps (by simp [State.flag])

@[simp] theorem State.flagFault_kept : Keeps s (s.flagFault c cause cand) := keeps (by simp [State.flagFault])

@[simp] theorem State.flagsWhere_kept (fs : List (Nat × Bool)) : Keeps s (s.flagsWhere c fs) :=
  keeps (by simp [State.flagsWhere])

@[simp] theorem State.result_kept (off : Nat) : Keeps s (s.result cl off bs) := keeps (by simp [State.result])

@[simp] theorem State.corrected_kept (die m : Nat) : Keeps s (s.corrected die m) := by
  refine keeps ?_
  unfold State.corrected
  repeat' split
  all_goals simp

@[simp] theorem State.cacheWord_kept (loc : Loc) (bank line : Nat) : Keeps s (s.cacheWord cl loc bank line).1 := by
  refine keeps ?_
  unfold State.cacheWord
  dsimp only
  repeat' split
  all_goals simp

/-- A body and a failure that keep the canonical form do so behind an engine's checks. -/
theorem State.checked_kept (hw : HwEvent) (op first count : Nat)
    {body : State → State} {failed : Fault0 → State → State} (adjust : Fault0 → Fault0)
    (hb : ∀ u, Kept u (body u)) (hf : ∀ f u, Kept u (failed f u)) :
    Keeps s (s.checked c e hw op first count body failed adjust) := by
  refine keeps ?_
  have hb := fun u => keeps (hb u)
  have hf := fun f u => keeps (hf f u)
  unfold State.checked
  split
  · dsimp only
    split <;> simp [hb, hf]
  · dsimp only
    repeat' split
    all_goals simp [hb, hf]

theorem State.engineRun_kept (w : BitVec 128) (hw : HwEvent) (op first count : Nat)
    {body : QCmd → State → State} {failed : QCmd → Fault0 → State → State} (adjust : Fault0 → Fault0)
    (hb : ∀ c u, Kept u (body c u)) (hf : ∀ c f u, Kept u (failed c f u)) :
    Keeps s (s.engineRun unit e w hw op first count body failed adjust) := by
  refine keeps ?_
  unfold State.engineRun
  split
  · simp
  · split
    · simp
    · simp [State.checked_kept _ e _ hw op first count adjust (hb _) (hf _)]

theorem State.streamRun_kept (core : Nat) (w : BitVec 128) (hw : HwEvent) (op first count : Nat)
    {body : QCmd → State → State} (ended : State → Bool) {finish failed : QCmd → State → State}
    (hb : ∀ c u, Kept u (body c u)) (hn : ∀ c u, Kept u (finish c u))
    (hf : ∀ c u, Kept u (failed c u)) :
    Keeps s (s.streamRun core e w hw op first count body ended finish failed) := by
  refine keeps ?_
  have hb := fun c u => keeps (hb c u)
  have hn := fun c u => keeps (hn c u)
  have hf := fun c u => keeps (hf c u)
  unfold State.streamRun
  split
  · simp
  · split
    · simp
    · dsimp only
      rw [State.checked_kept _ _ _ _ _ _ _ _ (fun u => by simp [hb, hn]) (fun f u => by simp [hf])]
      simp

@[simp] theorem State.cohWrite_kept (a : Nat) : Keeps s (s.cohWrite a bs) := by
  refine keeps fun h => ⟨wf_write (wf_foldl _ (fun m l hm => ?_) _ h.1) _ _, h.2⟩
  split
  · exact wf_write hm _ _
  · exact hm

end

/-! #### Machine/EngineEnv -/

section
variable (s : State) (p : Nat → Bool)

@[simp] theorem State.clearCaches_kept : Keeps s (s.clearCaches p) := keeps (by simp [State.clearCaches])
@[simp] theorem State.dropStream_kept (core : Nat) : Keeps s (s.dropStream core p) := keeps (by simp [State.dropStream])
@[simp] theorem State.tally_kept (f : CycleCounts → CycleCounts) : Keeps s (s.tally f) := keeps (by simp [State.tally])

@[simp] theorem State.countVoid_kept (e : EngEnv) (cand : Nat) : Keeps s (s.countVoid e cand) :=
  keeps (by simp [State.countVoid])

end

/-! #### Machine/CeExec -/

section
variable (s : State) (c : QCmd) (cand core : Nat) (r : VRec) (d : KeCmd) (miss : Option Nat)

@[simp] theorem State.verdictFlags_kept (lane : Nat) (early : Bool) :
    Keeps s (s.verdictFlags c lane cand r early) :=
  keeps (by simp [State.verdictFlags])

@[simp] theorem State.putVerdict_kept : Keeps s (s.putVerdict core d cand r) := keeps (by simp [State.putVerdict])
@[simp] theorem State.checkCounts_kept (rs : List VRec) : Keeps s (s.checkCounts rs) := keeps (by simp [State.checkCounts])
@[simp] theorem State.startLanes_kept : Keeps s (s.startLanes core d) := keeps (by simp [State.startLanes])

@[simp] theorem State.laneStep_kept (e : EngEnv) (j : Nat) : Keeps s (s.laneStep e core d c miss j) := by
  refine keeps ?_
  unfold State.laneStep
  repeat' split
  all_goals simp

@[simp] theorem State.checkStreamBody_kept : Keeps s (s.checkStreamBody core d miss c) := by
  refine keeps ?_
  unfold State.checkStreamBody
  split <;> simp

@[simp] theorem State.retireLane_kept : Keeps s (s.retireLane core cand) := by
  refine keeps ?_
  unfold State.retireLane
  dsimp only
  repeat' split
  all_goals simp

@[simp] theorem State.checkStreamEnd_kept : Keeps s (s.checkStreamEnd core d c) := keeps (by simp [State.checkStreamEnd])
@[simp] theorem State.checkFailed_kept : Keeps s (s.checkFailed core d c) := keeps (by simp [State.checkFailed])

@[simp] theorem State.checkTrajBody_kept : Keeps s (s.checkTrajBody core d c) := by
  refine keeps ?_
  unfold State.checkTrajBody
  split <;> simp

@[simp] theorem State.checkPosesBody_kept : Keeps s (s.checkPosesBody core d c) := by
  refine keeps ?_
  unfold State.checkPosesBody
  split <;> simp

@[simp] theorem State.checkStream_kept (w : BitVec 128) (hw : HwEvent) :
    Keeps s (s.checkStream core w hw d miss) :=
  State.streamRun_kept _ _ _ _ _ _ _ _ _ (by simp) (by simp) (by simp)

end

/-! #### Machine/KeExec -/

section
variable (s : State) (core : Nat) (d : KeCmd) (_c c : QCmd)

@[simp] theorem State.costFailed_kept : Keeps s (s.costFailed core d _c) := keeps (by simp [State.costFailed])
@[simp] theorem State.putRecs_kept (rs : List (List Byte)) : Keeps s (s.putRecs core d rs) := keeps (by simp [State.putRecs])

@[simp] theorem State.costFlags_kept (cand : Nat) (q : Partial) : Keeps s (s.costFlags c cand q) :=
  keeps (by simp [State.costFlags])

@[simp] theorem State.costNext_kept (e : EngEnv) : Keeps s (s.costNext e core d c) := by
  refine keeps ?_
  unfold State.costNext
  dsimp only
  split <;> simp

@[simp] theorem State.costStreamBody_kept : Keeps s (s.costStreamBody core d c) := by
  refine keeps ?_
  unfold State.costStreamBody
  split <;> simp

@[simp] theorem State.costStreamEnd_kept : Keeps s (s.costStreamEnd core d _c) := keeps (by simp [State.costStreamEnd])

@[simp] theorem State.costTrajBody_kept : Keeps s (s.costTrajBody core d c) := by
  refine keeps ?_
  unfold State.costTrajBody
  split <;> simp

@[simp] theorem State.costFinalBody_kept : Keeps s (s.costFinalBody core d c) := by
  refine keeps ?_
  unfold State.costFinalBody
  split <;> simp

end

/-! #### Machine/PeExec -/

section
variable (s : State) (core cand : Nat) (d : PeCmd) (c : QCmd)

@[simp] theorem State.putSlot_kept (nsamp slot : Nat) (ps : List Sample) :
    Keeps s (s.putSlot core d nsamp cand slot ps) :=
  keeps (by simp [State.putSlot])

@[simp] theorem State.expandNext_kept (e : EngEnv) (gen : State → Nat → List Sample) :
    Keeps s (s.expandNext e core d c gen) :=
  keeps (by simp [State.expandNext])

@[simp] theorem State.expandBody_kept (gen : EngEnv → State → Nat → List Sample) :
    Keeps s (s.expandBody core d gen c) := by
  refine keeps ?_
  unfold State.expandBody
  split <;> simp

@[simp] theorem State.expandEnd_kept (fault : Bool) (_c : QCmd) : Keeps s (s.expandEnd core d fault _c) :=
  keeps (by simp [State.expandEnd])

@[simp] theorem State.keepPathSat_kept (sat : Bool) : Keeps s (s.keepPathSat core cand sat) :=
  keeps (by simp [State.keepPathSat])

@[simp] theorem State.buildPathBody_kept : Keeps s (s.buildPathBody core d c) := by
  refine keeps ?_
  unfold State.buildPathBody
  split <;> simp

@[simp] theorem State.rmSearchBody_kept : Keeps s (s.rmSearchBody core d c) := by
  refine keeps ?_
  unfold State.rmSearchBody
  split <;> simp

end

/-! #### Machine/QeExec -/

section
variable (s : State) (core : Nat) (d : QeCmd) (c : QCmd) (e : EngEnv) (t : Template) (ev : SolveEv) (late : Option Nat)
    (retried : Bool)

@[simp] theorem State.dropCand_kept (kind : Nat) : Keeps s (s.dropCand kind) := keeps (by simp [State.dropCand])

@[simp] theorem State.solveEnd_kept (o : SolveOrder) (r : QResult) : Keeps s (s.solveEnd core d c o r) :=
  keeps (by simp [State.solveEnd])

@[simp] theorem State.keepSolved_kept (cl : Nat) (x : Solved) (bytes : List Byte) :
    Keeps s (s.keepSolved cl d x bytes) :=
  keeps (by simp [State.keepSolved])

@[simp] theorem State.abftNumeric_kept (e : QEnd) : Keeps s (s.abftNumeric core e) := keeps (by simp [State.abftNumeric])

@[simp] theorem State.solveGeo_kept : Keeps s (s.solveGeo e t core d ev late c) := by
  refine keeps ?_
  unfold State.solveGeo
  dsimp only
  repeat' split
  all_goals simp

@[simp] theorem State.solveTs_kept : Keeps s (s.solveTs e t core d ev late c) := by
  refine keeps ?_
  unfold State.solveTs
  dsimp only
  repeat' split
  all_goals simp

@[simp] theorem State.solveBody_kept : Keeps s (s.solveBody core d ev late c) := by
  refine keeps ?_
  unfold State.solveBody
  repeat' split
  all_goals simp

@[simp] theorem State.emitBody_kept : Keeps s (s.emitBody core d retried c) := by
  refine keeps ?_
  unfold State.emitBody
  dsimp only
  repeat' split
  all_goals simp

@[simp] theorem State.keyBody_kept : Keeps s (s.keyBody core d retried c) := by
  refine keeps ?_
  unfold State.keyBody
  split <;> simp

end

/-! #### Machine/SeExec -/

section
variable (s : State) (core n : Nat) (d : SeCmd) (c : QCmd) (retried : Bool)

@[simp] theorem State.seFinish_kept (l : SList) : Keeps s (s.seFinish core d c l retried) := keeps (by simp [State.seFinish])
@[simp] theorem State.seFailed_kept : Keeps s (s.seFailed core d c n) := keeps (by simp [State.seFailed])
@[simp] theorem State.seFault_kept : Keeps s (s.seFault core d c n) := keeps (by simp [State.seFault])

@[simp] theorem State.selectBody_kept : Keeps s (s.selectBody core d retried c) := by
  refine keeps ?_
  unfold State.selectBody
  split <;> simp

@[simp] theorem State.mergeBody_kept : Keeps s (s.mergeBody core d retried c) := keeps (by simp [State.mergeBody])

end

/-! #### Machine/SeqOps -/

section
variable (s : State) (c t code step cand : Nat) (st : SeqStep) (cause : Option Fault0)

@[simp] theorem State.mapThr_kept (f : Thread → Thread) : Keeps s (s.mapThr c t f) := keeps (by simp [State.mapThr])
@[simp] theorem State.report_kept : Keeps s (s.report c st) := keeps (by simp [State.report])
@[simp] theorem State.goStep_kept (n : Nat) : Keeps s (s.goStep c t n) := keeps (by simp [State.goStep])
@[simp] theorem State.endStep_kept : Keeps s (s.endStep c t st) := keeps (by simp [State.endStep])
@[simp] theorem State.hubStale_kept (epoch : Nat) : Keeps s (s.hubStale epoch) := keeps (by simp [State.hubStale])

@[simp] theorem State.contextLost_kept (x : Thread) (phase : Nat) : Keeps s (s.contextLost c t x phase) :=
  keeps (by simp [State.contextLost])

theorem State.pushFrame_kept {s u : State} {c t reason : Nat} {x : Thread} (h : s.pushFrame c t reason x = some u) :
    Keeps s u := by
  refine keeps ?_
  unfold State.pushFrame at h
  split at h
  · cases h
  · split at h
    · cases h
      simp
    · cases h

@[simp] theorem State.endThread_kept : Keeps s (s.endThread c t) := by
  refine keeps ?_
  unfold State.endThread
  split
  · simp
  · split
    · simp
    · split
      · simp
      · next h => simp [State.pushFrame_kept h]

@[simp] theorem State.stepFault_kept : Keeps s (s.stepFault c t code step cause) := keeps (by simp [State.stepFault])

@[simp] theorem State.divert_kept (dest : Nat) : Keeps s (s.divert c t step dest) := by
  refine keeps ?_
  unfold State.divert
  split <;> simp

@[simp] theorem State.retireVoid_kept (core : Nat) : Keeps s (s.retireVoid core cand) := keeps (by simp [State.retireVoid])

@[simp] theorem State.react_kept (slot lane : Nat) : Keeps s (s.react c t step slot code lane cand cause) := by
  refine keeps ?_
  unfold State.react
  repeat' split
  all_goals simp

@[simp] theorem State.raise_kept : Keeps s (s.raise c t step code) := keeps (by simp [State.raise])

end

/-! #### Machine/CycleOps -/

section
variable (s : State) (d : Nat)

@[simp] theorem State.rejoinDies_kept : Keeps s s.rejoinDies := keeps (by simp [State.rejoinDies])
@[simp] theorem State.thermHold_kept : Keeps s s.thermHold := keeps (by simp [State.thermHold])
@[simp] theorem State.newFloor_kept : Keeps s s.newFloor := keeps (by simp [State.newFloor])

@[simp] theorem State.placeCopies_kept : Keeps s (s.placeCopies d) := by
  refine keeps ?_
  unfold State.placeCopies
  dsimp only
  repeat' split
  all_goals simp

@[simp] theorem State.loadCore_kept (c : Nat) (e : CoreEntry) : Keeps s (s.loadCore d c e) := keeps (by simp [State.loadCore])
@[simp] theorem State.loadDie_kept : Keeps s (s.loadDie d) := keeps (by simp [State.loadDie])
@[simp] theorem State.loadTables_kept : Keeps s s.loadTables := keeps (by simp [State.loadTables])
@[simp] theorem State.takeUp_kept (ds : List Nat) : Keeps s (s.takeUp ds) := keeps (by simp [State.takeUp])

@[simp] theorem State.chooseArmature_kept : Keeps s s.chooseArmature := by
  refine keeps ?_
  unfold State.chooseArmature
  split <;> simp

@[simp] theorem State.boundary_kept : Keeps s s.boundary := keeps (by simp [State.boundary])
@[simp] theorem State.applyPatches_kept : Keeps s s.applyPatches := keeps (by simp [State.applyPatches])
@[simp] theorem State.wrapEpoch_kept : Keeps s s.wrapEpoch := keeps (by simp [State.wrapEpoch])

end

section
variable (s : State) (i : Image) (e : Ego) (d : Desc) (a : Armature) (c : Cycle)

@[simp] theorem State.snap_kept (w : Nat) : Keeps s (s.snap i w e) := keeps (by simp [State.snap])

@[simp] theorem State.saveThreads_kept (d : Nat) : Keeps s (s.saveThreads d) := by
  refine keeps ?_
  unfold State.saveThreads
  refine Kept.foldl (fun u k => ?_) _ _
  dsimp only
  split
  · split
    · split
      · next h => simp [State.pushFrame_kept h]
      · simp
    · simp
  · simp

@[simp] theorem State.releaseDus_kept (ds : List Nat) : Keeps s (s.releaseDus ds) := by
  refine keeps ?_
  unfold State.releaseDus
  refine Kept.foldl (fun u d => ?_) _ _
  dsimp only
  split <;> simp

@[simp] theorem State.beginCycle_kept : Keeps s (s.beginCycle d i a e) := keeps (by simp [State.beginCycle])

@[simp] theorem State.releaseCycle_kept : Keeps s (s.releaseCycle d) := by
  refine keeps ?_
  unfold State.releaseCycle
  repeat' split
  all_goals simp

@[simp] theorem State.refreshEdges_kept : Keeps s (s.refreshEdges c) := by
  refine keeps ?_
  unfold State.refreshEdges
  split <;> simp

@[simp] theorem State.placeSplice_kept : Keeps s (s.placeSplice c) := by
  refine keeps ?_
  unfold State.placeSplice
  repeat' split
  all_goals simp

@[simp] theorem State.writeSheet_kept : Keeps s (s.writeSheet c i a) := keeps (by simp [State.writeSheet])
@[simp] theorem State.verifyFault_kept : Keeps s s.verifyFault := keeps (by simp [State.verifyFault])
@[simp] theorem State.endEmpty_kept : Keeps s (s.endEmpty c) := keeps (by simp [State.endEmpty])

@[simp] theorem State.committed_kept (seq : Nat) (plan safe : PlanRec) : Keeps s (s.committed seq plan safe) :=
  keeps (by simp [State.committed])

@[simp] theorem State.fix_kept (p q : Emitted) : Keeps s (s.fix c i a e p q) := keeps (by simp [State.fix])

end

/-! #### Machine/RingOps -/

section
variable (s : State) (r : Ring) (e : RingError) (n off be : Nat) (c : Compl)

@[simp] theorem State.ringFailed_kept : Keeps s (s.ringFailed r e) := keeps (by simp [State.ringFailed])

@[simp] theorem State.ringError_kept : Keeps s (s.ringError n e) := by
  refine keeps ?_
  unfold State.ringError
  split <;> simp

@[simp] theorem State.readDoorbell_kept : Keeps s (s.readDoorbell n).1 := by
  refine keeps ?_
  unfold State.readDoorbell
  dsimp only
  repeat' split
  all_goals simp

@[simp] theorem State.readDoorbells_kept (s : State) (ns : List Nat) : Keeps s (s.readDoorbells ns).1 := by
  refine keeps ?_
  unfold State.readDoorbells
  generalize false = b
  induction ns generalizing s b with
  | nil => simp
  | cons n r ih => exact Kept.trans (by simp) (ih (s.readDoorbell n).1 _)

@[simp] theorem State.pollPeriod_kept (find : Bool) : Keeps s (s.pollPeriod find) := keeps (by simp [State.pollPeriod])

@[simp] theorem State.poll_kept (lo hi : Nat) : Keeps s (s.poll lo hi) := by
  refine keeps ?_
  unfold State.poll
  dsimp only
  split <;> simp

@[simp] theorem State.startDesc_kept (d : Desc) : Keeps s (s.startDesc d) := keeps (by simp [State.startDesc])

@[simp] theorem State.fetchFrom_kept : Keeps s (s.fetchFrom r) := by
  refine keeps ?_
  unfold State.fetchFrom
  dsimp only
  repeat' split
  all_goals simp

theorem State.take_kept {s u : State} {op : Nat} {d : Desc} (h : s.take op = some (d, u)) : Keeps s u := by
  refine keeps ?_
  unfold State.take at h
  obtain ⟨x, -, hx⟩ := Option.map_eq_some_iff.1 h
  cases hx
  simp

@[simp] theorem State.retire_kept : Keeps s (s.retire c) := keeps (by simp [State.retire])

@[simp] theorem State.writeCompl_kept : Keeps s (s.writeCompl c) := by
  refine keeps ?_
  unfold State.writeCompl
  split <;> simp

@[simp] theorem State.loadFailed_kept (ring : Nat) (c : LoadCause) : Keeps s (s.loadFailed ring c) :=
  keeps (by simp [State.loadFailed])

@[simp] theorem State.regFault_kept (cause : Nat) : Keeps s (s.regFault off be cause) := keeps (by simp [State.regFault])
@[simp] theorem State.holdWrite_kept (v : Nat) : Keeps s (s.holdWrite off be v) := keeps (by simp [State.holdWrite])

end

/-! #### Machine/DescExec -/

section
variable (d : Desc) (s : State)

@[simp] theorem State.worldUpdate_kept : Keeps s (State.worldUpdate d s) := by
  refine keeps ?_
  unfold State.worldUpdate
  repeat' split
  all_goals simp

@[simp] theorem State.queueCycle_kept : Keeps s (s.queueCycle d) := keeps (by simp [State.queueCycle])

end

/-! #### Machine/LoadOps -/

section
variable (s : State)

@[simp] theorem State.mapStaged_kept (d : Desc) (f : Staged → Staged) : Keeps s (s.mapStaged d f) :=
  keeps (by simp [State.mapStaged])

@[simp] theorem State.loadFail_kept (o : LongOp) (r : Option Refused) : Keeps s (s.loadFail o r) := by
  refine keeps ?_
  unfold State.loadFail
  split <;> simp

/-- The number of units and the read stand for opaque functions while the unit's branches are taken apart: their chunk of
16 MiB is a numeral that the kernel would count down in unary. -/
theorem State.fetchUnit_kept {s u : State} {o : LongOp} (h : s.fetchUnit o = .next u) : Keeps s u := by
  obtain ⟨unit, hunit⟩ : ∃ f, f = State.fetchUnit := ⟨_, rfl⟩
  obtain ⟨units, hunits⟩ : ∃ f, f = loadUnits := ⟨_, rfl⟩
  obtain ⟨read, hread⟩ : ∃ f, f = State.hostReadN := ⟨_, rfl⟩
  refine keeps ?_
  rw [← hunit] at h
  delta State.fetchUnit at hunit
  rw [← hunits, ← hread] at hunit
  subst hunit
  dsimp only at h
  split at h
  · cases h
  · split at h <;> cases h
    simp

theorem State.unpackUnit_kept {s u : State} {o : LongOp} (h : s.unpackUnit o = .next u) : Keeps s u := by
  refine keeps ?_
  unfold State.unpackUnit at h
  dsimp only at h
  split at h
  · cases h
    simp
  · split at h <;> cases h
    simp

theorem State.checkUnit_kept {s u : State} {o : LongOp} (h : s.checkUnit o = .next u) : Keeps s u := by
  refine keeps ?_
  unfold State.checkUnit at h
  dsimp only at h
  split at h
  · cases h
  · split at h
    · cases h
      simp
    · split at h <;> cases h
      simp

@[simp] theorem State.loadUnit_kept (o : LongOp) : Keeps s (s.loadUnit o) := by
  refine keeps ?_
  unfold State.loadUnit
  dsimp only
  split
  · simp
  · simp
  · next u h =>
    have hu : Keeps s u := by
      split at h
      · exact State.fetchUnit_kept h
      · exact State.fetchUnit_kept h
      · exact State.unpackUnit_kept h
      · exact State.checkUnit_kept h
      · cases h
        exact keeps (by simp)
    simp [hu]

@[simp] theorem State.cancelGrowth_kept : Keeps s s.cancelGrowth := keeps (by simp [State.cancelGrowth])

end

/-! #### Machine/LongExec -/

section
variable (s : State) (o : LongOp) (d : Nat)

@[simp] theorem State.startLong_kept : Keeps s (s.startLong o) := keeps (by simp [State.startLong])

@[simp] theorem State.stopOp_kept (d : Desc) : Keeps s (s.stopOp d) := by
  refine keeps ?_
  unfold State.stopOp
  repeat' split
  all_goals simp

@[simp] theorem State.scrubFound_kept (cls : OpClass) : Keeps s (s.scrubFound cls d) := by
  refine keeps ?_
  unfold State.scrubFound
  split <;> simp

@[simp] theorem State.ledgerUnit_kept : Keeps s (s.ledgerUnit o) := keeps (by simp [State.ledgerUnit])

@[simp] theorem State.afterUnit_kept (d : Desc) : Keeps s (s.afterUnit d) := by
  refine keeps ?_
  unfold State.afterUnit
  split <;> simp

@[simp] theorem State.countUnit_kept (good : Bool) : Keeps s (s.countUnit o good) := by
  refine keeps ?_
  unfold State.countUnit
  repeat' split
  all_goals simp

@[simp] theorem State.checkpointOp_kept (ev : CkEvent) : Keeps s (s.checkpointOp o ev) := by
  refine keeps ?_
  unfold State.checkpointOp
  split <;> simp

@[simp] theorem State.takeDie_kept (why : OutOf) : Keeps s (s.takeDie o d why) := keeps (by simp [State.takeDie])

@[simp] theorem State.flushDie_kept : Keeps s (s.flushDie d) :=
  keeps (by simp [State.flushDie])

@[simp] theorem State.wipeDie_kept : Keeps s (s.wipeDie d) := keeps (by simp [State.wipeDie])

@[simp] theorem State.dieReady_kept : Keeps s (s.dieReady d) := by
  refine keeps ?_
  unfold State.dieReady
  dsimp only
  split <;> simp

end

/-! #### Machine/StartOps -/

section
variable (s : State) (d : Nat) (c : FenceCause)

@[simp] theorem State.fatalStart_kept (f : Fault0) : Keeps s (s.fatalStart f) := keeps (by simp [State.fatalStart])
@[simp] theorem State.dieServe_kept (v : DieServe) : Keeps s (s.dieServe d v) := keeps (by simp [State.dieServe])

@[simp] theorem State.checkReports_kept : Keeps s s.checkReports := by
  refine keeps ?_
  unfold State.checkReports
  refine Kept.foldl (fun u x => ?_) _ _
  split <;> simp

@[simp] theorem State.decideCapacity_kept : Keeps s s.decideCapacity := keeps (by simp [State.decideCapacity])
@[simp] theorem State.decideLinks_kept : Keeps s s.decideLinks := keeps (by simp [State.decideLinks])
@[simp] theorem State.enterService_kept : Keeps s s.enterService := keeps (by simp [State.enterService])
@[simp] theorem State.ready_kept : Keeps s s.ready := keeps (by simp [State.ready])
@[simp] theorem State.settle_kept : Keeps s s.settle := keeps (by simp [State.settle])
@[simp] theorem State.fenceStart_kept : Keeps s (s.fenceStart d c) := keeps (by simp [State.fenceStart])
@[simp] theorem State.latentFence_kept (row : Nat) : Keeps s (s.latentFence d row) := keeps (by simp [State.latentFence])
@[simp] theorem State.presenceFail_kept (p : Presence) : Keeps s (s.presenceFail d p c) := keeps (by simp [State.presenceFail])

end

/-! #### Machine/PowerOps -/

section
variable (s : State)

@[simp] theorem State.suspendAll_kept : Keeps s s.suspendAll := by
  refine keeps ?_
  unfold State.suspendAll
  refine Kept.foldl (fun u x => ?_) _ _
  split <;> simp

@[simp] theorem State.suspendAllN_kept (s : State) (n : Nat) : Keeps s (s.suspendAllN n) := by
  refine keeps ?_
  induction n generalizing s with
  | zero => simp [State.suspendAllN]
  | succ n ih => exact Kept.trans (by simp) (ih s.suspendAll)

@[simp] theorem State.askIdle_kept : Keeps s s.askIdle := keeps (by simp [State.askIdle])
@[simp] theorem State.flushAll_kept : Keeps s s.flushAll := keeps (by simp [State.flushAll])
@[simp] theorem State.wake_kept : Keeps s s.wake := keeps (by simp [State.wake])

@[simp] theorem State.powerDone_kept (p : PState) : Keeps s (s.powerDone p) := by
  refine keeps ?_
  unfold State.powerDone
  split <;> simp

end

/-! #### Machine/ClockExec -/

section
variable (s : State)

@[simp] theorem State.thermFatal_kept : Keeps s s.thermFatal := keeps (by simp [State.thermFatal])
@[simp] theorem State.evalHot_kept : Keeps s s.evalHot := keeps (by simp [State.evalHot])
@[simp] theorem State.evalCool_kept : Keeps s s.evalCool := keeps (by simp [State.evalCool])

@[simp] theorem State.pmbTarget_kept (t : Nat) (r : Option PmbRead) : Keeps s (s.pmbTarget t r) := by
  refine keeps ?_
  unfold State.pmbTarget
  split <;> simp

end

/-! #### Machine/CoherenceExec -/

section
variable (s : State) (req line : Nat)

@[simp] theorem State.homeRequest_kept (k : HomeReqKind) : Keeps s (s.homeRequest req line k) := by
  refine keeps ?_
  unfold State.homeRequest
  split <;> simp

@[simp] theorem State.poisonIn_kept (cl : Nat) (m : CohMsg) : Keeps s (s.poisonIn cl line m) :=
  keeps (by simp [State.poisonIn])

@[simp] theorem State.accessError_kept : Keeps s (s.accessError req line) := keeps (by simp [State.accessError])

end

/-! #### Machine/Movers -/

section
variable (s : State) (a cl : Nat) (c : QCmd) (m : MvCmd) (e : Engine)

@[simp] theorem State.moverWrite_kept (bs : List Byte) : Keeps s (s.moverWrite a bs) := keeps (by simp [State.moverWrite])

@[simp] theorem State.moverFails_kept (cause : Option Fault0) : Keeps s (s.moverFails c cl m cause) :=
  keeps (by simp [State.moverFails])

@[simp] theorem State.moverFault_kept : Keeps s (s.moverFault c cl e m a) := keeps (by simp [State.moverFault])
@[simp] theorem State.moverPoison_kept (n : Nat) : Keeps s (s.moverPoison c cl e m a n) := keeps (by simp [State.moverPoison])
@[simp] theorem State.moverError_kept : Keeps s (s.moverError c cl m) := keeps (by simp [State.moverError])
@[simp] theorem State.copyBody_kept : Keeps s (s.copyBody c cl e m) := keeps (by simp [State.copyBody])
@[simp] theorem State.fillBody_kept : Keeps s (s.fillBody c cl e m) := keeps (by simp [State.fillBody])

@[simp] theorem State.atomicBody_kept (bytes : Nat) (add : Bool) : Keeps s (s.atomicBody c cl e m bytes add) :=
  keeps (by simp [State.atomicBody])

end

/-! #### Machine/CycleExec -/

section
variable (s : State) (c : Cycle) (i : Image) (a : Armature) (hw : HwEvent) (ls : List HubList) (entry pass src epoch : Nat)
    (bytes : List Byte)

@[simp] theorem State.nextPhase_kept : Keeps s (s.nextPhase c) := keeps (by simp [State.nextPhase])
@[simp] theorem State.endSnapshot_kept : Keeps s (s.endSnapshot c) := keeps (by simp [State.endSnapshot])
@[simp] theorem State.endEnlarge_kept : Keeps s (s.endEnlarge c) := keeps (by simp [State.endEnlarge])

@[simp] theorem State.endGenerate_kept : Keeps s (s.endGenerate c) := by
  refine keeps ?_
  unfold State.endGenerate
  dsimp only
  repeat' split
  all_goals simp

@[simp] theorem State.endSelect_kept : Keeps s (s.endSelect c i a) := by
  refine keeps ?_
  unfold State.endSelect
  dsimp only
  split <;> simp

@[simp] theorem State.endRecheck_kept : Keeps s (s.endRecheck c a) := keeps (by simp [State.endRecheck])
@[simp] theorem State.endProof_kept (e : Ego) : Keeps s (s.endProof c i a e) := keeps (by simp [State.endProof])

@[simp] theorem State.endFix_kept (e : Ego) : Keeps s (s.endFix c i a e) := by
  refine keeps ?_
  unfold State.endFix
  split <;> simp

@[simp] theorem State.lockstep_kept (phase : Nat) : Keeps s (s.lockstep phase hw) := by
  refine keeps ?_
  unfold State.lockstep
  dsimp only
  split <;> simp

@[simp] theorem State.muFail_kept (sp : SelSpec) (n : Nat) : Keeps s (s.muFail sp n ls) := keeps (by simp [State.muFail])

@[simp] theorem State.muRun_kept (e : SelEntry) : Keeps s (s.muRun c e entry pass hw ls) := by
  refine keeps ?_
  unfold State.muRun
  split <;> simp

@[simp] theorem State.listIn_kept : Keeps s (s.listIn src epoch entry pass bytes) := by
  refine keeps ?_
  unfold State.listIn
  split <;> simp

@[simp] theorem State.dualIn_kept (cl off : Nat) : Keeps s (s.dualIn epoch cl off bytes) := by
  refine keeps ?_
  unfold State.dualIn
  split <;> simp

@[simp] theorem State.bulkWrite_kept (da : Nat) : Keeps s (s.bulkWrite src da bytes) := keeps (by simp [State.bulkWrite])

end

/-! #### Machine/DeExec -/

section
variable (s : State) (die satrec satstat big cl : Nat) (d : DeCmd) (c : QCmd)

@[simp] theorem State.broadcast_kept (off : Nat) (bs : List Byte) : Keeps s (s.broadcast die off bs) :=
  keeps (by simp [State.broadcast])

@[simp] theorem State.deCounts_kept : Keeps s (s.deCounts die satrec satstat big) := keeps (by simp [State.deCounts])

@[simp] theorem State.deFinish_kept (tiles : Nat) (sat : Bool) :
    Keeps s (s.deFinish cl d c tiles satrec satstat big sat) :=
  keeps (by simp [State.deFinish])

@[simp] theorem State.cspaceBody_kept : Keeps s (s.cspaceBody cl d c) := by
  refine keeps ?_
  unfold State.cspaceBody
  split <;> simp

@[simp] theorem State.occBody_kept : Keeps s (s.occBody cl d c) := by
  refine keeps ?_
  unfold State.occBody
  split <;> simp

@[simp] theorem State.staticBody_kept : Keeps s (s.staticBody cl d c) := by
  refine keeps ?_
  unfold State.staticBody
  split <;> simp

end

/-! #### Machine/SeqExec -/

section
variable (s : State) (c t : Nat) (st : SeqStep)

@[simp] theorem State.tryEnd_kept (x : Thread) : Keeps s (s.tryEnd c t x st) := keeps (by simp [State.tryEnd])
@[simp] theorem State.markStarted_kept : Keeps s (s.markStarted c t) := keeps (by simp [State.markStarted])

@[simp] theorem State.issueSlot_kept (n : Nat) (i : Nat) : Keeps s (s.issueSlot c t n st i).1 := by
  refine keeps ?_
  unfold State.issueSlot
  dsimp only
  repeat' split
  all_goals simp

@[simp] theorem State.issueAll_kept (s : State) (c t n : Nat) (st : SeqStep) :
    Keeps s (s.issueAll c t n st).1 := by
  refine keeps ?_
  unfold State.issueAll
  generalize (false, false) = b
  induction List.range 4 generalizing s b with
  | nil => simp
  | cons i r ih =>
    rw [List.foldl_cons]
    split
    · exact ih s b
    · exact Kept.trans (by simp) (ih _ _)

end

/-! #### Machine/DuExec -/

section
variable (s : State) (d : Nat) (g : DuCfg) (m : Msg) (k : GrantCand)

@[simp] theorem State.grantRec_kept (core thread item : Nat) (dyn : Bool) (arg : Nat) (m : Option (Nat × Nat)) :
    Keeps s (s.grantRec d g core thread item dyn arg m) :=
  keeps (by simp [State.grantRec])

@[simp] theorem State.grantItem_kept (h : Held) : Keeps s (s.grantItem d g k h) := by
  refine keeps ?_
  unfold State.grantItem
  dsimp only
  repeat' split
  all_goals simp

@[simp] theorem State.preempt_kept (core : Nat) : Keeps s (s.preempt core) := by
  refine keeps ?_
  unfold State.preempt
  split
  · simp
  · split
    · simp
    · next h => simp [State.pushFrame_kept h]

@[simp] theorem State.grantThread_kept : Keeps s (s.grantThread d g k) := by
  refine keeps ?_
  unfold State.grantThread
  dsimp only
  split <;> simp

@[simp] theorem State.outcome_kept (flag : Option Nat) : Keeps s (s.outcome m flag) := by
  refine keeps ?_
  unfold State.outcome
  repeat' split
  all_goals simp

@[simp] theorem State.traceMsg_kept (c : Cycle) : Keeps s (s.traceMsg c m) := by
  refine keeps ?_
  unfold State.traceMsg
  split <;> simp

@[simp] theorem State.deliverHub_kept : Keeps s (s.deliverHub m) := by
  refine keeps ?_
  unfold State.deliverHub
  repeat' split
  all_goals simp

@[simp] theorem State.deliverDie_kept : Keeps s (s.deliverDie d m) := by
  refine keeps ?_
  unfold State.deliverDie
  dsimp only
  repeat' split
  all_goals simp

end

/-! #### Machine/LinkExec -/

section
variable (s : State) (l e : Nat) (f : Flit)

@[simp] theorem State.linkLoss_kept : Keeps s (s.linkLoss l) := keeps (by simp [State.linkLoss])
@[simp] theorem State.linkRecovery_kept : Keeps s (s.linkRecovery l) := keeps (by simp [State.linkRecovery])
@[simp] theorem State.replayFrom_kept : Keeps s (s.replayFrom l e) := keeps (by simp [State.replayFrom])

@[simp] theorem State.packetFlit_kept : Keeps s (s.packetFlit l e f) := by
  refine keeps ?_
  unfold State.packetFlit
  repeat' split
  all_goals simp

@[simp] theorem State.flitTaken_kept : Keeps s (s.flitTaken l e f) := keeps (by simp [State.flitTaken])

end

/-! #### Machine/RegOps -/

section
variable (s : State) (off : Nat)

@[simp] theorem State.readReg_kept : Keeps s (s.readReg off) := by
  refine keeps ?_
  unfold State.readReg
  split <;> simp

@[simp] theorem State.busRead_kept : Keeps s (s.busRead off) := keeps (by simp [State.busRead])

end

/-! #### Machine/RestartOps -/

section
variable (s : State) (cl d : Nat)

@[simp] theorem State.restartBegin_kept (u : RUnit) : Keeps s (s.restartBegin u) := by
  refine keeps ?_
  unfold State.restartBegin
  split <;> simp

@[simp] theorem State.clearCluster_kept : Keeps s (s.clearCluster cl) := keeps (by simp [State.clearCluster])
@[simp] theorem State.resetCluster_kept : Keeps s (s.resetCluster cl) := keeps (by simp [State.resetCluster])
@[simp] theorem State.dropHomed_kept : Keeps s (s.dropHomed d) := keeps (by simp [State.dropHomed])
@[simp] theorem State.retrainLinks_kept : Keeps s (s.retrainLinks d) := keeps (by simp [State.retrainLinks])

@[simp] theorem State.resetDie_kept : Keeps s (s.resetDie d) := keeps (by simp [State.resetDie])

@[simp] theorem State.copyStatics_kept : Keeps s (s.copyStatics cl) := by
  refine keeps ?_
  unfold State.copyStatics
  split <;> simp

@[simp] theorem State.dropDescs_kept : Keeps s s.dropDescs := keeps (by simp [State.dropDescs])

@[simp] theorem State.resetHub_kept (held : Bool) (lost : List Nat) : Keeps s (s.resetHub held lost) :=
  keeps (by simp [State.resetHub])

@[simp] theorem State.rereadContexts_kept : Keeps s s.rereadContexts := keeps (by simp [State.rereadContexts])
@[simp] theorem State.dieBack_kept : Keeps s (s.dieBack d) := keeps (by simp [State.dieBack])

end

/-! #### Machine/SafetyExec -/

section
variable (s : State) (cl k len d vc : Nat)

@[simp] theorem State.cutOp_kept (p : LongOp → Bool) : Keeps s (s.cutOp p) := by
  refine keeps ?_
  unfold State.cutOp
  split <;> simp

@[simp] theorem State.cutQe_kept (core : Nat) : Keeps s (s.cutQe core) := by
  refine keeps ?_
  unfold State.cutQe
  split <;> simp

@[simp] theorem State.cutMover_kept (mv : Nat) : Keeps s (s.cutMover cl mv) := by
  refine keeps ?_
  unfold State.cutMover
  split <;> simp

@[simp] theorem State.holdQe_kept : Keeps s (s.holdQe cl k len) := keeps (by simp [State.holdQe])

@[simp] theorem State.fillFails_kept (f : Fault0) : Keeps s (s.fillFails cl f) := by
  refine keeps ?_
  unfold State.fillFails
  dsimp only
  split <;> simp

@[simp] theorem State.holdLpddr_kept : Keeps s (s.holdLpddr d k len) := by
  refine keeps ?_
  unfold State.holdLpddr
  dsimp only
  repeat' split
  all_goals simp

@[simp] theorem State.loseMsg_kept (sender : Nat) : Keeps s (s.loseMsg sender) := by
  refine keeps ?_
  unfold State.loseMsg
  split <;> simp

@[simp] theorem State.loseCoh_kept (x : Nat) (f : FClass → Loc → Fault0) (loc : Loc) :
    Keeps s (s.loseCoh x d vc f loc) := by
  refine keeps ?_
  unfold State.loseCoh
  dsimp only
  split <;> simp

@[simp] theorem State.holdUtx_kept (inst : Nat) : Keeps s (s.holdUtx inst vc len) := keeps (by simp [State.holdUtx])
@[simp] theorem State.holdPcie_kept : Keeps s (s.holdPcie k len) := keeps (by simp [State.holdPcie])
@[simp] theorem State.holdLed_kept : Keeps s (s.holdLed k len) := keeps (by simp [State.holdLed])

end

/-! #### Machine/SmiExec -/

section
variable (s : State) (rstat addr data : Nat)

@[simp] theorem State.smiAnswer_kept : Keeps s (s.smiAnswer rstat addr data) := keeps (by simp [State.smiAnswer])
@[simp] theorem State.smiLatch_kept : Keeps s (s.smiLatch addr) := keeps (by simp [State.smiLatch])

end

/-! #### Machine/StartExec -/

@[simp] theorem State.trained_kept (s : State) (d : Nat) (rec : List Byte) : Keeps s (s.trained d rec) :=
  keeps (by simp [State.trained])

/-! #### Machine/Tick -/

section
variable (s : State)

@[simp] theorem State.moveDeadlines_kept (delta : Int) : Keeps s (s.moveDeadlines delta) :=
  keeps (by simp [State.moveDeadlines])

@[simp] theorem State.slewMoves_kept : Keeps s s.slewMoves := by
  refine keeps ?_
  unfold State.slewMoves
  split <;> simp

end

/-! #### Machine/TimeExec -/

section
variable (s : State) (delta : Int) (d : Desc)

@[simp] theorem State.stepTime_kept : Keeps s (s.stepTime delta) := keeps (by simp [State.stepTime])
@[simp] theorem State.setCalendar_kept : Keeps s (s.setCalendar d) := keeps (by simp [State.setCalendar])

end

/-! #### Resets, the ring table, activation, power states -/

section
variable (s : State) (p : PState)

@[simp] theorem State.powerOn_kept (low : Bool) : Keeps s (s.powerOn low) :=
  keeps fun h => ⟨rfl, h.2⟩

@[simp] theorem State.functionReset_kept : Keeps s s.functionReset := by
  refine keeps ?_
  unfold State.functionReset HostIf.functionReset
  simp

@[simp] theorem State.loadTable_kept : Keeps s s.loadTable := by
  refine keeps ?_
  unfold State.loadTable
  dsimp only
  repeat' split
  all_goals simp

@[simp] theorem State.clearPlanning_kept : Keeps s s.clearPlanning.1 := keeps id

@[simp] theorem State.activate_kept (o : LongOp) (i : Image) : Keeps s (s.activate o i) := by
  refine keeps ?_
  unfold State.activate
  split <;> simp

@[simp] theorem State.unload_kept : Keeps s s.unload := keeps (by simp [State.unload])
@[simp] theorem State.diesOff_kept : Keeps s s.diesOff := keeps (by simp [State.diesOff])

@[simp] theorem State.powerAct_kept : Keeps s (s.powerAct p) := by
  refine keeps ?_
  unfold State.powerAct
  split <;> simp

@[simp] theorem State.powerBegin_kept : Keeps s (s.powerBegin p) := keeps (by simp [State.powerBegin])
@[simp] theorem State.powerTo_kept : Keeps s (s.powerTo p) := keeps (by simp [State.powerTo])
@[simp] theorem State.powerReq_kept : Keeps s (s.powerReq p) := keeps (by simp [State.powerReq])

@[simp] theorem State.powerNext_kept : Keeps s s.powerNext := by
  refine keeps ?_
  unfold State.powerNext
  repeat' split
  all_goals simp

end

/-! #### Register writes -/

section
variable (s : State) (off v be : Nat)

@[simp] theorem State.regPut_kept : Keeps s (s.regPut off v) := by
  refine keeps ?_
  unfold State.regPut
  split <;> simp

@[simp] theorem State.regApply_kept : Keeps s (s.regApply off be v) := s.regPut_kept _ _

@[simp] theorem State.dwordWrite_kept : Keeps s (s.dwordWrite off be v) := keeps (by simp [State.dwordWrite])
@[simp] theorem State.busWrite_kept (dwords : Nat) : Keeps s (s.busWrite off dwords be v) := keeps (by simp [State.busWrite])
@[simp] theorem State.applyHeld_kept : Keeps s s.applyHeld := keeps (by simp [State.applyHeld])

@[simp] theorem State.restartEnd_kept (u : RUnit) : Keeps s (s.restartEnd u) := by
  refine keeps ?_
  unfold State.restartEnd
  split <;> simp

theorem State.forceSafe_kept {s t : State} {v : Nat} (ht : s.forceSafe v = some t) : Kept s t := by
  unfold State.forceSafe at ht
  split at ht
  · cases ht
    simp
  · split at ht <;> cases ht
    simp

theorem State.smiPut_kept {s t : State} {addr v : Nat} (ht : s.smiPut addr v = some t) : Kept s t := by
  unfold State.smiPut State.lockSafety at ht
  split at ht
  · exact State.forceSafe_kept ht
  · obtain ⟨x, -, hx⟩ := Option.map_eq_some_iff.1 ht
    exact hx ▸ by simp
  · split at ht <;> cases ht
    simp
  · split at ht <;> cases ht
    simp
  · split at ht <;> cases ht
    simp
  · cases ht

@[simp] theorem State.smiWriteTo_kept (addr : Nat) : Keeps s (s.smiWriteTo addr v) := by
  refine keeps ?_
  unfold State.smiWriteTo
  repeat' split
  · simp
  · simp
  · next ht => simp [keeps (State.smiPut_kept ht)]
  · simp

end

end Sys2Proof.Machine

namespace Sys2Proof
open Sys2Proof.Machine

/-- Wherever the outcome `o` of a command in `s` leads, the memories have their canonical form if they have it in `s`. -/
def OutKept (s : State) (o : Out) : Prop := ∀ t, o = .next t → Kept s t

@[simp] theorem outKept_next {s t : State} : OutKept s (.next t) ↔ Kept s t := by
  simp [OutKept]

@[simp] theorem outKept_fault {s : State} {f : Fault} : OutKept s (.fault f) := by simp [OutKept]

@[simp] theorem outKept_ite {s : State} {c : Prop} [Decidable c] {o p : Out} :
    OutKept s (if c then o else p) ↔ (c → OutKept s o) ∧ (¬c → OutKept s p) := by
  split <;> simp [*]

theorem serve_kept {s : State} {op : Nat} {f : Desc → State → State} (hf : ∀ d u, Kept u (f d u)) :
    OutKept s (s.serve op f) := by
  unfold State.serve
  split
  · simp
  · next x hx =>
    have hu : Kept s x.2 := by simp [State.take_kept hx]
    simpa using hu.trans (hf x.1 x.2)

/-! ### Commands of the engines -/

section
variable {s : State} {core op : Nat} {w : BitVec 128} {hw : HwEvent}

@[simp] theorem State.ceRun_kept {body : KeCmd → QCmd → State → State} (hb : ∀ d c u, Kept u (body d c u)) :
    OutKept s (s.ceRun core w hw op body) := by
  simp [State.ceRun, State.engineRun_kept, hb]

@[simp] theorem State.keRun_kept {body : KeCmd → QCmd → State → State} (hb : ∀ d c u, Kept u (body d c u)) :
    OutKept s (s.keRun core w hw op body) := by
  simp [State.keRun, State.engineRun_kept, hb]

@[simp] theorem State.peRun_kept {body : PeCmd → QCmd → State → State} (hb : ∀ d c u, Kept u (body d c u)) :
    OutKept s (s.peRun core w hw op body) := by
  simp [State.peRun, State.engineRun_kept, hb]

@[simp] theorem State.qeRun_kept {body : QeCmd → QCmd → State → State} (hb : ∀ d c u, Kept u (body d c u)) :
    OutKept s (s.qeRun core w hw op body) := by
  simp [State.qeRun, State.engineRun_kept, hb]

@[simp] theorem State.seRun_kept {body : SeCmd → Bool → QCmd → State → State}
    (hb : ∀ d r c u, Kept u (body d r c u)) : OutKept s (s.seRun core w hw op body) := by
  simp [State.seRun, State.engineRun_kept, hb]

@[simp] theorem State.deRun_kept {body : DeCmd → QCmd → State → State} (hb : ∀ d c u, Kept u (body d c u)) :
    OutKept s (s.deRun core w hw op body) := by
  unfold State.deRun
  dsimp only
  split
  · simp
  · simp [State.engineRun_kept, hb]

@[simp] theorem State.expandRun_kept {gen : PeCmd → EngEnv → State → Nat → List Sample} :
    OutKept s (s.expandRun core w hw op gen) := by
  simp [State.expandRun, State.streamRun_kept]

@[simp] theorem State.moverRun_kept {cl : Cluster} {mv : Fin 2} {body : QCmd → MvCmd → State → State}
    (hb : ∀ c m u, Kept u (body c m u)) : OutKept s (s.moverRun cl mv w hw op body) := by
  simp [State.moverRun, State.engineRun_kept, hb]

end

/-! ### The rows, in the order of their files -/

/-! #### Machine/CeExec, KeExec, PeExec, QeExec, SeExec -/

section
variable (core : Core) (w : BitVec 128) (hw : HwEvent) (s : State)

@[simp] theorem execCheckStream_kept : OutKept s (execCheckStream core w hw s) := by
  unfold execCheckStream
  split <;> simp

@[simp] theorem execCheckTraj_kept : OutKept s (execCheckTraj core w hw s) := by simp [execCheckTraj]
@[simp] theorem execCheckPoses_kept : OutKept s (execCheckPoses core w hw s) := by simp [execCheckPoses]

@[simp] theorem execCostStream_kept : OutKept s (execCostStream core w hw s) := by
  simp [execCostStream, State.streamRun_kept]

@[simp] theorem execCostTraj_kept : OutKept s (execCostTraj core w hw s) := by simp [execCostTraj]
@[simp] theorem execCostFinal_kept : OutKept s (execCostFinal core w hw s) := by simp [execCostFinal]

@[simp] theorem execExpandLib_kept : OutKept s (execExpandLib core w hw s) := by simp [execExpandLib]
@[simp] theorem execExpandSeq_kept : OutKept s (execExpandSeq core w hw s) := by simp [execExpandSeq]
@[simp] theorem execBuildPath_kept : OutKept s (execBuildPath core w hw s) := by simp [execBuildPath]
@[simp] theorem execRmSearch_kept : OutKept s (execRmSearch core w hw s) := by simp [execRmSearch]

@[simp] theorem execSolve_kept (late : Option Nat) : OutKept s (execSolve core w hw late s) := by simp [execSolve]
@[simp] theorem execEmit_kept : OutKept s (execEmit core w hw s) := by simp [execEmit]
@[simp] theorem execKey_kept : OutKept s (execKey core w hw s) := by simp [execKey]

@[simp] theorem execSelect_kept : OutKept s (execSelect core w hw s) := by simp [execSelect]
@[simp] theorem execMerge_kept : OutKept s (execMerge core w hw s) := by simp [execMerge]

end

/-! #### Machine/SeqOps -/

@[simp] theorem execEngineFlag_kept (c : Core) (s : State) : OutKept s (execEngineFlag c s) := by
  unfold execEngineFlag
  split <;> simp

/-! #### Machine/DescExec -/

section
variable (s : State)

@[simp] theorem execNop_kept : OutKept s (execNop s) := serve_kept fun d u => by simp
@[simp] theorem execWorldLayerPatch_kept : OutKept s (execWorldLayerPatch s) := serve_kept fun d u => by simp
@[simp] theorem execWorldObjects_kept : OutKept s (execWorldObjects s) := serve_kept fun d u => by simp
@[simp] theorem execWorldStatic_kept : OutKept s (execWorldStatic s) := serve_kept fun d u => by simp

@[simp] theorem execEgoState_kept : OutKept s (execEgoState s) := by
  refine serve_kept fun d u => ?_
  repeat' split
  all_goals simp

@[simp] theorem execPlanCycle_kept : OutKept s (execPlanCycle s) := serve_kept fun d u => by simp
@[simp] theorem execRetouchPlan_kept : OutKept s (execRetouchPlan s) := serve_kept fun d u => by simp

@[simp] theorem execSuspend_kept : OutKept s (execSuspend s) := by
  refine serve_kept fun d u => ?_
  split <;> simp

@[simp] theorem execResume_kept : OutKept s (execResume s) := by
  refine serve_kept fun d u => ?_
  split <;> simp

@[simp] theorem execCancel_kept : OutKept s (execCancel s) := by
  refine serve_kept fun d u => ?_
  split <;> simp

@[simp] theorem execQueryOp_kept : OutKept s (execQueryOp s) := by
  refine serve_kept fun d u => ?_
  split <;> simp

end

/-! #### Machine/LongExec -/

section
variable (s : State) (d : Die)

@[simp] theorem execLoadImage_kept : OutKept s (execLoadImage s) := serve_kept fun d u => by simp

@[simp] theorem execMaintStart_kept : OutKept s (execMaintStart s) := by
  refine serve_kept fun d u => ?_
  split <;> simp

@[simp] theorem execRoadmapGrow_kept : OutKept s (execRoadmapGrow s) := serve_kept fun d u => by simp
@[simp] theorem execLedgerRead_kept : OutKept s (execLedgerRead s) := serve_kept fun d u => by simp

@[simp] theorem execLongopCheckpoint_kept (tag : Word64) (ev : CkEvent) :
    OutKept s (execLongopCheckpoint tag ev s) := by
  unfold execLongopCheckpoint
  split <;> simp

@[simp] theorem execLongopDequeue_kept : OutKept s (execLongopDequeue s) := by simp [execLongopDequeue]

@[simp] theorem execSelftestDie_kept : OutKept s (execSelftestDie d s) := by
  unfold execSelftestDie
  dsimp only
  split <;> simp

@[simp] theorem execRetrainDie_kept : OutKept s (execRetrainDie d s) := by
  unfold execRetrainDie
  dsimp only
  split <;> simp

@[simp] theorem execRetrainComplete_kept (ok : Bool) : OutKept s (execRetrainComplete d ok s) := by
  simp [execRetrainComplete]

@[simp] theorem execImageActivation_kept : OutKept s (execImageActivation s) := by
  unfold execImageActivation
  repeat' split
  all_goals simp

@[simp] theorem execUnloadImage_kept : OutKept s (execUnloadImage s) := serve_kept fun d u => by simp

@[simp] theorem execPatchParams_kept : OutKept s (execPatchParams s) := by
  refine serve_kept fun d u => ?_
  repeat' split
  all_goals simp

end

/-! #### Machine/ClockExec -/

section
variable (s : State)

@[simp] theorem execClockFault_kept (clk : Fin 8) (loc : Fin 9) : OutKept s (execClockFault clk loc s) := by
  unfold execClockFault
  split <;> simp

@[simp] theorem execSupplyExcursion_kept (rail : Fin 24) (belowFloor full : Bool) :
    OutKept s (execSupplyExcursion rail belowFloor full s) := by
  simp [execSupplyExcursion]

@[simp] theorem execThermalEvaluation_kept (sites : List (Fin 9 × Fin 16 × Int)) :
    OutKept s (execThermalEvaluation sites s) := by
  unfold execThermalEvaluation
  repeat' split
  all_goals simp

@[simp] theorem execEclkStepChange_kept : OutKept s (execEclkStepChange s) := by simp [execEclkStepChange]

@[simp] theorem execThermAlertChange_kept (level : Bool) : OutKept s (execThermAlertChange level s) := by
  simp [execThermAlertChange]

@[simp] theorem execPmbusPollRound_kept (reads : List (Option PmbRead)) : OutKept s (execPmbusPollRound reads s) := by
  simp [execPmbusPollRound]

end

/-! #### Machine/CoherenceExec -/

section
variable (cl : Cluster) (line off : Nat) (s : State) (bytes : List Byte) (req : Fin 98)

@[simp] theorem execGets_kept : OutKept s (execGets cl line s) := by simp [execGets]
@[simp] theorem execGetm_kept : OutKept s (execGetm cl line off bytes s) := by simp [execGetm]
@[simp] theorem execPutm_kept : OutKept s (execPutm cl line s) := by simp [execPutm]

@[simp] theorem execData_kept : OutKept s (execData cl line s) := by
  unfold execData
  split <;> simp

@[simp] theorem execInv_kept : OutKept s (execInv cl line s) := by simp [execInv]
@[simp] theorem execInvAck_kept : OutKept s (execInvAck cl line s) := by simp [execInvAck]

@[simp] theorem execRecall_kept : OutKept s (execRecall cl line s) := by
  unfold execRecall
  split <;> simp

@[simp] theorem execWbAck_kept : OutKept s (execWbAck cl line s) := by simp [execWbAck]
@[simp] theorem execUcRead_kept : OutKept s (execUcRead req line s) := by simp [execUcRead]
@[simp] theorem execUcWrite_kept : OutKept s (execUcWrite req line off bytes s) := by simp [execUcWrite]
@[simp] theorem execRespErr_kept : OutKept s (execRespErr req line s) := by simp [execRespErr]

end

/-! #### Machine/Movers -/

section
variable (cl : Cluster) (mv : Fin 2) (w : BitVec 128) (hw : HwEvent) (s : State)

@[simp] theorem execCopy_kept : OutKept s (execCopy cl mv w hw s) := by simp [execCopy]
@[simp] theorem execFill_kept : OutKept s (execFill cl mv w hw s) := by simp [execFill]
@[simp] theorem execAdd32_kept : OutKept s (execAdd32 cl mv w hw s) := by simp [execAdd32]
@[simp] theorem execAdd64_kept : OutKept s (execAdd64 cl mv w hw s) := by simp [execAdd64]
@[simp] theorem execSwap32_kept : OutKept s (execSwap32 cl mv w hw s) := by simp [execSwap32]
@[simp] theorem execSwap64_kept : OutKept s (execSwap64 cl mv w hw s) := by simp [execSwap64]

end

/-! #### Machine/CycleExec -/

section
variable (s : State) (src : Fin 9)

@[simp] theorem execCycleRelease_kept : OutKept s (execCycleRelease s) := by
  unfold execCycleRelease
  split <;> simp

@[simp] theorem execPhaseBoundary_kept (lockstep : HwEvent) : OutKept s (execPhaseBoundary lockstep s) := by
  unfold execPhaseBoundary
  split
  · split
    · simp
    · split
      · dsimp only
        split <;> simp
      · dsimp only
        split <;> simp
      all_goals simp
  · simp

@[simp] theorem execMuMerge_kept (entry : Fin 8) (pass : Fin 16) (hw : HwEvent) :
    OutKept s (execMuMerge entry pass hw s) := by
  unfold execMuMerge
  split <;> simp

@[simp] theorem execList_kept (epoch : Nat) (pkt : ListPkt) : OutKept s (execList src epoch pkt s) := by
  unfold execList
  split <;> simp

@[simp] theorem execBulk_kept (da : Nat) (bytes : List Byte) : OutKept s (execBulk src da bytes s) := by simp [execBulk]

@[simp] theorem execFaultRec_kept (src : Die) (rec : List Byte) : OutKept s (execFaultRec src rec s) := by
  unfold execFaultRec
  repeat' split
  all_goals simp

end

/-! #### Machine/DeExec -/

section
variable (cl : Cluster) (w : BitVec 128) (hw : HwEvent) (s : State)

@[simp] theorem execBuildCspace_kept : OutKept s (execBuildCspace cl w hw s) := by simp [execBuildCspace]
@[simp] theorem execBuildOcc_kept : OutKept s (execBuildOcc cl w hw s) := by simp [execBuildOcc]
@[simp] theorem execBuildStatic_kept : OutKept s (execBuildStatic cl w hw s) := by simp [execBuildStatic]

end

/-! #### Machine/SeqExec -/

section
variable (c : Core) (t : ThreadNo) (s : State)

@[simp] theorem execIssue_kept : OutKept s (execIssue c t s) := by
  unfold execIssue
  split <;> simp

@[simp] theorem execGet_kept : OutKept s (execGet c t s) := by
  unfold execGet
  split <;> simp

@[simp] theorem execWaitEvent_kept : OutKept s (execWaitEvent c t s) := by
  unfold execWaitEvent
  split <;> simp

@[simp] theorem execSignal_kept : OutKept s (execSignal c t s) := by
  unfold execSignal
  dsimp only
  repeat' split
  all_goals simp

@[simp] theorem execTimedWait_kept : OutKept s (execTimedWait c t s) := by
  unfold execTimedWait
  repeat' split
  all_goals simp

@[simp] theorem execTimedWaitExpiry_kept : OutKept s (execTimedWaitExpiry c t s) := by
  unfold execTimedWaitExpiry
  repeat' split
  all_goals simp

@[simp] theorem execMsg_kept : OutKept s (execMsg c t s) := by
  unfold execMsg
  split <;> simp

@[simp] theorem execHalt_kept : OutKept s (execHalt c t s) := by
  unfold execHalt
  split <;> simp

end

/-! #### Machine/DuExec -/

section
variable (d : Die) (s : State)

@[simp] theorem execDuGrant_kept : OutKept s (execDuGrant d s) := by
  unfold execDuGrant
  repeat' split
  all_goals simp

@[simp] theorem execMessageDelivery_kept (dst : Fin 9) : OutKept s (execMessageDelivery dst s) := by
  unfold execMessageDelivery
  split <;> simp

@[simp] theorem execPhaseEpochAdvance_kept : OutKept s (execPhaseEpochAdvance d s) := by simp [execPhaseEpochAdvance]

@[simp] theorem execBoundSourceFire_kept : OutKept s (execBoundSourceFire d s) := by
  unfold execBoundSourceFire
  dsimp only
  repeat' split
  all_goals simp

@[simp] theorem execQuiescenceExpiry_kept : OutKept s (execQuiescenceExpiry d s) := by
  unfold execQuiescenceExpiry
  split <;> simp

end

/-! #### Machine/LinkExec -/

section
variable (link : Fin 16) (end_ : Fin 2) (s : State)

@[simp] theorem execFlitReceived_kept (sent err : BitVec 320) : OutKept s (execFlitReceived link end_ sent err s) := by
  unfold execFlitReceived
  dsimp only
  repeat' split
  all_goals simp

@[simp] theorem execReplayTimeout_kept : OutKept s (execReplayTimeout link end_ s) := by simp [execReplayTimeout]

@[simp] theorem execLinkRecoveryDone_kept (ok : Bool) : OutKept s (execLinkRecoveryDone link ok s) := by
  simp [execLinkRecoveryDone]

end

/-! #### Machine/PatinaExec -/

section
variable (s : State)

@[simp] theorem execPatinaSample_kept (readings : List (Fin 9 × Int)) : OutKept s (execPatinaSample readings s) := by
  unfold execPatinaSample
  dsimp only
  repeat' split
  all_goals simp

@[simp] theorem execCheckpointTimer_kept (badSlots : Fin 128) : OutKept s (execCheckpointTimer badSlots s) := by
  unfold execCheckpointTimer
  repeat' split
  all_goals simp

@[simp] theorem execIdentityRefresh_kept : OutKept s (execIdentityRefresh s) := by simp [execIdentityRefresh]

end

/-! #### Machine/PowerExec -/

section
variable (s : State)

@[simp] theorem execFunctionLevelReset_kept : OutKept s (execFunctionLevelReset s) := by simp [execFunctionLevelReset]
@[simp] theorem execHotReset_kept : OutKept s (execHotReset s) := by simp [execHotReset]
@[simp] theorem execLinkDownReset_kept : OutKept s (execLinkDownReset s) := by simp [execLinkDownReset]
@[simp] theorem execPciePerst_kept : OutKept s (execPciePerst s) := by simp [execPciePerst]
@[simp] theorem execPciePerstRelease_kept : OutKept s (execPciePerstRelease s) := by simp [execPciePerstRelease]
@[simp] theorem execD3hotEntry_kept : OutKept s (execD3hotEntry s) := by simp [execD3hotEntry]
@[simp] theorem execD0Return_kept : OutKept s (execD0Return s) := by simp [execD0Return]
@[simp] theorem execPwrReqActive_kept : OutKept s (execPwrReqActive s) := by simp [execPwrReqActive]
@[simp] theorem execPwrReqIdle_kept : OutKept s (execPwrReqIdle s) := by simp [execPwrReqIdle]
@[simp] theorem execPwrReqStandby_kept : OutKept s (execPwrReqStandby s) := by simp [execPwrReqStandby]
@[simp] theorem execPwrReqOff_kept : OutKept s (execPwrReqOff s) := by simp [execPwrReqOff]

@[simp] theorem execPwrStateReached_kept : OutKept s (execPwrStateReached s) := by
  unfold execPwrStateReached
  split <;> simp

end

/-! #### Machine/RegExec -/

section
variable (s : State) (be : BitVec 4) (v : Word32) (pair : Fin 6)

@[simp] theorem execClrAttn_kept : OutKept s (execClrAttn s) := by simp [execClrAttn]

@[simp] theorem execArbRankWrite_kept (reg : Fin 6) : OutKept s (execArbRankWrite reg be v s) := by
  simp [execArbRankWrite]

@[simp] theorem execArbHoldWrite_kept (reg : Fin 5) : OutKept s (execArbHoldWrite reg be v s) := by
  simp [execArbHoldWrite]

@[simp] theorem execPairLoRead_kept : OutKept s (execPairLoRead pair s) := by simp [execPairLoRead]
@[simp] theorem execPairHiWrite_kept : OutKept s (execPairHiWrite pair be v s) := by simp [execPairHiWrite]
@[simp] theorem execLedWinAddrWrite_kept : OutKept s (execLedWinAddrWrite be v s) := by simp [execLedWinAddrWrite]
@[simp] theorem execLedWinDataRead_kept : OutKept s (execLedWinDataRead s) := by simp [execLedWinDataRead]

@[simp] theorem execRegisterWrite_kept (off : BitVec 16) (dwords : Nat) (be : BitVec 8) (v : Word64) :
    OutKept s (execRegisterWrite off dwords be v s) := by
  simp [execRegisterWrite]

end

/-! #### Machine/RestartExec -/

section
variable (s : State)

@[simp] theorem execClusterRestart_kept (cl : Cluster) : OutKept s (execClusterRestart cl s) := by
  simp [execClusterRestart]

@[simp] theorem execDieWarmRestart_kept (d : Die) : OutKept s (execDieWarmRestart d s) := by simp [execDieWarmRestart]

@[simp] theorem execHubCoreRestart_kept (held digest : Bool) (lost : List (Fin 16)) :
    OutKept s (execHubCoreRestart held digest lost s) := by
  simp [execHubCoreRestart]

@[simp] theorem execRestartComplete_kept (u : RUnit) : OutKept s (execRestartComplete u s) := by
  simp [execRestartComplete]

end

/-! #### Machine/RingExec -/

section
variable (host : HostView) (s : State)

@[simp] theorem execAttentionPoll_kept : OutKept s (execAttentionPoll host s) := by
  unfold execAttentionPoll
  dsimp only
  repeat' split
  all_goals simp

@[simp] theorem execDescriptorFetch_kept : OutKept s (execDescriptorFetch s) := by
  unfold execDescriptorFetch
  repeat' split
  all_goals simp

@[simp] theorem execCompletionWrite_kept : OutKept s (execCompletionWrite s) := by
  unfold execCompletionWrite
  repeat' split
  all_goals simp

@[simp] theorem execCoalescingTimer_kept (ring : Fin 16384) : OutKept s (execCoalescingTimer ring s) := by
  unfold execCoalescingTimer
  split <;> simp

@[simp] theorem execMsixVectorUnmask_kept (v : Fin 2048) : OutKept s (execMsixVectorUnmask v s) := by
  simp [execMsixVectorUnmask]

@[simp] theorem execRingTblLoad_kept : OutKept s (execRingTblLoad host s) := by simp [execRingTblLoad]

end

/-! #### Machine/SafetyExec -/

section
variable (s : State)

@[simp] theorem execFaultInAssert_kept : OutKept s (execFaultInAssert s) := by simp [execFaultInAssert]
@[simp] theorem execFaultInDeassert_kept : OutKept s (execFaultInDeassert s) := by simp [execFaultInDeassert]
@[simp] theorem execStaleTimerExpiry_kept : OutKept s (execStaleTimerExpiry s) := by simp [execStaleTimerExpiry]

@[simp] theorem execMergeWindowEnd_kept : OutKept s (execMergeWindowEnd s) := by
  unfold execMergeWindowEnd
  split <;> simp

@[simp] theorem execPhaseWatchdogExpiry_kept (late : List Die) (hubLate : Bool) :
    OutKept s (execPhaseWatchdogExpiry late hubLate s) := by
  unfold execPhaseWatchdogExpiry
  split <;> simp

@[simp] theorem execHoldLimitExpiry_kept (cls : ArbClass) (inst : Fin 32) (owner : Fin 16) (len : Nat) :
    OutKept s (execHoldLimitExpiry cls inst owner len s) := by
  unfold execHoldLimitExpiry
  split <;> simp

end

/-! #### Machine/SmiExec -/

section
variable (s : State) (addr : BitVec 16)

@[simp] theorem execSmiNop_kept : OutKept s (execSmiNop s) := by simp [execSmiNop]

@[simp] theorem execSmiRead_kept : OutKept s (execSmiRead addr s) := by
  unfold execSmiRead
  repeat' split
  all_goals simp

@[simp] theorem execSmiWrite_kept (v : Word32) : OutKept s (execSmiWrite addr v s) := by simp [execSmiWrite]
@[simp] theorem execCmdForceSafeSet_kept : OutKept s (execCmdForceSafeSet s) := by simp [execCmdForceSafeSet]

@[simp] theorem execCmdForceSafeRelease_kept : OutKept s (execCmdForceSafeRelease s) := by
  simp [execCmdForceSafeRelease]

@[simp] theorem execCmdAck_kept (rseq : Word32) : OutKept s (execCmdAck rseq s) := by simp [execCmdAck]
@[simp] theorem execCmdLock_kept : OutKept s (execCmdLock s) := by simp [execCmdLock]

@[simp] theorem execSmiBadFrame_kept (why : BadFrame) : OutKept s (execSmiBadFrame why addr s) := by
  simp [execSmiBadFrame]

end

/-! #### Machine/StartExec -/

section
variable (s : State) (d : Die) (rec : List Byte)

@[simp] theorem execPowerOnReset_kept (pwrgdLow : Bool) : OutKept s (execPowerOnReset pwrgdLow s) := by
  simp [execPowerOnReset]

@[simp] theorem execPwrgdInFall_kept : OutKept s (execPwrgdInFall s) := by simp [execPwrgdInFall]

@[simp] theorem execStartup_kept (blockA blockB : List Byte) (fwA fwB sris hubBist : Bool) (hubInj : Nat) :
    OutKept s (execStartup blockA blockB fwA fwB sris hubBist hubInj s) := by
  unfold execStartup
  repeat' split
  all_goals simp

@[simp] theorem execAonPowerUp_kept : OutKept s (execAonPowerUp s) := by simp [execAonPowerUp]
@[simp] theorem execAonPowerLoss_kept : OutKept s (execAonPowerLoss s) := by simp [execAonPowerLoss]
@[simp] theorem execPdPwrEn_kept : OutKept s (execPdPwrEn d s) := by simp [execPdPwrEn]
@[simp] theorem execPdRailCheck_kept (good : Bool) : OutKept s (execPdRailCheck d good s) := by simp [execPdRailCheck]

@[simp] theorem execPresence_kept (link : Die) : OutKept s (execPresence link rec s) := by
  unfold execPresence
  dsimp only
  repeat' split
  all_goals simp

@[simp] theorem execAnnounceDeadline_kept : OutKept s (execAnnounceDeadline d s) := by simp [execAnnounceDeadline]
@[simp] theorem execTrainingReport_kept : OutKept s (execTrainingReport d rec s) := by simp [execTrainingReport]

@[simp] theorem execRingProbeRetry_kept (report : Option (List Byte)) : OutKept s (execRingProbeRetry d report s) := by
  unfold execRingProbeRetry
  split <;> simp

@[simp] theorem execTrainingDeadline_kept : OutKept s (execTrainingDeadline d s) := by simp [execTrainingDeadline]
@[simp] theorem execDieFence_kept (cause : FenceCause) : OutKept s (execDieFence d cause s) := by simp [execDieFence]

@[simp] theorem execFenceRailCheck_kept (fell : Bool) : OutKept s (execFenceRailCheck d fell s) := by
  simp [execFenceRailCheck]

@[simp] theorem execFence_kept : OutKept s (execFence s) := serve_kept fun d u => by simp

end

/-! #### Machine/TimeExec -/

section
variable (s : State)

@[simp] theorem execSetTime_kept : OutKept s (execSetTime s) := serve_kept fun d u => by simp

@[simp] theorem execTimeStep_kept : OutKept s (execTimeStep s) := by
  unfold execTimeStep
  split <;> simp

@[simp] theorem execTimeSlewStep_kept : OutKept s (execTimeSlewStep s) := by simp [execTimeSlewStep]
@[simp] theorem execSyncEdge_kept (lag : Fin 4096) : OutKept s (execSyncEdge lag s) := by simp [execSyncEdge]
@[simp] theorem execSyncStuck_kept : OutKept s (execSyncStuck s) := by simp [execSyncStuck]
@[simp] theorem execSyncStuckEnd_kept : OutKept s (execSyncStuckEnd s) := by simp [execSyncStuckEnd]

end

/-! ### All commands -/

/-- Every command keeps the memories' canonical form. -/
theorem exec_kept (c : Instr) (s : State) : OutKept s (exec c s) := by
  cases c
  all_goals simp [exec]

/-- Settles O5: bytes are stored and taken away by `Memory.write`, `Memory.clear` and `Memory.clearWhere` alone, and each of
them keeps the canonical form (R356, R357, R9). -/
theorem memoriesStayCanonical : Obligations.MemoriesStayCanonical := by
  intro s t h ht
  unfold step at ht
  split at ht
  · cases ht
    exact (by simp [State.tick] : Kept s s.tick) h
  · exact exec_kept _ _ t ht h

end Sys2Proof

/-! ## GETS: a request that an idle line left waiting is served in its place (R378) -/

namespace Sys2Proof.Machine
open Sys2Proof

namespace WaitingAtIdleLine

/-- A write of one byte at the start of a line. -/
def write : HomeReq := ⟨32, .ucWrite 0 [1]⟩

/-- Die 0 and its links answer; line 0 is idle, and a write waits for it all the same. -/
def state : State := { State.reset with
  boot := { Boot.reset with lpcap := some 2 }
  pkg := { Package.reset with dies := List.replicate 8 { DieSt.off with healthy := true, running := true } }
  coh := { CohState.empty with dir := [⟨0, .uncached, none, [write]⟩] } }

/-- The state once cluster 0 misses on line 0. -/
def after : State := { state with coh := { state.coh with acc := [⟨0, 0, none⟩] } }.homeRequest 0 0 .gets

theorem state_answers : state.homeFor 0 0 = true := by decide +kernel
theorem gets : exec (.gets 0 0) state = .next after := rfl

/-- The write that waited is performed. -/
theorem written : after.mem ≠ state.mem := by decide +kernel

end WaitingAtIdleLine

end Sys2Proof.Machine

namespace Sys2Proof
open Sys2Proof.Machine

/-- Refutes O52: nothing in the statement keeps an idle line from having requests that wait. The home serves the oldest of them,
here an uncached write, and the GETS that arrives goes on waiting, so memory changes where the statement says that a request that
is no write leaves it. The statement wants that clause only where no request waits. -/
theorem not_homesServe : ¬ Obligations.HomesServe := by
  intro h
  obtain ⟨hserve, -⟩ := h (.gets 0 0) ⟨0, .gets⟩ 0 [⟨0, 0, none⟩] WaitingAtIdleLine.state (.inl ⟨0, rfl, rfl, rfl⟩)
  obtain ⟨t, ht, -, -, -, -, hmem, -⟩ := hserve WaitingAtIdleLine.state_answers
  cases WaitingAtIdleLine.gets.symm.trans ht
  exact WaitingAtIdleLine.written (hmem (by simp))

end Sys2Proof

/-! ## Messages of the coherence protocol (R377 to R380, R395, R397) -/

namespace Sys2Proof.Machine
open Sys2Proof

/-! ### Searches in an ordered list -/

section
variable {α : Type} {le : α → α → Bool} {p : α → Bool} {x : α} {xs : List α}

theorem find_insertBy_of_pos (hx : p x = true) (h : ∀ y ∈ xs, p y = false) : (insertBy le x xs).find? p = some x := by
  induction xs with
  | nil => simp [insertBy, hx]
  | cons y ys ih =>
    obtain ⟨hy, hys⟩ := List.forall_mem_cons.1 h
    unfold insertBy
    split
    · simp [hx]
    · simpa [hy] using ih hys

theorem find_insertBy_of_neg (hx : p x = false) : (insertBy le x xs).find? p = xs.find? p := by
  induction xs with
  | nil => simp [insertBy, hx]
  | cons y ys ih =>
    unfold insertBy
    split
    · simp [hx]
    · simp [List.find?_cons, ih]

end

namespace CohState

section
variable (c : CohState) (e : DirEntry) (m : CohMsg) (x : CLine) (cl line l : Nat) (ls : List Nat)

/-! ### What each update leaves -/

@[simp] theorem send_fields : (c.send m).caches = c.caches ∧ (c.send m).dir = c.dir ∧ (c.send m).acc = c.acc
    ∧ (c.send m).uc = c.uc ∧ (c.send m).msgs = c.msgs ++ [m] := ⟨rfl, rfl, rfl, rfl, rfl⟩

@[simp] theorem take_fields : (c.take m).caches = c.caches ∧ (c.take m).dir = c.dir ∧ (c.take m).acc = c.acc
    ∧ (c.take m).uc = c.uc ∧ (c.take m).msgs = c.msgs.erase m := ⟨rfl, rfl, rfl, rfl, rfl⟩

@[simp] theorem dropLine_fields : (c.dropLine cl line).dir = c.dir ∧ (c.dropLine cl line).acc = c.acc
    ∧ (c.dropLine cl line).uc = c.uc ∧ (c.dropLine cl line).msgs = c.msgs := ⟨rfl, rfl, rfl, rfl⟩

@[simp] theorem putLine_fields : (c.putLine x).dir = c.dir ∧ (c.putLine x).acc = c.acc
    ∧ (c.putLine x).uc = c.uc ∧ (c.putLine x).msgs = c.msgs := ⟨rfl, rfl, rfl, rfl⟩

@[simp] theorem sound_fields : (c.sound ls).caches = c.caches ∧ (c.sound ls).dir = c.dir ∧ (c.sound ls).acc = c.acc
    ∧ (c.sound ls).uc = c.uc ∧ (c.sound ls).msgs = c.msgs := ⟨rfl, rfl, rfl, rfl, rfl⟩

@[simp] theorem setEntry_fields : (c.setEntry e).caches = c.caches ∧ (c.setEntry e).acc = c.acc
    ∧ (c.setEntry e).uc = c.uc ∧ (c.setEntry e).msgs = c.msgs := by
  unfold setEntry
  dsimp only
  split <;> simp

/-! ### Directory entries -/

@[simp] theorem entry_line : (c.entry l).line = l := by
  unfold entry
  cases h : c.dir.find? (fun e => e.line == l) with
  | none => rfl
  | some e => simpa using List.find?_some h

@[simp] theorem entry_send : (c.send m).entry l = c.entry l := rfl
@[simp] theorem entry_take : (c.take m).entry l = c.entry l := rfl
@[simp] theorem entry_dropLine (k : Nat) : (c.dropLine cl k).entry l = c.entry l := rfl
@[simp] theorem entry_putLine : (c.putLine x).entry l = c.entry l := rfl
@[simp] theorem entry_sound : (c.sound ls).entry l = c.entry l := rfl

/-- An entry replaced is the one read at its line, and no other line's changes (R376). -/
@[simp] theorem entry_setEntry : (c.setEntry e).entry l = if l = e.line then e else c.entry l := by
  have hgone : ∀ y ∈ c.dir.filter (fun y => y.line != e.line), (y.line == e.line) = false := fun y hy => by
    simpa using (List.mem_filter.1 hy).2
  have hkept : l ≠ e.line → (c.dir.filter (fun y => y.line != e.line)).find? (fun y => y.line == l)
      = c.dir.find? (fun y => y.line == l) := fun hl => find_filter_of_imp fun y hy => by
    simpa [eq_of_beq hy] using hl
  unfold setEntry entry
  dsimp only
  by_cases hl : l = e.line
  · subst hl
    rw [if_pos rfl]
    split
    · next hidle =>
      obtain ⟨hst, htxn, hwaiting⟩ := hidle
      rw [List.find?_eq_none.2 fun y hy => by simp [hgone y hy]]
      cases e
      cases hst
      cases htxn
      cases hwaiting
      rfl
    · rw [find_insertBy_of_pos (by simp) hgone]
      rfl
  · rw [if_neg hl]
    split
    · rw [hkept hl]
    · rw [find_insertBy_of_neg (by simpa using Ne.symm hl), hkept hl]

/-! ### Lines held -/

@[simp] theorem held_send : (c.send m).held cl line = c.held cl line := rfl
@[simp] theorem held_take : (c.take m).held cl line = c.held cl line := rfl
@[simp] theorem held_sound : (c.sound ls).held cl line = c.held cl line := rfl

@[simp] theorem held_setEntry : (c.setEntry e).held cl line = c.held cl line := by simp only [held, setEntry_fields]

@[simp] theorem held_dropLine_same : (c.dropLine cl line).held cl line = none := by
  refine List.find?_eq_none.2 fun x hx => ?_
  have hout := (List.mem_filter.1 hx).2
  rwa [Bool.not_eq_true', ← Bool.not_eq_true] at hout

theorem held_dropLine_other {cl line k l : Nat} (h : (k, l) ≠ (cl, line)) : (c.dropLine cl line).held k l = c.held k l := by
  refine find_filter_of_imp fun x hx => ?_
  have hown : x.cluster = k ∧ x.line = l := by simpa using hx
  rw [Bool.not_eq_true', ← Bool.not_eq_true, hown.1, hown.2]
  simpa using h

@[simp] theorem held_putLine_same : (c.putLine x).held x.cluster x.line = some x := by simp [putLine, held]

theorem held_putLine_other {k l : Nat} (h : (k, l) ≠ (x.cluster, x.line)) : (c.putLine x).held k l = c.held k l := by
  have hother : ¬ (x.cluster = k ∧ x.line = l) := fun hx => h (by rw [hx.1, hx.2])
  rw [← c.held_dropLine_other h]
  unfold putLine held
  rw [List.find?_cons_of_neg (by simpa using hother)]

end

/-! ### What a home does -/

section
variable {c : CohState} {rd : Nat → List Byte} {line : Nat} {x : HomeTxn} {e : DirEntry} {r : HomeReq}

/-- At an idle line that no request waits for there is nothing to serve. -/
theorem serve_idle {o : CohOut} (htxn : (o.st.entry line).txn = none) (hwaiting : (o.st.entry line).waiting = []) (n : Nat) :
    CohState.serve rd line n o = o := by
  cases n with
  | zero => rfl
  | succ n => simp only [CohState.serve, htxn, hwaiting]

/-- The transaction of a line for which no request waits: its completion, if that leaves the line so, is all that follows. -/
theorem finish_eq {o : CohOut} (htxn : (c.entry line).txn = some x) (hcomplete : c.complete rd (c.entry line) x.req = o)
    (hidle : (o.st.entry line).txn = none) (hwaiting : (o.st.entry line).waiting = []) : c.finish rd line = o := by
  simp only [CohState.finish, htxn, hcomplete]
  exact serve_idle hidle hwaiting _

/-- A line granted in M (R377). -/
theorem finish_getm (htxn : (c.entry line).txn = some x) (hkind : x.req.kind = .getm) (hwaiting : (c.entry line).waiting = []) :
    c.finish rd line
      = ⟨(c.setEntry ⟨line, .modified x.req.req, none, []⟩).send (.data x.req.req line .m (rd line)), []⟩ := by
  refine finish_eq htxn ?_ (by simp) (by simp)
  simp only [CohState.complete, hkind, entry_line, hwaiting]

/-- A line granted in S beside its sharers (R377). -/
theorem finish_gets {v : Nat} (htxn : (c.entry line).txn = some x) (hkind : x.req.kind = .gets)
    (hwaiting : (c.entry line).waiting = []) (hst : (c.entry line).st = .shared v) : c.finish rd line
      = ⟨(c.setEntry ⟨line, .shared (setBit v x.req.req), none, []⟩).send (.data x.req.req line .s (rd line)), []⟩ := by
  refine finish_eq htxn ?_ (by simp) (by simp)
  simp only [CohState.complete, hkind, entry_line, hwaiting, hst]

/-- An uncached read takes the copy of the line's owner (R380). -/
theorem finish_ucRead {o : Nat} {y : CLine} (htxn : (c.entry line).txn = some x) (hkind : x.req.kind = .ucRead)
    (hwaiting : (c.entry line).waiting = []) (hst : (c.entry line).st = .modified o) (hheld : c.held o line = some y) :
    c.finish rd line
      = ⟨{ c.setEntry ⟨line, .modified o, none, []⟩ with uc := insertKey x.req.req y.data c.uc }, []⟩ := by
  have hentry (u : List (Nat × List Byte)) :
      ({ c.setEntry ⟨line, .modified o, none, []⟩ with uc := u } : CohState).entry line = ⟨line, .modified o, none, []⟩ :=
    (c.entry_setEntry ⟨line, .modified o, none, []⟩ line).trans (if_pos rfl)
  refine finish_eq htxn ?_ (by rw [hentry]) (by rw [hentry])
  simp only [CohState.complete, hkind, entry_line, hwaiting, hst, hheld, Option.map_some, reduceCtorEq, false_and, if_false,
    Option.getD_some]

end

end CohState

/-! ### DATA -/

/-- The message is line data for a cluster. -/
def CohMsg.isData (cl line : Nat) (m : CohMsg) : Bool :=
  match m with
  | .data c l _ _ => c == cl && l == line
  | _ => false

/-- The message is a recall of a cluster's line. -/
def CohMsg.isRecall (cl line : Nat) (m : CohMsg) : Bool :=
  match m with
  | .recall c l _ => c == cl && l == line
  | _ => false

namespace CohState

/-- The bytes of a line once the cluster's access that waited for it has been performed (R379). -/
def filled (c : CohState) (cl line : Nat) (bytes : List Byte) : List Byte :=
  match (c.acc.find? (fun a => a.cluster == cl && a.line == line)).bind (fun a => a.write) with
  | some (off, bs) => overlay bytes off bs
  | none => bytes

/-- The line put in place, its message used up and its access performed (R379). -/
def fill (c : CohState) (cl line : Nat) (st : CacheSt) (bytes : List Byte) : CohState :=
  { (c.putLine ⟨cl, line, st, c.filled cl line bytes⟩).take (.data cl line st bytes) with
    acc := c.acc.filter (fun a => !(a.cluster == cl && a.line == line)) }

section
variable (c : CohState) (cl line l : Nat) (st : CacheSt) (bytes : List Byte)

@[simp] theorem entry_fill : (c.fill cl line st bytes).entry l = c.entry l := rfl
@[simp] theorem uc_fill : (c.fill cl line st bytes).uc = c.uc := rfl

@[simp] theorem held_fill_same : (c.fill cl line st bytes).held cl line = some ⟨cl, line, st, c.filled cl line bytes⟩ :=
  c.held_putLine_same ⟨cl, line, st, _⟩

theorem held_fill_other {k l : Nat} (h : (k, l) ≠ (cl, line)) : (c.fill cl line st bytes).held k l = c.held k l :=
  c.held_putLine_other ⟨cl, line, st, _⟩ h

/-- No access of the cluster to the line is left. -/
theorem acc_fill : ∀ a ∈ (c.fill cl line st bytes).acc, ¬(a.cluster = cl ∧ a.line = line) := fun a ha => by
  simpa [imp_iff_not_or] using (List.mem_filter.1 ha).2

end

section
variable {c : CohState} {rd : Nat → List Byte} {cl line : Nat}

/-- A set with room takes the line in (R379). -/
theorem dataIn_of_room {st : CacheSt} {bytes : List Byte}
    (h : (c.caches.filter (fun x => x.cluster == cl && x.line % 1024 == line % 1024 && x.line != line)).length < 8) :
    c.dataIn cl line st bytes = c.fill cl line st bytes := by
  simp only [CohState.dataIn, Nat.not_le.2 h, false_and, if_false]
  rfl

/-- No uncached read waited for the line. -/
theorem dataDone_of_no_read (h : ∀ y, (c.entry line).txn = some y → y.req.kind ≠ .ucRead) : c.dataDone rd cl line = ⟨c, []⟩ := by
  unfold CohState.dataDone
  dsimp only
  split
  · next y hy => exact if_neg fun hread => h y hy hread.1
  · rfl

/-- The uncached read that waited for its owner's access takes its copy (R380). -/
theorem dataDone_of_read {req : Nat} {y : CLine}
    (hentry : c.entry line = ⟨line, .modified cl, some ⟨⟨req, .ucRead⟩, [], some cl⟩, []⟩) (hheld : c.held cl line = some y) :
    c.dataDone rd cl line = ⟨{ ((c.setEntry ⟨line, .modified cl, some ⟨⟨req, .ucRead⟩, [], none⟩, []⟩).setEntry
      ⟨line, .modified cl, none, []⟩) with uc := insertKey req y.data c.uc }, []⟩ := by
  have hread := finish_ucRead (c := c.setEntry ⟨line, .modified cl, some ⟨⟨req, .ucRead⟩, [], none⟩, []⟩) (rd := rd)
    (x := ⟨⟨req, .ucRead⟩, [], none⟩) (line := line) (o := cl) (y := y) (by simp) rfl (by simp) (by simp) (by simp [hheld])
  simp only [CohState.dataDone, hentry, hheld, Option.isSome_some, and_self, if_true]
  simpa using hread

end

end CohState

section
variable {cl : Cluster} {line : Nat} {s : State}

/-- DATA that arrives sound at a set with room: the line is in place, and what waited for it goes on. -/
theorem exec_data_fills {st : CacheSt} {bytes : List Byte}
    (hfind : s.coh.msgs.find? (CohMsg.isData cl line) = some (.data cl line st bytes)) (hsound : line ∉ s.coh.poison)
    (hroom : (s.coh.caches.filter (fun x => x.cluster == cl.val && x.line % 1024 == line % 1024 && x.line != line)).length < 8) :
    exec (.data cl line) s = .next (State.withCoh { s with coh := s.coh.fill cl line st bytes }
      ((s.coh.fill cl line st bytes).dataDone s.homeRead cl line)) := by
  show execData cl line s = _
  unfold execData
  split
  · next hfirst =>
    cases hfirst.symm.trans hfind
    rw [if_neg fun hbad => hsound hbad.1, CohState.dataIn_of_room hroom]
    rfl
  · next hnone => exact absurd hfind (hnone _ _ _ _)

/-- RECALL of a line that the owner's own accesses leave free (R379). -/
theorem exec_recall_first {toS : Bool} (hfind : s.coh.msgs.find? (CohMsg.isRecall cl line) = some (.recall cl line toS)) :
    exec (.recall cl line) s = .next (s.withCoh (s.coh.recallIn s.homeRead cl line toS)) := by
  show execRecall cl line s = _
  unfold execRecall
  split
  · next hfirst =>
    cases hfirst.symm.trans hfind
    rfl
  · next hnone => exact absurd hfind (hnone _ _ _)

end

/-! ### RECALL and PUTM -/

/-- What a home reads once a line has come back to it: the owner's data there (R377). -/
def readBack (rd : Nat → List Byte) (line : Nat) (data : List Byte) (l : Nat) : List Byte := if l = line then data else rd l

@[simp] theorem readBack_same (rd : Nat → List Byte) (line : Nat) (data : List Byte) : readBack rd line data line = data := if_pos rfl

namespace CohState

/-- The owner's line has come back on a RECALL: a copy in S stays with it, or none (R377). -/
def returned (c : CohState) (cl line : Nat) (toS : Bool) (x : CLine) : CohState :=
  ((if toS then (c.take (.recall cl line toS)).putLine { x with st := .s } else (c.take (.recall cl line toS)).dropLine cl line).sound
    [line]).setEntry { c.entry line with st := if toS then .shared (2 ^ cl) else .uncached }

/-- The owner's line has come back with a writeback, which is acknowledged (R378). -/
def writtenBack (c : CohState) (cl line : Nat) : CohState :=
  (((c.dropLine cl line).sound [line]).setEntry { c.entry line with st := .uncached }).send (.wbAck cl line)

section
variable {c : CohState} {rd : Nat → List Byte} {cl line : Nat} {x : CLine}

/-- A RECALL that finds its line: the line goes to LPDDR, and the transaction that waited for it goes on (R377, R379). -/
theorem recallIn_returns {toS : Bool} {y : HomeTxn} (hmsg : .recall cl line toS ∈ c.msgs) (hfree : c.holds cl line = false)
    (hheld : c.held cl line = some x) (htxn : (c.entry line).txn = some y) (hrecalled : y.recalled = some cl) :
    c.recallIn rd cl line toS = ⟨((c.returned cl line toS x).finish (readBack rd line x.data) line).st,
      (line, x.data) :: ((c.returned cl line toS x).finish (readBack rd line x.data) line).writes⟩ := by
  have hcontains : c.msgs.contains (.recall cl line toS) = true := by simpa using hmsg
  simp only [CohState.recallIn, hcontains, hfree, Bool.not_false, and_self, if_true, entry_take, htxn, Option.bind_some, hrecalled,
    ne_eq, not_true, if_false, held_take, hheld, returned]
  rfl

/-- A PUTM of a line in M whose home has nothing else to do on it (R378). -/
theorem putm_idle (hheld : c.held cl line = some x) (hst : x.st = .m) (htxn : (c.entry line).txn = none)
    (hwaiting : (c.entry line).waiting = []) : c.putm rd cl line = ⟨c.writtenBack cl line, [(line, x.data)]⟩ := by
  have hidle : CohState.serve (readBack rd line x.data) line 1 ⟨c.writtenBack cl line, []⟩ = ⟨c.writtenBack cl line, []⟩ :=
    serve_idle (by simp [writtenBack, htxn]) (by simp [writtenBack, hwaiting]) 1
  unfold writtenBack at *
  simp only [htxn, hwaiting] at hidle
  simp only [CohState.putm, hheld, hst, reduceCtorEq, if_false, htxn, hwaiting, List.length_nil, Nat.zero_add]
  exact congrArg (fun o : CohOut => (⟨o.st, (line, x.data) :: o.writes⟩ : CohOut)) hidle

end

end CohState

/-! ### INV_ACK -/

namespace CohState

/-- A home that has counted an acknowledgement (R377). -/
def counted (c : CohState) (cl line : Nat) (x : HomeTxn) : CohState :=
  (c.take (.invAck cl line)).setEntry { c.entry line with txn := some { x with acks := x.acks.filter (fun k => k != cl) } }

section
variable {c : CohState} {rd : Nat → List Byte} {cl line : Nat} {x : HomeTxn}

theorem invAckIn_counts (hmsg : .invAck cl line ∈ c.msgs) (htxn : (c.entry line).txn = some x) (hrecalled : x.recalled = none) :
    c.invAckIn rd cl line = if x.acks.filter (fun k => k != cl) = [] then (c.counted cl line x).finish rd line
      else ⟨c.counted cl line x, []⟩ := by
  have hcontains : c.msgs.contains (.invAck cl line) = true := by simpa using hmsg
  simp only [CohState.invAckIn, hcontains, if_true, entry_take, htxn, hrecalled, and_true, List.isEmpty_iff, counted]

end

end CohState

/-! ### RESP_ERR -/

/-- The unit that restarts when a requester's access ends in error: its cluster, or the hub core (R397). -/
def reqUnit (req : Nat) : RUnit :=
  if req < 32 then .cluster req else if req < 96 then .cluster ((req - 32) / 2) else .hub

/-- The fault of an access that ends in error (R397, R478; log entry 16). -/
def respFault (s : State) (req : Nat) : Fault0 :=
  ⟨.stepFault, if req < 96 then .restartCluster else .restartHub, reqLoc req, 1, s.freeVal.toNat % 4096⟩

/-- The fault names the requester's unit (R378, R476, R479). -/
theorem respFault_unit (s : State) (req : Nat) : (respFault s req).unit = some (reqUnit req) := by
  unfold respFault reqUnit reqLoc Fault0.unit
  by_cases hcache : req < 32
  · have hmover : req < 96 := by omega
    simp only [hcache, hmover, if_true]
    congr 2
    omega
  · by_cases hmover : req < 96
    · simp only [hcache, hmover, if_true, if_false]
      congr 2
      omega
    · simp only [hcache, hmover, if_false]

/-- A fault of a restart class is recorded, and the restart of the escalated unit falls due (R479, R480). -/
theorem State.fault_respFault {s v : State} {req : Nat} {u : RUnit} (h : s.saf.escalate (reqUnit req) = .restart u) :
    s.fault (respFault v req) = (s.record (respFault v req)).restartDue u := by
  have hescalate := (Safety.escalate_settled (s.record_settled (respFault v req)) (reqUnit req)).trans h
  have hunit := respFault_unit v req
  have hcls : (respFault v req).cls = .restartCluster ∨ (respFault v req).cls = .restartHub := by
    unfold respFault
    dsimp only
    split
    · exact .inl rfl
    · exact .inr rfl
  rcases hcls with hcls | hcls <;> simp only [State.fault, hcls, hunit, State.restartFault, hescalate]

/-- The state once RESP_ERR has been taken, the requester's access dropped. -/
def State.answered (s : State) (req line : Nat) : State :=
  { s with coh := { s.coh.take (.respErr req line) with
      acc := s.coh.acc.filter (fun a => !(a.cluster == req && a.line == line)) } }

/-- RESP_ERR of a line that is not poisoned: the requester's restart falls due (R397, R480). -/
theorem exec_respErr_restarts {s : State} {line : Nat} {q : Fin 98} {u : RUnit} (hmsg : CohMsg.respErr q line ∈ s.coh.msgs)
    (hsound : line ∉ s.coh.poison) (h : s.saf.escalate (reqUnit q) = .restart u) :
    exec (.respErr q line) s = .next ((((s.answered q line).spend 1).record (respFault s q)).restartDue u) := by
  have hcontains : s.coh.msgs.contains (.respErr q line) = true := by simpa using hmsg
  have hfault := State.fault_respFault (s := (s.answered q line).spend 1) (v := s) h
  show execRespErr q line s = _
  simp only [execRespErr, hcontains, Bool.not_true, Bool.false_eq_true, if_false]
  refine congrArg _ (Eq.trans ?_ hfault)
  exact if_neg fun hbad => hsound hbad.1

end Sys2Proof.Machine

namespace Sys2Proof
open Sys2Proof.Machine

/-- Settles O53: each message is one update of the coherence state, `CohState.fill`, `CohState.counted`, `CohState.returned` and
`CohState.writtenBack`, followed at a home by the completion of the transaction that waited for it, `CohState.finish`. -/
theorem cachesAnswer : Obligations.CachesAnswer := by
  unfold Obligations.CachesAnswer
  intro cl line s
  refine ⟨fun st bs hfind hsound hroom hread => ?_, fun st bs req hfind hsound hacc hroom hentry => ?_,
    ⟨fun hmsg hfree => ?_, fun hmsg => ?_⟩, fun x hmsg htxn hrecalled => ⟨fun hacks => ?_, fun hacks hkind hwaiting => ?_⟩,
    fun toS x y hfind hfree hheld htxn hrecalled hwaiting => ⟨fun hto hkind => ?_, fun hto hkind => ?_⟩,
    fun x hhome hheld hst htxn hwaiting => ?_, rfl, fun q u hmsg hsound hescalate => ?_⟩
  · have hexec := exec_data_fills hfind hsound hroom
    rw [CohState.dataDone_of_no_read (by simpa using hread)] at hexec
    exact ⟨_, hexec, rfl, s.coh.held_fill_same .., fun c l h => s.coh.held_fill_other _ _ _ _ h, rfl, rfl,
      fun a ha => s.coh.acc_fill _ _ _ _ a ha⟩
  · have hexec := exec_data_fills hfind hsound hroom
    rw [CohState.dataDone_of_read (c := s.coh.fill cl line st bs) hentry (s.coh.held_fill_same ..)] at hexec
    refine ⟨_, hexec, rfl, (CohState.entry_setEntry _ _ _).trans (if_pos rfl), ?_⟩
    simp [CohState.filled, hacc, State.withCoh]
  · have hanswer : s.coh.invIn cl line = ((s.coh.dropLine cl line).take (.inv cl line)).send (.invAck cl line) :=
      if_pos ⟨by simpa using hmsg, by simp [hfree]⟩
    have hexec : exec (.inv cl line) s = .next { s with coh := s.coh.invIn cl line } := rfl
    rw [hanswer] at hexec
    exact ⟨_, hexec, rfl, by simp, fun c l h => by simpa using s.coh.held_dropLine_other h, rfl, rfl⟩
  · have hnone : s.coh.invIn cl line = s.coh := if_neg fun h => hmsg (by simpa using h.1)
    exact congrArg (fun c => Host.Outcome.next { s with coh := c }) hnone
  · have hcounts := CohState.invAckIn_counts (rd := s.homeRead) hmsg htxn hrecalled
    rw [if_neg hacks] at hcounts
    exact ⟨_, congrArg (fun o => Host.Outcome.next (s.withCoh o)) hcounts, rfl,
      (CohState.entry_setEntry _ _ _).trans (if_pos (by simp)), by simp [State.withCoh, CohState.counted]⟩
  · have hcounts := CohState.invAckIn_counts (rd := s.homeRead) hmsg htxn hrecalled
    rw [if_pos hacks, CohState.finish_getm (x := { x with acks := x.acks.filter (fun k => k != cl.val) }) (by simp [CohState.counted]) hkind
      (by simp [CohState.counted, hwaiting])] at hcounts
    exact ⟨_, congrArg (fun o => Host.Outcome.next (s.withCoh o)) hcounts, rfl,
      by simp [State.withCoh], by simp [State.withCoh, CohState.counted]⟩
  · subst hto
    have hreturns := CohState.recallIn_returns (rd := s.homeRead) (List.mem_of_find?_eq_some hfind) hfree hheld htxn hrecalled
    rw [CohState.finish_gets (x := y) (v := 2 ^ cl.val) (by simp [CohState.returned, htxn]) hkind (by simp [CohState.returned, hwaiting])
      (by simp [CohState.returned])] at hreturns
    refine ⟨_, (exec_recall_first hfind).trans (congrArg (fun o => Host.Outcome.next (s.withCoh o)) hreturns), rfl, rfl,
      by simp [State.withCoh], by simp [State.withCoh, CohState.returned]⟩
  · subst hto
    have hreturns := CohState.recallIn_returns (rd := s.homeRead) (List.mem_of_find?_eq_some hfind) hfree hheld htxn hrecalled
    rw [CohState.finish_getm (x := y) (by simp [CohState.returned, htxn]) hkind (by simp [CohState.returned, hwaiting])] at hreturns
    refine ⟨_, (exec_recall_first hfind).trans (congrArg (fun o => Host.Outcome.next (s.withCoh o)) hreturns), rfl, rfl,
      by simp [State.withCoh, CohState.returned], by simp [State.withCoh], by simp [State.withCoh, CohState.returned]⟩
  · have hputm : exec (.putm cl line) s = .next (s.withCoh (s.coh.putm s.homeRead cl line)) := congrArg _ (if_pos hhome)
    rw [CohState.putm_idle hheld hst htxn hwaiting] at hputm
    refine ⟨_, hputm, rfl, rfl, by simp [State.withCoh, CohState.writtenBack], ?_, fun l hl => ?_, ?_⟩
    · simp [State.withCoh, CohState.writtenBack, htxn, hwaiting]
    · simp [State.withCoh, CohState.writtenBack, hl]
    · simp [State.withCoh, CohState.writtenBack]
  · obtain ⟨hdue, hcauses, -⟩ := State.restartDue_effect (((s.answered q line).spend 1).record (respFault s q)) u
    have hsettled := ((s.answered q line).spend 1).record_settled (respFault s q)
    refine ⟨_, exec_respErr_restarts hmsg hsound hescalate, hdue.trans (congrArg (addDue u) (congrArg Safety.due hsettled :)), hcauses,
      by simp [State.answered], by simp [State.answered], by simp [State.answered], fun a ha => ?_⟩
    have ha' : a ∈ s.coh.acc.filter (fun a => !(a.cluster == q.val && a.line == line)) := by simpa [State.answered] using ha
    simpa [imp_iff_not_or] using (List.mem_filter.1 ha').2

end Sys2Proof

/-! ## The movers' commands (R358, R364 to R368, R371) -/

namespace Sys2Proof.Machine
open Sys2Proof

/-! ### What two writes leave in memory -/

section
variable {m : Memory} {a b : Nat} {bs cs : List Byte}

/-- Outside two ranges written in a row memory reads as before. -/
theorem untouched_write_write {s t : State} {n k : Nat} (ht : t.mem = (s.mem.write a bs).write b cs) (hn : bs.length = n)
    (hk : cs.length = k) : Untouched s t [(a, n), (b, k)] := by
  intro x hx
  obtain ⟨hfirst, hsecond⟩ := List.forall_mem_cons.1 hx
  rw [ht, get_write_other _ _ _ _ (hk ▸ hsecond _ (List.mem_singleton_self _)), get_write_other _ _ _ _ (hn ▸ hfirst)]

/-- A byte of the first of two ranges that lie apart. -/
theorem get_write_write_first (hm : m.wf = true) {n k i : Nat} (hk : cs.length = k) (hn : bs.length = n) (h : a + n ≤ b ∨ b + k ≤ a)
    (hi : i < n) : ((m.write a bs).write b cs).get (a + i) = bs[i]'(hn ▸ hi) := by
  rw [get_write_other _ _ _ _ (by omega)]
  exact get_write_same hm a bs i (hn ▸ hi)

end

@[simp] theorem length_mvResult (done old : Nat) (fault : Bool) : (mvResult done old fault).length = 16 := by
  simp only [mvResult, List.length_append, length_leBytes]

@[simp] theorem State.length_peek (s : State) (a n : Nat) : (s.peek a n).length = n := by simp [State.peek, Memory.read]

theorem State.getElem_peek {s : State} {a n i : Nat} (h : i < (s.peek a n).length) : (s.peek a n)[i] = s.mem.get (a + i) := by
  simp [State.peek, Memory.read]

/-- A pattern repeated reads the pattern at every place. -/
theorem getElem_flatten_replicate {α : Type} {p : List α} {k n i : Nat} (hp : p.length = n) (hi : i < (List.replicate k p).flatten.length)
    (hr : i % n < p.length) : (List.replicate k p).flatten[i] = p[i % n] := by
  induction k generalizing i with
  | zero => simp at hi
  | succ k ih =>
    simp only [List.replicate_succ, List.flatten_cons] at hi ⊢
    by_cases hin : i < n
    · rw [List.getElem_append_left (hp.symm ▸ hin)]
      simp only [Nat.mod_eq_of_lt hin]
    · rw [List.getElem_append_right (by omega)]
      have hlen : i - p.length < (List.replicate k p).flatten.length := by
        rw [List.length_append] at hi
        omega
      have hmod : (i - p.length) % n = i % n := by rw [hp, ← Nat.mod_eq_sub_mod (Nat.le_of_not_lt hin)]
      rw [ih hlen (by rwa [hmod])]
      simp only [hmod]

/-! ### What a command taken leaves of what a mover sees -/

section
variable (s : State) (u : Nat) (e : Engine) (rest : List QCmd) (q : QCmd) (cl a n d : Nat) (write : Bool)

/-- A command done leaves its die's dispatch unit serving as it was. -/
theorem State.duOf_taking_serve : ((s.taking u e rest q).duOf d).serve = (s.duOf d).serve := by
  show (nth DuState.empty (modAt _ s.du (q.core / 16)) d).serve = (nth DuState.empty s.du d).serve
  unfold nth
  rw [get_modAt]
  split
  · cases s.du[d]? <;> rfl
  · rfl

theorem State.moverReach_taking : (s.taking u e rest q).moverReach cl write a = s.moverReach cl write a := by
  have hopen (k : Nat) : (s.taking u e rest q).worldOpen k = s.worldOpen k := by
    simp only [State.worldOpen, State.restoring, State.duOf_taking_serve]
    rfl
  simp only [State.moverReach, hopen]
  rfl

@[simp] theorem State.moverRange_taking : (s.taking u e rest q).moverRange cl write a n = s.moverRange cl write a n := by
  simp only [State.moverRange]
  congr 2
  exact funext fun x => s.moverReach_taking u e rest q cl x write

end

/-! ### What a mover writes -/

section
variable (s : State) (a : Nat) (bs : List Byte)

theorem State.moverWrite_only : { s.moverWrite a bs with mem := s.mem, coh := s.coh, world := s.world } = s
    ∧ { (s.moverWrite a bs).world with laid := s.world.laid } = s.world := by
  unfold State.moverWrite
  split
  · exact ⟨rfl, rfl⟩
  · obtain ⟨hframe, hworld⟩ := s.sramWrite_only a bs
    exact ⟨congrArg (fun v : State => { v with coh := s.coh }) hframe, hworld⟩

/-- A range outside LPDDR is written where it lies, with no line cached. -/
theorem State.moverWrite_sram {s : State} {a : Nat} (h : 0x10000000000 ≤ a) (bs : List Byte) : s.moverWrite a bs = s.sramWrite a bs :=
  if_neg (Nat.not_lt.2 h)

/-- The queue's head may leave before or after the write. -/
theorem State.moverWrite_taking (u : Nat) (e : Engine) (rest : List QCmd) (q : QCmd) :
    (s.taking u e rest q).moverWrite a bs = (s.moverWrite a bs).taking u e rest q := by
  have hspace : (s.taking u e rest q).space a = s.space a := rfl
  unfold State.moverWrite
  split
  · rfl
  · simp only [State.sramWrite, hspace]
    split <;> rfl

end

/-- The state once the head of a mover's queue has left it, its bytes written and its result told. -/
def State.moved (s : State) (cl : Nat) (e : Engine) (rest : List QCmd) (q : QCmd) (m : MvCmd) (bs : List Byte) : State :=
  { (s.moverWrite m.dst bs).taking cl e rest q with
    mem := (s.moverWrite m.dst bs).mem.write (dualBase cl + m.resultOff * 16) (mvResult (m.len / 16) 0 false) }

section
variable (s : State) (cl : Nat) (e : Engine) (rest : List QCmd) (q : QCmd) (m : MvCmd) (bs : List Byte)

theorem State.moved_taken : Taken s (s.moved cl e rest q m bs) cl e q rest := by
  have hframe := (s.moverWrite_only m.dst bs).1
  have heng : (s.moverWrite m.dst bs).eng = s.eng := (congrArg State.eng hframe :)
  have hdu : (s.moverWrite m.dst bs).du = s.du := (congrArg State.du hframe :)
  refine State.taken_of_queues ?_ ?_
  · simp only [State.moved, State.taking, State.commandDone, State.mapDu, State.setQueue, heng]
  · simp only [State.moved, State.taking, State.commandDone, State.mapDu, State.setQueue, hdu]

theorem State.moved_frame : { s.moved cl e rest q m bs with mem := s.mem, coh := s.coh, eng := s.eng, du := s.du, world := s.world } = s
    ∧ { (s.moved cl e rest q m bs).eng with queues := s.eng.queues } = s.eng := by
  have hframe := (s.moverWrite_only m.dst bs).1
  unfold State.moved
  generalize s.moverWrite m.dst bs = x at *
  exact ⟨congrArg (fun v : State => { v with eng := s.eng, du := s.du }) hframe,
    congrArg (fun v : State => { v.eng with queues := s.eng.queues }) hframe⟩

theorem State.moved_laid : { (s.moved cl e rest q m bs).world with laid := s.world.laid } = s.world :=
  (s.moverWrite_only m.dst bs).2

theorem State.moved_world : (s.moved cl e rest q m bs).world = (s.moverWrite m.dst bs).world := by
  unfold State.moved
  generalize s.moverWrite m.dst bs = x
  rfl

theorem State.moved_mem : (s.moved cl e rest q m bs).mem
    = (s.moverWrite m.dst bs).mem.write (dualBase cl + m.resultOff * 16) (mvResult (m.len / 16) 0 false) := by
  simp only [State.moved]

/-- A write outside LPDDR leaves the caches and the homes. -/
theorem State.moved_sram (h : 0x10000000000 ≤ m.dst) : (s.moved cl e rest q m bs).coh = s.coh
    ∧ (s.moved cl e rest q m bs).mem = (s.mem.write m.dst bs).write (dualBase cl + m.resultOff * 16) (mvResult (m.len / 16) 0 false) := by
  have hcoh : (s.moverWrite m.dst bs).coh = s.coh := by
    rw [State.moverWrite_sram h]
    exact (congrArg State.coh (s.sramWrite_only m.dst bs).1 :)
  refine ⟨?_, by rw [s.moved_mem, State.moverWrite_sram h, State.sramWrite_mem]⟩
  unfold State.moved
  generalize s.moverWrite m.dst bs = x at hcoh
  exact hcoh

end

/-! ### The commands as the head of their queue -/

section
variable {cl : Cluster} {mv : Fin 2} {w : BitVec 128} {m : MvCmd} {q : QCmd} {rest : List QCmd} {s : State}

theorem moverEngine_ne_qe (mv : Nat) : moverEngine mv ≠ .qe := by
  unfold moverEngine
  split <;> simp

/-- A mover's command that waits for nothing runs to its end. -/
theorem State.moverRun_clean {op : Nat} (hq : s.queueOf cl (moverEngine mv) = q :: rest) (hw : q.word = w.toNat)
    (hm : m = MvCmd.ofWord w.toNat) (hok : m.ok = true) (hop : m.op = op) (hwaits : s.moverWaits m = false)
    (hport : s.portTaken cl mv = false) (body : QCmd → MvCmd → State → State) :
    s.moverRun cl mv w .clean op body = .next (body q m (s.taking cl (moverEngine mv) rest q)) := by
  subst hm
  simp only [State.moverRun, hop, hok, ne_eq, not_true_eq_false, Bool.not_true, Bool.false_eq_true, or_self, if_false, hwaits, hport]
  rw [State.engineRun_clean hq hw (moverEngine_ne_qe mv)]
  rfl

/-- An atomic asks for no LPDDR port (R370, R371). -/
theorem State.portTaken_of_atomic (hq : s.queueOf cl (moverEngine mv) = q :: rest) (hop : 2 < (MvCmd.ofWord q.word).op) :
    s.portTaken cl mv = false := by
  have habsent : (s.portMovers (cl.val / 4)).contains (5 + cl.val % 4 * 2 + mv.val) = false := by
    rw [← Bool.not_eq_true, List.contains_iff_mem]
    intro hin
    obtain ⟨k, -, hk⟩ := List.mem_filterMap.1 hin
    have hunit (h : 5 + k = 5 + cl.val % 4 * 2 + mv.val) : s.queueOf (4 * (cl.val / 4) + k / 2) (moverEngine (k % 2)) = q :: rest := by
      have hcl : 4 * (cl.val / 4) + k / 2 = cl.val := by omega
      have hmv : k % 2 = mv.val := by omega
      rw [hcl, hmv, hq]
    split at hk
    · cases hk
    · next c r hc =>
      dsimp only at hk
      split at hk
      · next hasks =>
        have hk' := Option.some.inj hk
        cases hc.symm.trans (hunit hk')
        omega
      · cases hk
  simp only [State.portTaken, habsent, Bool.false_and]

/-! ### The bodies, once the command has left its queue -/

/-- A COPY that finds nothing wrong (R366, R368). -/
theorem State.copyBody_moved {e : Engine} (hsrc : s.moverRange cl false m.src m.len = true)
    (hdst : s.moverRange cl true m.dst m.len = true) (hfrom : s.reachUp cl e m.src = true) (hto : s.reachUp cl e m.dst = true)
    (hsound : s.poisoned m.src m.len = false) :
    (s.taking cl e rest q).copyBody q cl e m = s.moved cl e rest q m (s.moverRead m.src m.len) := by
  have hup (a : Nat) : (s.taking cl e rest q).reachUp cl e a = s.reachUp cl e a := rfl
  have hpoison : (s.taking cl e rest q).poisoned m.src m.len = s.poisoned m.src m.len := rfl
  have hread : (s.taking cl e rest q).moverRead m.src m.len = s.moverRead m.src m.len := rfl
  simp only [State.copyBody, State.moverRange_taking, hsrc, hdst, hup, hfrom, hto, hpoison, hsound, hread, Bool.not_true, Bool.or_self,
    Bool.false_eq_true, if_false, State.moverWrite_taking, State.result, State.poke, State.moved]
  rfl

/-- A FILL that finds nothing wrong (R366). -/
theorem State.fillBody_moved {e : Engine} (hsrc : s.moverRange cl false m.src 16 = true)
    (hdst : s.moverRange cl true m.dst m.len = true) (hto : s.reachUp cl e m.dst = true) :
    (s.taking cl e rest q).fillBody q cl e m = s.moved cl e rest q m (List.replicate (m.len / 8) (s.peek m.src 8)).flatten := by
  have hup : (s.taking cl e rest q).reachUp cl e m.dst = s.reachUp cl e m.dst := rfl
  have hread : (s.taking cl e rest q).peek m.src 8 = s.peek m.src 8 := rfl
  simp only [State.fillBody, State.moverRange_taking, hsrc, hdst, hup, hto, hread, Bool.not_true, Bool.false_eq_true, if_false,
    State.moverWrite_taking, State.result, State.poke, State.moved]
  rfl

/-- The state once an atomic has stored its value at `a` and answered the old one. -/
def State.swapped (s : State) (cl : Nat) (e : Engine) (rest : List QCmd) (q : QCmd) (off a bytes v old : Nat) : State :=
  { s.taking cl e rest q with
    mem := (s.mem.write a (leBytes bytes v)).write (dualBase cl + off * 16) (mvResult 1 old false) }

/-- An atomic at its own cluster's shared memory (R364, R366). -/
theorem State.atomicBody_swapped {e : Engine} {bytes a : Nat} {add : Bool} (ha : a = m.dst + m.wsel * bytes)
    (hsrc : s.moverRange cl false m.src 16 = true) (hown : (s.space a).map (fun x => x.1) = some (.shared cl)) {old v : Nat}
    (hold : old = getLe (s.peek a bytes) 0 bytes) (hv : v = getLe (s.peek m.src 8) 0 bytes) :
    (s.taking cl e rest q).atomicBody q cl e m bytes add
      = s.swapped cl e rest q m.resultOff a bytes (if add then (old + v) % 256 ^ bytes else v) old := by
  subst ha hold hv
  obtain ⟨⟨sp, off⟩, hspace, hshared⟩ := Option.map_eq_some_iff.1 hown
  obtain rfl : sp = .shared cl := hshared
  have hat : (s.taking cl e rest q).space (m.dst + m.wsel * bytes) = some (.shared cl, off) := hspace
  simp only [State.atomicBody, State.moverRange_taking, hsrc, hat, beq_self_eq_true, Bool.not_true, Bool.false_eq_true, if_false]
  rfl

/-- The flag of a command whose source range is beyond its mover: FLT_ADDR (R316, R358). -/
def QCmd.addrFlag (q : QCmd) (e : Engine) (a : Nat) : EngFlag :=
  { q.flagOf 1 0xFFFFFFFF 0xFFFFFFFF with
    cause := some ⟨.addr, .restartCluster, engineLoc q.core e, e.index + 2, a / 64 % 2 ^ 32⟩ }

/-- A COPY from beyond its mover answers FAULT and flags FLT_ADDR (R316, R358, R368). -/
theorem State.copyBody_refused {e : Engine} (hsrc : s.moverRange cl false m.src m.len = false) :
    (s.taking cl e rest q).copyBody q cl e m
      = (s.taking cl e rest q).put (s.mem.write (dualBase cl + m.resultOff * 16) (mvResult 0 0 true)) s.eng.pathSat
          [q.addrFlag e m.src] := by
  simp only [State.copyBody, State.moverRange_taking, hsrc, Bool.not_false, if_true]
  rfl

end

/-! ### What reached the destination -/

section
variable {s : State} {cl : Nat} {e : Engine} {rest : List QCmd} {q : QCmd} {m : MvCmd}

/-- Outside LPDDR a mover writes its destination and its result, nothing else. -/
theorem State.moved_untouched {bs : List Byte} (hdst : 0x10000000000 ≤ m.dst) (hlen : bs.length = m.len) :
    Untouched s (s.moved cl e rest q m bs) [(m.dst, m.len), (dualBase cl + m.resultOff * 16, 16)] :=
  untouched_write_write (s.moved_sram cl e rest q m bs hdst).2 hlen (length_mvResult _ _ _)

/-- Outside LPDDR, with the result apart, the destination holds the bytes moved. -/
theorem State.get_moved {bs : List Byte} {i : Nat} (hs : Memories s) (hdst : 0x10000000000 ≤ m.dst) (hlen : bs.length = m.len)
    (hapart : m.dst + m.len ≤ dualBase cl + m.resultOff * 16 ∨ dualBase cl + m.resultOff * 16 + 16 ≤ m.dst) (hi : i < m.len) :
    (s.moved cl e rest q m bs).mem.get (m.dst + i) = bs[i]'(hlen ▸ hi) := by
  rw [(s.moved_sram cl e rest q m bs hdst).2]
  exact get_write_write_first hs.1 (length_mvResult _ _ _) hlen hapart hi

/-- Outside LPDDR a mover reads memory as it stands. -/
theorem State.moverRead_sram {a n : Nat} (h : 0x10000000000 ≤ a) : s.moverRead a n = s.peek a n := if_neg (Nat.not_lt.2 h)

/-- A fill's pattern covers its destination: the length is a multiple of 16 bytes (R366). -/
theorem length_fill {w : Nat} (hm : m = MvCmd.ofWord w) {p : List Byte} (hp : p.length = 8) :
    (List.replicate (m.len / 8) p).flatten.length = m.len := by
  have hlen : m.len = field w 8 20 * 16 := by rw [hm]; rfl
  simp only [List.length_flatten, List.map_replicate, hp, List.sum_replicate, smul_eq_mul]
  omega

end

/-! ### The atomics -/

section
variable (s : State) (cl : Nat) (e : Engine) (rest : List QCmd) (q : QCmd) (off a bytes v old : Nat)

theorem State.swapped_taken : Taken s (s.swapped cl e rest q off a bytes v old) cl e q rest := State.taken_of_queues rfl rfl

theorem State.swapped_frame : { s.swapped cl e rest q off a bytes v old with mem := s.mem, eng := s.eng, du := s.du } = s
    ∧ { (s.swapped cl e rest q off a bytes v old).eng with queues := s.eng.queues } = s.eng := by
  constructor <;> simp only [State.swapped, State.taking, State.commandDone, State.mapDu, State.setQueue]

theorem State.swapped_mem : (s.swapped cl e rest q off a bytes v old).mem
    = (s.mem.write a (leBytes bytes v)).write (dualBase cl + off * 16) (mvResult 1 old false) := by
  simp only [State.swapped]

theorem State.swapped_untouched :
    Untouched s (s.swapped cl e rest q off a bytes v old) [(a, bytes), (dualBase cl + off * 16, 16)] :=
  untouched_write_write (s.swapped_mem cl e rest q off a bytes v old) (length_leBytes _ _) (length_mvResult _ _ _)

end

/-- An atomic waits for no line (R364, R378). -/
theorem State.moverWaits_of_atomic (s : State) {m : MvCmd} (h : 2 < m.op) : s.moverWaits m = false := by
  have hcopy : (m.op == 1) = false := beq_eq_false_iff_ne.2 (by omega)
  have hfill : decide (m.op ≤ 2) = false := decide_eq_false (by omega)
  simp only [State.moverWaits, hcopy, hfill, Bool.false_and, Bool.or_self]

/-- The four atomics are one operation at two widths (R364). -/
theorem exec_atomic {cl : Cluster} {mv : Fin 2} {w : BitVec 128} {cmd : Instr} {op bytes : Nat} {add : Bool}
    (h : (cmd, op, bytes, add) ∈ [(Instr.add32 cl mv w .clean, 3, 4, true), (.add64 cl mv w .clean, 4, 8, true),
      (.swap32 cl mv w .clean, 5, 4, false), (.swap64 cl mv w .clean, 6, 8, false)]) (s : State) :
    exec cmd s = s.moverRun cl mv w .clean op (fun c m s => s.atomicBody c cl (moverEngine mv) m bytes add) ∧ 2 < op := by
  simp only [List.mem_cons, List.not_mem_nil, or_false, Prod.mk.injEq] at h
  rcases h with ⟨rfl, rfl, rfl, rfl⟩ | ⟨rfl, rfl, rfl, rfl⟩ | ⟨rfl, rfl, rfl, rfl⟩ | ⟨rfl, rfl, rfl, rfl⟩
  all_goals exact ⟨rfl, by omega⟩

/-! ### The four clauses -/

/-- COPY is its body (R366). -/
theorem exec_copy (cl : Cluster) (mv : Fin 2) (w : BitVec 128) (hw : HwEvent) (s : State) : exec (.copy cl mv w hw) s
    = s.moverRun cl mv w hw 1 (fun c m s => s.copyBody c cl (moverEngine mv) m) := rfl

/-- FILL is its body (R366). -/
theorem exec_fill (cl : Cluster) (mv : Fin 2) (w : BitVec 128) (hw : HwEvent) (s : State) : exec (.fill cl mv w hw) s
    = s.moverRun cl mv w hw 2 (fun c m s => s.fillBody c cl (moverEngine mv) m) := rfl

section
variable {cl : Cluster} {mv : Fin 2} {w : BitVec 128} {m : MvCmd} {q : QCmd} {rest : List QCmd} {s : State}

theorem exec_copy_moves (hq : s.queueOf cl (moverEngine mv) = q :: rest) (hw : q.word = w.toNat) (hm : m = MvCmd.ofWord w.toNat)
    (hok : m.ok = true) (hop : m.op = 1) (hsrc : s.moverRange cl false m.src m.len = true)
    (hdst : s.moverRange cl true m.dst m.len = true) (hfrom : s.reachUp cl (moverEngine mv) m.src = true)
    (hto : s.reachUp cl (moverEngine mv) m.dst = true) (hwaits : s.moverWaits m = false) (hport : s.portTaken cl mv = false)
    (hsound : s.poisoned m.src m.len = false) :
    exec (.copy cl mv w .clean) s = .next (s.moved cl (moverEngine mv) rest q m (s.moverRead m.src m.len)) := by
  rw [exec_copy, State.moverRun_clean hq hw hm hok hop hwaits hport, State.copyBody_moved hsrc hdst hfrom hto hsound]

theorem exec_fill_moves (hq : s.queueOf cl (moverEngine mv) = q :: rest) (hw : q.word = w.toNat) (hm : m = MvCmd.ofWord w.toNat)
    (hok : m.ok = true) (hop : m.op = 2) (hsrc : s.moverRange cl false m.src 16 = true)
    (hdst : s.moverRange cl true m.dst m.len = true) (hto : s.reachUp cl (moverEngine mv) m.dst = true)
    (hwaits : s.moverWaits m = false) (hport : s.portTaken cl mv = false) :
    exec (.fill cl mv w .clean) s
      = .next (s.moved cl (moverEngine mv) rest q m (List.replicate (m.len / 8) (s.peek m.src 8)).flatten) := by
  rw [exec_fill, State.moverRun_clean hq hw hm hok hop hwaits hport, State.fillBody_moved hsrc hdst hto]

theorem exec_atomic_swaps {cmd : Instr} {bytes a old v : Nat} {add : Bool}
    (hq : s.queueOf cl (moverEngine mv) = q :: rest) (hw : q.word = w.toNat) (hm : m = MvCmd.ofWord w.toNat) (hok : m.ok = true)
    (hcmd : (cmd, m.op, bytes, add) ∈ [(Instr.add32 cl mv w .clean, 3, 4, true), (.add64 cl mv w .clean, 4, 8, true),
      (.swap32 cl mv w .clean, 5, 4, false), (.swap64 cl mv w .clean, 6, 8, false)])
    (ha : a = m.dst + m.wsel * bytes) (hsrc : s.moverRange cl false m.src 16 = true)
    (hown : (s.space a).map (fun x => x.1) = some (.shared cl))
    (hold : old = getLe (s.peek a bytes) 0 bytes) (hv : v = getLe (s.peek m.src 8) 0 bytes) :
    exec cmd s = .next (s.swapped cl (moverEngine mv) rest q m.resultOff a bytes
      (if add then (old + v) % 256 ^ bytes else v) old) := by
  obtain ⟨hexec, hop⟩ := exec_atomic hcmd s
  have hport : s.portTaken cl mv = false := State.portTaken_of_atomic hq (by rwa [hw, ← hm])
  rw [hexec, State.moverRun_clean hq hw hm hok rfl (s.moverWaits_of_atomic hop) hport,
    State.atomicBody_swapped ha hsrc hown hold hv]

theorem exec_copy_refused (hq : s.queueOf cl (moverEngine mv) = q :: rest) (hw : q.word = w.toNat) (hm : m = MvCmd.ofWord w.toNat)
    (hok : m.ok = true) (hop : m.op = 1) (hsrc : s.moverRange cl false m.src m.len = false) (hwaits : s.moverWaits m = false)
    (hport : s.portTaken cl mv = false) :
    ∃ t, exec (.copy cl mv w .clean) s = .next t ∧ Taken s t cl (moverEngine mv) q rest
      ∧ { t with mem := s.mem, eng := s.eng, du := s.du } = s
      ∧ { t.eng with queues := s.eng.queues, flags := s.eng.flags } = s.eng
      ∧ t.mem = s.mem.write (dualBase cl + m.resultOff * 16) (mvResult 0 0 true)
      ∧ t.eng.flags = s.eng.flags ++ [{ q.flagOf 1 0xFFFFFFFF 0xFFFFFFFF with
          cause := some ⟨.addr, .restartCluster, engineLoc q.core (moverEngine mv), (moverEngine mv).index + 2,
            m.src / 64 % 2 ^ 32⟩ }] := by
  have heng := s.put_engines cl (moverEngine mv) rest q (s.mem.write (dualBase cl + m.resultOff * 16) (mvResult 0 0 true))
    s.eng.pathSat [q.addrFlag (moverEngine mv) m.src]
  rw [exec_copy, State.moverRun_clean hq hw hm hok hop hwaits hport, State.copyBody_refused hsrc]
  exact ⟨_, rfl, s.put_taken .., s.put_frame .., heng, State.put_mem .., rfl⟩

end

end Sys2Proof.Machine

namespace Sys2Proof
open Machine

/-- Settles O51: every command leaves its queue to its body, which moves, swaps or is refused. -/
theorem moversMove : Obligations.MoversMove := by
  intro cl mv w m q rest s hs hq hw hm hok
  refine ⟨fun hop hsrc hdst hfrom hto hwaits hport hsound => ?_, fun hop hsrc hdst hto hwaits hport => ?_,
    fun cmd bytes add hcmd hsrc hown old v hold hv => ?_,
    fun hop hsrc hwaits hport => exec_copy_refused hq hw hm hok hop hsrc hwaits hport⟩
  · obtain ⟨hframe, heng⟩ := s.moved_frame cl (moverEngine mv) rest q m (s.moverRead m.src m.len)
    refine ⟨_, exec_copy_moves hq hw hm hok hop hsrc hdst hfrom hto hwaits hport hsound, s.moved_taken .., hframe, heng, s.moved_world ..,
      s.moved_laid .., s.moved_mem .., fun hsram hdram => ?_⟩
    rw [State.moverRead_sram hsram]
    have hlen : (s.peek m.src m.len).length = m.len := s.length_peek _ _
    exact ⟨(s.moved_sram _ _ _ _ _ _ hdram).1, State.moved_untouched hdram hlen,
      fun hapart i hi => (State.get_moved hs hdram hlen hapart hi).trans (State.getElem_peek _)⟩
  · obtain ⟨hframe, heng⟩ := s.moved_frame cl (moverEngine mv) rest q m (List.replicate (m.len / 8) (s.peek m.src 8)).flatten
    refine ⟨_, exec_fill_moves hq hw hm hok hop hsrc hdst hto hwaits hport, s.moved_taken .., hframe, heng,
      s.moved_laid .., fun hdram => ?_⟩
    have hpattern : (s.peek m.src 8).length = 8 := s.length_peek _ _
    have hlen := length_fill hm hpattern
    have hmod (i : Nat) : i % 8 < (s.peek m.src 8).length := hpattern ▸ Nat.mod_lt i (by omega)
    exact ⟨(s.moved_sram _ _ _ _ _ _ hdram).1, State.moved_untouched hdram hlen, fun hapart i hi =>
      (State.get_moved hs hdram hlen hapart hi).trans
        ((getElem_flatten_replicate hpattern _ (hmod i)).trans (State.getElem_peek _))⟩
  · obtain ⟨hframe, heng⟩ := s.swapped_frame cl (moverEngine mv) rest q m.resultOff (m.dst + m.wsel * bytes) bytes
      (if add then (old + v) % 256 ^ bytes else v) old
    exact ⟨_, exec_atomic_swaps hq hw hm hok hcmd rfl hsrc hown hold hv, s.swapped_taken .., hframe, heng, s.swapped_mem ..,
      s.swapped_untouched _ _ _ _ _ _ _ _ _⟩

end Sys2Proof

/-! ## Fenced dies: what every operation leaves of them (R406, R407, R408) -/

namespace Sys2Proof.Machine
open Sys2Proof

/-- A fenced die is out: neither healthy nor in service, its rail off, its reset held (R407, R408). -/
def DieSt.Out (x : DieSt) : Prop :=
  x.fenced.isSome = true → x.healthy = false ∧ x.inService = false ∧ x.enable = false ∧ x.running = false

/-- What a command may make of a die: a fence stays with its cause, and a fenced die that is out stays out. -/
structure DieSt.Follows (x y : DieSt) : Prop where
  fence : ∀ c, x.fenced = some c → y.fenced = some c
  out : x.Out → y.Out

theorem DieSt.Follows.trans {x y z : DieSt} (h : x.Follows y) (g : y.Follows z) : x.Follows z :=
  ⟨fun c hc => g.fence c (h.fence c hc), fun hx => g.out (h.out hx)⟩

/-- Dies follow dies, one by one. -/
def FencesKept (xs ys : List DieSt) : Prop := List.Forall₂ DieSt.Follows xs ys

/-- The two states' dies are the same. -/
@[simp] abbrev SameDies (t s : State) : Prop := t.pkg.dies = s.pkg.dies

@[simp] theorem ite_dies (c : Prop) [Decidable c] (t u : State) :
    (if c then t else u).pkg.dies = (if c then t.pkg.dies else u.pkg.dies) :=
  apply_ite (fun v : State => v.pkg.dies) c t u

/-! ### Folds -/

@[simp] theorem foldl_dies {α : Type} {g : State → α → State} (h : ∀ u x, SameDies (g u x) u) (xs : List α)
    (s : State) : SameDies (xs.foldl g s) s :=
  foldl_same (fun u => u.pkg.dies) h xs s

theorem SameDies.trans {t u s : State} (h : SameDies t u) (g : SameDies u s) : SameDies t s := Eq.trans h g

/-! ### Faults whose reaction leaves the planning dies as they are (R479) -/

section
variable (s : State) (code : FCode) (loc : Loc) (d0 d1 : Nat)

@[simp] theorem State.fault_info_dies : SameDies (s.fault ⟨code, .info, loc, d0, d1⟩) s := by simp [State.fault]
@[simp] theorem State.fault_cycle_dies : SameDies (s.fault ⟨code, .cycle, loc, d0, d1⟩) s := by simp [State.fault]
@[simp] theorem State.fault_hold_dies : SameDies (s.fault ⟨code, .hold, loc, d0, d1⟩) s := by simp [State.fault]

end

/-! Folds whose turn keeps the dies by computation: `simp` cannot discharge the hypothesis of `foldl_dies` there. -/

@[simp] theorem foldl_poke_dies {α : Type} (xs : List α) (s : State) (a : State → α → Nat) (bs : State → α → List Byte) :
    SameDies (xs.foldl (fun s x => s.poke (a s x) (bs s x)) s) s :=
  foldl_dies (fun _ _ => by rfl) _ _

@[simp] theorem foldl_withCoh_dies {α : Type} (xs : List α) (s : State) (o : State → α → CohOut) :
    SameDies (xs.foldl (fun s x => s.withCoh (o s x)) s) s :=
  foldl_dies (fun _ _ => by rfl) _ _

/-! ### The operations of the machine, in the order of their files -/

/-! #### Machine/EngineOps -/

section
variable (s : State) (unit cl cand : Nat) (e : Engine) (c : QCmd) (cause : Option Fault0) (bs : List Byte)

@[simp] theorem State.setQueue_dies (cs : List QCmd) : SameDies (s.setQueue unit e cs) s := by simp [State.setQueue]
@[simp] theorem State.qeDecide_dies : SameDies (s.qeDecide cl) s := by simp [State.qeDecide]
@[simp] theorem State.qeDrop_dies : SameDies (s.qeDrop cl) s := by simp [State.qeDrop]
@[simp] theorem State.enqueue_dies : SameDies (s.enqueue unit e c) s := by simp [State.enqueue]
@[simp] theorem State.dequeue_dies (rest : List QCmd) : SameDies (s.dequeue unit e rest) s := by simp [State.dequeue]
@[simp] theorem State.commandDone_dies : SameDies (s.commandDone c) s := by simp [State.commandDone]

@[simp] theorem State.flag_dies (code lane : Nat) (also : List Nat) :
    SameDies (s.flag c code lane cand cause also) s := by
  simp [State.flag]

@[simp] theorem State.flagFault_dies : SameDies (s.flagFault c cause cand) s := by simp [State.flagFault]

@[simp] theorem State.flagsWhere_dies (fs : List (Nat × Bool)) : SameDies (s.flagsWhere c fs) s := by
  simp [State.flagsWhere]

@[simp] theorem State.result_dies (off : Nat) : SameDies (s.result cl off bs) s := by simp [State.result]

@[simp] theorem State.corrected_dies (die m : Nat) : SameDies (s.corrected die m) s := by
  unfold State.corrected
  repeat' split
  all_goals simp

@[simp] theorem State.cacheWord_dies (loc : Loc) (bank line : Nat) : SameDies (s.cacheWord cl loc bank line).1 s := by
  unfold State.cacheWord
  dsimp only
  repeat' split
  all_goals simp

@[simp] theorem State.cohWrite_dies (a : Nat) : SameDies (s.cohWrite a bs) s := by simp [State.cohWrite]

end

/-! #### Machine/EngineEnv -/

section
variable (s : State) (p : Nat → Bool)

@[simp] theorem State.clearCaches_dies : SameDies (s.clearCaches p) s := by simp [State.clearCaches]
@[simp] theorem State.dropStream_dies (core : Nat) : SameDies (s.dropStream core p) s := by simp [State.dropStream]
@[simp] theorem State.tally_dies (f : CycleCounts → CycleCounts) : SameDies (s.tally f) s := by simp [State.tally]

@[simp] theorem State.countVoid_dies (e : EngEnv) (cand : Nat) : SameDies (s.countVoid e cand) s := by
  simp [State.countVoid]

end

/-! #### Machine/CeExec -/

section
variable (s : State) (c : QCmd) (cand core : Nat) (r : VRec) (d : KeCmd) (miss : Option Nat)

@[simp] theorem State.verdictFlags_dies (lane : Nat) (early : Bool) :
    SameDies (s.verdictFlags c lane cand r early) s := by
  simp [State.verdictFlags]

@[simp] theorem State.putVerdict_dies : SameDies (s.putVerdict core d cand r) s := by simp [State.putVerdict]
@[simp] theorem State.checkCounts_dies (rs : List VRec) : SameDies (s.checkCounts rs) s := by simp [State.checkCounts]
@[simp] theorem State.startLanes_dies : SameDies (s.startLanes core d) s := by simp [State.startLanes]

@[simp] theorem State.laneStep_dies (e : EngEnv) (j : Nat) : SameDies (s.laneStep e core d c miss j) s := by
  unfold State.laneStep
  repeat' split
  all_goals simp

@[simp] theorem State.checkStreamBody_dies : SameDies (s.checkStreamBody core d miss c) s := by
  unfold State.checkStreamBody
  split <;> simp

@[simp] theorem State.retireLane_dies : SameDies (s.retireLane core cand) s := by
  unfold State.retireLane
  dsimp only
  repeat' split
  all_goals simp

@[simp] theorem State.checkStreamEnd_dies : SameDies (s.checkStreamEnd core d c) s := by simp [State.checkStreamEnd]
@[simp] theorem State.checkFailed_dies : SameDies (s.checkFailed core d c) s := by simp [State.checkFailed]

@[simp] theorem State.checkTrajBody_dies : SameDies (s.checkTrajBody core d c) s := by
  unfold State.checkTrajBody
  split <;> simp

@[simp] theorem State.checkPosesBody_dies : SameDies (s.checkPosesBody core d c) s := by
  unfold State.checkPosesBody
  split <;> simp

end

/-! #### Machine/KeExec -/

section
variable (s : State) (core : Nat) (d : KeCmd) (_c c : QCmd)

@[simp] theorem State.costFailed_dies : SameDies (s.costFailed core d _c) s := by simp [State.costFailed]
@[simp] theorem State.putRecs_dies (rs : List (List Byte)) : SameDies (s.putRecs core d rs) s := by simp [State.putRecs]

@[simp] theorem State.costFlags_dies (cand : Nat) (q : Partial) : SameDies (s.costFlags c cand q) s := by
  simp [State.costFlags]

@[simp] theorem State.costNext_dies (e : EngEnv) : SameDies (s.costNext e core d c) s := by
  unfold State.costNext
  dsimp only
  split <;> simp

@[simp] theorem State.costStreamBody_dies : SameDies (s.costStreamBody core d c) s := by
  unfold State.costStreamBody
  split <;> simp

@[simp] theorem State.costStreamEnd_dies : SameDies (s.costStreamEnd core d _c) s := by simp [State.costStreamEnd]

@[simp] theorem State.costTrajBody_dies : SameDies (s.costTrajBody core d c) s := by
  unfold State.costTrajBody
  split <;> simp

@[simp] theorem State.costFinalBody_dies : SameDies (s.costFinalBody core d c) s := by
  unfold State.costFinalBody
  split <;> simp

end

/-! #### Machine/PeExec -/

section
variable (s : State) (core cand : Nat) (d : PeCmd) (c : QCmd)

@[simp] theorem State.putSlot_dies (nsamp slot : Nat) (ps : List Sample) :
    SameDies (s.putSlot core d nsamp cand slot ps) s := by
  simp [State.putSlot]

@[simp] theorem State.expandNext_dies (e : EngEnv) (gen : State → Nat → List Sample) :
    SameDies (s.expandNext e core d c gen) s := by
  simp [State.expandNext]

@[simp] theorem State.expandBody_dies (gen : EngEnv → State → Nat → List Sample) :
    SameDies (s.expandBody core d gen c) s := by
  unfold State.expandBody
  split <;> simp

@[simp] theorem State.expandEnd_dies (fault : Bool) (_c : QCmd) : SameDies (s.expandEnd core d fault _c) s := by
  simp [State.expandEnd]

@[simp] theorem State.keepPathSat_dies (sat : Bool) : SameDies (s.keepPathSat core cand sat) s := by
  simp [State.keepPathSat]

@[simp] theorem State.buildPathBody_dies : SameDies (s.buildPathBody core d c) s := by
  unfold State.buildPathBody
  split <;> simp

@[simp] theorem State.rmSearchBody_dies : SameDies (s.rmSearchBody core d c) s := by
  unfold State.rmSearchBody
  split <;> simp

end

/-! #### Machine/QeExec -/

section
variable (s : State) (core : Nat) (d : QeCmd) (c : QCmd) (e : EngEnv) (t : Template) (ev : SolveEv) (late : Option Nat)
    (retried : Bool)

@[simp] theorem State.dropCand_dies (kind : Nat) : SameDies (s.dropCand kind) s := by simp [State.dropCand]

@[simp] theorem State.solveEnd_dies (o : SolveOrder) (r : QResult) : SameDies (s.solveEnd core d c o r) s := by
  simp [State.solveEnd]

@[simp] theorem State.keepSolved_dies (cl : Nat) (x : Solved) (bytes : List Byte) :
    SameDies (s.keepSolved cl d x bytes) s := by
  simp [State.keepSolved]

@[simp] theorem State.abftNumeric_dies (e : QEnd) : SameDies (s.abftNumeric core e) s := by simp [State.abftNumeric]

@[simp] theorem State.solveGeo_dies : SameDies (s.solveGeo e t core d ev late c) s := by
  unfold State.solveGeo
  dsimp only
  repeat' split
  all_goals simp

@[simp] theorem State.solveTs_dies : SameDies (s.solveTs e t core d ev late c) s := by
  unfold State.solveTs
  dsimp only
  repeat' split
  all_goals simp

@[simp] theorem State.solveBody_dies : SameDies (s.solveBody core d ev late c) s := by
  unfold State.solveBody
  repeat' split
  all_goals simp

@[simp] theorem State.emitBody_dies : SameDies (s.emitBody core d retried c) s := by
  unfold State.emitBody
  dsimp only
  repeat' split
  all_goals simp

@[simp] theorem State.keyBody_dies : SameDies (s.keyBody core d retried c) s := by
  unfold State.keyBody
  split <;> simp

end

/-! #### Machine/SeExec -/

section
variable (s : State) (core n : Nat) (d : SeCmd) (c : QCmd) (retried : Bool)

@[simp] theorem State.seFinish_dies (l : SList) : SameDies (s.seFinish core d c l retried) s := by simp [State.seFinish]
@[simp] theorem State.seFailed_dies : SameDies (s.seFailed core d c n) s := by simp [State.seFailed]
@[simp] theorem State.seFault_dies : SameDies (s.seFault core d c n) s := by simp [State.seFault]

@[simp] theorem State.selectBody_dies : SameDies (s.selectBody core d retried c) s := by
  unfold State.selectBody
  split <;> simp

@[simp] theorem State.mergeBody_dies : SameDies (s.mergeBody core d retried c) s := by simp [State.mergeBody]

end

/-! #### Machine/SeqOps -/

section
variable (s : State) (c t code step cand : Nat) (st : SeqStep) (cause : Option Fault0)

@[simp] theorem State.mapThr_dies (f : Thread → Thread) : SameDies (s.mapThr c t f) s := by simp [State.mapThr]
@[simp] theorem State.report_dies : SameDies (s.report c st) s := by simp [State.report]
@[simp] theorem State.goStep_dies (n : Nat) : SameDies (s.goStep c t n) s := by simp [State.goStep]
@[simp] theorem State.endStep_dies : SameDies (s.endStep c t st) s := by simp [State.endStep]
@[simp] theorem State.hubStale_dies (epoch : Nat) : SameDies (s.hubStale epoch) s := by simp [State.hubStale]

@[simp] theorem State.contextLost_dies (x : Thread) (phase : Nat) : SameDies (s.contextLost c t x phase) s := by
  simp [State.contextLost]

theorem State.pushFrame_dies {s u : State} {c t reason : Nat} {x : Thread} (h : s.pushFrame c t reason x = some u) :
    SameDies u s := by
  unfold State.pushFrame at h
  split at h
  · cases h
  · split at h
    · cases h
      simp
    · cases h

@[simp] theorem State.endThread_dies : SameDies (s.endThread c t) s := by
  unfold State.endThread
  split
  · simp
  · split
    · simp
    · split
      · simp
      · next h => simp [State.pushFrame_dies h]

@[simp] theorem State.divert_dies (dest : Nat) : SameDies (s.divert c t step dest) s := by
  unfold State.divert
  split <;> simp

@[simp] theorem State.retireVoid_dies (core : Nat) : SameDies (s.retireVoid core cand) s := by simp [State.retireVoid]

end

/-! #### Machine/CycleOps -/

section
variable (s : State) (d : Nat)

@[simp] theorem State.thermHold_dies : SameDies s.thermHold s := by simp [State.thermHold]
@[simp] theorem State.newFloor_dies : SameDies s.newFloor s := by simp [State.newFloor]

@[simp] theorem State.placeCopies_dies : SameDies (s.placeCopies d) s := by
  unfold State.placeCopies
  dsimp only
  repeat' split
  all_goals simp

@[simp] theorem State.loadCore_dies (c : Nat) (e : CoreEntry) : SameDies (s.loadCore d c e) s := by simp [State.loadCore]
@[simp] theorem State.loadDie_dies : SameDies (s.loadDie d) s := by simp [State.loadDie]
@[simp] theorem State.loadTables_dies : SameDies s.loadTables s := by simp [State.loadTables]

@[simp] theorem State.applyPatches_dies : SameDies s.applyPatches s := by simp [State.applyPatches]
@[simp] theorem State.wrapEpoch_dies : SameDies s.wrapEpoch s := by simp [State.wrapEpoch]

end

section
variable (s : State) (i : Image) (e : Ego) (d : Desc) (a : Armature) (c : Cycle)

@[simp] theorem State.snap_dies (w : Nat) : SameDies (s.snap i w e) s := by simp [State.snap]

@[simp] theorem State.saveThreads_dies (d : Nat) : SameDies (s.saveThreads d) s := by
  unfold State.saveThreads
  refine foldl_dies (fun u k => ?_) _ _
  dsimp only
  split
  · split
    · split
      · next h => simp [State.pushFrame_dies h]
      · simp
    · simp
  · simp

@[simp] theorem State.releaseDus_dies (ds : List Nat) : SameDies (s.releaseDus ds) s := by
  unfold State.releaseDus
  refine foldl_dies (fun u d => ?_) _ _
  dsimp only
  split <;> simp

@[simp] theorem State.beginCycle_dies : SameDies (s.beginCycle d i a e) s := by simp [State.beginCycle]

@[simp] theorem State.releaseCycle_dies : SameDies (s.releaseCycle d) s := by
  unfold State.releaseCycle
  repeat' split
  all_goals simp

@[simp] theorem State.refreshEdges_dies : SameDies (s.refreshEdges c) s := by
  unfold State.refreshEdges
  split <;> simp

@[simp] theorem State.placeSplice_dies : SameDies (s.placeSplice c) s := by
  unfold State.placeSplice
  repeat' split
  all_goals simp

@[simp] theorem State.writeSheet_dies : SameDies (s.writeSheet c i a) s := by simp [State.writeSheet]
@[simp] theorem State.endEmpty_dies : SameDies (s.endEmpty c) s := by simp [State.endEmpty]

end

/-! #### Machine/RingOps -/

section
variable (s : State) (r : Ring) (e : RingError) (n off be : Nat) (c : Compl)

@[simp] theorem State.ringFailed_dies : SameDies (s.ringFailed r e) s := by simp [State.ringFailed]

@[simp] theorem State.ringError_dies : SameDies (s.ringError n e) s := by
  unfold State.ringError
  split <;> simp

@[simp] theorem State.readDoorbell_dies : SameDies (s.readDoorbell n).1 s := by
  unfold State.readDoorbell
  dsimp only
  repeat' split
  all_goals simp

@[simp] theorem State.readDoorbells_dies (s : State) (ns : List Nat) : SameDies (s.readDoorbells ns).1 s := by
  unfold State.readDoorbells
  generalize false = b
  induction ns generalizing s b with
  | nil => simp
  | cons n r ih => exact (ih (s.readDoorbell n).1 _).trans (State.readDoorbell_dies s n)

@[simp] theorem State.pollPeriod_dies (find : Bool) : SameDies (s.pollPeriod find) s := by simp [State.pollPeriod]

@[simp] theorem State.poll_dies (lo hi : Nat) : SameDies (s.poll lo hi) s := by
  unfold State.poll
  dsimp only
  split <;> simp

@[simp] theorem State.startDesc_dies (d : Desc) : SameDies (s.startDesc d) s := by simp [State.startDesc]

@[simp] theorem State.fetchFrom_dies : SameDies (s.fetchFrom r) s := by
  unfold State.fetchFrom
  dsimp only
  repeat' split
  all_goals simp

theorem State.take_dies {s u : State} {op : Nat} {d : Desc} (h : s.take op = some (d, u)) : SameDies u s := by
  unfold State.take at h
  obtain ⟨x, -, hx⟩ := Option.map_eq_some_iff.1 h
  cases hx
  simp

@[simp] theorem State.retire_dies : SameDies (s.retire c) s := by simp [State.retire]

@[simp] theorem State.writeCompl_dies : SameDies (s.writeCompl c) s := by
  unfold State.writeCompl
  split <;> simp

@[simp] theorem State.loadFailed_dies (ring : Nat) (c : LoadCause) : SameDies (s.loadFailed ring c) s := by
  simp [State.loadFailed]

@[simp] theorem State.regFault_dies (cause : Nat) : SameDies (s.regFault off be cause) s := by simp [State.regFault]
@[simp] theorem State.holdWrite_dies (v : Nat) : SameDies (s.holdWrite off be v) s := by simp [State.holdWrite]

end

/-! #### Machine/DescExec -/

section
variable (d : Desc) (s : State)

@[simp] theorem State.worldUpdate_dies : SameDies (State.worldUpdate d s) s := by
  unfold State.worldUpdate
  repeat' split
  all_goals simp

@[simp] theorem State.queueCycle_dies : SameDies (s.queueCycle d) s := by simp [State.queueCycle]

end

/-! #### Machine/LoadOps -/

section
variable (s : State)

@[simp] theorem State.mapStaged_dies (d : Desc) (f : Staged → Staged) : SameDies (s.mapStaged d f) s := by
  simp [State.mapStaged]

@[simp] theorem State.loadFail_dies (o : LongOp) (r : Option Refused) : SameDies (s.loadFail o r) s := by
  unfold State.loadFail
  split <;> simp

/-- The number of units and the read stand for opaque functions while the unit's branches are taken apart: their chunk of
16 MiB is a numeral that the kernel would count down in unary. -/
theorem State.fetchUnit_dies {s u : State} {o : LongOp} (h : s.fetchUnit o = .next u) : SameDies u s := by
  obtain ⟨unit, hunit⟩ : ∃ f, f = State.fetchUnit := ⟨_, rfl⟩
  obtain ⟨units, hunits⟩ : ∃ f, f = loadUnits := ⟨_, rfl⟩
  obtain ⟨read, hread⟩ : ∃ f, f = State.hostReadN := ⟨_, rfl⟩
  rw [← hunit] at h
  delta State.fetchUnit at hunit
  rw [← hunits, ← hread] at hunit
  subst hunit
  dsimp only at h
  split at h
  · cases h
  · split at h <;> cases h
    simp

theorem State.unpackUnit_dies {s u : State} {o : LongOp} (h : s.unpackUnit o = .next u) : SameDies u s := by
  unfold State.unpackUnit at h
  dsimp only at h
  split at h
  · cases h
    simp
  · split at h <;> cases h
    simp

theorem State.checkUnit_dies {s u : State} {o : LongOp} (h : s.checkUnit o = .next u) : SameDies u s := by
  unfold State.checkUnit at h
  dsimp only at h
  split at h
  · cases h
  · split at h
    · cases h
      simp
    · split at h <;> cases h
      simp

@[simp] theorem State.loadUnit_dies (o : LongOp) : SameDies (s.loadUnit o) s := by
  unfold State.loadUnit
  dsimp only
  split
  · simp
  · simp
  · next u h =>
    have hu : SameDies u s := by
      split at h
      · exact State.fetchUnit_dies h
      · exact State.fetchUnit_dies h
      · exact State.unpackUnit_dies h
      · exact State.checkUnit_dies h
      · cases h
        simp
    simp [hu]

@[simp] theorem State.cancelGrowth_dies : SameDies s.cancelGrowth s := by simp [State.cancelGrowth]

end

/-! #### Machine/LongExec -/

section
variable (s : State) (o : LongOp) (d : Nat)

@[simp] theorem State.startLong_dies : SameDies (s.startLong o) s := by simp [State.startLong]

@[simp] theorem State.stopOp_dies (d : Desc) : SameDies (s.stopOp d) s := by
  unfold State.stopOp
  repeat' split
  all_goals simp

@[simp] theorem State.scrubFound_dies (cls : OpClass) : SameDies (s.scrubFound cls d) s := by
  unfold State.scrubFound
  split <;> simp

@[simp] theorem State.ledgerUnit_dies : SameDies (s.ledgerUnit o) s := by simp [State.ledgerUnit]

@[simp] theorem State.afterUnit_dies (d : Desc) : SameDies (s.afterUnit d) s := by
  unfold State.afterUnit
  split <;> simp

@[simp] theorem State.countUnit_dies (good : Bool) : SameDies (s.countUnit o good) s := by
  unfold State.countUnit
  repeat' split
  all_goals simp

@[simp] theorem State.checkpointOp_dies (ev : CkEvent) : SameDies (s.checkpointOp o ev) s := by
  unfold State.checkpointOp
  split <;> simp

@[simp] theorem State.flushDie_dies : SameDies (s.flushDie d) s :=
  foldl_dies (fun _ _ => by rfl) _ _

@[simp] theorem State.wipeDie_dies : SameDies (s.wipeDie d) s := by simp [State.wipeDie]

end

/-! #### Machine/StartOps -/

section
variable (s : State) (d : Nat) (c : FenceCause)

@[simp] theorem State.dieServe_dies (v : DieServe) : SameDies (s.dieServe d v) s := by simp [State.dieServe]

@[simp] theorem State.decideLinks_dies : SameDies s.decideLinks s := by simp [State.decideLinks]
@[simp] theorem State.ready_dies : SameDies s.ready s := by simp [State.ready]

end

/-! #### Machine/PowerOps -/

section
variable (s : State)

@[simp] theorem State.suspendAll_dies : SameDies s.suspendAll s := by
  unfold State.suspendAll
  refine foldl_dies (fun u x => ?_) _ _
  split <;> simp

@[simp] theorem State.suspendAllN_dies (s : State) (n : Nat) : SameDies (s.suspendAllN n) s := by
  induction n generalizing s with
  | zero => simp [State.suspendAllN]
  | succ n ih => exact (ih s.suspendAll).trans s.suspendAll_dies

@[simp] theorem State.askIdle_dies : SameDies s.askIdle s := by simp [State.askIdle]
@[simp] theorem State.flushAll_dies : SameDies s.flushAll s := by simp [State.flushAll]

end

/-! #### Machine/ClockExec -/

section
variable (s : State)

@[simp] theorem State.evalHot_dies : SameDies s.evalHot s := by simp [State.evalHot]
@[simp] theorem State.evalCool_dies : SameDies s.evalCool s := by simp [State.evalCool]

@[simp] theorem State.pmbTarget_dies (t : Nat) (r : Option PmbRead) : SameDies (s.pmbTarget t r) s := by
  unfold State.pmbTarget
  split <;> simp

end

/-! #### Machine/Movers -/

section
variable (s : State) (a cl : Nat) (c : QCmd) (m : MvCmd) (e : Engine)

@[simp] theorem State.moverWrite_dies (bs : List Byte) : SameDies (s.moverWrite a bs) s := by simp [State.moverWrite]

@[simp] theorem State.moverFails_dies (cause : Option Fault0) : SameDies (s.moverFails c cl m cause) s := by
  simp [State.moverFails]

@[simp] theorem State.moverFault_dies : SameDies (s.moverFault c cl e m a) s := by simp [State.moverFault]
@[simp] theorem State.moverPoison_dies (n : Nat) : SameDies (s.moverPoison c cl e m a n) s := by simp [State.moverPoison]
@[simp] theorem State.moverError_dies : SameDies (s.moverError c cl m) s := by simp [State.moverError]
@[simp] theorem State.copyBody_dies : SameDies (s.copyBody c cl e m) s := by simp [State.copyBody]
@[simp] theorem State.fillBody_dies : SameDies (s.fillBody c cl e m) s := by simp [State.fillBody]

@[simp] theorem State.atomicBody_dies (bytes : Nat) (add : Bool) : SameDies (s.atomicBody c cl e m bytes add) s := by
  simp [State.atomicBody]

end

/-! #### Machine/CycleExec -/

section
variable (s : State) (c : Cycle) (i : Image) (a : Armature) (hw : HwEvent) (ls : List HubList) (entry pass src epoch : Nat)
    (bytes : List Byte)

@[simp] theorem State.nextPhase_dies : SameDies (s.nextPhase c) s := by simp [State.nextPhase]
@[simp] theorem State.bulkWrite_dies (da : Nat) : SameDies (s.bulkWrite src da bytes) s := by simp [State.bulkWrite]

@[simp] theorem State.endGenerate_dies : SameDies (s.endGenerate c) s := by
  unfold State.endGenerate
  dsimp only
  repeat' split
  all_goals simp

@[simp] theorem State.endSelect_dies : SameDies (s.endSelect c i a) s := by
  unfold State.endSelect
  dsimp only
  split <;> simp

@[simp] theorem State.endRecheck_dies : SameDies (s.endRecheck c a) s := by simp [State.endRecheck]

@[simp] theorem State.listIn_dies : SameDies (s.listIn src epoch entry pass bytes) s := by
  unfold State.listIn
  split <;> simp

@[simp] theorem State.dualIn_dies (cl off : Nat) : SameDies (s.dualIn epoch cl off bytes) s := by
  unfold State.dualIn
  split <;> simp

end

/-! #### Machine/DeExec -/

section
variable (s : State) (die satrec satstat big cl : Nat) (d : DeCmd) (c : QCmd)

@[simp] theorem State.broadcast_dies (off : Nat) (bs : List Byte) : SameDies (s.broadcast die off bs) s := by
  simp [State.broadcast]

@[simp] theorem State.deCounts_dies : SameDies (s.deCounts die satrec satstat big) s := by simp [State.deCounts]

@[simp] theorem State.deFinish_dies (tiles : Nat) (sat : Bool) :
    SameDies (s.deFinish cl d c tiles satrec satstat big sat) s := by
  simp [State.deFinish]

@[simp] theorem State.cspaceBody_dies : SameDies (s.cspaceBody cl d c) s := by
  unfold State.cspaceBody
  split <;> simp

@[simp] theorem State.occBody_dies : SameDies (s.occBody cl d c) s := by
  unfold State.occBody
  split <;> simp

@[simp] theorem State.staticBody_dies : SameDies (s.staticBody cl d c) s := by
  unfold State.staticBody
  split <;> simp

end

/-! #### Machine/SeqExec -/

section
variable (s : State) (c t : Nat) (st : SeqStep)

@[simp] theorem State.tryEnd_dies (x : Thread) : SameDies (s.tryEnd c t x st) s := by simp [State.tryEnd]
@[simp] theorem State.markStarted_dies : SameDies (s.markStarted c t) s := by simp [State.markStarted]

@[simp] theorem State.issueSlot_dies (n : Nat) (i : Nat) : SameDies (s.issueSlot c t n st i).1 s := by
  unfold State.issueSlot
  dsimp only
  repeat' split
  all_goals simp

@[simp] theorem State.issueAll_dies (s : State) (c t n : Nat) (st : SeqStep) :
    SameDies (s.issueAll c t n st).1 s := by
  unfold State.issueAll
  generalize (false, false) = b
  induction List.range 4 generalizing s b with
  | nil => simp
  | cons i r ih =>
    rw [List.foldl_cons]
    split
    · exact ih s b
    · exact (ih _ _).trans (State.issueSlot_dies ..)

end

/-! #### Machine/DuExec -/

section
variable (s : State) (d : Nat) (g : DuCfg) (m : Msg) (k : GrantCand)

@[simp] theorem State.grantRec_dies (core thread item : Nat) (dyn : Bool) (arg : Nat) (m : Option (Nat × Nat)) :
    SameDies (s.grantRec d g core thread item dyn arg m) s := by
  simp [State.grantRec]

@[simp] theorem State.grantItem_dies (h : Held) : SameDies (s.grantItem d g k h) s := by
  unfold State.grantItem
  dsimp only
  repeat' split
  all_goals simp

@[simp] theorem State.preempt_dies (core : Nat) : SameDies (s.preempt core) s := by
  unfold State.preempt
  split
  · simp
  · split
    · simp
    · next h => simp [State.pushFrame_dies h]

@[simp] theorem State.grantThread_dies : SameDies (s.grantThread d g k) s := by
  unfold State.grantThread
  dsimp only
  split <;> simp

@[simp] theorem State.traceMsg_dies (c : Cycle) : SameDies (s.traceMsg c m) s := by
  unfold State.traceMsg
  split <;> simp

end

/-! #### Machine/LinkExec -/

section
variable (s : State) (l e : Nat) (f : Flit)

@[simp] theorem State.packetFlit_dies : SameDies (s.packetFlit l e f) s := by
  unfold State.packetFlit
  repeat' split
  all_goals simp

end

/-! #### Machine/RegOps -/

section
variable (s : State) (off : Nat)

@[simp] theorem State.readReg_dies : SameDies (s.readReg off) s := by
  unfold State.readReg
  split <;> simp

@[simp] theorem State.busRead_dies : SameDies (s.busRead off) s := by simp [State.busRead]

end

/-! #### Machine/RestartOps -/

section
variable (s : State) (cl d : Nat)

@[simp] theorem State.restartBegin_dies (u : RUnit) : SameDies (s.restartBegin u) s := by
  unfold State.restartBegin
  split <;> simp

@[simp] theorem State.clearCluster_dies : SameDies (s.clearCluster cl) s := by simp [State.clearCluster]
@[simp] theorem State.resetCluster_dies : SameDies (s.resetCluster cl) s := by simp [State.resetCluster]
@[simp] theorem State.dropHomed_dies : SameDies (s.dropHomed d) s := by simp [State.dropHomed]
@[simp] theorem State.retrainLinks_dies : SameDies (s.retrainLinks d) s := by simp [State.retrainLinks]

@[simp] theorem State.dropDescs_dies : SameDies s.dropDescs s := by simp [State.dropDescs]

@[simp] theorem State.resetHub_dies (held : Bool) (lost : List Nat) : SameDies (s.resetHub held lost) s := by
  simp [State.resetHub]

@[simp] theorem State.rereadContexts_dies : SameDies s.rereadContexts s := by simp [State.rereadContexts]
@[simp] theorem State.dieBack_dies : SameDies (s.dieBack d) s := by simp [State.dieBack]

end

/-! #### Machine/SafetyExec -/

section
variable (s : State) (cl k len d vc : Nat)

@[simp] theorem State.cutOp_dies (p : LongOp → Bool) : SameDies (s.cutOp p) s := by
  unfold State.cutOp
  split <;> simp

@[simp] theorem State.cutQe_dies (core : Nat) : SameDies (s.cutQe core) s := by
  unfold State.cutQe
  split <;> simp

@[simp] theorem State.cutMover_dies (mv : Nat) : SameDies (s.cutMover cl mv) s := by
  unfold State.cutMover
  split <;> simp

end

/-! #### Machine/SmiExec -/

section
variable (s : State) (rstat addr data : Nat)

@[simp] theorem State.smiAnswer_dies : SameDies (s.smiAnswer rstat addr data) s := by simp [State.smiAnswer]
@[simp] theorem State.smiLatch_dies : SameDies (s.smiLatch addr) s := by simp [State.smiLatch]

end

/-! #### Machine/Tick -/

section
variable (s : State)

@[simp] theorem State.moveDeadlines_dies (delta : Int) : SameDies (s.moveDeadlines delta) s := by
  simp [State.moveDeadlines]

@[simp] theorem State.slewMoves_dies : SameDies s.slewMoves s := by
  unfold State.slewMoves
  split <;> simp

end

/-! #### Machine/TimeExec -/

section
variable (s : State) (delta : Int) (d : Desc)

@[simp] theorem State.stepTime_dies : SameDies (s.stepTime delta) s := by simp [State.stepTime]
@[simp] theorem State.setCalendar_dies : SameDies (s.setCalendar d) s := by simp [State.setCalendar]

end

/-! #### Resets, the ring table, activation, power states -/

section
variable (s : State) (p : PState)

@[simp] theorem State.functionReset_dies : SameDies s.functionReset s := by simp [State.functionReset]

@[simp] theorem State.loadTable_dies : SameDies s.loadTable s := by
  unfold State.loadTable
  dsimp only
  repeat' split
  all_goals simp

@[simp] theorem State.clearPlanning_dies : SameDies s.clearPlanning.1 s := rfl

@[simp] theorem State.unload_dies : SameDies s.unload s := by simp [State.unload]

end

/-! #### Register writes -/

section
variable (s : State) (off v be : Nat)

theorem State.forceSafe_dies {s t : State} {v : Nat} (ht : s.forceSafe v = some t) : SameDies t s := by
  unfold State.forceSafe at ht
  split at ht
  · cases ht
    rfl
  · split at ht <;> cases ht
    rfl

end


/-! ### Dies -/

/-- A die that is not fenced, or not out, may lose and gain anything but a fence. -/
theorem DieSt.Follows.of_not_out {x y : DieSt} (hx : x.fenced.isSome = true → ¬ x.Out) (hf : y.fenced = x.fenced) : x.Follows y :=
  ⟨fun _ hc => hf.trans hc, fun hout hy => absurd hout (hx (hf ▸ hy))⟩

/-- A die that loses nothing but health, service, rail and running follows. -/
theorem DieSt.Follows.of_less {x y : DieSt} (hf : y.fenced = x.fenced) (hh : x.healthy = false → y.healthy = false)
    (hs : x.inService = false → y.inService = false) (he : x.enable = false → y.enable = false)
    (hr : x.running = false → y.running = false) : x.Follows y := by
  refine ⟨fun _ hc => hf.trans hc, fun hout hy => ?_⟩
  obtain ⟨h1, h2, h3, h4⟩ := hout (hf ▸ hy)
  exact ⟨hh h1, hs h2, he h3, hr h4⟩

@[simp] theorem DieSt.follows_self (x : DieSt) : x.Follows x := .of_less rfl id id id id

/-- Serial, presence, reports, losses and what is to be rebuilt do not count. -/
@[simp] theorem DieSt.follows_mk (x : DieSt) {serial presence report out rejoin losses full tiles} :
    x.Follows ⟨x.enable, x.running, x.healthy, x.fenced, serial, presence, report, out, rejoin, x.inService, losses, full, tiles⟩ :=
  .of_less rfl id id id id

@[simp] theorem DieSt.follows_off (x : DieSt) {serial presence report out rejoin losses full tiles} :
    x.Follows ⟨false, false, x.healthy, x.fenced, serial, presence, report, out, rejoin, x.inService, losses, full, tiles⟩ :=
  .of_less rfl id id (fun _ => rfl) (fun _ => rfl)

@[simp] theorem DieSt.follows_standby (x : DieSt) : x.Follows x.standby :=
  .of_less rfl id (fun _ => rfl) (fun _ => rfl) (fun _ => rfl)

@[simp] theorem DieSt.follows_outOfService (x : DieSt) {serial presence report out rejoin losses full tiles} :
    x.Follows ⟨x.enable, x.running, x.healthy, x.fenced, serial, presence, report, out, rejoin, false, losses, full, tiles⟩ :=
  .of_less rfl id (fun _ => rfl) id id

/-! ### Lists of dies -/

@[simp] theorem FencesKept.refl (xs : List DieSt) : FencesKept xs xs := List.forall₂_same.2 fun x _ => x.follows_self

theorem FencesKept.trans : ∀ {xs ys zs : List DieSt}, FencesKept xs ys → FencesKept ys zs → FencesKept xs zs
  | _, _, _, .nil, .nil => .nil
  | _, _, _, .cons h hs, .cons g gs => .cons (h.trans g) (FencesKept.trans hs gs)

@[simp] theorem fencesKept_ite {c : Prop} [Decidable c] {ds xs ys : List DieSt} :
    FencesKept ds (if c then xs else ys) ↔ (c → FencesKept ds xs) ∧ (¬c → FencesKept ds ys) := by
  split <;> simp [*]

theorem FencesKept.modAt_self {f : DieSt → DieSt} : ∀ {xs : List DieSt} {d : Nat},
    (∀ x, xs[d]? = some x → x.Follows (f x)) → FencesKept xs (modAt f xs d)
  | [], _, _ => .nil
  | x :: xs, 0, h => .cons (h x rfl) (FencesKept.refl xs)
  | x :: _, _ + 1, h => .cons x.follows_self (modAt_self h)

@[simp] theorem FencesKept.map_self {f : DieSt → DieSt} (xs : List DieSt) (hf : ∀ x : DieSt, x.Follows (f x)) : FencesKept xs (xs.map f) :=
  List.forall₂_map_right_iff.2 (List.forall₂_same.2 fun x _ => hf x)

theorem FencesKept.out {xs ys : List DieSt} (h : FencesKept xs ys) (hx : ∀ x ∈ xs, x.Out) : ∀ y ∈ ys, y.Out := by
  induction h with
  | nil => exact hx
  | cons hxy _ ih =>
    obtain ⟨hout, hrest⟩ := List.forall_mem_cons.1 hx
    exact List.forall_mem_cons.2 ⟨hxy.out hout, ih hrest⟩

theorem FencesKept.entry {xs ys : List DieSt} (h : FencesKept xs ys) (d : Nat) :
    (nth DieSt.off xs d).Follows (nth DieSt.off ys d) := by
  induction h generalizing d with
  | nil => exact DieSt.follows_self _
  | cons hxy _ ih => cases d with
    | zero => exact hxy
    | succ d => exact ih d

/-- `FencesKept`, where no rule of this section rewrites it. -/
def FencesElse (xs ys : List DieSt) : Prop := FencesKept xs ys

/-- The rule for one list. -/
theorem fencesRule {ds xs ys : List DieSt} (h : FencesKept xs ys) : FencesKept ds ys ↔ FencesKept ds xs ∨ FencesElse ds ys :=
  ⟨.inr, fun g => g.elim (·.trans h) id⟩

@[simp] theorem fencesKept_modAt (ds xs : List DieSt) (d : Nat) {f : DieSt → DieSt} (hf : ∀ x : DieSt, x.Follows (f x)) :
    FencesKept ds (modAt f xs d) ↔ FencesKept ds xs ∨ FencesElse ds (modAt f xs d) :=
  fencesRule (.modAt_self fun x _ => hf x)

@[simp] theorem fencesKept_map (ds xs : List DieSt) {f : DieSt → DieSt} (hf : ∀ x : DieSt, x.Follows (f x)) :
    FencesKept ds (xs.map f) ↔ FencesKept ds xs ∨ FencesElse ds (xs.map f) :=
  fencesRule (.map_self xs hf)

/-- An operation that leads from `s` to `t` keeps fences, as a rule for `simp`: dies that are followed up to `s` are followed up to
`t`. It is an equivalence with what it rewrites as an alternative, because `simp` follows only two rules with hypotheses in a
row, and operations stand in longer rows. -/
abbrev KeepsFences (t s : State) : Prop :=
  ∀ ds, FencesKept ds t.pkg.dies ↔ FencesKept ds s.pkg.dies ∨ FencesElse ds t.pkg.dies

theorem keepsFences {t s : State} (h : FencesKept s.pkg.dies t.pkg.dies) : KeepsFences t s := fun _ => fencesRule h

theorem KeepsFences.kept {t s : State} (h : KeepsFences t s) : FencesKept s.pkg.dies t.pkg.dies := (h _).2 (.inl (.refl _))

/-- A die changed as its state allows. -/
theorem State.mapDie_fences {s : State} {d : Nat} {f : DieSt → DieSt} (hf : (s.die d).Follows (f (s.die d))) :
    FencesKept s.pkg.dies (s.mapDie d f).pkg.dies :=
  .modAt_self fun x hx => by
    have hdie : s.die d = x := by rw [State.die, nth, hx, Option.getD_some]
    exact hdie ▸ hf

/-- What a change leaves of every die it leaves of each. -/
theorem State.die_mapDie_proj {β : Type} (s : State) (d k : Nat) (f : DieSt → DieSt) (p : DieSt → β) (hp : ∀ x, p (f x) = p x) :
    p ((s.mapDie d f).die k) = p (s.die k) := by
  by_cases hk : k = d
  · subst hk
    by_cases hlen : k < s.pkg.dies.length
    · rw [State.die_mapDie_same _ _ _ hlen, hp]
    · simp [State.die, State.mapDie, nth, get_modAt, List.getElem?_eq_none (Nat.le_of_not_lt hlen)]
  · rw [State.die_mapDie_other _ _ _ _ hk]

/-! ### Operations that change dies, in the order of their files -/

/-- What every turn of a fold keeps the fold keeps. -/
@[simp] theorem foldl_fences {α : Type} {g : State → α → State} (hg : ∀ u x, FencesKept u.pkg.dies (g u x).pkg.dies)
    (xs : List α) (s : State) : KeepsFences (xs.foldl g s) s :=
  keepsFences (List.foldlRecOn (motive := fun u : State => FencesKept s.pkg.dies u.pkg.dies) xs g (.refl _)
    fun u hu x _ => hu.trans (hg u x))

/-- Tiles marked for rebuilding are nothing to a fence. -/
@[simp] theorem foldl_allTiles_fences (b : Bool) (xs : List Nat) (s : State) :
    KeepsFences (xs.foldl (fun (s : State) d => s.mapDie d (fun x => { x with allTiles := b })) s) s :=
  foldl_fences (fun _ _ => State.mapDie_fences (DieSt.follows_mk _)) xs s

/-- A die as its fence leaves it (R407). -/
def DieSt.fence (c : FenceCause) (x : DieSt) : DieSt :=
  { x with healthy := false, inService := false, fenced := some c, rejoin := false, out := .service, enable := false,
           running := false }

theorem DieSt.follows_fence {x : DieSt} (h : x.fenced = none) (c : FenceCause) : x.Follows (x.fence c) :=
  ⟨fun _ hd => absurd (hd.symm.trans h) nofun, fun _ _ => ⟨rfl, rfl, rfl, rfl⟩⟩

/-- Two changes of one entry are one. -/
theorem modAt_modAt {α : Type} (f g : α → α) (xs : List α) (d : Nat) : modAt g (modAt f xs d) d = modAt (fun x => g (f x)) xs d := by
  induction xs generalizing d with
  | nil => rfl
  | cons x r ih => cases d with
    | zero => rfl
    | succ d => exact congrArg (x :: ·) (ih d)

/-- A fence changes one die, and only where it is not fenced yet (R407). -/
theorem State.fenceDie_dies {s : State} {d : Nat} (h : (s.die d).fenced = none) (c : FenceCause) (st : Status) :
    (s.fenceDie d c st).pkg.dies = modAt (DieSt.fence c) s.pkg.dies d := by
  have hcond : ¬ (s.die d).fenced.isSome = true := by simp [h]
  unfold State.fenceDie
  simp [if_neg hcond, State.fenceOff, State.fenceData, modAt_modAt]
  rfl

section
variable (s : State)

/-! #### Machine/Ops -/

@[simp] theorem State.fenceDie_fences (d : Nat) (c : FenceCause) (st : Status) : KeepsFences (s.fenceDie d c st) s := by
  refine keepsFences ?_
  cases hd : (s.die d).fenced with
  | some _ =>
    rw [State.fenceDie_of_fenced (by simp [hd])]
    exact .refl _
  | none =>
    rw [State.fenceDie_dies hd]
    exact State.mapDie_fences (DieSt.follows_fence hd c)

@[simp] theorem State.fatal_fences (alive : Bool) : KeepsFences (s.fatal alive) s :=
  keepsFences (by simp [State.fatal, State.fatalOff])

@[simp] theorem State.restartFault_fences (u : RUnit) : KeepsFences (s.restartFault u) s := by
  refine keepsFences ?_
  unfold State.restartFault
  split <;> simp

@[simp] theorem State.fault_fences (f : Fault0) : KeepsFences (s.fault f) s := by
  refine keepsFences ?_
  unfold State.fault
  repeat' split
  all_goals simp

@[simp] theorem State.faults_fences (fs : List Fault0) : KeepsFences (s.faults fs) s :=
  keepsFences (by simp [State.faults])

/-! #### Machine/EngineOps -/

/-- A body and a failure that keep the dies do so behind an engine's checks, but for a finding that is recorded and raised. -/
theorem State.checked_fences (c : QCmd) (e : Engine) (hw : HwEvent) (op first count : Nat)
    {body : State → State} {failed : Fault0 → State → State} (adjust : Fault0 → Fault0)
    (hb : ∀ u, SameDies (body u) u) (hf : ∀ f u, SameDies (failed f u) u) :
    KeepsFences (s.checked c e hw op first count body failed adjust) s := by
  refine keepsFences ?_
  unfold State.checked
  split
  · dsimp only
    split <;> simp [hb, hf]
  · dsimp only
    repeat' split
    all_goals simp [hb, hf]

theorem State.engineRun_fences (unit : Nat) (e : Engine) (w : BitVec 128) (hw : HwEvent) (op first count : Nat)
    {body : QCmd → State → State} {failed : QCmd → Fault0 → State → State} (adjust : Fault0 → Fault0)
    (hb : ∀ c u, SameDies (body c u) u) (hf : ∀ c f u, SameDies (failed c f u) u) :
    KeepsFences (s.engineRun unit e w hw op first count body failed adjust) s := by
  refine keepsFences ?_
  unfold State.engineRun
  split
  · simp
  · split
    · simp
    · simp [State.checked_fences, hb, hf]

theorem State.streamRun_fences (core : Nat) (e : Engine) (w : BitVec 128) (hw : HwEvent) (op first count : Nat)
    {body : QCmd → State → State} (ended : State → Bool) {finish failed : QCmd → State → State}
    (hb : ∀ c u, SameDies (body c u) u) (hn : ∀ c u, SameDies (finish c u) u) (hf : ∀ c u, SameDies (failed c u) u) :
    KeepsFences (s.streamRun core e w hw op first count body ended finish failed) s := by
  refine keepsFences ?_
  unfold State.streamRun
  split
  · simp
  · split
    · simp
    · simp [State.checked_fences, hb, hn, hf]

@[simp] theorem State.checkStream_fences (core : Nat) (d : KeCmd) (miss : Option Nat) (w : BitVec 128) (hw : HwEvent) :
    KeepsFences (s.checkStream core w hw d miss) s :=
  State.streamRun_fences _ _ _ _ _ _ _ _ _ (by simp) (by simp) (by simp)

/-! #### Machine/SeqOps -/

@[simp] theorem State.stepFault_fences (c t code step : Nat) (cause : Option Fault0) :
    KeepsFences (s.stepFault c t code step cause) s :=
  keepsFences (by simp [State.stepFault])

@[simp] theorem State.react_fences (c t step slot code lane cand : Nat) (cause : Option Fault0) :
    KeepsFences (s.react c t step slot code lane cand cause) s := by
  refine keepsFences ?_
  unfold State.react
  repeat' split
  all_goals simp

@[simp] theorem State.raise_fences (c t step code : Nat) : KeepsFences (s.raise c t step code) s :=
  keepsFences (by simp [State.raise])

/-! #### Machine/CycleOps -/

@[simp] theorem State.takeUp_fences (xs : List Nat) : KeepsFences (s.takeUp xs) s :=
  keepsFences (by simp [State.takeUp])

@[simp] theorem State.chooseArmature_fences : KeepsFences s.chooseArmature s := by
  refine keepsFences ?_
  unfold State.chooseArmature
  split <;> simp

/-- Only a healthy die rejoins, and no fenced die that is out is healthy (R407, R408). -/
@[simp] theorem State.rejoinDies_fences : KeepsFences s.rejoinDies s := by
  refine keepsFences ?_
  unfold State.rejoinDies
  refine (List.foldlRecOn _ _ (motive := fun u : State =>
    (∀ d, (u.die d).healthy = (s.die d).healthy) ∧ FencesKept s.pkg.dies u.pkg.dies) ⟨fun _ => rfl, .refl _⟩ ?_).2
  intro u ⟨hsame, hkept⟩ d hd
  have hhealthy : (u.die d).healthy = true := by simp_all
  have hrestore : (u.restoreStore d).pkg = u.pkg := by simp
  generalize u.restoreStore d = v at hrestore ⊢
  have hdie (k : Nat) : v.die k = u.die k := congrArg (fun p : Package => nth DieSt.off p.dies k) hrestore
  refine ⟨fun k => ?_, (hrestore ▸ hkept).trans (State.mapDie_fences (d := d) (.of_not_out (fun hf hout => ?_) rfl))⟩
  · refine Eq.trans ?_ ((congrArg DieSt.healthy (hdie k)).trans (hsame k))
    exact v.die_mapDie_proj d k _ DieSt.healthy fun _ => rfl
  · obtain ⟨hsick, -⟩ := hout hf
    rw [hdie, hhealthy] at hsick
    cases hsick

@[simp] theorem State.boundary_fences : KeepsFences s.boundary s :=
  keepsFences (by simp [State.boundary])
@[simp] theorem State.verifyFault_fences : KeepsFences s.verifyFault s :=
  keepsFences (by simp [State.verifyFault])

/-! #### Machine/LoadOps, LongExec -/

@[simp] theorem State.activate_fences (o : LongOp) (i : Image) : KeepsFences (s.activate o i) s := by
  refine keepsFences ?_
  unfold State.activate
  split <;> simp

@[simp] theorem State.takeDie_fences (o : LongOp) (d : Nat) (why : OutOf) : KeepsFences (s.takeDie o d why) s :=
  keepsFences (by simp [State.takeDie])

@[simp] theorem State.dieReady_fences (d : Nat) : KeepsFences (s.dieReady d) s := by
  refine keepsFences ?_
  unfold State.dieReady
  dsimp only
  split <;> simp

/-! #### Machine/StartOps -/

@[simp] theorem State.fatalStart_fences (f : Fault0) : KeepsFences (s.fatalStart f) s :=
  keepsFences (by simp [State.fatalStart])

@[simp] theorem State.checkReports_fences : KeepsFences s.checkReports s := by
  refine foldl_fences (fun u x => ?_) _ s
  split <;> simp

@[simp] theorem State.decideCapacity_fences : KeepsFences s.decideCapacity s :=
  keepsFences (by simp [State.decideCapacity])

/-- Only a die that is not fenced enters service (R404). -/
@[simp] theorem State.enterService_fences : KeepsFences s.enterService s := by
  unfold State.enterService
  refine foldl_fences (fun u d => ?_) _ s
  split
  · exact .refl _
  · next hd => exact State.mapDie_fences (d := d) (.of_not_out (fun hf => absurd hf hd) rfl)

@[simp] theorem State.settle_fences : KeepsFences s.settle s :=
  keepsFences (by simp [State.settle])

@[simp] theorem State.fenceStart_fences (d : Nat) (c : FenceCause) : KeepsFences (s.fenceStart d c) s :=
  keepsFences (by simp [State.fenceStart])

@[simp] theorem State.latentFence_fences (d row : Nat) : KeepsFences (s.latentFence d row) s :=
  keepsFences (by simp [State.latentFence])

@[simp] theorem State.presenceFail_fences (d : Nat) (p : Presence) (c : FenceCause) :
    KeepsFences (s.presenceFail d p c) s :=
  keepsFences (by simp [State.presenceFail])

/-! #### Machine/PowerOps -/

@[simp] theorem State.diesOff_fences : KeepsFences s.diesOff s :=
  keepsFences (by simp [State.diesOff])

@[simp] theorem State.powerAct_fences (p : PState) : KeepsFences (s.powerAct p) s := by
  refine keepsFences ?_
  unfold State.powerAct
  split <;> simp

@[simp] theorem State.powerBegin_fences (p : PState) : KeepsFences (s.powerBegin p) s :=
  keepsFences (by simp [State.powerBegin])
@[simp] theorem State.powerTo_fences (p : PState) : KeepsFences (s.powerTo p) s :=
  keepsFences (by simp [State.powerTo])
@[simp] theorem State.powerReq_fences (p : PState) : KeepsFences (s.powerReq p) s :=
  keepsFences (by simp [State.powerReq])

@[simp] theorem State.wake_fences : KeepsFences s.wake s :=
  keepsFences (by simp [State.wake])

@[simp] theorem State.powerDone_fences (p : PState) : KeepsFences (s.powerDone p) s := by
  refine keepsFences ?_
  unfold State.powerDone
  split <;> simp

@[simp] theorem State.powerNext_fences : KeepsFences s.powerNext s := by
  refine keepsFences ?_
  unfold State.powerNext
  repeat' split
  all_goals simp

/-! #### Machine/ClockExec, CoherenceExec -/

@[simp] theorem State.thermFatal_fences : KeepsFences s.thermFatal s :=
  keepsFences (by simp [State.thermFatal])

@[simp] theorem State.homeRequest_fences (req line : Nat) (k : HomeReqKind) : KeepsFences (s.homeRequest req line k) s := by
  refine keepsFences ?_
  unfold State.homeRequest
  split <;> simp

@[simp] theorem State.poisonIn_fences (cl line : Nat) (m : CohMsg) : KeepsFences (s.poisonIn cl line m) s :=
  keepsFences (by simp [State.poisonIn])

@[simp] theorem State.accessError_fences (req line : Nat) : KeepsFences (s.accessError req line) s :=
  keepsFences (by simp [State.accessError])

/-! #### Machine/CycleExec -/

@[simp] theorem State.endSnapshot_fences (c : Cycle) : KeepsFences (s.endSnapshot c) s :=
  keepsFences (by simp [State.endSnapshot])
@[simp] theorem State.endEnlarge_fences (c : Cycle) : KeepsFences (s.endEnlarge c) s :=
  keepsFences (by simp [State.endEnlarge])

@[simp] theorem State.endProof_fences (c : Cycle) (i : Image) (a : Armature) (e : Ego) :
    KeepsFences (s.endProof c i a e) s :=
  keepsFences (by simp [State.endProof])

@[simp] theorem State.fix_fences (c : Cycle) (i : Image) (a : Armature) (e : Ego) (p q : Emitted) :
    KeepsFences (s.fix c i a e p q) s :=
  keepsFences (by simp [State.fix, State.committed])

@[simp] theorem State.endFix_fences (c : Cycle) (i : Image) (a : Armature) (e : Ego) : KeepsFences (s.endFix c i a e) s := by
  refine keepsFences ?_
  unfold State.endFix
  split <;> simp

@[simp] theorem State.lockstep_fences (phase : Nat) (hw : HwEvent) : KeepsFences (s.lockstep phase hw) s := by
  refine keepsFences ?_
  unfold State.lockstep
  dsimp only
  split <;> simp

@[simp] theorem State.muFail_fences (sp : SelSpec) (n : Nat) (ls : List HubList) : KeepsFences (s.muFail sp n ls) s :=
  keepsFences (by simp [State.muFail])

@[simp] theorem State.muRun_fences (c : Cycle) (e : SelEntry) (entry pass : Nat) (hw : HwEvent) (ls : List HubList) :
    KeepsFences (s.muRun c e entry pass hw ls) s := by
  refine keepsFences ?_
  unfold State.muRun
  split <;> simp

/-! #### Machine/DuExec, LinkExec -/

@[simp] theorem State.outcome_fences (m : Msg) (flag : Option Nat) : KeepsFences (s.outcome m flag) s := by
  refine keepsFences ?_
  unfold State.outcome
  repeat' split
  all_goals simp

@[simp] theorem State.deliverHub_fences (m : Msg) : KeepsFences (s.deliverHub m) s := by
  refine keepsFences ?_
  unfold State.deliverHub
  repeat' split
  all_goals simp

@[simp] theorem State.deliverDie_fences (d : Nat) (m : Msg) : KeepsFences (s.deliverDie d m) s := by
  refine keepsFences ?_
  unfold State.deliverDie
  dsimp only
  repeat' split
  all_goals simp

@[simp] theorem State.linkLoss_fences (l : Nat) : KeepsFences (s.linkLoss l) s :=
  keepsFences (by simp [State.linkLoss])
@[simp] theorem State.linkRecovery_fences (l : Nat) : KeepsFences (s.linkRecovery l) s :=
  keepsFences (by simp [State.linkRecovery])
@[simp] theorem State.replayFrom_fences (l e : Nat) : KeepsFences (s.replayFrom l e) s :=
  keepsFences (by simp [State.replayFrom])

@[simp] theorem State.flitTaken_fences (l e : Nat) (f : Flit) : KeepsFences (s.flitTaken l e f) s :=
  keepsFences (by simp [State.flitTaken])

/-! #### Register writes -/

@[simp] theorem State.regPut_fences (off v : Nat) : KeepsFences (s.regPut off v) s := by
  refine keepsFences ?_
  unfold State.regPut
  split <;> simp

@[simp] theorem State.regApply_fences (off be v : Nat) : KeepsFences (s.regApply off be v) s := s.regPut_fences _ _

@[simp] theorem State.dwordWrite_fences (off be v : Nat) : KeepsFences (s.dwordWrite off be v) s :=
  keepsFences (by simp [State.dwordWrite])

@[simp] theorem State.busWrite_fences (off dwords be v : Nat) : KeepsFences (s.busWrite off dwords be v) s :=
  keepsFences (by simp [State.busWrite])

@[simp] theorem State.applyHeld_fences : KeepsFences s.applyHeld s :=
  keepsFences (by simp [State.applyHeld])

theorem State.smiPut_fences {s t : State} {addr v : Nat} (ht : s.smiPut addr v = some t) : KeepsFences t s := by
  refine keepsFences ?_
  unfold State.smiPut State.lockSafety at ht
  split at ht
  · rw [State.forceSafe_dies ht]
    exact .refl _
  · obtain ⟨x, -, hx⟩ := Option.map_eq_some_iff.1 ht
    exact hx ▸ .refl _
  · split at ht <;> cases ht
    exact .refl _
  · split at ht <;> cases ht
    simp
  · split at ht <;> cases ht
    simp
  · cases ht

@[simp] theorem State.smiWriteTo_fences (addr v : Nat) : KeepsFences (s.smiWriteTo addr v) s := by
  refine keepsFences ?_
  unfold State.smiWriteTo
  repeat' split
  · exact .refl _
  · simp
  · next ht => simp [State.smiPut_fences ht]
  · simp

/-! #### Machine/RestartOps -/

/-- The outer updates are taken off by name: unfolded together with them, the wiped regions' sizes are numerals that the
kernel would count down in unary. -/
@[simp] theorem State.resetDie_fences (d : Nat) : KeepsFences (s.resetDie d) s := by
  refine keepsFences ?_
  rw [State.resetDie, State.mapDie_pkg, State.mapDu_pkg]
  simp

@[simp] theorem State.restartEnd_fences (u : RUnit) : KeepsFences (s.restartEnd u) s := by
  refine keepsFences ?_
  unfold State.restartEnd
  split <;> simp

/-! #### Machine/SafetyExec -/

@[simp] theorem State.holdQe_fences (cl k len : Nat) : KeepsFences (s.holdQe cl k len) s :=
  keepsFences (by simp [State.holdQe])

@[simp] theorem State.fillFails_fences (cl : Nat) (f : Fault0) : KeepsFences (s.fillFails cl f) s := by
  refine keepsFences ?_
  unfold State.fillFails
  dsimp only
  split <;> simp

@[simp] theorem State.holdLpddr_fences (d k len : Nat) : KeepsFences (s.holdLpddr d k len) s := by
  refine keepsFences ?_
  unfold State.holdLpddr
  dsimp only
  repeat' split
  all_goals simp

@[simp] theorem State.loseMsg_fences (sender : Nat) : KeepsFences (s.loseMsg sender) s := by
  refine keepsFences ?_
  unfold State.loseMsg
  split <;> simp

@[simp] theorem State.loseCoh_fences (x d vc : Nat) (f : FClass → Loc → Fault0) (loc : Loc) :
    KeepsFences (s.loseCoh x d vc f loc) s := by
  refine keepsFences ?_
  unfold State.loseCoh
  dsimp only
  split <;> simp

@[simp] theorem State.holdUtx_fences (inst vc len : Nat) : KeepsFences (s.holdUtx inst vc len) s :=
  keepsFences (by simp [State.holdUtx])

@[simp] theorem State.holdPcie_fences (k len : Nat) : KeepsFences (s.holdPcie k len) s :=
  keepsFences (by simp [State.holdPcie])
@[simp] theorem State.holdLed_fences (k len : Nat) : KeepsFences (s.holdLed k len) s :=
  keepsFences (by simp [State.holdLed])

/-! #### Machine/StartExec -/

@[simp] theorem State.trained_fences (d : Nat) (rec : List Byte) : KeepsFences (s.trained d rec) s :=
  keepsFences (by simp [State.trained])

end

end Sys2Proof.Machine

namespace Sys2Proof
open Sys2Proof.Machine

/-- Wherever the outcome `o` of a command in `s` leads, every fence of `s` is kept. -/
def FencesStay (s : State) (o : Out) : Prop := ∀ t, o = .next t → FencesKept s.pkg.dies t.pkg.dies

@[simp] theorem fencesStay_next {s t : State} : FencesStay s (.next t) ↔ FencesKept s.pkg.dies t.pkg.dies := by
  simp [FencesStay]

@[simp] theorem fencesStay_fault {s : State} {f : Fault} : FencesStay s (.fault f) := by simp [FencesStay]

@[simp] theorem fencesStay_ite {s : State} {c : Prop} [Decidable c] {o p : Out} :
    FencesStay s (if c then o else p) ↔ (c → FencesStay s o) ∧ (¬c → FencesStay s p) := by
  split <;> simp [*]

theorem serve_fences {s : State} {op : Nat} {f : Desc → State → State} (hf : ∀ d u, FencesKept u.pkg.dies (f d u).pkg.dies) :
    FencesStay s (s.serve op f) := by
  unfold State.serve
  split
  · simp
  · next x hx => exact fencesStay_next.2 (State.take_dies hx ▸ hf _ _)

/-! ### Commands of the engines -/

section
variable {s : State} {core op : Nat} {w : BitVec 128} {hw : HwEvent}

@[simp] theorem State.ceRun_fences {body : KeCmd → QCmd → State → State} (hb : ∀ d c u, SameDies (body d c u) u) :
    FencesStay s (s.ceRun core w hw op body) := by
  simp [State.ceRun, State.engineRun_fences, hb]

@[simp] theorem State.keRun_fences {body : KeCmd → QCmd → State → State} (hb : ∀ d c u, SameDies (body d c u) u) :
    FencesStay s (s.keRun core w hw op body) := by
  simp [State.keRun, State.engineRun_fences, hb]

@[simp] theorem State.peRun_fences {body : PeCmd → QCmd → State → State} (hb : ∀ d c u, SameDies (body d c u) u) :
    FencesStay s (s.peRun core w hw op body) := by
  simp [State.peRun, State.engineRun_fences, hb]

@[simp] theorem State.qeRun_fences {body : QeCmd → QCmd → State → State} (hb : ∀ d c u, SameDies (body d c u) u) :
    FencesStay s (s.qeRun core w hw op body) := by
  simp [State.qeRun, State.engineRun_fences, hb]

@[simp] theorem State.seRun_fences {body : SeCmd → Bool → QCmd → State → State}
    (hb : ∀ d r c u, SameDies (body d r c u) u) : FencesStay s (s.seRun core w hw op body) := by
  simp [State.seRun, State.engineRun_fences, hb]

@[simp] theorem State.deRun_fences {body : DeCmd → QCmd → State → State} (hb : ∀ d c u, SameDies (body d c u) u) :
    FencesStay s (s.deRun core w hw op body) := by
  unfold State.deRun
  dsimp only
  split
  · simp
  · exact fencesStay_next.2 (State.engineRun_fences _ _ _ _ _ _ _ _ id (hb _) fun _ _ _ => by rfl).kept

@[simp] theorem State.expandRun_fences {gen : PeCmd → EngEnv → State → Nat → List Sample} :
    FencesStay s (s.expandRun core w hw op gen) := by
  simp [State.expandRun, State.streamRun_fences]

@[simp] theorem State.moverRun_fences {cl : Cluster} {mv : Fin 2} {body : QCmd → MvCmd → State → State}
    (hb : ∀ c m u, SameDies (body c m u) u) : FencesStay s (s.moverRun cl mv w hw op body) := by
  simp [State.moverRun, State.engineRun_fences, hb]

end

/-! ### The rows, in the order of their files -/

/-! #### Machine/CeExec, KeExec, PeExec, QeExec, SeExec -/

section
variable (core : Core) (w : BitVec 128) (hw : HwEvent) (s : State)

@[simp] theorem execCheckStream_fences : FencesStay s (execCheckStream core w hw s) := by
  unfold execCheckStream
  split <;> simp

@[simp] theorem execCheckTraj_fences : FencesStay s (execCheckTraj core w hw s) := by simp [execCheckTraj]
@[simp] theorem execCheckPoses_fences : FencesStay s (execCheckPoses core w hw s) := by simp [execCheckPoses]

@[simp] theorem execCostStream_fences : FencesStay s (execCostStream core w hw s) := by
  simp [execCostStream, State.streamRun_fences]

@[simp] theorem execCostTraj_fences : FencesStay s (execCostTraj core w hw s) := by simp [execCostTraj]
@[simp] theorem execCostFinal_fences : FencesStay s (execCostFinal core w hw s) := by simp [execCostFinal]

@[simp] theorem execExpandLib_fences : FencesStay s (execExpandLib core w hw s) := by simp [execExpandLib]
@[simp] theorem execExpandSeq_fences : FencesStay s (execExpandSeq core w hw s) := by simp [execExpandSeq]
@[simp] theorem execBuildPath_fences : FencesStay s (execBuildPath core w hw s) := by simp [execBuildPath]
@[simp] theorem execRmSearch_fences : FencesStay s (execRmSearch core w hw s) := by simp [execRmSearch]

@[simp] theorem execSolve_fences (late : Option Nat) : FencesStay s (execSolve core w hw late s) := by simp [execSolve]
@[simp] theorem execEmit_fences : FencesStay s (execEmit core w hw s) := by simp [execEmit]
@[simp] theorem execKey_fences : FencesStay s (execKey core w hw s) := by simp [execKey]

@[simp] theorem execSelect_fences : FencesStay s (execSelect core w hw s) := by simp [execSelect]
@[simp] theorem execMerge_fences : FencesStay s (execMerge core w hw s) := by simp [execMerge]

end

/-! #### Machine/SeqOps -/

@[simp] theorem execEngineFlag_fences (c : Core) (s : State) : FencesStay s (execEngineFlag c s) := by
  unfold execEngineFlag
  split <;> simp

/-! #### Machine/DescExec -/

section
variable (s : State)

@[simp] theorem execNop_fences : FencesStay s (execNop s) := serve_fences fun d u => by simp
@[simp] theorem execWorldLayerPatch_fences : FencesStay s (execWorldLayerPatch s) := serve_fences fun d u => by simp
@[simp] theorem execWorldObjects_fences : FencesStay s (execWorldObjects s) := serve_fences fun d u => by simp
@[simp] theorem execWorldStatic_fences : FencesStay s (execWorldStatic s) := serve_fences fun d u => by simp

@[simp] theorem execEgoState_fences : FencesStay s (execEgoState s) := by
  refine serve_fences fun d u => ?_
  repeat' split
  all_goals simp

@[simp] theorem execPlanCycle_fences : FencesStay s (execPlanCycle s) := serve_fences fun d u => by simp
@[simp] theorem execRetouchPlan_fences : FencesStay s (execRetouchPlan s) := serve_fences fun d u => by simp

@[simp] theorem execSuspend_fences : FencesStay s (execSuspend s) := by
  refine serve_fences fun d u => ?_
  split <;> simp

@[simp] theorem execResume_fences : FencesStay s (execResume s) := by
  refine serve_fences fun d u => ?_
  split <;> simp

@[simp] theorem execCancel_fences : FencesStay s (execCancel s) := by
  refine serve_fences fun d u => ?_
  split <;> simp

@[simp] theorem execQueryOp_fences : FencesStay s (execQueryOp s) := by
  refine serve_fences fun d u => ?_
  split <;> simp

end

/-! #### Machine/LongExec -/

section
variable (s : State) (d : Die)

@[simp] theorem execLoadImage_fences : FencesStay s (execLoadImage s) := serve_fences fun d u => by simp

@[simp] theorem execMaintStart_fences : FencesStay s (execMaintStart s) := by
  refine serve_fences fun d u => ?_
  split <;> simp

@[simp] theorem execRoadmapGrow_fences : FencesStay s (execRoadmapGrow s) := serve_fences fun d u => by simp
@[simp] theorem execLedgerRead_fences : FencesStay s (execLedgerRead s) := serve_fences fun d u => by simp

@[simp] theorem execLongopCheckpoint_fences (tag : Word64) (ev : CkEvent) :
    FencesStay s (execLongopCheckpoint tag ev s) := by
  unfold execLongopCheckpoint
  split <;> simp

@[simp] theorem execLongopDequeue_fences : FencesStay s (execLongopDequeue s) := by simp [execLongopDequeue]

@[simp] theorem execSelftestDie_fences : FencesStay s (execSelftestDie d s) := by
  unfold execSelftestDie
  dsimp only
  split <;> simp

@[simp] theorem execRetrainDie_fences : FencesStay s (execRetrainDie d s) := by
  unfold execRetrainDie
  dsimp only
  split <;> simp

@[simp] theorem execRetrainComplete_fences (ok : Bool) : FencesStay s (execRetrainComplete d ok s) := by
  simp [execRetrainComplete]

@[simp] theorem execImageActivation_fences : FencesStay s (execImageActivation s) := by
  unfold execImageActivation
  repeat' split
  all_goals simp

@[simp] theorem execUnloadImage_fences : FencesStay s (execUnloadImage s) := serve_fences fun d u => by simp

@[simp] theorem execPatchParams_fences : FencesStay s (execPatchParams s) := by
  refine serve_fences fun d u => ?_
  repeat' split
  all_goals simp

end

/-! #### Machine/ClockExec -/

section
variable (s : State)

@[simp] theorem execClockFault_fences (clk : Fin 8) (loc : Fin 9) : FencesStay s (execClockFault clk loc s) := by
  unfold execClockFault
  split <;> simp

@[simp] theorem execSupplyExcursion_fences (rail : Fin 24) (belowFloor full : Bool) :
    FencesStay s (execSupplyExcursion rail belowFloor full s) := by
  simp [execSupplyExcursion]

@[simp] theorem execThermalEvaluation_fences (sites : List (Fin 9 × Fin 16 × Int)) :
    FencesStay s (execThermalEvaluation sites s) := by
  unfold execThermalEvaluation
  repeat' split
  all_goals simp

@[simp] theorem execEclkStepChange_fences : FencesStay s (execEclkStepChange s) := by simp [execEclkStepChange]

@[simp] theorem execThermAlertChange_fences (level : Bool) : FencesStay s (execThermAlertChange level s) := by
  simp [execThermAlertChange]

@[simp] theorem execPmbusPollRound_fences (reads : List (Option PmbRead)) : FencesStay s (execPmbusPollRound reads s) := by
  simp [execPmbusPollRound]

end

/-! #### Machine/CoherenceExec -/

section
variable (cl : Cluster) (line off : Nat) (s : State) (bytes : List Byte) (req : Fin 98)

@[simp] theorem execGets_fences : FencesStay s (execGets cl line s) := by simp [execGets]
@[simp] theorem execGetm_fences : FencesStay s (execGetm cl line off bytes s) := by simp [execGetm]
@[simp] theorem execPutm_fences : FencesStay s (execPutm cl line s) := by simp [execPutm]

@[simp] theorem execData_fences : FencesStay s (execData cl line s) := by
  unfold execData
  split <;> simp

@[simp] theorem execInv_fences : FencesStay s (execInv cl line s) := by simp [execInv]
@[simp] theorem execInvAck_fences : FencesStay s (execInvAck cl line s) := by simp [execInvAck]

@[simp] theorem execRecall_fences : FencesStay s (execRecall cl line s) := by
  unfold execRecall
  split <;> simp

@[simp] theorem execWbAck_fences : FencesStay s (execWbAck cl line s) := by simp [execWbAck]
@[simp] theorem execUcRead_fences : FencesStay s (execUcRead req line s) := by simp [execUcRead]
@[simp] theorem execUcWrite_fences : FencesStay s (execUcWrite req line off bytes s) := by simp [execUcWrite]
@[simp] theorem execRespErr_fences : FencesStay s (execRespErr req line s) := by simp [execRespErr]

end

/-! #### Machine/Movers -/

section
variable (cl : Cluster) (mv : Fin 2) (w : BitVec 128) (hw : HwEvent) (s : State)

@[simp] theorem execCopy_fences : FencesStay s (execCopy cl mv w hw s) := by simp [execCopy]
@[simp] theorem execFill_fences : FencesStay s (execFill cl mv w hw s) := by simp [execFill]
@[simp] theorem execAdd32_fences : FencesStay s (execAdd32 cl mv w hw s) := by simp [execAdd32]
@[simp] theorem execAdd64_fences : FencesStay s (execAdd64 cl mv w hw s) := by simp [execAdd64]
@[simp] theorem execSwap32_fences : FencesStay s (execSwap32 cl mv w hw s) := by simp [execSwap32]
@[simp] theorem execSwap64_fences : FencesStay s (execSwap64 cl mv w hw s) := by simp [execSwap64]

end

/-! #### Machine/CycleExec -/

section
variable (s : State) (src : Fin 9)

@[simp] theorem execCycleRelease_fences : FencesStay s (execCycleRelease s) := by
  unfold execCycleRelease
  split <;> simp

@[simp] theorem execPhaseBoundary_fences (lockstep : HwEvent) : FencesStay s (execPhaseBoundary lockstep s) := by
  unfold execPhaseBoundary
  split
  · split
    · simp
    · split
      -- the hub's control path agrees: the phase's own end
      · dsimp only
        split <;> simp
      · dsimp only
        split <;> simp
      -- a lockstep finding
      all_goals simp
  · simp

@[simp] theorem execMuMerge_fences (entry : Fin 8) (pass : Fin 16) (hw : HwEvent) :
    FencesStay s (execMuMerge entry pass hw s) := by
  unfold execMuMerge
  split <;> simp

@[simp] theorem execList_fences (epoch : Nat) (pkt : ListPkt) : FencesStay s (execList src epoch pkt s) := by
  unfold execList
  split <;> simp

@[simp] theorem execBulk_fences (da : Nat) (bytes : List Byte) : FencesStay s (execBulk src da bytes s) := by simp [execBulk]

@[simp] theorem execFaultRec_fences (src : Die) (rec : List Byte) : FencesStay s (execFaultRec src rec s) := by
  unfold execFaultRec
  repeat' split
  all_goals simp

end

/-! #### Machine/DeExec -/

section
variable (cl : Cluster) (w : BitVec 128) (hw : HwEvent) (s : State)

@[simp] theorem execBuildCspace_fences : FencesStay s (execBuildCspace cl w hw s) := by simp [execBuildCspace]
@[simp] theorem execBuildOcc_fences : FencesStay s (execBuildOcc cl w hw s) := by simp [execBuildOcc]
@[simp] theorem execBuildStatic_fences : FencesStay s (execBuildStatic cl w hw s) := by simp [execBuildStatic]

end

/-! #### Machine/SeqExec -/

section
variable (c : Core) (t : ThreadNo) (s : State)

@[simp] theorem execIssue_fences : FencesStay s (execIssue c t s) := by
  unfold execIssue
  split <;> simp

@[simp] theorem execGet_fences : FencesStay s (execGet c t s) := by
  unfold execGet
  split <;> simp

@[simp] theorem execWaitEvent_fences : FencesStay s (execWaitEvent c t s) := by
  unfold execWaitEvent
  split <;> simp

@[simp] theorem execSignal_fences : FencesStay s (execSignal c t s) := by
  unfold execSignal
  dsimp only
  repeat' split
  all_goals simp

@[simp] theorem execTimedWait_fences : FencesStay s (execTimedWait c t s) := by
  unfold execTimedWait
  repeat' split
  all_goals simp

@[simp] theorem execTimedWaitExpiry_fences : FencesStay s (execTimedWaitExpiry c t s) := by
  unfold execTimedWaitExpiry
  repeat' split
  all_goals simp

@[simp] theorem execMsg_fences : FencesStay s (execMsg c t s) := by
  unfold execMsg
  split <;> simp

@[simp] theorem execHalt_fences : FencesStay s (execHalt c t s) := by
  unfold execHalt
  split <;> simp

end

/-! #### Machine/DuExec -/

section
variable (d : Die) (s : State)

@[simp] theorem execDuGrant_fences : FencesStay s (execDuGrant d s) := by
  unfold execDuGrant
  repeat' split
  all_goals simp

@[simp] theorem execMessageDelivery_fences (dst : Fin 9) : FencesStay s (execMessageDelivery dst s) := by
  unfold execMessageDelivery
  split <;> simp

@[simp] theorem execPhaseEpochAdvance_fences : FencesStay s (execPhaseEpochAdvance d s) := by simp [execPhaseEpochAdvance]

@[simp] theorem execBoundSourceFire_fences : FencesStay s (execBoundSourceFire d s) := by
  unfold execBoundSourceFire
  dsimp only
  repeat' split
  all_goals simp

@[simp] theorem execQuiescenceExpiry_fences : FencesStay s (execQuiescenceExpiry d s) := by
  unfold execQuiescenceExpiry
  split <;> simp

end

/-! #### Machine/LinkExec -/

section
variable (link : Fin 16) (end_ : Fin 2) (s : State)

@[simp] theorem execFlitReceived_fences (sent err : BitVec 320) : FencesStay s (execFlitReceived link end_ sent err s) := by
  unfold execFlitReceived
  dsimp only
  repeat' split
  all_goals simp

@[simp] theorem execReplayTimeout_fences : FencesStay s (execReplayTimeout link end_ s) := by simp [execReplayTimeout]

@[simp] theorem execLinkRecoveryDone_fences (ok : Bool) : FencesStay s (execLinkRecoveryDone link ok s) := by
  simp [execLinkRecoveryDone]

end

/-! #### Machine/PatinaExec -/

section
variable (s : State)

@[simp] theorem execPatinaSample_fences (readings : List (Fin 9 × Int)) : FencesStay s (execPatinaSample readings s) := by
  unfold execPatinaSample
  dsimp only
  repeat' split
  all_goals simp

@[simp] theorem execCheckpointTimer_fences (badSlots : Fin 128) : FencesStay s (execCheckpointTimer badSlots s) := by
  unfold execCheckpointTimer
  repeat' split
  all_goals simp

@[simp] theorem execIdentityRefresh_fences : FencesStay s (execIdentityRefresh s) := by simp [execIdentityRefresh]

end

/-! #### Machine/PowerExec -/

section
variable (s : State)

@[simp] theorem execFunctionLevelReset_fences : FencesStay s (execFunctionLevelReset s) := by simp [execFunctionLevelReset]
@[simp] theorem execHotReset_fences : FencesStay s (execHotReset s) := by simp [execHotReset]
@[simp] theorem execLinkDownReset_fences : FencesStay s (execLinkDownReset s) := by simp [execLinkDownReset]
@[simp] theorem execPciePerst_fences : FencesStay s (execPciePerst s) := by simp [execPciePerst]
@[simp] theorem execPciePerstRelease_fences : FencesStay s (execPciePerstRelease s) := by simp [execPciePerstRelease]
@[simp] theorem execD3hotEntry_fences : FencesStay s (execD3hotEntry s) := by simp [execD3hotEntry]
@[simp] theorem execD0Return_fences : FencesStay s (execD0Return s) := by simp [execD0Return]
@[simp] theorem execPwrReqActive_fences : FencesStay s (execPwrReqActive s) := by simp [execPwrReqActive]
@[simp] theorem execPwrReqIdle_fences : FencesStay s (execPwrReqIdle s) := by simp [execPwrReqIdle]
@[simp] theorem execPwrReqStandby_fences : FencesStay s (execPwrReqStandby s) := by simp [execPwrReqStandby]
@[simp] theorem execPwrReqOff_fences : FencesStay s (execPwrReqOff s) := by simp [execPwrReqOff]

@[simp] theorem execPwrStateReached_fences : FencesStay s (execPwrStateReached s) := by
  unfold execPwrStateReached
  split <;> simp

end

/-! #### Machine/RegExec -/

section
variable (s : State) (be : BitVec 4) (v : Word32) (pair : Fin 6)

@[simp] theorem execClrAttn_fences : FencesStay s (execClrAttn s) := by simp [execClrAttn]

@[simp] theorem execArbRankWrite_fences (reg : Fin 6) : FencesStay s (execArbRankWrite reg be v s) := by
  simp [execArbRankWrite]

@[simp] theorem execArbHoldWrite_fences (reg : Fin 5) : FencesStay s (execArbHoldWrite reg be v s) := by
  simp [execArbHoldWrite]

@[simp] theorem execPairLoRead_fences : FencesStay s (execPairLoRead pair s) := by simp [execPairLoRead]
@[simp] theorem execPairHiWrite_fences : FencesStay s (execPairHiWrite pair be v s) := by simp [execPairHiWrite]
@[simp] theorem execLedWinAddrWrite_fences : FencesStay s (execLedWinAddrWrite be v s) := by simp [execLedWinAddrWrite]
@[simp] theorem execLedWinDataRead_fences : FencesStay s (execLedWinDataRead s) := by simp [execLedWinDataRead]

@[simp] theorem execRegisterWrite_fences (off : BitVec 16) (dwords : Nat) (be : BitVec 8) (v : Word64) :
    FencesStay s (execRegisterWrite off dwords be v s) := by
  simp [execRegisterWrite]

end

/-! #### Machine/RestartExec -/

section
variable (s : State)

@[simp] theorem execClusterRestart_fences (cl : Cluster) : FencesStay s (execClusterRestart cl s) := by
  simp [execClusterRestart]

@[simp] theorem execDieWarmRestart_fences (d : Die) : FencesStay s (execDieWarmRestart d s) := by simp [execDieWarmRestart]

@[simp] theorem execHubCoreRestart_fences (held digest : Bool) (lost : List (Fin 16)) :
    FencesStay s (execHubCoreRestart held digest lost s) := by
  simp [execHubCoreRestart]

@[simp] theorem execRestartComplete_fences (u : RUnit) : FencesStay s (execRestartComplete u s) := by
  simp [execRestartComplete]

end

/-! #### Machine/RingExec -/

section
variable (host : HostView) (s : State)

@[simp] theorem execAttentionPoll_fences : FencesStay s (execAttentionPoll host s) := by
  unfold execAttentionPoll
  dsimp only
  repeat' split
  all_goals simp

@[simp] theorem execDescriptorFetch_fences : FencesStay s (execDescriptorFetch s) := by
  unfold execDescriptorFetch
  repeat' split
  all_goals simp

@[simp] theorem execCompletionWrite_fences : FencesStay s (execCompletionWrite s) := by
  unfold execCompletionWrite
  repeat' split
  all_goals simp

@[simp] theorem execCoalescingTimer_fences (ring : Fin 16384) : FencesStay s (execCoalescingTimer ring s) := by
  unfold execCoalescingTimer
  split <;> simp

@[simp] theorem execMsixVectorUnmask_fences (v : Fin 2048) : FencesStay s (execMsixVectorUnmask v s) := by
  simp [execMsixVectorUnmask]

@[simp] theorem execRingTblLoad_fences : FencesStay s (execRingTblLoad host s) := by simp [execRingTblLoad]

end

/-! #### Machine/SafetyExec -/

section
variable (s : State)

@[simp] theorem execFaultInAssert_fences : FencesStay s (execFaultInAssert s) := by simp [execFaultInAssert]
@[simp] theorem execFaultInDeassert_fences : FencesStay s (execFaultInDeassert s) := by simp [execFaultInDeassert]
@[simp] theorem execStaleTimerExpiry_fences : FencesStay s (execStaleTimerExpiry s) := by simp [execStaleTimerExpiry]

@[simp] theorem execMergeWindowEnd_fences : FencesStay s (execMergeWindowEnd s) := by
  unfold execMergeWindowEnd
  split <;> simp

@[simp] theorem execPhaseWatchdogExpiry_fences (late : List Die) (hubLate : Bool) :
    FencesStay s (execPhaseWatchdogExpiry late hubLate s) := by
  unfold execPhaseWatchdogExpiry
  split <;> simp

@[simp] theorem execHoldLimitExpiry_fences (cls : ArbClass) (inst : Fin 32) (owner : Fin 16) (len : Nat) :
    FencesStay s (execHoldLimitExpiry cls inst owner len s) := by
  unfold execHoldLimitExpiry
  split <;> simp

end

/-! #### Machine/SmiExec -/

section
variable (s : State) (addr : BitVec 16)

@[simp] theorem execSmiNop_fences : FencesStay s (execSmiNop s) := by simp [execSmiNop]

@[simp] theorem execSmiRead_fences : FencesStay s (execSmiRead addr s) := by
  unfold execSmiRead
  repeat' split
  all_goals simp

@[simp] theorem execSmiWrite_fences (v : Word32) : FencesStay s (execSmiWrite addr v s) := by simp [execSmiWrite]
@[simp] theorem execCmdForceSafeSet_fences : FencesStay s (execCmdForceSafeSet s) := by simp [execCmdForceSafeSet]

@[simp] theorem execCmdForceSafeRelease_fences : FencesStay s (execCmdForceSafeRelease s) := by
  simp [execCmdForceSafeRelease]

@[simp] theorem execCmdAck_fences (rseq : Word32) : FencesStay s (execCmdAck rseq s) := by simp [execCmdAck]
@[simp] theorem execCmdLock_fences : FencesStay s (execCmdLock s) := by simp [execCmdLock]

@[simp] theorem execSmiBadFrame_fences (why : BadFrame) : FencesStay s (execSmiBadFrame why addr s) := by
  simp [execSmiBadFrame]

end

/-! #### Machine/StartExec -/

section
variable (s : State) (d : Die) (rec : List Byte)

@[simp] theorem execStartup_fences (blockA blockB : List Byte) (fwA fwB sris hubBist : Bool) (hubInj : Nat) :
    FencesStay s (execStartup blockA blockB fwA fwB sris hubBist hubInj s) := by
  unfold execStartup
  repeat' split
  all_goals simp

@[simp] theorem execAonPowerUp_fences : FencesStay s (execAonPowerUp s) := by simp [execAonPowerUp]

/-- A die is enabled only while it is not fenced (R399). -/
@[simp] theorem execPdPwrEn_fences : FencesStay s (execPdPwrEn d s) := by
  unfold execPdPwrEn
  dsimp only
  split
  · simp
  · next hturn =>
    have hfree : ¬ (s.die d).fenced.isSome = true := fun hf => hturn (.inr (.inr (.inr hf)))
    split
    · simp
    · refine fencesStay_next.2 ?_
      split <;> exact State.mapDie_fences (s := s) (.of_not_out (fun hf => absurd hf hfree) rfl)

/-- A reset is released only on a die that is enabled, and no fenced die that is out is enabled (R399, R407). -/
@[simp] theorem execPdRailCheck_fences (good : Bool) : FencesStay s (execPdRailCheck d good s) := by
  unfold execPdRailCheck
  dsimp only
  split
  · simp
  · next hgo =>
    have hon : (s.die d).enable = true := by simpa using fun he => hgo (.inr (.inl he))
    split
    · refine fencesStay_next.2 (State.mapDie_fences (d := d) (.of_not_out (fun hf hout => ?_) rfl))
      obtain ⟨-, -, hoff, -⟩ := hout hf
      cases hon.symm.trans hoff
    · simp

@[simp] theorem execPresence_fences (link : Die) : FencesStay s (execPresence link rec s) := by
  unfold execPresence
  dsimp only
  repeat' split
  all_goals simp

@[simp] theorem execAnnounceDeadline_fences : FencesStay s (execAnnounceDeadline d s) := by simp [execAnnounceDeadline]
@[simp] theorem execTrainingReport_fences : FencesStay s (execTrainingReport d rec s) := by simp [execTrainingReport]

@[simp] theorem execRingProbeRetry_fences (report : Option (List Byte)) : FencesStay s (execRingProbeRetry d report s) := by
  unfold execRingProbeRetry
  split <;> simp

@[simp] theorem execTrainingDeadline_fences : FencesStay s (execTrainingDeadline d s) := by simp [execTrainingDeadline]
@[simp] theorem execDieFence_fences (cause : FenceCause) : FencesStay s (execDieFence d cause s) := by simp [execDieFence]

@[simp] theorem execFenceRailCheck_fences (fell : Bool) : FencesStay s (execFenceRailCheck d fell s) := by
  simp [execFenceRailCheck]

@[simp] theorem execFence_fences : FencesStay s (execFence s) := serve_fences fun d u => by simp

end

/-! #### Machine/TimeExec -/

section
variable (s : State)

@[simp] theorem execSetTime_fences : FencesStay s (execSetTime s) := serve_fences fun d u => by simp

@[simp] theorem execTimeStep_fences : FencesStay s (execTimeStep s) := by
  unfold execTimeStep
  split <;> simp

@[simp] theorem execTimeSlewStep_fences : FencesStay s (execTimeSlewStep s) := by simp [execTimeSlewStep]
@[simp] theorem execSyncEdge_fences (lag : Fin 4096) : FencesStay s (execSyncEdge lag s) := by simp [execSyncEdge]
@[simp] theorem execSyncStuck_fences : FencesStay s (execSyncStuck s) := by simp [execSyncStuck]
@[simp] theorem execSyncStuckEnd_fences : FencesStay s (execSyncStuckEnd s) := by simp [execSyncStuckEnd]

end

/-! ### All commands -/

/-- Every command but a power-on reset keeps every fence. -/
theorem exec_fences (c : Instr) (s : State) (h : c.powersOn = false) : FencesStay s (exec c s) := by
  cases c
  case powerOnReset | pwrgdInFall | aonPowerLoss => cases h
  all_goals simp [exec]

/-! ### Fenced dies stay out -/

/-- A power-on reset leaves no die fenced (R530). -/
theorem exec_powersOn_out {c : Instr} {s t : State} (h : c.powersOn = true) (ht : exec c s = .next t) : FencedOut t := by
  have hreset : t.pkg = Package.reset := by
    cases c
    case powerOnReset | pwrgdInFall | aonPowerLoss =>
      cases ht
      rfl
    all_goals cases h
  intro x hx hfenced
  rw [hreset] at hx
  cases List.eq_of_mem_replicate hx
  cases hfenced

/-- Settles O8: no operation clears a fence, and what a command may give a die (`DieSt.Follows`), health, service, rail or reset
release, it gives a fenced die only where that die was not out. -/
theorem fencedDiesStayOut : Obligations.FencedDiesStayOut := by
  intro c s t _ hout ht
  cases hc : c.powersOn with
  | true => exact ⟨exec_powersOn_out hc ht, nofun⟩
  | false =>
    have hkept := exec_fences c s hc t ht
    exact ⟨hkept.out hout, fun _ d x hx => (hkept.entry d).fence x hx⟩

end Sys2Proof

/-! ## Dies on their way up: fences, reports and the decision of R404 (R398 to R406) -/

namespace Sys2Proof.Machine
open Sys2Proof

/-! ### A fenced die and what is left of it -/

/-- A die that a cause has fenced, and that is out (R407). -/
structure DieSt.FencedBy (c : FenceCause) (x : DieSt) : Prop where
  cause : x.fenced = some c
  healthy : x.healthy = false
  service : x.inService = false
  enable : x.enable = false
  running : x.running = false

theorem DieSt.fencedBy_fence (c : FenceCause) (x : DieSt) : (x.fence c).FencedBy c := ⟨rfl, rfl, rfl, rfl, rfl⟩

/-- What follows a fenced die is fenced with the same cause. -/
theorem DieSt.FencedBy.follows {c : FenceCause} {x y : DieSt} (hx : x.FencedBy c) (h : x.Follows y) : y.FencedBy c := by
  have hcause := h.fence c hx.cause
  obtain ⟨hhealthy, hservice, henable, hrunning⟩ :=
    h.out (fun _ => ⟨hx.healthy, hx.service, hx.enable, hx.running⟩) (by simp [hcause])
  exact ⟨hcause, hhealthy, hservice, henable, hrunning⟩

section
variable {s t : State} {d : Nat} {c : FenceCause}

theorem FencesKept.fencedBy (h : FencesKept s.pkg.dies t.pkg.dies) (hs : (s.die d).FencedBy c) : (t.die d).FencedBy c :=
  hs.follows (h.entry d)

/-- A die that is not fenced yet is fenced with the given cause. -/
theorem State.fenceDie_fencedBy (hlen : d < s.pkg.dies.length) (h : (s.die d).fenced = none) (st : Status) :
    ((s.fenceDie d c st).die d).FencedBy c := by
  have hdie : (s.fenceDie d c st).die d = (s.die d).fence c := by
    rw [State.die, State.fenceDie_dies h]
    exact nth_modAt_same _ _ _ _ hlen
  exact hdie ▸ (s.die d).fencedBy_fence c

theorem State.fenceStart_fencedBy (hlen : d < s.pkg.dies.length) (h : (s.die d).fenced = none) :
    ((s.fenceStart d c).die d).FencedBy c :=
  (State.settle_fences _).kept.fencedBy (State.fenceDie_fencedBy hlen h _)

theorem State.presenceFail_fencedBy (hlen : d < s.pkg.dies.length) (h : (s.die d).fenced = none) (p : Presence) :
    ((s.presenceFail d p c).die d).FencedBy c := by
  unfold State.presenceFail
  split
  · next hc =>
    subst hc
    exact State.fenceDie_fencedBy (by simpa using hlen) (by simpa [State.die] using h) _
  · exact State.fenceDie_fencedBy hlen h _

/-- R404 waits for every die's report. -/
theorem State.settle_of_owes (hlen : d < s.pkg.dies.length) (h : (s.die d).owes = true) : s.settle = s := by
  have hany : s.pkg.dies.any DieSt.owes = true :=
    List.any_eq_true.2 ⟨_, List.getElem_mem hlen, by simpa [State.die, nth, hlen] using h⟩
  exact if_pos (.inr hany)

theorem State.settle_of_started (h : s.boot.st ≠ .starting) : s.settle = s := if_pos (.inl h)

end

/-! ### Power (R399) -/

section
variable {s : State} {d : Die}

/-- The die's turn in R399's order: every die before it is enabled or fenced. -/
theorem State.turn_iff : (List.range d.val).all (fun k => (s.die k).enable || (s.die k).fenced.isSome) = true
    ↔ ∀ k, k < d.val → (s.die k).enable = true ∨ (s.die k).fenced.isSome = true := by
  simp

section
variable (hup : s.diesUp = true) (hnone : (s.die d).fenced = none)
  (hturn : ∀ k, k < d.val → (s.die k).enable = true ∨ (s.die k).fenced.isSome = true) (hoff : (s.die d).enable = false)
include hup hnone hturn hoff

theorem execPdPwrEn_enables (hfuse : bitAt s.boot.fuseMask d = true) : exec (.pdPwrEn d) s
    = .next ({ s with boot := { s.boot with tr := some (s.boot.tr.getD s.time.now) } }.mapDie d (fun x => { x with enable := true })) := by
  have hboot : (if s.boot.tr.isNone then { s with boot := { s.boot with tr := some s.time.now } } else s)
      = { s with boot := { s.boot with tr := some (s.boot.tr.getD s.time.now) } } := by
    cases htr : s.boot.tr with
    | none => rfl
    | some v => exact congrArg (fun tr => { s with boot := { s.boot with tr := tr } }) htr
  show execPdPwrEn d s = _
  simp only [execPdPwrEn, State.turn_iff.2 hturn, hup, hoff, hnone, hfuse, hboot]
  rfl

theorem execPdPwrEn_fuse (hfuse : bitAt s.boot.fuseMask d = false) :
    exec (.pdPwrEn d) s = .next (s.fenceStart d .fused) := by
  show execPdPwrEn d s = _
  simp only [execPdPwrEn, State.turn_iff.2 hturn, hup, hoff, hnone, hfuse]
  rfl

end

section
variable (hup : s.diesUp = true) (hon : (s.die d).enable = true) (hrun : (s.die d).running = false)
include hup hon hrun

theorem execPdRailCheck_good : exec (.pdRailCheck d true) s
    = .next ((s.mapDie d (fun x => { x with running := true })).dieServe d .testing) := by
  show execPdRailCheck d true s = _
  simp [execPdRailCheck, hup, hon, hrun]

theorem execPdRailCheck_bad : exec (.pdRailCheck d false) s = .next (s.fenceStart d .rail) := by
  show execPdRailCheck d false s = _
  simp [execPdRailCheck, hup, hon, hrun]

end

end

end Sys2Proof.Machine

namespace Sys2Proof
open Sys2Proof.Machine

/-- Settles O15: each command's equation; a fence made on the way up is kept by R404's decision, which may follow it. -/
theorem diesPowerUpInOrder : Obligations.DiesPowerUpInOrder := by
  intro d s hsized hup hnone
  have hdie : d.val < s.pkg.dies.length := lt_of_lt_of_eq d.isLt hsized.dies.symm
  have hunit : d.val < s.du.length := lt_of_lt_of_eq d.isLt hsized.units.symm
  refine ⟨fun hturn hoff => ?_, fun hon hrun => ⟨?_, ?_⟩⟩
  · cases hfuse : bitAt s.boot.fuseMask d with
    | true =>
      exact ⟨_, execPdPwrEn_enables hup hnone hturn hoff hfuse,
        fun _ => ⟨State.die_mapDie_same _ _ _ hdie, fun k hk => State.die_mapDie_other _ _ _ _ hk, rfl, rfl⟩, nofun⟩
    | false =>
      have hfenced := State.fenceStart_fencedBy (c := .fused) hdie hnone
      exact ⟨_, execPdPwrEn_fuse hup hnone hturn hoff hfuse, nofun, fun _ => ⟨hfenced.cause, hfenced.enable⟩⟩
  · exact ⟨_, execPdRailCheck_good hup hon hrun, State.die_mapDie_same _ _ _ hdie, fun k hk => State.die_mapDie_other _ _ _ _ hk,
      State.duOf_mapDu_same _ _ _ hunit, fun k hk => State.duOf_mapDu_other _ _ _ _ hk, rfl⟩
  · have hfenced := State.fenceStart_fencedBy (c := .rail) hdie hnone
    exact ⟨_, execPdRailCheck_bad hup hon hrun, hfenced.cause, hfenced.enable⟩

end Sys2Proof

/-! ### Presence records and training reports (R400, R402, R403) -/

namespace Sys2Proof.Machine
open Sys2Proof

section
variable {s : State} {d : Die} {rec : List Byte}

/-- A presence record taken: the die has announced itself, and its serial is recorded (R402). -/
def State.present (s : State) (d serial : Nat) : State :=
  s.mapDie d (fun x => { x with presence := true, serial := some serial })

/-- A training report kept, in place of an earlier one (R400). -/
def State.reported (s : State) (d : Nat) (rec : List Byte) : State :=
  s.mapDie d (fun x => { x with report := some (TrainReport.ofBytes rec) })

section
variable (hlen : rec.length = 64) (hnone : (s.die d).fenced = none) (hrun : (s.die d).running = true)
  (hnew : (s.die d).presence = false)
include hlen hnone hrun hnew

theorem execPresence_passes (htest : (s.die d).out ≠ .test) (hup : s.diesUp = true)
    (hpass : s.presenceCause d (Presence.ofBytes rec) = none) :
    exec (.presence d rec) s = .next ((s.present d (Presence.ofBytes rec).serial).dieServe d .starting) := by
  have hup' : (s.present d (Presence.ofBytes rec).serial).diesUp = true := hup
  show execPresence d rec s = _
  simp only [execPresence, hlen, hnone, hrun, hnew, hpass, htest, Option.isSome_none, Bool.not_true, Bool.false_eq_true, or_self,
    ne_eq, not_true, if_false]
  exact if_pos hup'

theorem execPresence_fails {c : FenceCause} (hfail : s.presenceCause d (Presence.ofBytes rec) = some c) :
    exec (.presence d rec) s = .next (s.presenceFail d (Presence.ofBytes rec) c).settle := by
  show execPresence d rec s = _
  simp [execPresence, hlen, hnone, hrun, hnew, hfail]

end

section
variable (hup : s.diesUp = true) (hnone : (s.die d).fenced = none) (hpresent : (s.die d).presence = true)
include hup hnone hpresent

/-- A report of an announced die is kept, and R404 decides if it was the last. -/
theorem State.trained_of_present : s.trained d rec = (s.reported d rec).settle :=
  if_pos ⟨hup, hpresent, by simp [hnone]⟩

theorem execTrainingReport_keeps (hlen : rec.length = 64) :
    exec (.trainingReport d rec) s = .next (s.reported d rec).settle := by
  show execTrainingReport d rec s = _
  simp [execTrainingReport, hlen, State.trained_of_present hup hnone hpresent]

theorem execRingProbeRetry_keeps (hlen : rec.length = 64) (hreport : (s.die d).report.isSome = true) :
    exec (.ringProbeRetry d (some rec)) s = .next (s.reported d rec).settle := by
  have hold : (s.die d).report.isNone = false := by simpa [Option.isSome_iff_ne_none] using hreport
  show execRingProbeRetry d (some rec) s = _
  simp [execRingProbeRetry, hlen, hold, State.trained_of_present hup hnone hpresent]

end

end

end Sys2Proof.Machine

namespace Sys2Proof
open Sys2Proof.Machine

/-- Settles O16: a report that is not the last leaves the decision of R404 open, and a fence stays whatever is decided. -/
theorem diesReport : Obligations.DiesReport := by
  rintro d rec s hsized hup hlen hnone ⟨k, hk, hkd, howes⟩
  have hdie : d.val < s.pkg.dies.length := lt_of_lt_of_eq d.isLt hsized.dies.symm
  have hunit : d.val < s.du.length := lt_of_lt_of_eq d.isLt hsized.units.symm
  refine ⟨fun hrun hnew htest => ?_, fun hpresent c hc => ?_⟩
  · cases hcause : s.presenceCause d (Presence.ofBytes rec) with
    | none =>
      exact ⟨_, execPresence_passes hlen hnone hrun hnew htest hup hcause,
        fun _ => ⟨State.die_mapDie_same _ _ _ hdie, State.duOf_mapDu_same _ _ _ hunit, rfl⟩, nofun⟩
    | some cause =>
      have hfenced := State.presenceFail_fencedBy hdie hnone (Presence.ofBytes rec) (c := cause)
      refine ⟨_, execPresence_fails hlen hnone hrun hnew hcause, nofun, ?_⟩
      rintro _ ⟨⟩
      exact ((State.settle_fences _).kept.fencedBy hfenced).cause
  · have hwaits : (s.reported d rec).settle = s.reported d rec :=
      State.settle_of_owes (d := k) (by simpa [State.reported, hsized.dies] using hk)
        ((congrArg DieSt.owes (State.die_mapDie_other _ _ _ _ hkd)).trans howes)
    have hnext : exec c s = .next (s.reported d rec) := by
      rcases hc with rfl | ⟨hreport, rfl⟩
      · exact hwaits ▸ execTrainingReport_keeps hup hnone hpresent hlen
      · exact hwaits ▸ execRingProbeRetry_keeps hup hnone hpresent hlen hreport
    exact ⟨_, hnext, State.die_mapDie_same _ _ _ hdie, fun k hk => State.die_mapDie_other _ _ _ _ hk, rfl⟩

end Sys2Proof

/-! ### What a fence and the decision of R404 leave as it was -/

namespace Sys2Proof.Machine
open Sys2Proof

/-- Neither the registers nor the package safety manager's interface differ, nor time but for its steps, and no cycle has
begun. -/
structure Undisturbed (s t : State) : Prop where
  regs : t.regs = s.regs
  smi : t.smi = s.smi
  time : { t.time with steps := [] } = { s.time with steps := [] }
  idle : s.cyc.cur = none → t.cyc.cur = none

theorem Undisturbed.refl (s : State) : Undisturbed s s := ⟨rfl, rfl, rfl, id⟩

theorem Undisturbed.trans {s t u : State} (h : Undisturbed s t) (g : Undisturbed t u) : Undisturbed s u :=
  ⟨g.regs.trans h.regs, g.smi.trans h.smi, g.time.trans h.time, fun hs => g.idle (h.idle hs)⟩

theorem Undisturbed.foldl {α : Type} {g : State → α → State} (hg : ∀ u x, Undisturbed u (g u x)) (xs : List α) (s : State) :
    Undisturbed s (xs.foldl g s) :=
  List.foldlRecOn (motive := Undisturbed s) xs g (.refl s) fun u hu x _ => hu.trans (hg u x)

section
variable {s : State} {d : Nat} {c : FenceCause}

theorem State.endVerify_cur (s : State) : s.endVerify.cyc.cur = s.cyc.cur := by
  unfold State.endVerify
  dsimp only
  split <;> rfl

theorem State.withOps_cur (s : State) (r : OpsOut) : (s.withOps r).cyc.cur = s.cyc.cur :=
  (congrArg (fun v : Steady => v.cyc.cur) (s.withOps_steady r) :)

/-- A fence ends the cycle in progress (R407). -/
theorem State.fenceDie_cur (h : (s.die d).fenced = none) (st : Status) : (s.fenceDie d c st).cyc.cur = none := by
  have hcond : ¬ (s.die d).fenced.isSome = true := by simp [h]
  simp [State.fenceDie, if_neg hcond, State.endVerify_cur, State.withOps_cur, State.abandon_cur]

theorem State.fenceDie_undisturbed (s : State) (d : Nat) (c : FenceCause) (st : Status) : Undisturbed s (s.fenceDie d c st) := by
  refine ⟨by simp, by simp, by simp, fun hcur => ?_⟩
  cases hd : (s.die d).fenced with
  | some _ => rw [State.fenceDie_of_fenced (by simp [hd]), hcur]
  | none => exact State.fenceDie_cur hd st

/-! ### A fatal start (R405) -/

theorem State.fatalEnds_cur (s : State) : s.fatalEnds.cyc.cur = s.cyc.cur := by
  unfold State.fatalEnds
  dsimp only
  rw [State.completes_frame, State.completes_frame]

theorem State.fatalOff_time (s : State) : s.fatalOff.time = { s.time with steps := [] } := by
  unfold State.fatalOff
  dsimp only
  split <;> rfl

/-- A fatal fault stops planning for good (R479, R480). -/
theorem State.fatal_saf (s : State) (alive : Bool) : (s.fatal alive).saf.fatal = true := by
  have hends (u : State) (r : OpsOut) : (u.withOps r).saf.fatal = u.saf.fatal := (congrArg Safety.fatal (u.withOps_settled r) :)
  have habandon (u : State) : (u.abandon .fatal).saf.fatal = u.saf.fatal := (congrArg Safety.fatal (u.abandon_settled .fatal) :)
  simp [State.fatal, hends, habandon]

theorem State.fatal_undisturbed (s : State) (alive : Bool) : Undisturbed s (s.fatal alive) := by
  refine ⟨by simp, by simp, ?_, fun _ => ?_⟩
  · simp [State.fatal, State.fatalOff_time]
  · simp [State.fatal, State.fatalEnds_cur, State.withOps_cur, State.abandon_cur]

theorem State.record_undisturbed (s : State) (f : Fault0) : Undisturbed s (s.record f) := ⟨by simp, by simp, by simp, by simp⟩

section
variable {f : Fault0} (h : f.cls = .fatal)
include h

theorem State.fault_fatal : s.fault f = (s.record f).fatal (!f.killsRing) := by rw [State.fault, h]

theorem State.fatalStart_saf : (s.fatalStart f).saf.fatal = true := by
  rw [State.fatalStart, State.fault_fatal h]
  exact State.fatal_saf _ _

theorem State.fatalStart_undisturbed : Undisturbed s (s.fatalStart f) := by
  rw [State.fatalStart, State.fault_fatal h]
  have hboot : Undisturbed s { s with boot := { s.boot with st := .fatal } } := ⟨rfl, rfl, rfl, id⟩
  exact hboot.trans ((State.record_undisturbed _ f).trans (State.fatal_undisturbed _ _))

end

/-! ### The turns of R404 -/

/-- The decision of R404 with every die's report (R404). -/
def State.decided (s : State) : State := s.checkReports.decideCapacity.decideLinks.enterService

theorem State.settle_of_reported (hst : s.boot.st = .starting) (h : s.pkg.dies.any DieSt.owes = false) :
    s.settle = if s.decided.healthy.length < 2 then s.decided.fatalStart (bootFault 3) else s.decided.ready :=
  if_neg (by simp [hst, h])

theorem State.checkReports_undisturbed (s : State) : Undisturbed s s.checkReports :=
  .foldl (fun u x => by split; exacts [u.fenceDie_undisturbed _ _ _, .refl u]) _ _

theorem State.decideCapacity_undisturbed (s : State) : Undisturbed s s.decideCapacity :=
  .trans (t := s.reports.foldl _ s)
    (.foldl (fun u x => by split; exacts [.refl u, u.fenceDie_undisturbed _ _ _]) _ _) ⟨rfl, rfl, rfl, id⟩

theorem State.decideLinks_undisturbed (s : State) : Undisturbed s s.decideLinks := ⟨rfl, rfl, rfl, id⟩

theorem State.enterService_undisturbed (s : State) : Undisturbed s s.enterService :=
  .foldl (fun u d => by split; exacts [.refl u, ⟨rfl, rfl, rfl, id⟩]) _ _

theorem State.ready_undisturbed (s : State) : Undisturbed s s.ready := ⟨rfl, rfl, rfl, id⟩

theorem State.decided_undisturbed (s : State) : Undisturbed s s.decided :=
  s.checkReports_undisturbed.trans <| (State.decideCapacity_undisturbed _).trans <|
    (State.decideLinks_undisturbed _).trans <| State.enterService_undisturbed _

theorem State.settle_undisturbed (s : State) : Undisturbed s s.settle := by
  by_cases h : s.boot.st ≠ .starting ∨ s.pkg.dies.any DieSt.owes = true
  · rw [State.settle, if_pos h]
    exact .refl s
  · obtain ⟨hst, howes⟩ := not_or.1 h
    rw [State.settle_of_reported (not_not.1 hst) (Bool.eq_false_iff.2 howes)]
    split
    · exact s.decided_undisturbed.trans (State.fatalStart_undisturbed rfl)
    · exact s.decided_undisturbed.trans (State.ready_undisturbed _)

end

end Sys2Proof.Machine

/-! ### Who serves after the decision of R404 -/

namespace Sys2Proof.Machine
open Sys2Proof

section
variable (s : State)

@[simp] theorem State.decideCapacity_lpcap : s.decideCapacity.boot.lpcap.isSome = true := rfl

@[simp] theorem State.decideLinks_boot : s.decideLinks.boot = s.boot := rfl

/-- The turn of a die that enters service (R345, R404). -/
def State.enter (s : State) (d : Nat) : State :=
  if (s.die d).fenced.isSome then s
  else (s.mapDie d (fun x => { x with healthy := true, inService := true, out := .service, allTiles := true })).dieServe d
    .serving

@[simp] theorem State.enterService_boot : s.enterService.boot = s.boot :=
  foldl_same State.boot (fun u d => by split <;> rfl) _ _

@[simp] theorem State.enter_sizes (d : Nat) : SameSizes (s.enter d) s := by
  unfold State.enter
  split <;> simp

/-- A die is fenced, or it serves (R404). -/
def State.Entered (s : State) (d : Nat) : Prop :=
  (s.die d).fenced.isSome = true ∨ (s.die d).healthy = true ∧ (s.die d).inService = true ∧ (s.duOf d).serve = .serving

end

section
variable {s : State}

theorem State.enter_of_fenced {d : Nat} (h : (s.die d).fenced.isSome = true) : s.enter d = s := if_pos h

theorem State.entered_enter (hs : Sized s) {d : Nat} (hd : d < 8) : (s.enter d).Entered d := by
  by_cases h : (s.die d).fenced.isSome = true
  · exact .inl (by rw [State.enter_of_fenced h, h])
  · have hdie (f : DieSt → DieSt) := State.die_mapDie_same s d f (lt_of_lt_of_eq hd hs.dies.symm)
    have hunit (f : DieSt → DieSt) (g : DuState → DuState) :=
      State.duOf_mapDu_same (s.mapDie d f) d g (lt_of_lt_of_eq hd hs.units.symm)
    rw [State.enter, if_neg h]
    exact .inr ⟨congrArg DieSt.healthy (hdie _), congrArg DieSt.inService (hdie _), congrArg DuState.serve (hunit _ _)⟩

/-- Another die's turn changes nothing of a die. -/
theorem State.Entered.enter {d : Nat} (h : s.Entered d) (hs : Sized s) (hd : d < 8) (k : Nat) : (s.enter k).Entered d := by
  by_cases hk : d = k
  · exact hk ▸ State.entered_enter hs hd
  · unfold State.enter
    split
    · exact h
    · have hdie f g : ((s.mapDie k f).mapDu k g).die d = s.die d := State.die_mapDie_other s k d f hk
      have hunit f g : ((s.mapDie k f).mapDu k g).duOf d = s.duOf d := State.duOf_mapDu_other (s.mapDie k f) k d g hk
      simpa only [State.Entered, State.dieServe, hdie, hunit] using h

theorem State.Entered.foldl {d : Nat} (hd : d < 8) (xs : List Nat) :
    ∀ {s : State}, s.Entered d → Sized s → (xs.foldl State.enter s).Entered d := by
  induction xs with
  | nil => exact fun h _ => h
  | cons k xs ih => exact fun h hs => ih (h.enter hs hd k) (hs.of_sizes (State.enter_sizes _ k))

/-- Every die of the package has had its turn. -/
theorem State.enterService_entered (hs : Sized s) {d : Nat} (hd : d < 8) : s.enterService.Entered d := by
  have turns (xs : List Nat) : ∀ {s : State}, Sized s → d ∈ xs → (xs.foldl State.enter s).Entered d := by
    induction xs with
    | nil => exact fun _ h => absurd h List.not_mem_nil
    | cons k xs ih =>
      intro s hs hmem
      have hs' : Sized (s.enter k) := hs.of_sizes (State.enter_sizes _ k)
      rcases List.mem_cons.1 hmem with rfl | hmem
      · exact State.Entered.foldl hd xs (State.entered_enter hs hd) hs'
      · exact ih hs' hmem
  exact turns _ hs (List.mem_range.2 hd)

/-! ### The last report -/

theorem State.reported_owes_none (hs : Sized s) {d : Nat} (rec : List Byte)
    (h : ∀ k, k < 8 → k ≠ d → (s.die k).owes = false) : (s.reported d rec).pkg.dies.any DieSt.owes = false := by
  refine List.any_eq_false.2 fun x hx => ?_
  obtain ⟨k, hk, rfl⟩ := List.mem_iff_getElem.1 hx
  have hlen : k < s.pkg.dies.length := by simpa [State.reported] using hk
  have hdie : (s.reported d rec).pkg.dies[k] = (s.reported d rec).die k := by simp [State.die, nth, hk]
  rw [hdie]
  by_cases hkd : k = d
  · subst hkd
    rw [State.reported, State.die_mapDie_same _ _ _ hlen]
    simp [DieSt.owes]
  · rw [State.reported, State.die_mapDie_other _ _ _ _ hkd, h k (hs.dies ▸ hlen) hkd]
    nofun

theorem State.decided_fences : FencesKept s.pkg.dies s.decided.pkg.dies := by simp [State.decided]

theorem State.decided_lpcap : s.decided.boot.lpcap.isSome = true := by
  simp only [State.decided, State.enterService_boot, State.decideLinks_boot, State.decideCapacity_lpcap]

theorem State.die_out {d : Nat} (h : FencedOut s) : (s.die d).Out := by
  by_cases hlen : d < s.pkg.dies.length
  · have hmem : s.die d ∈ s.pkg.dies := by simp [State.die, nth, hlen]
    exact h _ hmem
  · simp [State.die, nth, hlen, DieSt.Out, DieSt.off]

theorem State.decided_out (h : FencedOut s) : FencedOut s.decided := State.decided_fences.out h

theorem State.decided_entered (hs : Sized s) {k : Nat} (hk : k < 8) : s.decided.Entered k :=
  State.enterService_entered (hs.of_sizes (by simp)) hk

/-- Every die that stays healthy serves (R404). -/
theorem State.decided_serves (hs : Sized s) (h : FencedOut s) {k : Nat} (hk : k ∈ s.decided.healthy) :
    (s.decided.duOf k).serve = .serving ∧ (s.decided.die k).inService = true := by
  obtain ⟨hrange, hhealthy⟩ := List.mem_filter.1 hk
  rcases State.decided_entered hs (List.mem_range.1 hrange) with hfenced | ⟨-, hservice, hserve⟩
  · obtain ⟨hsick, -⟩ := State.die_out (State.decided_out h) hfenced
    exact absurd (hsick.symm.trans hhealthy) nofun
  · exact ⟨hserve, hservice⟩

end

end Sys2Proof.Machine

namespace Sys2Proof
open Sys2Proof.Machine

/-- Settles O17: with the last report no die owes one, and R404 decides: every die is fenced or enters service, and the healthy
dies that remain are counted. -/
theorem lastReportDecides : Obligations.LastReportDecides := by
  intro d rec s hsized hout hst hlen _ hnone hpresent hothers
  have hup : s.diesUp = true := by simp [State.diesUp, hst]
  have hreported : Sized (s.reported d rec) := hsized.of_sizes (by simp [State.reported])
  have hkept : FencedOut (s.reported d rec) := (State.mapDie_fences (s := s) (d := d) (DieSt.follows_mk _)).out hout
  have hall : (s.reported d rec).pkg.dies.any DieSt.owes = false :=
    State.reported_owes_none hsized rec hothers
  have hnext := execTrainingReport_keeps (d := d) (rec := rec) hup hnone hpresent hlen
  rw [State.settle_of_reported (s := s.reported d rec) hst hall] at hnext
  generalize hu : (s.reported d rec).decided = u at hnext
  have hregs : u.regs = s.regs := hu ▸ (State.decided_undisturbed _).regs
  have hlpcap : u.boot.lpcap.isSome = true := hu ▸ State.decided_lpcap
  have hentered : ∀ k, k < 8 → u.Entered k := hu ▸ fun k hk => State.decided_entered hreported hk
  have hserves : ∀ k ∈ u.healthy, (u.duOf k).serve = .serving ∧ (u.die k).inService = true :=
    hu ▸ fun k hk => State.decided_serves hreported hkept hk
  split at hnext
  · have hboot : (u.fatalStart (bootFault 3)).boot = { u.boot with st := .fatal } := by simp [State.fatalStart]
    exact ⟨_, hnext, fun k _ => .inr (.inr (congrArg Boot.st hboot)), (congrArg (·.lpcap.isSome) hboot).trans hlpcap,
      .inr ⟨congrArg Boot.st hboot, State.fatalStart_saf rfl⟩⟩
  · next hmany =>
    refine ⟨_, hnext, fun k hk => ?_, hlpcap, .inl ⟨rfl, Nat.le_of_not_lt hmany, by rw [← hregs]; rfl, fun k hk => ?_⟩⟩
    · rcases hentered k hk with hfenced | ⟨hhealthy, -⟩
      · exact .inl hfenced
      · exact .inr (.inl hhealthy)
    · exact hserves k hk

end Sys2Proof

/-! ## Fences (R407, R408, R409, R472) -/

namespace Sys2Proof.Machine
open Sys2Proof

/-- An emptied range reads 0, and every other byte stands. -/
theorem get_clear (m : Memory) (a n b : Nat) : (m.clear a n).get b = if a ≤ b ∧ b < a + n then 0 else m.get b := by
  unfold Memory.clear
  induction m with
  | nil => simp [Memory.get]
  | cons c r ih =>
    obtain ⟨x, v⟩ := c
    by_cases hout : x < a ∨ a + n ≤ x
    · rw [List.filter_cons_of_pos (by simpa using hout)]
      by_cases hxb : x = b
      · subst hxb
        simp only [Memory.get, if_true]
        rw [if_neg (by omega)]
      · simp only [Memory.get, if_neg hxb, ih]
    · rw [List.filter_cons_of_neg (by simpa using hout), ih]
      by_cases hxb : x = b
      · subst hxb
        rw [if_pos (by omega), if_pos (by omega)]
      · simp only [Memory.get, if_neg hxb]

section
variable {s : State} {d : Nat} {c : FenceCause}

/-- A fence empties the die's LPDDR and SRAM (R407). -/
theorem State.fenceData_lpddr {a : Nat} (hlo : lpddrBase d ≤ a) (hhi : a < lpddrBase d + 0x200000000) :
    (s.fenceData d).mem.get a = 0 := by
  simp only [State.fenceData, get_clear, hlo, hhi, and_self, if_true, ite_self]

theorem State.fenceDie_lpddr (h : (s.die d).fenced = none) (st : Status) {a : Nat} (hlo : lpddrBase d ≤ a)
    (hhi : a < lpddrBase d + 0x200000000) : (s.fenceDie d c st).mem.get a = 0 := by
  have hcond : ¬ (s.die d).fenced.isSome = true := by simp [h]
  simp [State.fenceDie, if_neg hcond, State.fenceData_lpddr hlo hhi]

theorem State.endVerify_causes (s : State) : s.endVerify.saf.causes = s.saf.causes := by
  unfold State.endVerify
  dsimp only
  split <;> rfl

/-- A fence sets cause RESTART of SAFE_STATE# (R407). -/
theorem State.fenceDie_causes (h : (s.die d).fenced = none) (st : Status) : bitAt (s.fenceDie d c st).saf.causes 2 = true := by
  have hcond : ¬ (s.die d).fenced.isSome = true := by simp [h]
  have hsend (u : State) (f : Fault0) : (u.send f 0).saf.causes = u.saf.causes := (congrArg Safety.causes (u.send_settled f 0) :)
  have hoff (u : State) : bitAt (u.fenceOff d).saf.causes 2 = true := bitAt_setBit_same _ _
  simp [State.fenceDie, if_neg hcond, hsend, State.endVerify_causes, hoff]

/-! ### The descriptors that the units have taken up -/

theorem State.wrote_started (s : State) (n : Nat) (now : Bool) : (s.wrote n now).host.started = s.host.started := by
  unfold State.wrote State.signalRing State.message
  dsimp only
  repeat' split
  all_goals rfl

theorem State.hostWrite_started (s : State) (a : Nat) (bs : List Byte) : (s.hostWrite a bs).host.started = s.host.started := by
  unfold State.hostWrite
  split <;> rfl

theorem State.eventWrite_started (s : State) (b : List Byte) : (s.eventWrite b).host.started = s.host.started := by
  unfold State.eventWrite
  split
  · rfl
  · split
    · rfl
    · simp only [State.wrote_started, State.hostWrite_started]

theorem State.send_started (s : State) (f : Fault0) (n : Nat) : (s.send f n).host.started = s.host.started := by
  unfold State.send
  dsimp only
  split <;> exact State.eventWrite_started _ _

theorem State.record_started (s : State) (f : Fault0) : (s.record f).host.started = s.host.started := by
  have hsent := s.send_started f 0
  unfold State.record
  dsimp only
  split
  · exact hsent
  · split
    · rfl
    · split <;> exact hsent

theorem State.staleReports_started (s : State) : s.staleReports.host.started = s.host.started := by
  have reported : ((List.range 8).foldl (fun (s : State) d =>
      if (s.duOf d).stale = 0 then s
      else (s.record ⟨.staleDrop, .info, ⟨d, 15, 15, 0xA⟩, (s.duOf d).stale, (s.duOf d).staleEpoch⟩).mapDu d
        (fun u => { u with stale := 0, staleEpoch := 0 })) s).host.started = s.host.started :=
    foldl_same (fun u => u.host.started) (fun u x => by split; exacts [rfl, u.record_started _]) _ _
  unfold State.staleReports
  dsimp only
  split
  · exact reported
  · simp only [State.record_started]
    exact reported

theorem State.runEnds_started (s : State) (old : List LongOp) : (s.runEnds old).host.started = s.host.started := by
  unfold State.runEnds
  split
  · exact s.staleReports_started
  · rfl

theorem State.complete_started (s : State) (x : Desc) (st : Status) (r0 r1 : Nat) :
    (s.complete x st r0 r1).host.started = s.host.started := rfl

theorem State.completeOp_started (s : State) (o : LongOp) : (s.completeOp o).host.started = s.host.started := rfl

theorem State.completeAll_started (s : State) (xs : List (Desc × Status)) : (s.completeAll xs).host.started = s.host.started :=
  foldl_same (fun u => u.host.started) (fun _ _ => by rfl) _ _

theorem State.withOps_started (s : State) (r : OpsOut) : (s.withOps r).host.started = s.host.started := by
  unfold State.withOps
  dsimp only
  simp only [State.runEnds_started, State.opsRun_frame, State.completeAll_started]
  exact foldl_same (fun u => u.host.started) State.completeOp_started _ _

/-- With no cycle in progress a fence leaves the descriptors alone. -/
theorem State.fenceDie_started (hcur : s.cyc.cur = none) (st : Status) : (s.fenceDie d c st).host.started = s.host.started := by
  unfold State.fenceDie
  split
  · rfl
  · have hidle (f : DieSt → DieSt) : (s.mapDie d f).abandon st = s.mapDie d f := by simp [State.abandon, hcur]
    simp [State.send_started, State.withOps_started, hidle]

theorem State.take_started {op : Nat} {x : Desc} {u : State} (h : s.take op = some (x, u)) :
    x.head.opcode = op ∧ u = { s with host := { s.host with started := s.host.started.erase x } } := by
  obtain ⟨y, hy, hx⟩ := Option.map_eq_some_iff.1 h
  cases hx
  exact ⟨by simpa using List.find?_some hy, rfl⟩

/-! ### The commands -/

theorem execAnnounceDeadline_late {d : Die} (hup : s.diesUp = true) (hon : (s.die d).enable = true)
    (hnew : (s.die d).presence = false) (hnone : (s.die d).fenced = none) :
    exec (.announceDeadline d) s = .next (s.fenceStart d .noAnnounce) := by
  show execAnnounceDeadline d s = _
  exact if_pos ⟨hup, hon, by simp [hnew], by simp [hnone]⟩

theorem execTrainingDeadline_late {d : Die} (hup : s.diesUp = true) (hreport : (s.die d).report = none)
    (hnone : (s.die d).fenced = none) : exec (.trainingDeadline d) s = .next (s.fenceStart d .notReady) := by
  show execTrainingDeadline d s = _
  exact if_pos ⟨hup, by simp [DieSt.owes, hreport, hnone]⟩

/-- What a fence and the decision that may follow it leave (R404, R407). -/
theorem State.fenceStart_effect (hlen : d < s.pkg.dies.length) (h : (s.die d).fenced = none) :
    ((s.fenceStart d c).die d).FencedBy c ∧ (s.fenceStart d c).cyc.cur = none ∧ Undisturbed s (s.fenceStart d c)
    ∧ (s.boot.st ≠ .starting → s.fenceStart d c = s.fenceDie d c) :=
  ⟨State.fenceStart_fencedBy hlen h, (State.settle_undisturbed _).idle (State.fenceDie_cur h _),
    (s.fenceDie_undisturbed d c _).trans (State.settle_undisturbed _),
    fun hst => State.settle_of_started (by simpa using hst)⟩

/-- FENCE at work: no cycle is in progress, the die is not fenced, and two healthy dies remain (R409). -/
theorem execFence_serves {x : Desc} {s1 : State} (h : s.take 0x0070 = some (x, s1)) (hcur : s1.cyc.cur = none)
    (hnone : (s1.die (getLe x.bytes 16 1 % 8)).fenced = none)
    (hleft : 2 ≤ (s1.healthy.filter (· != getLe x.bytes 16 1 % 8)).length) :
    exec .fence s = .next ((s1.fenceDie (getLe x.bytes 16 1 % 8) .host).complete x .ok 0 0) := by
  have hgoes : ¬ ((s1.die (getLe x.bytes 16 1 % 8)).fenced.isSome = true
      ∨ (s1.healthy.filter (· != getLe x.bytes 16 1 % 8)).length < 2) := by
    rw [hnone]
    exact not_or.2 ⟨nofun, Nat.not_lt.2 hleft⟩
  simp only [exec, execFence, State.serve_of_take h, hcur, Option.isSome_none, Bool.false_eq_true, if_false, if_neg hgoes]

/-- The die is fenced, and the descriptor's completion is made due last. -/
theorem execFence_effect {x : Desc} {s1 : State} (h : s.take 0x0070 = some (x, s1)) (hsized : Sized s1) (hcur : s1.cyc.cur = none)
    (hnone : (s1.die (getLe x.bytes 16 1 % 8)).fenced = none)
    (hleft : 2 ≤ (s1.healthy.filter (· != getLe x.bytes 16 1 % 8)).length) :
    ∃ t, exec .fence s = .next t ∧ (t.die (getLe x.bytes 16 1 % 8)).fenced = some .host
      ∧ t.host.due.getLast? = some ⟨x.ring, x.head.tag, .ok, x.head.opcode, x.head.seq, 0, 0, x.head.irq, false⟩
      ∧ t.host.started = s1.host.started ∧ t.regs = s1.regs := by
  have hfenced := State.fenceDie_fencedBy (c := .host) (lt_of_lt_of_eq (Nat.mod_lt _ (by decide)) hsized.dies.symm) hnone .faultRestart
  have hdue := State.complete_due_getLast (s1.fenceDie (getLe x.bytes 16 1 % 8) .host) x .ok 0 0
  obtain ⟨hopcode, -⟩ := State.take_started h
  exact ⟨_, execFence_serves h hcur hnone hleft, hfenced.cause, by rw [hdue, hopcode]; rfl,
    (State.complete_started ..).trans (State.fenceDie_started hcur _), by simp⟩

/-- A fenced die's rail that has not fallen is recorded (R472). -/
theorem execFenceRailCheck_records {d : Die} (h : (s.die d).fenced.isSome = true) :
    exec (.fenceRailCheck d false) s = .next (s.record ⟨.supply, .info, Loc.ofDie d, 0x10 + d, 3⟩) := by
  have hgoes : ¬ ((s.die d).fenced.isNone = true ∨ false = true) := by
    simpa [Option.isSome_iff_ne_none] using h
  show execFenceRailCheck d false s = _
  rw [execFenceRailCheck, if_neg hgoes, State.fault_info _ rfl]

end

end Sys2Proof.Machine

namespace Sys2Proof
open Sys2Proof.Machine

/-- Settles O18: the three commands and DIE_FENCE are one operation, a fence and the decision of R404 where it is open; FENCE is the
fence alone, since it waits for the end of the cycle. -/
theorem diesAreFenced : Obligations.DiesAreFenced := by
  refine ⟨fun d cause c s hsized hnone hc => ?_, fun x s s1 hsized htake hcur hnone hleft => ?_,
    fun d s h => execFenceRailCheck_records h⟩
  · have hnext : exec c s = .next (s.fenceStart d cause) := by
      rcases hc with rfl | ⟨rfl, hup, hon, hnew, rfl⟩ | ⟨rfl, hup, hreport, rfl⟩
      · rfl
      · exact execAnnounceDeadline_late hup hon hnew hnone
      · exact execTrainingDeadline_late hup hreport hnone
    obtain ⟨hfenced, hcur, hleft, halone⟩ := State.fenceStart_effect (c := cause) (lt_of_lt_of_eq d.isLt hsized.dies.symm) hnone
    have htime := hleft.time
    refine ⟨_, hnext, hfenced.cause, hfenced.healthy, hfenced.enable, hfenced.service, hfenced.running, hcur, hleft.regs,
      hleft.smi, ?_, fun hst => ?_⟩
    · exact (congrArg (fun v : TimeBase => { v with steps := (s.fenceStart d cause).time.steps }) htime :)
    · rw [halone hst]
      exact ⟨State.fenceDie_causes hnone _, fun a hlo hhi => State.fenceDie_lpddr hnone _ hlo hhi⟩
  · obtain ⟨-, rfl⟩ := State.take_started htake
    exact execFence_effect htake (hsized.of_sizes (State.take_sizes htake)) hcur hnone hleft

end Sys2Proof

/-! ## Links (R389 to R394) -/

namespace Sys2Proof.Machine
open Sys2Proof

/-- Two changes that agree on an entry are one change of it. -/
theorem modAt_congr {α : Type} {f g : α → α} {xs : List α} {i : Nat} (h : ∀ x, xs[i]? = some x → f x = g x) :
    modAt f xs i = modAt g xs i := by
  refine List.ext_getElem? fun k => ?_
  rw [get_modAt, get_modAt]
  split
  · next hk =>
    subst hk
    cases hx : xs[k]? with
    | none => rfl
    | some x => simp [h x hx]
  · rfl

/-! ### Ends of a link (R391, R393) -/

section
variable {e : LinkEnd} {w : BitVec 320}

/-- An end that takes a flit: acknowledged flits drop, credits return, and a counted flit is the last in sequence. -/
def LinkEnd.taken (f : Flit) (e : LinkEnd) : LinkEnd :=
  let e := (e.ack f.akseq).credit f
  if f.ftype = 0 then e else { e with rxLast := f.fseq, discarding := false }

/-- An end that discards a flit asks once for a NAK. -/
def LinkEnd.discarded (e : LinkEnd) : LinkEnd := { e with nakDue := e.nakDue || !e.discarding, discarding := true }

theorem LinkEnd.receive_discards
    (h : flitGood w = false ∨ (Flit.ofBits w).ftype ≠ 0 ∧ (Flit.ofBits w).fseq ≠ (e.rxLast + 1) % 1024) :
    e.receive w = (e.discarded, none) :=
  if_pos (by simpa using h)

theorem LinkEnd.receive_takes (hgood : flitGood w = true)
    (hseq : (Flit.ofBits w).ftype ≠ 0 → (Flit.ofBits w).fseq = (e.rxLast + 1) % 1024) :
    e.receive w = (e.taken (Flit.ofBits w), some (Flit.ofBits w)) := by
  have hgoes : ¬ (!flitGood w || ((Flit.ofBits w).ftype != 0 && (Flit.ofBits w).fseq != (e.rxLast + 1) % 1024)) = true := by
    simpa [hgood] using hseq
  unfold LinkEnd.receive LinkEnd.taken
  dsimp only
  rw [if_neg hgoes]
  split <;> rfl

section
variable (e) (f : Flit)

theorem LinkEnd.taken_replay : (e.taken f).replay = dropAcked f.akseq e.replay := by
  unfold LinkEnd.taken
  dsimp only
  split <;> rfl

theorem LinkEnd.taken_credits : (e.taken f).credits
    = modAt (fun c => min (c + f.ccnt) (nth 0 vcCredits f.cvc)) e.credits f.cvc := by
  unfold LinkEnd.taken
  dsimp only
  split <;> rfl

theorem LinkEnd.taken_rxLast : (e.taken f).rxLast = if f.ftype = 0 then e.rxLast else f.fseq := by
  unfold LinkEnd.taken
  dsimp only
  split <;> rfl

theorem LinkEnd.taken_discarding : (e.taken f).discarding = (f.ftype == 0 && e.discarding) := by
  unfold LinkEnd.taken
  dsimp only
  split
  · next h => simp [h]; rfl
  · next h => simp [h]

end

section
variable (hnew : (Flit.ofBits w).ftype ≠ 0) (hresend : e.resend = none)
include hnew hresend

/-- A new flit finds room in the replay buffer, and carries the next FSEQ (R391). -/
theorem LinkEnd.newOk_of_canSend (h : e.canSend w = true) : e.newOk (Flit.ofBits w) = true := by
  simp only [LinkEnd.canSend, hresend, if_neg hnew, Bool.and_eq_true] at h
  exact h.2

theorem LinkEnd.canSend_next (h : e.canSend w = true) : (Flit.ofBits w).fseq = e.txNext ∧ e.replay.length < 256 := by
  have hok := LinkEnd.newOk_of_canSend hnew hresend h
  simp only [LinkEnd.newOk, Bool.and_eq_true, beq_iff_eq, decide_eq_true_eq] at hok
  exact hok.1

theorem LinkEnd.send_new : e.send w = { e with nakDue := e.nakDue && !(Flit.ofBits w).nak }.sendNew w := by
  simp only [LinkEnd.send, if_neg hnew, hresend]

end

theorem LinkEnd.sendNew_replay : (e.sendNew w).replay = e.replay ++ [⟨(Flit.ofBits w).fseq, w⟩] := by
  unfold LinkEnd.sendNew
  dsimp only
  repeat' split
  all_goals rfl

theorem LinkEnd.sendNew_txNext : (e.sendNew w).txNext = (e.txNext + 1) % 1024 := by
  unfold LinkEnd.sendNew
  dsimp only
  repeat' split
  all_goals rfl

theorem LinkEnd.sendNew_credits (h : (Flit.ofBits w).ftype = 1) :
    (e.sendNew w).credits = modAt (fun n => n - 1) e.credits (PktHead.ofBits (Flit.ofBits w).payload).vc := by
  simp only [LinkEnd.sendNew, if_pos h]

end

/-! ### What a command leaves besides its link -/

/-- Link `l` alone differs. -/
structure OnlyLink (l : Nat) (s t : State) : Prop where
  rest : { t with pkg := { t.pkg with links := s.pkg.links } } = s
  others : ∀ k, k ≠ l → t.link k = s.link k

/-- Link `l` alone differs, and what a record of a fault changes (R477). -/
structure LinkRecorded (l : Nat) (s t : State) : Prop where
  rest : { t with pkg := { t.pkg with links := s.pkg.links }, aon := s.aon, host := s.host, saf := s.saf } = s
  others : ∀ k, k ≠ l → t.link k = s.link k

section
variable {s t u : State} {l : Nat}

theorem OnlyLink.recorded (h : OnlyLink l s t) : LinkRecorded l s t :=
  ⟨congrArg (fun v : State => { v with aon := s.aon, host := s.host, saf := s.saf }) h.rest, h.others⟩

theorem LinkRecorded.trans (h : LinkRecorded l s t) (g : LinkRecorded l t u) : LinkRecorded l s u :=
  ⟨(congrArg (fun v : State => { v with pkg := { v.pkg with links := s.pkg.links }, aon := s.aon, host := s.host, saf := s.saf })
      g.rest).trans h.rest, fun k hk => (g.others k hk).trans (h.others k hk)⟩

theorem State.mapLink_congr {f g : Link → Link} (h : f (s.link l) = g (s.link l)) : s.mapLink l f = s.mapLink l g := by
  have hlinks : modAt f s.pkg.links l = modAt g s.pkg.links l := modAt_congr fun x hx => by
    have hx' : s.link l = x := by rw [State.link, nth, hx, Option.getD_some]
    exact hx' ▸ h
  rw [State.mapLink, State.mapLink, hlinks]

theorem State.mapLink_onlyLink (s : State) (l : Nat) (f : Link → Link) : OnlyLink l s (s.mapLink l f) :=
  ⟨rfl, fun _ hk => State.link_mapLink_other _ _ _ _ hk⟩

theorem OnlyLink.mapLink (h : OnlyLink l s t) (f : Link → Link) : OnlyLink l s (t.mapLink l f) :=
  ⟨h.rest, fun k hk => (State.link_mapLink_other _ _ _ _ hk).trans (h.others k hk)⟩

theorem State.record_link (s : State) (f : Fault0) (k : Nat) : (s.record f).link k = s.link k := by
  simp [State.link]

theorem State.record_linkRecorded (s : State) (l : Nat) (f : Fault0) : LinkRecorded l s (s.record f) :=
  ⟨by simp, fun k _ => s.record_link f k⟩

end

/-! ### A flit arrives -/

/-- A link after a flit: sent as `w` by the far end, received as `v` by end `e`, whose stall is over where AKSEQ advanced. -/
def Link.arrived (e : Nat) (w v : BitVec 320) (k : Link) : Link :=
  { k with
    ends := setAt (setAt k.ends (1 - e) ((k.end_ (1 - e)).send w)) e ((k.end_ e).receive v).1
    stall := if ((k.end_ e).receive v).1.replay.length < (k.end_ e).replay.length then setAt k.stall e 0 else k.stall }

/-- A replay of an end. -/
def Link.replayed (e : Nat) (k : Link) : Link :=
  { k with ends := modAt LinkEnd.again k.ends e, replays := k.replays + 1, stall := modAt (· + 1) k.stall e }

section
variable {k : Link} {e : Nat} {w v : BitVec 320}

theorem Link.arrived_near (hlen : k.ends.length = 2) (he : e < 2) : (k.arrived e w v).end_ e = ((k.end_ e).receive v).1 :=
  nth_setAt_same _ _ _ _ (by simpa [hlen] using he)

theorem Link.arrived_far (hlen : k.ends.length = 2) (he : e < 2) : (k.arrived e w v).end_ (1 - e) = (k.end_ (1 - e)).send w :=
  (nth_setAt_other _ _ _ _ _ (by omega)).trans (nth_setAt_same _ _ _ _ (by omega))

/-- A flit acknowledges, and never takes an acknowledgement back. -/
theorem Link.arrived_stall (hlen : k.stall.length = 2) (he : e < 2) : nth 0 (k.arrived e w v).stall e ≤ nth 0 k.stall e := by
  simp only [Link.arrived]
  split
  · rw [nth_setAt_same _ _ _ _ (hlen ▸ he)]
    exact Nat.zero_le _
  · exact Nat.le_refl _

/-- A flit that is discarded changes its end alone. -/
theorem Link.arrived_discards (h : flitGood v = false ∨ (Flit.ofBits v).ftype ≠ 0
      ∧ (Flit.ofBits v).fseq ≠ ((k.end_ e).rxLast + 1) % 1024) :
    k.arrived e w v = { k with
      ends := setAt (setAt k.ends (1 - e) ((k.end_ (1 - e)).send w)) e (k.end_ e).discarded } := by
  simp only [Link.arrived, LinkEnd.receive_discards h, LinkEnd.discarded, lt_irrefl, if_false]

/-- A flit that is taken changes its end as `LinkEnd.taken` says. -/
theorem Link.arrived_takes (hlen : k.ends.length = 2) (he : e < 2) (hgood : flitGood v = true)
    (hseq : (Flit.ofBits v).ftype ≠ 0 → (Flit.ofBits v).fseq = ((k.end_ e).rxLast + 1) % 1024) :
    (k.arrived e w v).end_ e = (k.end_ e).taken (Flit.ofBits v) :=
  (Link.arrived_near hlen he).trans (congrArg Prod.fst (LinkEnd.receive_takes hgood hseq))

theorem Link.arrived_stall_length : (k.arrived e w v).stall.length = k.stall.length := by
  simp only [Link.arrived]
  split <;> simp

theorem Link.arrived_ends_length : (k.arrived e w v).ends.length = k.ends.length := by
  simp [Link.arrived]

theorem Link.replayed_near (he : e < k.ends.length) : (k.replayed e).end_ e = (k.end_ e).again := nth_modAt_same _ _ _ _ he

theorem LinkEnd.again_resend {y : LinkEnd} (h : y.replay ≠ []) : y.again.resend = some 0 := if_neg (by simpa using h)

/-- An end with flits to acknowledge sends them all again from the first (R391). -/
theorem Link.replayed_eq (h : (k.end_ e).replay ≠ []) : k.replayed e = { k with
    ends := modAt (fun y => { y with resend := some 0 }) k.ends e, replays := k.replays + 1, stall := modAt (· + 1) k.stall e } := by
  have hends : modAt LinkEnd.again k.ends e = modAt (fun y => { y with resend := some 0 }) k.ends e := by
    refine modAt_congr fun x hx => ?_
    have hx' : k.end_ e = x := by rw [Link.end_, nth, hx, Option.getD_some]
    simp only [LinkEnd.again, List.isEmpty_iff, if_neg (hx' ▸ h)]
  rw [Link.replayed, hends]

end

section
variable {s : State} {l : Fin 16} {e : Fin 2} {w x : BitVec 320}

theorem execFlitReceived_down (h : (s.link l).st ≠ .up) : exec (.flitReceived l e w x) s = .next s := if_pos (.inl h)

theorem execFlitReceived_unsent (h : s.sendable l (1 - e) w = false) : exec (.flitReceived l e w x) s = .next s := if_pos (.inr h)

section
variable (hup : (s.link l).st = .up) (hsend : s.sendable l (1 - e) w = true)
include hup hsend

/-- What the receiving end does with the flit that has left the far one. -/
theorem execFlitReceived_arrives : exec (.flitReceived l e w x) s
    = match (((s.link l).end_ e).receive (w ^^^ x)).2 with
      | some f => .next ((s.mapLink l (Link.arrived e w (w ^^^ x))).flitTaken l e f)
      | none => .next (s.mapLink l (Link.arrived e w (w ^^^ x))) := by
  have hgoes : ¬ ((s.link l).st ≠ .up ∨ s.sendable l (1 - e) w = false) := by simp [hup, hsend]
  rw [← State.mapLink_congr (s := s) (l := l) (f := fun k => { k with
    ends := setAt (setAt k.ends (1 - e) ((k.end_ (1 - e)).send w)) e (((s.link l).end_ e).receive (w ^^^ x)).1
    stall := if (((s.link l).end_ e).receive (w ^^^ x)).1.replay.length < ((s.link l).end_ e).replay.length
      then setAt k.stall e 0 else k.stall }) rfl]
  exact if_neg hgoes

theorem execFlitReceived_discards (h : flitGood (w ^^^ x) = false ∨ (Flit.ofBits (w ^^^ x)).ftype ≠ 0
      ∧ (Flit.ofBits (w ^^^ x)).fseq ≠ (((s.link l).end_ e).rxLast + 1) % 1024) :
    exec (.flitReceived l e w x) s = .next (s.mapLink l (Link.arrived e w (w ^^^ x))) := by
  rw [execFlitReceived_arrives hup hsend, LinkEnd.receive_discards h]

section
variable (hgood : flitGood (w ^^^ x) = true)
  (hseq : (Flit.ofBits (w ^^^ x)).ftype ≠ 0 → (Flit.ofBits (w ^^^ x)).fseq = (((s.link l).end_ e).rxLast + 1) % 1024)
include hgood hseq

theorem execFlitReceived_takes : exec (.flitReceived l e w x) s
    = .next ((s.mapLink l (Link.arrived e w (w ^^^ x))).flitTaken l e (Flit.ofBits (w ^^^ x))) := by
  rw [execFlitReceived_arrives hup hsend, LinkEnd.receive_takes hgood hseq]

end

end

end

/-! ### A packet goes on -/

/-- Of a link nothing differs but the packet that arrives at end `e`. -/
structure Link.Receiving (e : Nat) (k k' : Link) : Prop where
  st : k'.st = k.st
  near : ∃ h ds, k'.end_ e = { k.end_ e with rxHead := h, rxData := ds }
  far : ∀ d, d ≠ e → k'.end_ d = k.end_ d

/-- A packet's header and data kept at an end as they have arrived (R393). -/
def Link.receiving (e : Nat) (h : Option (BitVec 256)) (ds : List (BitVec 256)) (k : Link) : Link :=
  { k with ends := modAt (fun x => { x with rxHead := h, rxData := ds }) k.ends e }

section
variable {s : State} {l e : Nat}

theorem Link.receiving_self (k : Link) (e : Nat) : k.Receiving e k := ⟨rfl, ⟨_, _, rfl⟩, fun _ _ => rfl⟩

theorem Link.receiving_receiving {k : Link} (he : e < k.ends.length) (h : Option (BitVec 256)) (ds : List (BitVec 256)) :
    k.Receiving e (k.receiving e h ds) :=
  ⟨rfl, ⟨h, ds, nth_modAt_same _ _ _ _ he⟩, fun _ hd => nth_modAt_other _ _ _ _ _ hd⟩

/-- What a flit's place in its packet changes (R393, R394): the packet kept at the end, and a record where its header is malformed. -/
theorem State.packetFlit_effect (hl : l < s.pkg.links.length) (he : e < (s.link l).ends.length) (f : Flit) :
    LinkRecorded l s (s.packetFlit l e f) ∧ (s.link l).Receiving e ((s.packetFlit l e f).link l) := by
  have kept : LinkRecorded l s s ∧ (s.link l).Receiving e (s.link l) := ⟨⟨rfl, fun _ _ => rfl⟩, Link.receiving_self _ _⟩
  have goes (h : Option (BitVec 256)) (ds : List (BitVec 256)) : LinkRecorded l s (s.mapLink l (Link.receiving e h ds))
      ∧ (s.link l).Receiving e ((s.mapLink l (Link.receiving e h ds)).link l) := by
    rw [State.link_mapLink_same _ _ _ hl]
    exact ⟨(State.mapLink_onlyLink ..).recorded, Link.receiving_receiving he h ds⟩
  unfold State.packetFlit
  dsimp only
  split
  · split
    · obtain ⟨hrecorded, hreceiving⟩ := goes none []
      rw [State.fault_info _ rfl, State.record_link]
      exact ⟨hrecorded.trans (State.record_linkRecorded ..), hreceiving⟩
    · split <;> exact goes _ _
  · split
    · split
      · exact kept
      · split <;> exact goes _ _
    · exact kept

/-- A flit that asks for no replay goes to its packet alone. -/
theorem State.flitTaken_packet {f : Flit} (h : f.nak = false) : s.flitTaken l e f = s.packetFlit l e f := by
  simp [State.flitTaken, h]

theorem State.packetFlit_idle {f : Flit} (h : f.ftype = 0) : s.packetFlit l e f = s := by
  simp [State.packetFlit, h]

theorem State.flitTaken_replays {f : Flit} (hnak : f.nak = true) (hidle : f.ftype = 0)
    (h : ((s.link l).end_ e).replay ≠ []) : s.flitTaken l e f = s.replayFrom l e := by
  rw [State.flitTaken, State.packetFlit_idle hidle, if_pos (by simpa [hnak] using h)]

/-! ### Replays, recovery and loss (R391, R392) -/

section
variable (hl : l < s.pkg.links.length) (he : e < (s.link l).stall.length)
include hl he

theorem State.replayed_stall : nth 0 ((s.mapLink l (Link.replayed e)).link l).stall e = nth 0 (s.link l).stall e + 1 := by
  rw [State.link_mapLink_same _ _ _ hl]
  exact nth_modAt_same _ _ _ _ he

theorem State.replayFrom_again (h : nth 0 (s.link l).stall e < 7) : s.replayFrom l e = s.mapLink l (Link.replayed e) :=
  if_neg (Nat.not_le.2 (lt_of_eq_of_lt (State.replayed_stall hl he) (by omega)))

theorem State.replayFrom_recovers (h : 7 ≤ nth 0 (s.link l).stall e) :
    s.replayFrom l e = (s.mapLink l (Link.replayed e)).linkRecovery l :=
  if_pos (le_of_le_of_eq (by omega) (State.replayed_stall hl he).symm)

end

/-- A recovery begins where none began within the last second. -/
theorem State.linkRecovery_first (h : ∀ t ∈ (s.link l).recoveries, t + 100000000 ≤ s.time.now) : s.linkRecovery l
    = (s.mapLink l (fun k => { k with st := .recovering, recoveries := [s.time.now], stall := [0, 0] })).record
        ⟨.link, .info, linkLoc l, l, 1⟩ := by
  have hrecent : (s.link l).recoveries.filter (fun t => decide (s.time.now < t + 100000000)) = [] :=
    List.filter_eq_nil_iff.2 fun t ht => by simpa using h t ht
  simp only [State.linkRecovery, hrecent]
  exact (if_neg (by decide)).trans (State.fault_info _ rfl)

/-- A lost link (R392). -/
def State.lose (s : State) (l : Nat) : State := s.mapLink l (fun k => { k with st := .lost })

/-- A lost hub link: its loss is counted at the die. -/
def State.loseHub (s : State) (l : Nat) : State :=
  (s.lose l).mapDie l (fun x => { x with hubLosses := x.hubLosses + 1, fullTrain := true })

theorem State.lose_link (hl : l < s.pkg.links.length) : (s.lose l).link l = { s.link l with st := .lost } :=
  State.link_mapLink_same _ _ _ hl

theorem State.lose_die (s : State) (l k : Nat) : (s.lose l).die k = s.die k := rfl

/-- A ring link that is lost is disabled. -/
theorem State.linkLoss_ring (h : 8 ≤ l) : s.linkLoss l
    = State.record { s.lose l with pkg := { (s.lose l).pkg with ringMask := clrBit s.pkg.ringMask (l - 8) } }
        ⟨.link, .info, linkLoc l, l, 2⟩ :=
  (if_pos h).trans (State.fault_info _ rfl)

theorem State.lose_open (h : (s.die l).fenced = none) : ¬ ((s.lose l).die l).fenced.isSome = true := by
  rw [State.lose_die, h]
  nofun

section
variable (h : l < 8) (hnone : (s.die l).fenced = none)
include h hnone

/-- At the second loss before a commit the die of a hub link is fenced. -/
theorem State.linkLoss_again (hloss : 1 ≤ (s.die l).hubLosses) :
    s.linkLoss l = ((s.lose l).record ⟨.link, .fence, linkLoc l, l, 2⟩).fenceDie l .hubLink :=
  (if_neg (Nat.not_le.2 h)).trans ((if_neg (State.lose_open hnone)).trans (if_pos hloss))

/-- At the first the die restarts, and trains its link in full. -/
theorem State.linkLoss_once (hloss : (s.die l).hubLosses = 0) :
    s.linkLoss l = (s.loseHub l).fault ⟨.link, .restartDie, linkLoc l, l, 2⟩ :=
  (if_neg (Nat.not_le.2 h)).trans ((if_neg (State.lose_open hnone)).trans (if_neg (by rw [← State.lose, State.lose_die]; omega)))

/-- The restart of the escalated unit falls due (R392, R480). -/
theorem State.linkLoss_restarts {u : RUnit} (hl : l < s.pkg.links.length) (hd : l < s.pkg.dies.length)
    (hloss : (s.die l).hubLosses = 0) (hescalate : s.saf.escalate (.die l) = .restart u) :
    (s.linkLoss l).saf.due = addDue u s.saf.due ∧ (s.linkLoss l).cyc.cur = none
    ∧ (s.linkLoss l).die l = { s.die l with hubLosses := (s.die l).hubLosses + 1, fullTrain := true }
    ∧ ((s.linkLoss l).link l).st = .lost := by
  have hunit : (s.loseHub l).saf.escalate (.die (l % 8)) = .restart u := (Nat.mod_eq_of_lt h).symm ▸ hescalate
  rw [State.linkLoss_once h hnone hloss, State.fault_restartDie rfl hunit]
  generalize hv : (s.loseHub l).record ⟨.link, .restartDie, linkLoc l, l, 2⟩ = v
  have hsaf : v.saf.due = s.saf.due := by
    rw [← hv]
    exact (congrArg Safety.due ((s.loseHub l).record_settled ⟨.link, .restartDie, linkLoc l, l, 2⟩) :)
  have hpkg : (v.restartDue u).pkg = (s.loseHub l).pkg := by simp [← hv]
  obtain ⟨hdue, -, hcur⟩ := v.restartDue_effect u
  refine ⟨hdue.trans (congrArg _ hsaf), hcur, ?_, ?_⟩
  · have hdie := State.die_mapDie_same (s.lose l) l (fun x => { x with hubLosses := x.hubLosses + 1, fullTrain := true }) hd
    rw [State.die, hpkg]
    exact hdie
  · rw [State.link, hpkg]
    exact congrArg Link.st (State.lose_link hl)

end

end

/-! ### The commands -/

section
variable {s : State} {l : Fin 16} {e : Fin 2}

theorem execReplayTimeout_down (h : (s.link l).st ≠ .up) : exec (.replayTimeout l e) s = .next s :=
  if_neg fun hup => h hup.1

theorem execReplayTimeout_replays (hup : (s.link l).st = .up) (h : ((s.link l).end_ e).replay ≠ []) :
    exec (.replayTimeout l e) s = .next (s.replayFrom l e) :=
  if_pos ⟨hup, by simpa using h⟩

section
variable {w x : BitVec 320} (hl : l.val < s.pkg.links.length) (hends : (s.link l).ends.length = 2) (hup : (s.link l).st = .up)
  (hsend : s.sendable l (1 - e) w = true) (hgood : flitGood (w ^^^ x) = true)
include hl hends hup hsend hgood

/-- A flit that is taken and asks for no replay changes the two ends, and what arrives of its packet. -/
theorem execFlitReceived_takes_effect
    (hseq : (Flit.ofBits (w ^^^ x)).ftype ≠ 0 → (Flit.ofBits (w ^^^ x)).fseq = (((s.link l).end_ e).rxLast + 1) % 1024)
    (hnak : (Flit.ofBits (w ^^^ x)).nak = false) :
    ∃ t, exec (.flitReceived l e w x) s = .next t ∧ LinkRecorded l s t ∧ (t.link l).st = .up
      ∧ (∃ h ds, (t.link l).end_ e = { ((s.link l).end_ e).taken (Flit.ofBits (w ^^^ x)) with rxHead := h, rxData := ds })
      ∧ (t.link l).end_ (1 - e) = ((s.link l).end_ (1 - e)).send w := by
  have hlink := State.link_mapLink_same s l (Link.arrived e w (w ^^^ x)) hl
  have htaken := Link.arrived_takes (w := w) hends e.isLt hgood hseq
  have hfar := Link.arrived_far (k := s.link l) (w := w) (v := w ^^^ x) hends e.isLt
  obtain ⟨hpacket, hst, hnear, hrx⟩ := State.packetFlit_effect (s := s.mapLink l (Link.arrived e w (w ^^^ x))) (l := l)
    (e := e) (by simpa using hl) (by rw [hlink, Link.arrived_ends_length, hends]; exact e.isLt) (Flit.ofBits (w ^^^ x))
  rw [hlink] at hst hnear hrx
  exact ⟨_, (execFlitReceived_takes hup hsend hgood hseq).trans (congrArg _ (State.flitTaken_packet hnak)),
    (s.mapLink_onlyLink l _).recorded.trans hpacket, hst.trans hup, htaken ▸ hnear, (hrx _ (by omega)).trans hfar⟩

/-- An idle flit with NAK acknowledges, and has the end send the rest again (R391). -/
theorem execFlitReceived_nak_effect (hstall : (s.link l).stall.length = 2) (hidle : (Flit.ofBits (w ^^^ x)).ftype = 0)
    (hnak : (Flit.ofBits (w ^^^ x)).nak = true) (hleft : dropAcked (Flit.ofBits (w ^^^ x)).akseq ((s.link l).end_ e).replay ≠ [])
    (hstalled : nth 0 (s.link l).stall e < 7) :
    ∃ t, exec (.flitReceived l e w x) s = .next t ∧ OnlyLink l s t
      ∧ (t.link l).replays = (s.link l).replays + 1
      ∧ (t.link l).end_ e = (((s.link l).end_ e).taken (Flit.ofBits (w ^^^ x))).again := by
  have hseq : (Flit.ofBits (w ^^^ x)).ftype ≠ 0 → (Flit.ofBits (w ^^^ x)).fseq = (((s.link l).end_ e).rxLast + 1) % 1024 :=
    fun h => absurd hidle h
  have hlink := State.link_mapLink_same s l (Link.arrived e w (w ^^^ x)) hl
  have hnear := Link.arrived_takes (w := w) hends e.isLt hgood hseq
  have hreplay : (((s.mapLink l (Link.arrived e w (w ^^^ x))).link l).end_ e).replay ≠ [] := by
    rw [hlink, hnear, LinkEnd.taken_replay]
    exact hleft
  have hagain := State.replayFrom_again (s := s.mapLink l (Link.arrived e w (w ^^^ x))) (l := l) (e := e) (by simpa using hl)
    (by rw [hlink, Link.arrived_stall_length, hstall]; exact e.isLt)
    (by rw [hlink]; exact lt_of_le_of_lt (Link.arrived_stall hstall e.isLt) hstalled)
  have hreplayed := State.link_mapLink_same (s.mapLink l (Link.arrived e w (w ^^^ x))) l (Link.replayed e) (by simpa using hl)
  refine ⟨_, (execFlitReceived_takes hup hsend hgood hseq).trans (congrArg _ ((State.flitTaken_replays hnak hidle hreplay).trans hagain)),
    (s.mapLink_onlyLink ..).mapLink _, ?_, ?_⟩
  · rw [hreplayed, hlink]
    rfl
  · rw [hreplayed, hlink, Link.replayed_near (by rw [Link.arrived_ends_length, hends]; exact e.isLt), hnear]

end

/-- A time-out that leads to a recovery (R392). -/
theorem execReplayTimeout_recovers (hl : l.val < s.pkg.links.length) (he : e.val < (s.link l).stall.length)
    (hup : (s.link l).st = .up) (hne : ((s.link l).end_ e).replay ≠ []) (hstalled : 7 ≤ nth 0 (s.link l).stall e)
    (hold : ∀ x ∈ (s.link l).recoveries, x + 100000000 ≤ s.time.now) :
    ∃ t, exec (.replayTimeout l e) s = .next t ∧ LinkRecorded l s t
      ∧ t.link l = { (s.link l).replayed e with st := .recovering, recoveries := [s.time.now], stall := [0, 0] } := by
  have hlink := State.link_mapLink_same s l (Link.replayed e) hl
  have hfirst := State.linkRecovery_first (s := s.mapLink l (Link.replayed e)) (l := l) (by rw [hlink]; exact hold)
  refine ⟨_, (execReplayTimeout_replays hup hne).trans (congrArg _ ((State.replayFrom_recovers hl he hstalled).trans hfirst)),
    ((s.mapLink_onlyLink l (Link.replayed e)).mapLink _).recorded.trans (State.record_linkRecorded ..), ?_⟩
  rw [State.record_link, State.link_mapLink_same _ _ _ (by simpa using hl), hlink]
  rfl

section
variable (h : (s.link l).st = .recovering)
include h

theorem execLinkRecoveryDone_up : exec (.linkRecoveryDone l true) s
    = .next (s.mapLink l (fun k => { k with st := .up, ends := k.ends.map LinkEnd.again })) :=
  if_neg (not_not.2 h)

theorem execLinkRecoveryDone_lost : exec (.linkRecoveryDone l false) s = .next (s.linkLoss l) :=
  if_neg (not_not.2 h)

end

end

end Sys2Proof.Machine

namespace Sys2Proof
open Sys2Proof.Machine

/-- Settles O54, clause by clause: each command is a change of the one link (`Link.arrived`, `Link.replayed`, a link that is up again
or lost), with the record that a fault of the link asks for. -/
theorem linksReplay : Obligations.LinksReplay := by
  intro l e s hsized hends hstall
  have hl : l.val < s.pkg.links.length := lt_of_lt_of_eq l.isLt hsized.links.symm
  have he : e.val < (s.link l).stall.length := lt_of_lt_of_eq e.isLt hstall.symm
  refine ⟨fun hdown w x => ⟨execFlitReceived_down hdown, execReplayTimeout_down hdown⟩,
    fun hup w x => ⟨execFlitReceived_unsent, fun hresend hfull hnew => ?_, fun hsend => ⟨fun hbad => ?_, fun hgood hseq hnak => ?_,
      fun hgood hidle hnak hleft hstalled => ?_, fun hnew hresend => ?_⟩⟩,
    fun hup hne => ⟨fun hstalled => ?_, fun hstalled hold => ?_⟩, fun hrec => ⟨?_, fun hring => ?_, fun hhub hnone hloss => ?_,
      fun u hhub hnone hloss hescalate => ?_⟩⟩
  · refine execFlitReceived_unsent (Bool.eq_false_iff.2 fun hsend => ?_)
    obtain ⟨hcan, -⟩ := (Bool.and_eq_true_iff.1 hsend :)
    obtain ⟨-, hroom⟩ := LinkEnd.canSend_next hnew hresend hcan
    exact absurd hroom (Nat.not_lt.2 hfull)
  · obtain ⟨hrest, hothers⟩ := s.mapLink_onlyLink l (Link.arrived e w (w ^^^ x))
    exact ⟨_, execFlitReceived_discards hup hsend hbad, hrest, hothers, _, rfl,
      (State.link_mapLink_same _ _ _ hl).trans (Link.arrived_discards hbad)⟩
  · obtain ⟨t, ht, ⟨hrest, hothers⟩, hst, ⟨h, ds, hnear⟩, hfar⟩ := execFlitReceived_takes_effect hl hends hup hsend hgood hseq hnak
    refine ⟨t, ht, hrest, hothers, hst, ?_, ?_, ?_, ?_, hfar⟩
    · rw [hnear, LinkEnd.taken_replay]
    · rw [hnear, LinkEnd.taken_credits]
    · rw [hnear, LinkEnd.taken_rxLast]
    · rw [hnear, LinkEnd.taken_discarding]
  · obtain ⟨t, ht, honly, hreplays, hnear⟩ := execFlitReceived_nak_effect hl hends hup hsend hgood hstall hidle hnak hleft hstalled
    have hreplay := ((s.link l).end_ e).taken_replay (Flit.ofBits (w ^^^ x))
    refine ⟨t, ht, honly.rest, hreplays, ?_, ?_⟩
    · rw [hnear, LinkEnd.again_resend (hreplay ▸ hleft)]
    · rw [hnear, ← hreplay]
      rfl
  · obtain ⟨hcan, -⟩ := (Bool.and_eq_true_iff.1 hsend :)
    obtain ⟨hnext, -⟩ := LinkEnd.canSend_next hnew hresend hcan
    rw [LinkEnd.send_new hnew hresend, LinkEnd.sendNew_replay, LinkEnd.sendNew_txNext, hnext]
    exact ⟨rfl, rfl, LinkEnd.sendNew_credits⟩
  · obtain ⟨hrest, hothers⟩ := s.mapLink_onlyLink l (Link.replayed e)
    exact ⟨_, (execReplayTimeout_replays hup hne).trans (congrArg _ (State.replayFrom_again hl he hstalled)), hrest, hothers,
      (State.link_mapLink_same _ _ _ hl).trans (Link.replayed_eq hne)⟩
  · obtain ⟨t, ht, ⟨hrest, hothers⟩, hlink⟩ := execReplayTimeout_recovers hl he hup hne hstalled hold
    exact ⟨t, ht, hrest, hothers, by rw [hlink, Link.replayed_eq hne]⟩
  · obtain ⟨hrest, hothers⟩ := s.mapLink_onlyLink l (fun k => { k with st := .up, ends := k.ends.map LinkEnd.again })
    exact ⟨_, execLinkRecoveryDone_up hrec, hrest, hothers, State.link_mapLink_same _ _ _ hl⟩
  · refine ⟨_, (execLinkRecoveryDone_lost hrec).trans (congrArg _ (State.linkLoss_ring hring)), ?_, fun k hk => ?_, ?_, ?_, ?_⟩
    · simp [State.lose]
    · exact (State.record_link ..).trans (State.link_mapLink_other _ _ _ _ hk)
    · exact (State.record_link ..).trans (State.lose_link hl)
    · simp [State.lose]
    · simp [State.lose]
  · have hfenced := State.fenceDie_fencedBy (s := (s.lose l).record ⟨.link, .fence, linkLoc l, l, 2⟩) (d := l) (c := .hubLink)
      (by simpa [State.lose, hsized.dies] using hhub) (by simpa [State.die, State.lose] using hnone) .faultRestart
    exact ⟨_, (execLinkRecoveryDone_lost hrec).trans (congrArg _ (State.linkLoss_again hhub hnone hloss)), hfenced.cause⟩
  · obtain ⟨hdue, hcur, hdie, hst⟩ := State.linkLoss_restarts hhub hnone hl (lt_of_lt_of_eq hhub hsized.dies.symm) hloss hescalate
    exact ⟨_, execLinkRecoveryDone_lost hrec, hdue, hcur,
      (congrArg DieSt.hubLosses hdie).trans (congrArg (· + 1) hloss), congrArg DieSt.fullTrain hdie, hst⟩

end Sys2Proof

/-! ## STARTUP: a fatal start under a long operation (R344, R405) -/

namespace Sys2Proof.Machine
open Sys2Proof

namespace LoadAtStartup

/-- A load runs though the device is held in reset, and the hub has a stale drop to report: no power-on reset leaves such a
state, but the statement does not exclude it. -/
def state : State :=
  { State.reset with
    ops := [LongOp.new ⟨0, DescHead.ofBytes [], []⟩ .load]
    cyc := { CycSt.reset with stale := (1, 0) } }

/-- T0 without a valid configuration block. -/
def started : State :=
  { state with
    boot := { state.boot with st := .starting, pwrgd := true, resetHeld := false, sris := false }
    host := { state.host with linkUp := true }
    clk := { state.clk with pll := true } }

/-- The fatal start. -/
def after : State := started.fatalStart (bootFault 1)

theorem starts : exec (.startup [] [] true true false true 0) state = .next after := rfl

/-- The record of the end of the load's run stands behind FLT_BOOT's. -/
theorem after_lastRecord : after.aon.ring.getLast?.map (fun r => r.code) = some FCode.staleDrop := by decide +kernel

end LoadAtStartup

end Sys2Proof.Machine

namespace Sys2Proof
open Sys2Proof.Machine

/-- Refutes O14: nothing in the statement keeps a long operation from running while the device is held in reset. The fatal start
ends it (R480), the end of its run reports the hub's stale drops (R344), and so the newest record is FLT_STALE_DROP and not
FLT_BOOT, as the statement says. The statement wants the hypothesis that no operation is at work, as after every power-on reset. -/
theorem not_startupActs : ¬ Obligations.StartupActs := by
  rintro ⟨-, fails⟩
  obtain ⟨t, ht, -, -, -, -, hlast, -⟩ :=
    fails [] [] true true false true 0 LoadAtStartup.state (bootFault 1) rfl rfl (.inl ⟨.inl rfl, rfl⟩)
  cases LoadAtStartup.starts.symm.trans ht
  have hcode : LoadAtStartup.after.aon.ring.getLast?.map (fun r => r.code) = some FCode.boot :=
    (Option.map_map ..).symm.trans (congrArg (Option.map Prod.fst) hlast)
  exact absurd (LoadAtStartup.after_lastRecord.symm.trans hcode) (by decide)

end Sys2Proof
